-- ==== Sys2Proof/Word.lean ====
section
/-! DEFINITION. Word types of the GD-7 (01, 02 R29, 07 R122, 08 R148) and their plainest arithmetic. -/

namespace Sys2Proof

/-- One byte. -/
abbrev Byte := BitVec 8
/-- A g register, a special register, an address (06 R103). -/
abbrev W64 := BitVec 64
/-- A 32-bit lane, an encoding of a binary32 value. -/
abbrev W32 := BitVec 32
/-- The bits of a vector register (07 R122). -/
abbrev VBits := BitVec 2048
/-- The bits of a predicate register (08 R148). -/
abbrev PBits := BitVec 512
/-- An instruction word (02 R29). -/
abbrev W96 := BitVec 96

/-- The bits `[hi:lo]` of a word as a number (00 R2: both ends included). -/
def bitsOf {w : Nat} (x : BitVec w) (hi lo : Nat) : Nat := (x.toNat >>> lo) % 2 ^ (hi + 1 - lo)

/-- Bit `i` of a word. -/
def bitAt {w : Nat} (x : BitVec w) (i : Nat) : Bool := x.toNat.testBit i

/-- The bits `[lo + n - 1 : lo]` of a number. -/
def natBits (x lo n : Nat) : Nat := (x >>> lo) % 2 ^ n

/-- `x` with the bits `[lo + n - 1 : lo]` replaced by the low bits of `v`. -/
def natSet (x lo n v : Nat) : Nat :=
  let old := natBits x lo n
  x - old <<< lo + (v % 2 ^ n) <<< lo

end Sys2Proof
end

