-- ==== Sys2Proof/Syntax.lean ====
section
/-! DEFINITION. The names of the machine's parts, the fields of an instruction word, and `Instr`: one constructor for
each row of spec/opcode_table.json. The rows of the instruction set carry the fields of their word (02 R29); the rows
that name a step of the device carry what singles that step out. -/

namespace Sys2Proof

/-- A link direction (02 R31). North is +y, east is +x (01 R9). -/
inductive Dir where
  | n | e | s | w
  deriving DecidableEq, Repr

/-- The sixteen format tags (07 R122). -/
inductive Tag where
  | raw | t8 | t8w | t6 | f8a | f8b | f6 | f4 | h16 | b16 | f32 | i8 | i4 | i16 | i32 | i64
  deriving DecidableEq, Repr

/-- A worker core (num 0-991) or the supervisor core of quadrant q (num 992 + q) (01 R13, R14; the numbers of
supervisors are the model's own names, log 1, DESIGN CHOICE). -/
structure CoreId where
  pkg : Nat
  die : Nat
  num : Nat
  deriving DecidableEq, Repr

/-- A context of a core: 0 the lead, 1-10 the helpers. -/
structure CtxId where
  core : CoreId
  ctx : Nat
  deriving DecidableEq, Repr

/-- What waits for the answer of another agent: an operation in flight by its name, the fetch of a context, or the fill of a core's footprint
(18 R388, 22 R473). -/
inductive Waiter where
  | op (id : Nat)
  | fetch (c : CtxId)
  | fill (k : CoreId)
  deriving DecidableEq, Repr

/-- A cluster of a package (01 R10). -/
structure CluId where
  pkg : Nat
  die : Nat
  clu : Nat
  deriving DecidableEq, Repr

/-- A quadrant of a package (01 R10). -/
structure QuadId where
  pkg : Nat
  die : Nat
  quad : Nat
  deriving DecidableEq, Repr

/-- A unit with an ECCR: the L2 slice of a cluster, or the scratchpad of a physical site (21 R450). -/
inductive RasUnit where
  | slice (l : CluId)
  | site (pkg die site : Nat)
  deriving DecidableEq, Repr

/-- The bits that a visit finds flipped in a granule, data and check bits: in the code word of its lower 64 bits and in that of its upper ones
(21 R448, R452). -/
structure Flips where
  lo : Nat
  hi : Nat
  deriving DecidableEq, Repr

/-- A party that reads poisoned data (21 R455). -/
inductive Consumer where
  | access (id : Nat)
  | matrix (k : CoreId)
  | envelope (k : CoreId)
  | copy (id : Nat)
  | stream (id : Nat)
  | frame (k : CoreId)
  /-- a restore that reads a block of a core's undo log (21 R457) -/
  | undo (h : W64) (k : CoreId) (block : Nat)
  /-- a restore that reads the recorded frame (21 R457) -/
  | record (h : W64)
  deriving DecidableEq, Repr

/-- The engines that a pre-emption stops (15 R363). -/
inductive Engine where
  | issue | matrix | gather | copy | envelope | stack | network
  deriving DecidableEq, Repr

/-- A device or management register that has no row of its own in the table (20 R433, 22 R469, 21 R451, R464). -/
inductive DevReg where
  | ttbr (pkg : Nat)
  | pgtbase (pkg : Nat)
  | tenantValid (pkg tenant : Nat)
  | framePoolBase (pkg tenant : Nat)
  | framePoolSize (pkg tenant : Nat)
  | quota (l : CluId) (tenant : Nat)
  | groupTableWord (pkg entry word : Nat)
  | linkKey (pkg tenant peer : Nat)
  | memoryKey (pkg tenant : Nat)
  | imageWord (pkg tenant entry word : Nat)
  | ceth (u : RasUnit)
  | remap (pkg die : Nat)
  | fwaddr (pkg : Nat)
  | fwsize (pkg : Nat)
  | attn (pkg word : Nat)
  deriving DecidableEq, Repr

/-- A host access over CXL.mem (22 R468): a read of n bytes, or a write of bytes. -/
inductive HostAccess where
  | read (n : Nat)
  | write (bytes : List Byte)
  deriving DecidableEq, Repr

/-- An operand selector (02 R31). Values 38-63 are unassigned and have no selector. -/
inductive Sel where
  | reg (n : BitVec 5)
  | link (d : Dir)
  | zero
  | imm
  deriving DecidableEq, Repr

/-- The guard of an instruction (02 R30). -/
structure Guard where
  neg : Bool
  p : BitVec 3
  deriving DecidableEq, Repr

/-- The fields of an instruction word below its class and opcode (02 R29). -/
structure Fields where
  guard : Guard
  d : Sel
  a : Sel
  b : Sel
  c : Sel
  mod : BitVec 6
  la : BitVec 6
  lb : BitVec 6
  x : BitVec 7
  imm : W32
  deriving DecidableEq, Repr

/-- The fields of a word whose every field is zero. -/
def Fields.zero : Fields :=
  ⟨⟨false, 0⟩, .reg 0, .reg 0, .reg 0, .reg 0, 0, 0, 0, 0, 0⟩

/-- Every row of the opcode table. -/
inductive Instr where
  | add (f : Fields)
  | sub (f : Fields)
  | mul (f : Fields)
  | mulh (f : Fields)
  | mulhu (f : Fields)
  | div (f : Fields)
  | divu (f : Fields)
  | rem (f : Fields)
  | remu (f : Fields)
  | and (f : Fields)
  | or (f : Fields)
  | xor (f : Fields)
  | andn (f : Fields)
  | shl (f : Fields)
  | shr (f : Fields)
  | sra (f : Fields)
  | rol (f : Fields)
  | min (f : Fields)
  | minu (f : Fields)
  | max (f : Fields)
  | maxu (f : Fields)
  | sel (f : Fields)
  | mov (f : Fields)
  | movh (f : Fields)
  | lea (f : Fields)
  | ext (f : Fields)
  | extu (f : Fields)
  | ins (f : Fields)
  | sext (f : Fields)
  | zext (f : Fields)
  | clz (f : Fields)
  | ctz (f : Fields)
  | ffs (f : Fields)
  | popc (f : Fields)
  | bswap (f : Fields)
  | brev (f : Fields)
  | cmp (f : Fields)
  | cmpf (f : Fields)
  | fadd (f : Fields)
  | fmul (f : Fields)
  | ffma (f : Fields)
  | fmin (f : Fields)
  | fmax (f : Fields)
  | fcvt (f : Fields)
  | pset (f : Fields)
  | mrd (f : Fields)
  | mwr (f : Fields)
  | rdtime (f : Fields)
  | vadd (f : Fields)
  | vsub (f : Fields)
  | vmul (f : Fields)
  | vfma (f : Fields)
  | vfms (f : Fields)
  | vfnma (f : Fields)
  | vmin (f : Fields)
  | vmax (f : Fields)
  | vabs (f : Fields)
  | vneg (f : Fields)
  | vand (f : Fields)
  | vor (f : Fields)
  | vxor (f : Fields)
  | vandn (f : Fields)
  | vshl (f : Fields)
  | vshr (f : Fields)
  | vsra (f : Fields)
  | vmulh (f : Fields)
  | vavg (f : Fields)
  | vabd (f : Fields)
  | vcmp (f : Fields)
  | vsel (f : Fields)
  | vmov (f : Fields)
  | vbc (f : Fields)
  | vget (f : Fields)
  | vset (f : Fields)
  | vperm (f : Fields)
  | vcomp (f : Fields)
  | vexpd (f : Fields)
  | vred (f : Fields)
  | vscan (f : Fields)
  | vdot4 (f : Fields)
  | vclz (f : Fields)
  | vpopc (f : Fields)
  | vffs (f : Fields)
  | vexp2 (f : Fields)
  | vlog2 (f : Fields)
  | vrcp (f : Fields)
  | vrsq (f : Fields)
  | vsin (f : Fields)
  | vcos (f : Fields)
  | vtanh (f : Fields)
  | vcvt (f : Fields)
  | vtag (f : Fields)
  | vqnt (f : Fields)
  | vdqt (f : Fields)
  | vbmax (f : Fields)
  | vsat (f : Fields)
  | mzero (f : Fields)
  | mlda (f : Fields)
  | mldb (f : Fields)
  | mgat (f : Fields)
  | mmul (f : Fields)
  | mmuls (f : Fields)
  | mcom (f : Fields)
  | mdis (f : Fields)
  | mscq (f : Fields)
  | mfin (f : Fields)
  | mrow (f : Fields)
  | mst (f : Fields)
  | mcnt (f : Fields)
  | mthr (f : Fields)
  | mwt (f : Fields)
  | mstat (f : Fields)
  | eclr (f : Fields)
  | eins (f : Fields)
  | eevl (f : Fields)
  | esum (f : Fields)
  | emax (f : Fields)
  | einf (f : Fields)
  | econj (f : Fields)
  | esimp (f : Fields)
  | eld (f : Fields)
  | est (f : Fields)
  | eadd (f : Fields)
  | ecnt (f : Fields)
  | edom (f : Fields)
  | edomGet (f : Fields)
  | ewt (f : Fields)
  | ldl (f : Fields)
  | stl (f : Fields)
  | vldl (f : Fields)
  | vstl (f : Fields)
  | vgl (f : Fields)
  | vsl (f : Fields)
  | ala (f : Fields)
  | alf (f : Fields)
  | stmap (f : Fields)
  | stfl (f : Fields)
  | stinv (f : Fields)
  | rres (f : Fields)
  | rtake (f : Fields)
  | rrel (f : Fields)
  | rcfg (f : Fields)
  | rstat (f : Fields)
  | ld (f : Fields)
  | st (f : Fields)
  | vld (f : Fields)
  | vst (f : Fields)
  | vgg (f : Fields)
  | vsg (f : Fields)
  | amo (f : Fields)
  | cas (f : Fields)
  | famo (f : Fields)
  | fset (f : Fields)
  | fget (f : Fields)
  | pf (f : Fields)
  | wb (f : Fields)
  | inv (f : Fields)
  | cp (f : Fields)
  | cps (f : Fields)
  | cpw (f : Fields)
  | streamSub (f : Fields)
  | unsub (f : Fields)
  | drn (f : Fields)
  | cpq (f : Fields)
  | msg (f : Fields)
  | mcst (f : Fields)
  | gopen (f : Fields)
  | gst (f : Fields)
  | gcom (f : Fields)
  | gab (f : Fields)
  | gstt (f : Fields)
  | nop (f : Fields)
  | b (f : Fields)
  | ba (f : Fields)
  | bl (f : Fields)
  | br (f : Fields)
  | brl (f : Fields)
  | rep (f : Fields)
  | lpin (f : Fields)
  | lfree (f : Fields)
  | tick (f : Fields)
  | bkpt (f : Fields)
  | fence (f : Fields)
  | bar (f : Fields)
  | mon (f : Fields)
  | mwait (f : Fields)
  | sopen (f : Fields)
  | sclose (f : Fields)
  | scnl (f : Fields)
  | sshd (f : Fields)
  | sunsh (f : Fields)
  | claim (f : Fields)
  | spawn (f : Fields)
  | spwg (f : Fields)
  | start (f : Fields)
  | exit (f : Fields)
  | yield (f : Fields)
  | poll (f : Fields)
  | tgnode (f : Fields)
  | tgdec (f : Fields)
  | sinfo (f : Fields)
  | trap (f : Fields)
  | kill (f : Fields)
  | killDom (f : Fields)
  | prmt (f : Fields)
  | resm (f : Fields)
  | plbw (f : Fields)
  | plbi (f : Fields)
  | plbiDom (f : Fields)
  | xlti (f : Fields)
  | pgok (f : Fields)
  | wpt (f : Fields)
  | auds (f : Fields)
  | divideLand (c : CtxId)
  | matrixCommandRun (k : CoreId)
  | macroOpBlock (k : CoreId)
  | envelopeCommandRun (k : CoreId)
  | ringReservationServed (k : CoreId) (ring : Nat)
  | ringTakeServed (k : CoreId) (ring : Nat)
  | globalAccessLand (id : Nat)
  | sliceAccess (id : Nat)
  | victimChoice (l : CluId) (line : Nat) (id : Nat)
  | trustShiftUpdate (l : CluId)
  | sweepVisit (u : RasUnit) (at_ : Nat) (found : Flips)
  | homeAccess (id : Nat) (part : Nat)
  | storePerformed (id : Nat) (part : Nat)
  | forcedPublish (id : Nat)
  | atomicAtHome (id : Nat)
  | fsetAtHome (id : Nat)
  | fgetAtHome (id : Nat)
  | stashRecall (k : CoreId) (n : Nat) (line : Nat) (drop : Bool)
  | remoteAccess (id : Nat)
  | windowNack (id : Nat)
  | peerAccessTimeout (id : Nat)
  | wbTimeout (c : CtxId)
  | asyncFaultRecord (id : Nat)
  | poisonConsumed (who : Consumer)
  | copyChunkStart (id : Nat)
  | copyChunkEnd (id : Nat) (chunk : Nat)
  | copySlotReserve (id : Nat)
  | copyFinish (id : Nat)
  | streamTileWrite (id : Nat)
  | drainTile (id : Nat)
  | drainSlotEmpty (id : Nat)
  | streamDetach (id : Nat)
  | streamError (id : Nat) (cause : Nat)
  | messageDelivery (id : Nat)
  | spillReplay (k : CoreId)
  | messageResend (id : Nat)
  | messageTimeout (id : Nat)
  | multicastMemberWrite (id : Nat) (pkg : Nat)
  | multicastReply (id : Nat)
  | gstStage (id : Nat)
  | groupJoin (id : Nat)
  | groupReasonReport (h : W64) (pkg : Nat) (reason : Nat)
  | groupPrepare (h : W64)
  | participantPrepare (pkg : Nat) (h : W64)
  | groupVote (h : W64) (pkg : Nat) (yes : Bool) (reason : Nat)
  | tVoteExpiry (h : W64)
  | groupPublish (pkg : Nat) (h : W64)
  | groupAbort (pkg : Nat) (h : W64)
  | groupConfirm (h : W64) (pkg : Nat)
  | tCommitExpiry (h : W64)
  | participantQuery (pkg : Nat) (h : W64)
  | queryAnswer (src : Nat) (dst : Nat) (h : W64)
  | resolveTimeout (pkg : Nat) (h : W64)
  | joinTimeout (pkg : Nat) (h : W64)
  | failureNotice (at_ : Nat) (pkg : Nat)
  | peerSilenceTimeout (at_ : Nat) (pkg : Nat) (id : Nat)
  | finalStateExpiry (pkg : Nat) (h : W64)
  | writePacketArrival (id : Nat)
  | flitCrcReplay (pkg : Nat) (port : Nat)
  | laneRetrain (pkg : Nat) (port : Nat) (lane : Nat)
  | authenticationFailure (w : Waiter)
  | routerCycle (pkg : Nat) (x : Nat) (y : Nat)
  | annulledPacket (c : CtxId)
  | emptyPacket (c : CtxId)
  | sequentialResolve (c : CtxId)
  | fenceAbandon (c : CtxId) (id : Nat)
  | mwaitTimeout (c : CtxId)
  | monitorLost (c : CtxId)
  | hubSpokeReturn (h : W64) (share : Nat) (closing : Bool)
  | borrow (h : W64) (c : CtxId)
  | hubBrake (h : W64)
  | claimAtHub (id : Nat)
  | replayRestore (h : W64)
  | replayContain (h : W64)
  | undoLogWrite (k : CoreId) (block : Nat)
  | nodeDecrement (id : Nat)
  | nodeFire (id : Nat)
  | launchPacketWrite (pkg : Nat) (tenant : Nat) (packet : BitVec 512) (whole : Bool)
  | launchTake (pkg : Nat) (tenant : Nat) (l : CluId)
  | dispatch (k : CoreId)
  | footprintFillDone (k : CoreId)
  | priorityAging (task : Nat)
  | preemptTrigger (task : Nat)
  | preemptAck (k : CoreId) (engine : Engine)
  | frameSwap (k : CoreId)
  | frameBackgroundWrite (k : CoreId) (task : Nat)
  | taskPark (task : Nat)
  | translationWalk (l : CluId) (walk : Nat)
  | pgokRewalk (token : W64)
  | killFlood (pkg : Nat) (site : Nat)
  | killSweepExpiry (pkg : Nat) (site : Nat)
  | faultEventDeliver (q : QuadId)
  | debugWindowWrite (id : Nat)
  | auditReplay (l : CluId)
  | auditClr (l : CluId)
  | eccrClr (u : RasUnit)
  | eccrStrong (u : RasUnit) (strong : Bool)
  | reencodeDone (u : RasUnit)
  | l2RowSpare (l : CluId) (row : Nat)
  | remapGo (pkg : Nat) (die : Nat)
  | remapSup (pkg : Nat) (die : Nat)
  | sctlSncz (k : CoreId)
  | sctlLtz (k : CoreId)
  | fstatFailedClear (c : CtxId)
  | groupTableWrite (pkg : Nat) (iodie : Nat) (entry : Nat)
  | registerWrite (r : DevReg) (value : W64)
  | hostCxlMemAccess (pkg : Nat) (off : Nat) (acc : HostAccess)
  | powerUp (bootCores : List Nat)
  | pkgidWrite (pkg : Nat) (value : W64)
  | fwgo (pkg : Nat) (value : W64)
  | firmwareFetchDone (pkg : Nat) (die : Nat) (busError : Bool)
  | discoveryPacket (pkg : Nat) (die : Nat) (site : Nat) (port : Dir)
  | discoveryReport (pkg : Nat) (die : Nat) (site : Nat) (selfTest : Bool)
  | discoveryTimeout (pkg : Nat) (die : Nat)
  | roleAssignment (pkg : Nat) (die : Nat)
  | imageMulticastAck (pkg : Nat) (die : Nat) (site : Nat)
  | dieBootDone (pkg : Nat) (die : Nat)
  | pwrlimWrite (pkg : Nat) (value : W64)
  | powerThrottle (pkg : Nat) (island : Nat) (mhz : Nat) (mv : Nat)
  | attgo (pkg : Nat) (value : W64)
  | attestDone (pkg : Nat)
  | peerRestore (at_ : Nat) (pkg : Nat)
  | slotPowerLoss (pkg : Nat)
  | expanderTimeout (w : Waiter)
  | gsttTimeout (id : Nat)
  | multicastMemberTimeout (id : Nat) (pkg : Nat)
  | cxlCacheHostSnoop (pkg : Nat) (line : Nat) (inval : Bool)
  deriving DecidableEq, Repr

end Sys2Proof
end

