-- ==== Sys2Proof/Machine/Bits.lean ====
section
/-! DEFINITION. The bit fields of an instruction word by their names in the entries (02 R29, R35-R40), the codes of tags,
directions and special registers. -/

namespace Sys2Proof

/-- The code of a format tag (07 R122). -/
def Tag.code : Tag → Nat
  | .raw => 0 | .t8 => 1 | .t8w => 2 | .t6 => 3 | .f8a => 4 | .f8b => 5 | .f6 => 6 | .f4 => 7
  | .h16 => 8 | .b16 => 9 | .f32 => 10 | .i8 => 11 | .i4 => 12 | .i16 => 13 | .i32 => 14 | .i64 => 15

/-- The tag of a four-bit code (07 R122). -/
def tagOfCode (n : Nat) : Tag :=
  match n % 16 with
  | 0 => .raw | 1 => .t8 | 2 => .t8w | 3 => .t6 | 4 => .f8a | 5 => .f8b | 6 => .f6 | 7 => .f4
  | 8 => .h16 | 9 => .b16 | 10 => .f32 | 11 => .i8 | 12 => .i4 | 13 => .i16 | 14 => .i32 | _ => .i64

/-- Lane width in bits; RAW is read as 32-bit lanes (07 R122, 08 R145). -/
def Tag.width : Tag → Nat
  | .f4 | .i4 => 4
  | .t8 | .t8w | .t6 | .f8a | .f8b | .f6 | .i8 => 8
  | .h16 | .b16 | .i16 => 16
  | .raw | .f32 | .i32 => 32
  | .i64 => 64

/-- Lanes per register (07 R122). -/
def Tag.lanes (t : Tag) : Nat := 2048 / t.width

/-- The integer tags (07 R131). -/
def Tag.isInt : Tag → Bool
  | .i8 | .i4 | .i16 | .i32 | .i64 => true
  | _ => false

/-- The floating and tapered tags. -/
def Tag.isFloat : Tag → Bool
  | .raw | .i8 | .i4 | .i16 | .i32 | .i64 => false
  | _ => true

/-- The tapered tags (07 R128). -/
def Tag.isTapered : Tag → Bool
  | .t8 | .t8w | .t6 => true
  | _ => false

/-- Targets of `vbmax` and `vqnt`: codes 1-7, 11 and 12 (07 R141). -/
def isBlockTag (t : Tag) : Bool := (1 ≤ t.code && t.code ≤ 7) || t.code == 11 || t.code == 12

/-- H16, B16 and F32: targets of `vdqt` and sources of `vqnt` (07 R142, R143). -/
def isWideTag (t : Tag) : Bool := t == .h16 || t == .b16 || t == .f32

/-- The selector code of a link (02 R31). -/
def Dir.code : Dir → Nat
  | .n => 0 | .e => 1 | .s => 2 | .w => 3

/-- The direction of a two-bit code. -/
def dirOfCode (n : Nat) : Dir :=
  match n % 4 with
  | 0 => .n | 1 => .e | 2 => .s | _ => .w

/-- The direction that faces this one. -/
def Dir.opposite : Dir → Dir
  | .n => .s | .s => .n | .e => .w | .w => .e

/-- MOD[53:51]: a condition, an operator, an access size or a swizzle (02 R37, 04 R69). -/
def Fields.cc (f : Fields) : Nat := f.mod.toNat % 8
/-- MOD.SZ (02 R37). -/
def Fields.szCode (f : Fields) : Nat := f.mod.toNat % 8
/-- The swizzle of `mlda`, `mldb`, `mgat`, `mst`, `cp` and `cps` (04 R69). -/
def Fields.swz (f : Fields) : Nat := f.mod.toNat % 8
/-- MOD.RC, the reach code (02 R36). -/
def Fields.reachCode (f : Fields) : Nat := f.mod.toNat / 8
/-- Reach codes 5-7 are illegal (01 R15). -/
def Fields.reachOk (f : Fields) : Bool := f.reachCode ≤ 4
/-- MOD[51]. -/
def Fields.mod0 (f : Fields) : Bool := f.mod.toNat.testBit 0
/-- MOD[52]: `.inf` (04 R69). -/
def Fields.modInf (f : Fields) : Bool := f.mod.toNat.testBit 1
/-- MOD[55]: `.u` or `.ls` (04 R69). -/
def Fields.modU (f : Fields) : Bool := f.mod.toNat.testBit 4
/-- MOD[56]: `.cv`, `.d` or `.zs` (04 R69). -/
def Fields.modTop (f : Fields) : Bool := f.mod.toNat.testBit 5
/-- MOD[56:55]: the target kind of `fcvt` (07 R144). -/
def Fields.cvtTo (f : Fields) : Nat := f.mod.toNat / 16
/-- MOD[54:53]: the source kind of `fcvt` (07 R144). -/
def Fields.cvtFrom (f : Fields) : Nat := f.mod.toNat / 4 % 4
/-- X[35:32] as a tag code (07). -/
def Fields.xTag (f : Fields) : Tag := tagOfCode (f.x.toNat % 16)
/-- Bits [42:39]: the tag, operator or format of class C (02 R38, 04 R68). -/
def Fields.extCode (f : Fields) : Nat := f.lb.toNat % 16
/-- Bits [42:39] as a tag (02 R38). -/
def Fields.extTag (f : Fields) : Tag := tagOfCode f.extCode
/-- Bit 39: the ring flag of `cp` and `cps` (14 R327). -/
def Fields.rg (f : Fields) : Bool := f.lb.toNat.testBit 0
/-- X.NUD (02 R36). -/
def Fields.nud (f : Fields) : Nat := f.x.toNat / 4
/-- X.TK (02 R36). -/
def Fields.tk (f : Fields) : Bool := f.x.toNat.testBit 1
/-- X.ORD, or `.then` of a copy (02 R36, 04 R69). -/
def Fields.ord (f : Fields) : Bool := f.x.toNat.testBit 0
/-- X[34:32]: lines - 1 of `rep`, `lpin` and `lfree` (05 R93, R97). -/
def Fields.lines (f : Fields) : Nat := f.x.toNat % 8 + 1
/-- IMM as a source: sign-extended to 64 bits (02 R32). -/
def Fields.immS (f : Fields) : W64 := f.imm.signExtend 64
/-- IMM[2:0] of a direct branch: the target position (02 R40). -/
def Fields.targetPos (f : Fields) : Nat := f.imm.toNat % 8
/-- IMM[3:0] of a conversion: the part q (07 R137). -/
def Fields.part (f : Fields) : Nat := f.imm.toNat % 16
/-- The special register number of `mrd` and `mwr` (06 R119). -/
def Fields.sprNum (f : Fields) : Nat := f.imm.toNat % 4096

/-- The special register numbers of 06 R118. -/
def sprListed (n : Nat) : Bool :=
  n ≤ 7 || (0x10 ≤ n && n ≤ 0x13) || (0x20 ≤ n && n ≤ 0x23) || n == 0x28 || n == 0x29 || (0x30 ≤ n && n ≤ 0x32)

/-- The RW numbers of 06 R118: an `mwr` to a RO register is ILLEGAL (06 R120). -/
def sprWritable (n : Nat) : Bool :=
  sprListed n && n != 0 && n != 1 && !(0x30 ≤ n && n ≤ 0x32)

/-- The core-scoped numbers of 06 R118. -/
def sprCoreScoped (n : Nat) : Bool := n == 4 || n == 5 || n == 6 || (0x10 ≤ n && n ≤ 0x13)

end Sys2Proof
end

