-- ==== Sys2Proof/Machine/Shape.lean ====
section
/-! DEFINITION. For every instruction: what its entry lets each field of the word hold (02 R31-R36, R47 and the field
tables of the entries), its class and opcode (02 R42-R46). -/

namespace Sys2Proof

/-- What an entry lets a selector name, and in which role. -/
inductive SelKind where
  /-- not defined by the entry: selector 0 (02 R31) -/
  | none
  /-- a g register, a link or ZERO, written -/
  | gd
  /-- a g register or ZERO, written -/
  | gz
  /-- a g register, a link, ZERO or IMM, read -/
  | gs
  /-- a g register, ZERO or IMM, read -/
  | gi
  /-- a g register, read -/
  | gr
  /-- a g register or ZERO, read -/
  | grz
  /-- a g register under `.ls`, else selector 0 (10 R219) -/
  | gls
  /-- a g register, or ZERO for CSC (15 R364) -/
  | gh
  /-- ZERO only -/
  | zero
  /-- a predicate or ZERO, written -/
  | pd
  /-- a predicate or ZERO, read -/
  | ps
  /-- a v register, a vector link or ZERO, written -/
  | vd
  /-- a v register or ZERO, written -/
  | vzd
  /-- a v register, written -/
  | vr_d
  /-- a v register or ZERO, read and written -/
  | vrw
  /-- a v register, a vector link, ZERO or IMM, read -/
  | vs
  /-- a v register or a vector link, read -/
  | vl
  /-- a v register, a vector link or ZERO, read -/
  | vlz
  /-- a v register, read -/
  | vr
  /-- a v register or ZERO, read -/
  | vz
  /-- acc0-acc3, written -/
  | acc
  /-- acc0-acc3, read -/
  | accs
  /-- acc0-acc3 or ZERO, waited for -/
  | accz
  /-- e0-e7, written -/
  | env
  /-- e0-e7, read -/
  | envs
  /-- e0-e7 or ZERO, waited for -/
  | envz
  /-- ring0-ring7 -/
  | ring
  /-- a g register, or ring0-ring7 under RG (14 R327) -/
  | cpd
  deriving DecidableEq, Repr

/-- What an entry lets IMM hold. -/
inductive ImmRule where
  /-- non-zero only where a selector names IMM -/
  | sel
  /-- an offset or a branch target -/
  | any
  /-- no bit outside the mask -/
  | mask (m : W32)
  deriving DecidableEq, Repr

/-- The fields that an entry assigns. -/
structure Shape where
  d : SelKind
  a : SelKind
  b : SelKind
  c : SelKind
  modMask : BitVec 6 := 0
  xMask : BitVec 7 := 0
  extMask : BitVec 6 := 0
  patA : Bool := false
  patB : Bool := false
  imm : ImmRule := .sel
  deriving DecidableEq, Repr

/-- Class, opcode, and MOD[51] where it singles a row out of its opcode (02 R42-R46; `edom.get`, `kill.dom`,
`plbi.dom`). -/
structure OpKey where
  cl : Nat
  op : Nat
  form : Nat := 0
  deriving DecidableEq, Repr

/-- The fields of a fetched instruction; a step of the device has none. -/
def Instr.fields : Instr → Option Fields
  | .add f => some f
  | .sub f => some f
  | .mul f => some f
  | .mulh f => some f
  | .mulhu f => some f
  | .div f => some f
  | .divu f => some f
  | .rem f => some f
  | .remu f => some f
  | .and f => some f
  | .or f => some f
  | .xor f => some f
  | .andn f => some f
  | .shl f => some f
  | .shr f => some f
  | .sra f => some f
  | .rol f => some f
  | .min f => some f
  | .minu f => some f
  | .max f => some f
  | .maxu f => some f
  | .sel f => some f
  | .mov f => some f
  | .movh f => some f
  | .lea f => some f
  | .ext f => some f
  | .extu f => some f
  | .ins f => some f
  | .sext f => some f
  | .zext f => some f
  | .clz f => some f
  | .ctz f => some f
  | .ffs f => some f
  | .popc f => some f
  | .bswap f => some f
  | .brev f => some f
  | .cmp f => some f
  | .cmpf f => some f
  | .fadd f => some f
  | .fmul f => some f
  | .ffma f => some f
  | .fmin f => some f
  | .fmax f => some f
  | .fcvt f => some f
  | .pset f => some f
  | .mrd f => some f
  | .mwr f => some f
  | .rdtime f => some f
  | .vadd f => some f
  | .vsub f => some f
  | .vmul f => some f
  | .vfma f => some f
  | .vfms f => some f
  | .vfnma f => some f
  | .vmin f => some f
  | .vmax f => some f
  | .vabs f => some f
  | .vneg f => some f
  | .vand f => some f
  | .vor f => some f
  | .vxor f => some f
  | .vandn f => some f
  | .vshl f => some f
  | .vshr f => some f
  | .vsra f => some f
  | .vmulh f => some f
  | .vavg f => some f
  | .vabd f => some f
  | .vcmp f => some f
  | .vsel f => some f
  | .vmov f => some f
  | .vbc f => some f
  | .vget f => some f
  | .vset f => some f
  | .vperm f => some f
  | .vcomp f => some f
  | .vexpd f => some f
  | .vred f => some f
  | .vscan f => some f
  | .vdot4 f => some f
  | .vclz f => some f
  | .vpopc f => some f
  | .vffs f => some f
  | .vexp2 f => some f
  | .vlog2 f => some f
  | .vrcp f => some f
  | .vrsq f => some f
  | .vsin f => some f
  | .vcos f => some f
  | .vtanh f => some f
  | .vcvt f => some f
  | .vtag f => some f
  | .vqnt f => some f
  | .vdqt f => some f
  | .vbmax f => some f
  | .vsat f => some f
  | .mzero f => some f
  | .mlda f => some f
  | .mldb f => some f
  | .mgat f => some f
  | .mmul f => some f
  | .mmuls f => some f
  | .mcom f => some f
  | .mdis f => some f
  | .mscq f => some f
  | .mfin f => some f
  | .mrow f => some f
  | .mst f => some f
  | .mcnt f => some f
  | .mthr f => some f
  | .mwt f => some f
  | .mstat f => some f
  | .eclr f => some f
  | .eins f => some f
  | .eevl f => some f
  | .esum f => some f
  | .emax f => some f
  | .einf f => some f
  | .econj f => some f
  | .esimp f => some f
  | .eld f => some f
  | .est f => some f
  | .eadd f => some f
  | .ecnt f => some f
  | .edom f => some f
  | .edomGet f => some f
  | .ewt f => some f
  | .ldl f => some f
  | .stl f => some f
  | .vldl f => some f
  | .vstl f => some f
  | .vgl f => some f
  | .vsl f => some f
  | .ala f => some f
  | .alf f => some f
  | .stmap f => some f
  | .stfl f => some f
  | .stinv f => some f
  | .rres f => some f
  | .rtake f => some f
  | .rrel f => some f
  | .rcfg f => some f
  | .rstat f => some f
  | .ld f => some f
  | .st f => some f
  | .vld f => some f
  | .vst f => some f
  | .vgg f => some f
  | .vsg f => some f
  | .amo f => some f
  | .cas f => some f
  | .famo f => some f
  | .fset f => some f
  | .fget f => some f
  | .pf f => some f
  | .wb f => some f
  | .inv f => some f
  | .cp f => some f
  | .cps f => some f
  | .cpw f => some f
  | .streamSub f => some f
  | .unsub f => some f
  | .drn f => some f
  | .cpq f => some f
  | .msg f => some f
  | .mcst f => some f
  | .gopen f => some f
  | .gst f => some f
  | .gcom f => some f
  | .gab f => some f
  | .gstt f => some f
  | .nop f => some f
  | .b f => some f
  | .ba f => some f
  | .bl f => some f
  | .br f => some f
  | .brl f => some f
  | .rep f => some f
  | .lpin f => some f
  | .lfree f => some f
  | .tick f => some f
  | .bkpt f => some f
  | .fence f => some f
  | .bar f => some f
  | .mon f => some f
  | .mwait f => some f
  | .sopen f => some f
  | .sclose f => some f
  | .scnl f => some f
  | .sshd f => some f
  | .sunsh f => some f
  | .claim f => some f
  | .spawn f => some f
  | .spwg f => some f
  | .start f => some f
  | .exit f => some f
  | .yield f => some f
  | .poll f => some f
  | .tgnode f => some f
  | .tgdec f => some f
  | .sinfo f => some f
  | .trap f => some f
  | .kill f => some f
  | .killDom f => some f
  | .prmt f => some f
  | .resm f => some f
  | .plbw f => some f
  | .plbi f => some f
  | .plbiDom f => some f
  | .xlti f => some f
  | .pgok f => some f
  | .wpt f => some f
  | .auds f => some f
  | .divideLand _ => none
  | .matrixCommandRun _ => none
  | .macroOpBlock _ => none
  | .envelopeCommandRun _ => none
  | .ringReservationServed _ _ => none
  | .ringTakeServed _ _ => none
  | .globalAccessLand _ => none
  | .sliceAccess _ => none
  | .victimChoice _ _ _ => none
  | .trustShiftUpdate _ => none
  | .sweepVisit _ _ _ => none
  | .homeAccess _ _ => none
  | .storePerformed _ _ => none
  | .forcedPublish _ => none
  | .atomicAtHome _ => none
  | .fsetAtHome _ => none
  | .fgetAtHome _ => none
  | .stashRecall _ _ _ _ => none
  | .remoteAccess _ => none
  | .windowNack _ => none
  | .peerAccessTimeout _ => none
  | .wbTimeout _ => none
  | .asyncFaultRecord _ => none
  | .poisonConsumed _ => none
  | .copyChunkStart _ => none
  | .copyChunkEnd _ _ => none
  | .copySlotReserve _ => none
  | .copyFinish _ => none
  | .streamTileWrite _ => none
  | .drainTile _ => none
  | .drainSlotEmpty _ => none
  | .streamDetach _ => none
  | .streamError _ _ => none
  | .messageDelivery _ => none
  | .spillReplay _ => none
  | .messageResend _ => none
  | .messageTimeout _ => none
  | .multicastMemberWrite _ _ => none
  | .multicastReply _ => none
  | .gstStage _ => none
  | .groupJoin _ => none
  | .groupReasonReport _ _ _ => none
  | .groupPrepare _ => none
  | .participantPrepare _ _ => none
  | .groupVote _ _ _ _ => none
  | .tVoteExpiry _ => none
  | .groupPublish _ _ => none
  | .groupAbort _ _ => none
  | .groupConfirm _ _ => none
  | .tCommitExpiry _ => none
  | .participantQuery _ _ => none
  | .queryAnswer _ _ _ => none
  | .resolveTimeout _ _ => none
  | .joinTimeout _ _ => none
  | .failureNotice _ _ => none
  | .peerSilenceTimeout _ _ _ => none
  | .finalStateExpiry _ _ => none
  | .writePacketArrival _ => none
  | .flitCrcReplay _ _ => none
  | .laneRetrain _ _ _ => none
  | .authenticationFailure _ => none
  | .routerCycle _ _ _ => none
  | .annulledPacket _ => none
  | .emptyPacket _ => none
  | .sequentialResolve _ => none
  | .fenceAbandon _ _ => none
  | .mwaitTimeout _ => none
  | .monitorLost _ => none
  | .hubSpokeReturn _ _ _ => none
  | .borrow _ _ => none
  | .hubBrake _ => none
  | .claimAtHub _ => none
  | .replayRestore _ => none
  | .replayContain _ => none
  | .undoLogWrite _ _ => none
  | .nodeDecrement _ => none
  | .nodeFire _ => none
  | .launchPacketWrite _ _ _ _ => none
  | .launchTake _ _ _ => none
  | .dispatch _ => none
  | .footprintFillDone _ => none
  | .priorityAging _ => none
  | .preemptTrigger _ => none
  | .preemptAck _ _ => none
  | .frameSwap _ => none
  | .frameBackgroundWrite _ _ => none
  | .taskPark _ => none
  | .translationWalk _ _ => none
  | .pgokRewalk _ => none
  | .killFlood _ _ => none
  | .killSweepExpiry _ _ => none
  | .faultEventDeliver _ => none
  | .debugWindowWrite _ => none
  | .auditReplay _ => none
  | .auditClr _ => none
  | .eccrClr _ => none
  | .eccrStrong _ _ => none
  | .reencodeDone _ => none
  | .l2RowSpare _ _ => none
  | .remapGo _ _ => none
  | .remapSup _ _ => none
  | .sctlSncz _ => none
  | .sctlLtz _ => none
  | .fstatFailedClear _ => none
  | .groupTableWrite _ _ _ => none
  | .registerWrite _ _ => none
  | .hostCxlMemAccess _ _ _ => none
  | .powerUp _ => none
  | .pkgidWrite _ _ => none
  | .fwgo _ _ => none
  | .firmwareFetchDone _ _ _ => none
  | .discoveryPacket _ _ _ _ => none
  | .discoveryReport _ _ _ _ => none
  | .discoveryTimeout _ _ => none
  | .roleAssignment _ _ => none
  | .imageMulticastAck _ _ _ => none
  | .dieBootDone _ _ => none
  | .pwrlimWrite _ _ => none
  | .powerThrottle _ _ _ _ => none
  | .attgo _ _ => none
  | .attestDone _ => none
  | .peerRestore _ _ => none
  | .slotPowerLoss _ => none
  | .expanderTimeout _ => none
  | .gsttTimeout _ => none
  | .multicastMemberTimeout _ _ => none
  | .cxlCacheHostSnoop _ _ _ => none

/-- The class and opcode of a fetched instruction (02 R42-R46). -/
def Instr.key : Instr → Option OpKey
  | .add _ => some ⟨0, 0x00, 0⟩
  | .sub _ => some ⟨0, 0x01, 0⟩
  | .mul _ => some ⟨0, 0x02, 0⟩
  | .mulh _ => some ⟨0, 0x03, 0⟩
  | .mulhu _ => some ⟨0, 0x04, 0⟩
  | .div _ => some ⟨0, 0x05, 0⟩
  | .divu _ => some ⟨0, 0x06, 0⟩
  | .rem _ => some ⟨0, 0x07, 0⟩
  | .remu _ => some ⟨0, 0x08, 0⟩
  | .and _ => some ⟨0, 0x09, 0⟩
  | .or _ => some ⟨0, 0x0A, 0⟩
  | .xor _ => some ⟨0, 0x0B, 0⟩
  | .andn _ => some ⟨0, 0x0C, 0⟩
  | .shl _ => some ⟨0, 0x0D, 0⟩
  | .shr _ => some ⟨0, 0x0E, 0⟩
  | .sra _ => some ⟨0, 0x0F, 0⟩
  | .rol _ => some ⟨0, 0x10, 0⟩
  | .min _ => some ⟨0, 0x11, 0⟩
  | .minu _ => some ⟨0, 0x12, 0⟩
  | .max _ => some ⟨0, 0x13, 0⟩
  | .maxu _ => some ⟨0, 0x14, 0⟩
  | .sel _ => some ⟨0, 0x15, 0⟩
  | .mov _ => some ⟨0, 0x16, 0⟩
  | .movh _ => some ⟨0, 0x17, 0⟩
  | .lea _ => some ⟨0, 0x18, 0⟩
  | .ext _ => some ⟨0, 0x19, 0⟩
  | .extu _ => some ⟨0, 0x1A, 0⟩
  | .ins _ => some ⟨0, 0x1B, 0⟩
  | .sext _ => some ⟨0, 0x1C, 0⟩
  | .zext _ => some ⟨0, 0x1D, 0⟩
  | .clz _ => some ⟨0, 0x1E, 0⟩
  | .ctz _ => some ⟨0, 0x1F, 0⟩
  | .ffs _ => some ⟨0, 0x20, 0⟩
  | .popc _ => some ⟨0, 0x21, 0⟩
  | .bswap _ => some ⟨0, 0x22, 0⟩
  | .brev _ => some ⟨0, 0x23, 0⟩
  | .cmp _ => some ⟨0, 0x24, 0⟩
  | .cmpf _ => some ⟨0, 0x25, 0⟩
  | .fadd _ => some ⟨0, 0x26, 0⟩
  | .fmul _ => some ⟨0, 0x27, 0⟩
  | .ffma _ => some ⟨0, 0x28, 0⟩
  | .fmin _ => some ⟨0, 0x29, 0⟩
  | .fmax _ => some ⟨0, 0x2A, 0⟩
  | .fcvt _ => some ⟨0, 0x2B, 0⟩
  | .pset _ => some ⟨0, 0x2C, 0⟩
  | .mrd _ => some ⟨0, 0x2D, 0⟩
  | .mwr _ => some ⟨0, 0x2E, 0⟩
  | .rdtime _ => some ⟨0, 0x2F, 0⟩
  | .vadd _ => some ⟨1, 0x00, 0⟩
  | .vsub _ => some ⟨1, 0x01, 0⟩
  | .vmul _ => some ⟨1, 0x02, 0⟩
  | .vfma _ => some ⟨1, 0x03, 0⟩
  | .vfms _ => some ⟨1, 0x04, 0⟩
  | .vfnma _ => some ⟨1, 0x05, 0⟩
  | .vmin _ => some ⟨1, 0x06, 0⟩
  | .vmax _ => some ⟨1, 0x07, 0⟩
  | .vabs _ => some ⟨1, 0x08, 0⟩
  | .vneg _ => some ⟨1, 0x09, 0⟩
  | .vand _ => some ⟨1, 0x0A, 0⟩
  | .vor _ => some ⟨1, 0x0B, 0⟩
  | .vxor _ => some ⟨1, 0x0C, 0⟩
  | .vandn _ => some ⟨1, 0x0D, 0⟩
  | .vshl _ => some ⟨1, 0x0E, 0⟩
  | .vshr _ => some ⟨1, 0x0F, 0⟩
  | .vsra _ => some ⟨1, 0x10, 0⟩
  | .vmulh _ => some ⟨1, 0x11, 0⟩
  | .vavg _ => some ⟨1, 0x12, 0⟩
  | .vabd _ => some ⟨1, 0x13, 0⟩
  | .vcmp _ => some ⟨1, 0x14, 0⟩
  | .vsel _ => some ⟨1, 0x15, 0⟩
  | .vmov _ => some ⟨1, 0x16, 0⟩
  | .vbc _ => some ⟨1, 0x17, 0⟩
  | .vget _ => some ⟨1, 0x18, 0⟩
  | .vset _ => some ⟨1, 0x19, 0⟩
  | .vperm _ => some ⟨1, 0x1A, 0⟩
  | .vcomp _ => some ⟨1, 0x1B, 0⟩
  | .vexpd _ => some ⟨1, 0x1C, 0⟩
  | .vred _ => some ⟨1, 0x1D, 0⟩
  | .vscan _ => some ⟨1, 0x1E, 0⟩
  | .vdot4 _ => some ⟨1, 0x1F, 0⟩
  | .vclz _ => some ⟨1, 0x20, 0⟩
  | .vpopc _ => some ⟨1, 0x21, 0⟩
  | .vffs _ => some ⟨1, 0x22, 0⟩
  | .vexp2 _ => some ⟨1, 0x23, 0⟩
  | .vlog2 _ => some ⟨1, 0x24, 0⟩
  | .vrcp _ => some ⟨1, 0x25, 0⟩
  | .vrsq _ => some ⟨1, 0x26, 0⟩
  | .vsin _ => some ⟨1, 0x27, 0⟩
  | .vcos _ => some ⟨1, 0x28, 0⟩
  | .vtanh _ => some ⟨1, 0x29, 0⟩
  | .vcvt _ => some ⟨1, 0x2A, 0⟩
  | .vtag _ => some ⟨1, 0x2B, 0⟩
  | .vqnt _ => some ⟨1, 0x2C, 0⟩
  | .vdqt _ => some ⟨1, 0x2D, 0⟩
  | .vbmax _ => some ⟨1, 0x2E, 0⟩
  | .vsat _ => some ⟨1, 0x2F, 0⟩
  | .mzero _ => some ⟨2, 0x00, 0⟩
  | .mlda _ => some ⟨2, 0x01, 0⟩
  | .mldb _ => some ⟨2, 0x02, 0⟩
  | .mgat _ => some ⟨2, 0x03, 0⟩
  | .mmul _ => some ⟨2, 0x04, 0⟩
  | .mmuls _ => some ⟨2, 0x05, 0⟩
  | .mcom _ => some ⟨2, 0x06, 0⟩
  | .mdis _ => some ⟨2, 0x07, 0⟩
  | .mscq _ => some ⟨2, 0x08, 0⟩
  | .mfin _ => some ⟨2, 0x09, 0⟩
  | .mrow _ => some ⟨2, 0x0A, 0⟩
  | .mst _ => some ⟨2, 0x0B, 0⟩
  | .mcnt _ => some ⟨2, 0x0C, 0⟩
  | .mthr _ => some ⟨2, 0x0D, 0⟩
  | .mwt _ => some ⟨2, 0x0E, 0⟩
  | .mstat _ => some ⟨2, 0x0F, 0⟩
  | .eclr _ => some ⟨2, 0x20, 0⟩
  | .eins _ => some ⟨2, 0x21, 0⟩
  | .eevl _ => some ⟨2, 0x22, 0⟩
  | .esum _ => some ⟨2, 0x23, 0⟩
  | .emax _ => some ⟨2, 0x24, 0⟩
  | .einf _ => some ⟨2, 0x25, 0⟩
  | .econj _ => some ⟨2, 0x26, 0⟩
  | .esimp _ => some ⟨2, 0x27, 0⟩
  | .eld _ => some ⟨2, 0x28, 0⟩
  | .est _ => some ⟨2, 0x29, 0⟩
  | .eadd _ => some ⟨2, 0x2A, 0⟩
  | .ecnt _ => some ⟨2, 0x2B, 0⟩
  | .edom _ => some ⟨2, 0x2C, 0⟩
  | .edomGet _ => some ⟨2, 0x2C, 1⟩
  | .ewt _ => some ⟨2, 0x2D, 0⟩
  | .ldl _ => some ⟨3, 0x00, 0⟩
  | .stl _ => some ⟨3, 0x01, 0⟩
  | .vldl _ => some ⟨3, 0x02, 0⟩
  | .vstl _ => some ⟨3, 0x03, 0⟩
  | .vgl _ => some ⟨3, 0x04, 0⟩
  | .vsl _ => some ⟨3, 0x05, 0⟩
  | .ala _ => some ⟨3, 0x06, 0⟩
  | .alf _ => some ⟨3, 0x07, 0⟩
  | .stmap _ => some ⟨3, 0x08, 0⟩
  | .stfl _ => some ⟨3, 0x09, 0⟩
  | .stinv _ => some ⟨3, 0x0A, 0⟩
  | .rres _ => some ⟨3, 0x0B, 0⟩
  | .rtake _ => some ⟨3, 0x0C, 0⟩
  | .rrel _ => some ⟨3, 0x0D, 0⟩
  | .rcfg _ => some ⟨3, 0x0E, 0⟩
  | .rstat _ => some ⟨3, 0x0F, 0⟩
  | .ld _ => some ⟨3, 0x10, 0⟩
  | .st _ => some ⟨3, 0x11, 0⟩
  | .vld _ => some ⟨3, 0x12, 0⟩
  | .vst _ => some ⟨3, 0x13, 0⟩
  | .vgg _ => some ⟨3, 0x14, 0⟩
  | .vsg _ => some ⟨3, 0x15, 0⟩
  | .amo _ => some ⟨3, 0x16, 0⟩
  | .cas _ => some ⟨3, 0x17, 0⟩
  | .famo _ => some ⟨3, 0x18, 0⟩
  | .fset _ => some ⟨3, 0x19, 0⟩
  | .fget _ => some ⟨3, 0x1A, 0⟩
  | .pf _ => some ⟨3, 0x1B, 0⟩
  | .wb _ => some ⟨3, 0x1C, 0⟩
  | .inv _ => some ⟨3, 0x1D, 0⟩
  | .cp _ => some ⟨3, 0x20, 0⟩
  | .cps _ => some ⟨3, 0x21, 0⟩
  | .cpw _ => some ⟨3, 0x22, 0⟩
  | .streamSub _ => some ⟨3, 0x23, 0⟩
  | .unsub _ => some ⟨3, 0x24, 0⟩
  | .drn _ => some ⟨3, 0x25, 0⟩
  | .cpq _ => some ⟨3, 0x26, 0⟩
  | .msg _ => some ⟨3, 0x27, 0⟩
  | .mcst _ => some ⟨3, 0x30, 0⟩
  | .gopen _ => some ⟨3, 0x31, 0⟩
  | .gst _ => some ⟨3, 0x32, 0⟩
  | .gcom _ => some ⟨3, 0x33, 0⟩
  | .gab _ => some ⟨3, 0x34, 0⟩
  | .gstt _ => some ⟨3, 0x35, 0⟩
  | .nop _ => some ⟨4, 0x00, 0⟩
  | .b _ => some ⟨4, 0x01, 0⟩
  | .ba _ => some ⟨4, 0x02, 0⟩
  | .bl _ => some ⟨4, 0x03, 0⟩
  | .br _ => some ⟨4, 0x04, 0⟩
  | .brl _ => some ⟨4, 0x05, 0⟩
  | .rep _ => some ⟨4, 0x06, 0⟩
  | .lpin _ => some ⟨4, 0x07, 0⟩
  | .lfree _ => some ⟨4, 0x08, 0⟩
  | .tick _ => some ⟨4, 0x09, 0⟩
  | .bkpt _ => some ⟨4, 0x0A, 0⟩
  | .fence _ => some ⟨4, 0x10, 0⟩
  | .bar _ => some ⟨4, 0x11, 0⟩
  | .mon _ => some ⟨4, 0x12, 0⟩
  | .mwait _ => some ⟨4, 0x13, 0⟩
  | .sopen _ => some ⟨4, 0x20, 0⟩
  | .sclose _ => some ⟨4, 0x21, 0⟩
  | .scnl _ => some ⟨4, 0x22, 0⟩
  | .sshd _ => some ⟨4, 0x23, 0⟩
  | .sunsh _ => some ⟨4, 0x24, 0⟩
  | .claim _ => some ⟨4, 0x25, 0⟩
  | .spawn _ => some ⟨4, 0x26, 0⟩
  | .spwg _ => some ⟨4, 0x27, 0⟩
  | .start _ => some ⟨4, 0x28, 0⟩
  | .exit _ => some ⟨4, 0x29, 0⟩
  | .yield _ => some ⟨4, 0x2A, 0⟩
  | .poll _ => some ⟨4, 0x2B, 0⟩
  | .tgnode _ => some ⟨4, 0x2C, 0⟩
  | .tgdec _ => some ⟨4, 0x2D, 0⟩
  | .sinfo _ => some ⟨4, 0x2E, 0⟩
  | .trap _ => some ⟨4, 0x30, 0⟩
  | .kill _ => some ⟨4, 0x31, 0⟩
  | .killDom _ => some ⟨4, 0x31, 1⟩
  | .prmt _ => some ⟨4, 0x32, 0⟩
  | .resm _ => some ⟨4, 0x33, 0⟩
  | .plbw _ => some ⟨4, 0x34, 0⟩
  | .plbi _ => some ⟨4, 0x35, 0⟩
  | .plbiDom _ => some ⟨4, 0x35, 1⟩
  | .xlti _ => some ⟨4, 0x36, 0⟩
  | .pgok _ => some ⟨4, 0x37, 0⟩
  | .wpt _ => some ⟨4, 0x38, 0⟩
  | .auds _ => some ⟨4, 0x39, 0⟩
  | .divideLand _ => none
  | .matrixCommandRun _ => none
  | .macroOpBlock _ => none
  | .envelopeCommandRun _ => none
  | .ringReservationServed _ _ => none
  | .ringTakeServed _ _ => none
  | .globalAccessLand _ => none
  | .sliceAccess _ => none
  | .victimChoice _ _ _ => none
  | .trustShiftUpdate _ => none
  | .sweepVisit _ _ _ => none
  | .homeAccess _ _ => none
  | .storePerformed _ _ => none
  | .forcedPublish _ => none
  | .atomicAtHome _ => none
  | .fsetAtHome _ => none
  | .fgetAtHome _ => none
  | .stashRecall _ _ _ _ => none
  | .remoteAccess _ => none
  | .windowNack _ => none
  | .peerAccessTimeout _ => none
  | .wbTimeout _ => none
  | .asyncFaultRecord _ => none
  | .poisonConsumed _ => none
  | .copyChunkStart _ => none
  | .copyChunkEnd _ _ => none
  | .copySlotReserve _ => none
  | .copyFinish _ => none
  | .streamTileWrite _ => none
  | .drainTile _ => none
  | .drainSlotEmpty _ => none
  | .streamDetach _ => none
  | .streamError _ _ => none
  | .messageDelivery _ => none
  | .spillReplay _ => none
  | .messageResend _ => none
  | .messageTimeout _ => none
  | .multicastMemberWrite _ _ => none
  | .multicastReply _ => none
  | .gstStage _ => none
  | .groupJoin _ => none
  | .groupReasonReport _ _ _ => none
  | .groupPrepare _ => none
  | .participantPrepare _ _ => none
  | .groupVote _ _ _ _ => none
  | .tVoteExpiry _ => none
  | .groupPublish _ _ => none
  | .groupAbort _ _ => none
  | .groupConfirm _ _ => none
  | .tCommitExpiry _ => none
  | .participantQuery _ _ => none
  | .queryAnswer _ _ _ => none
  | .resolveTimeout _ _ => none
  | .joinTimeout _ _ => none
  | .failureNotice _ _ => none
  | .peerSilenceTimeout _ _ _ => none
  | .finalStateExpiry _ _ => none
  | .writePacketArrival _ => none
  | .flitCrcReplay _ _ => none
  | .laneRetrain _ _ _ => none
  | .authenticationFailure _ => none
  | .routerCycle _ _ _ => none
  | .annulledPacket _ => none
  | .emptyPacket _ => none
  | .sequentialResolve _ => none
  | .fenceAbandon _ _ => none
  | .mwaitTimeout _ => none
  | .monitorLost _ => none
  | .hubSpokeReturn _ _ _ => none
  | .borrow _ _ => none
  | .hubBrake _ => none
  | .claimAtHub _ => none
  | .replayRestore _ => none
  | .replayContain _ => none
  | .undoLogWrite _ _ => none
  | .nodeDecrement _ => none
  | .nodeFire _ => none
  | .launchPacketWrite _ _ _ _ => none
  | .launchTake _ _ _ => none
  | .dispatch _ => none
  | .footprintFillDone _ => none
  | .priorityAging _ => none
  | .preemptTrigger _ => none
  | .preemptAck _ _ => none
  | .frameSwap _ => none
  | .frameBackgroundWrite _ _ => none
  | .taskPark _ => none
  | .translationWalk _ _ => none
  | .pgokRewalk _ => none
  | .killFlood _ _ => none
  | .killSweepExpiry _ _ => none
  | .faultEventDeliver _ => none
  | .debugWindowWrite _ => none
  | .auditReplay _ => none
  | .auditClr _ => none
  | .eccrClr _ => none
  | .eccrStrong _ _ => none
  | .reencodeDone _ => none
  | .l2RowSpare _ _ => none
  | .remapGo _ _ => none
  | .remapSup _ _ => none
  | .sctlSncz _ => none
  | .sctlLtz _ => none
  | .fstatFailedClear _ => none
  | .groupTableWrite _ _ _ => none
  | .registerWrite _ _ => none
  | .hostCxlMemAccess _ _ _ => none
  | .powerUp _ => none
  | .pkgidWrite _ _ => none
  | .fwgo _ _ => none
  | .firmwareFetchDone _ _ _ => none
  | .discoveryPacket _ _ _ _ => none
  | .discoveryReport _ _ _ _ => none
  | .discoveryTimeout _ _ => none
  | .roleAssignment _ _ => none
  | .imageMulticastAck _ _ _ => none
  | .dieBootDone _ _ => none
  | .pwrlimWrite _ _ => none
  | .powerThrottle _ _ _ _ => none
  | .attgo _ _ => none
  | .attestDone _ => none
  | .peerRestore _ _ => none
  | .slotPowerLoss _ => none
  | .expanderTimeout _ => none
  | .gsttTimeout _ => none
  | .multicastMemberTimeout _ _ => none
  | .cxlCacheHostSnoop _ _ _ => none

/-- What the entry of an instruction assigns. D may be ZERO wherever 08 R150 lets it, in `vtag` and `vsat` too (log 11, DEDUCED). -/
def Instr.shape : Instr → Shape
  | .add _ => ⟨.gd, .gs, .gs, .none, 0b000000, 0x00, 0x0, false, false, .sel⟩
  | .sub _ => ⟨.gd, .gs, .gs, .none, 0b000000, 0x00, 0x0, false, false, .sel⟩
  | .mul _ => ⟨.gd, .gs, .gs, .none, 0b000000, 0x00, 0x0, false, false, .sel⟩
  | .mulh _ => ⟨.gd, .gs, .gs, .none, 0b000000, 0x00, 0x0, false, false, .sel⟩
  | .mulhu _ => ⟨.gd, .gs, .gs, .none, 0b000000, 0x00, 0x0, false, false, .sel⟩
  | .div _ => ⟨.gd, .gs, .gs, .none, 0b000000, 0x00, 0x0, false, false, .sel⟩
  | .divu _ => ⟨.gd, .gs, .gs, .none, 0b000000, 0x00, 0x0, false, false, .sel⟩
  | .rem _ => ⟨.gd, .gs, .gs, .none, 0b000000, 0x00, 0x0, false, false, .sel⟩
  | .remu _ => ⟨.gd, .gs, .gs, .none, 0b000000, 0x00, 0x0, false, false, .sel⟩
  | .and _ => ⟨.gd, .gs, .gs, .none, 0b000000, 0x00, 0x0, false, false, .sel⟩
  | .or _ => ⟨.gd, .gs, .gs, .none, 0b000000, 0x00, 0x0, false, false, .sel⟩
  | .xor _ => ⟨.gd, .gs, .gs, .none, 0b000000, 0x00, 0x0, false, false, .sel⟩
  | .andn _ => ⟨.gd, .gs, .gs, .none, 0b000000, 0x00, 0x0, false, false, .sel⟩
  | .shl _ => ⟨.gd, .gs, .gs, .none, 0b000000, 0x00, 0x0, false, false, .sel⟩
  | .shr _ => ⟨.gd, .gs, .gs, .none, 0b000000, 0x00, 0x0, false, false, .sel⟩
  | .sra _ => ⟨.gd, .gs, .gs, .none, 0b000000, 0x00, 0x0, false, false, .sel⟩
  | .rol _ => ⟨.gd, .gs, .gs, .none, 0b000000, 0x00, 0x0, false, false, .sel⟩
  | .min _ => ⟨.gd, .gs, .gs, .none, 0b000000, 0x00, 0x0, false, false, .sel⟩
  | .minu _ => ⟨.gd, .gs, .gs, .none, 0b000000, 0x00, 0x0, false, false, .sel⟩
  | .max _ => ⟨.gd, .gs, .gs, .none, 0b000000, 0x00, 0x0, false, false, .sel⟩
  | .maxu _ => ⟨.gd, .gs, .gs, .none, 0b000000, 0x00, 0x0, false, false, .sel⟩
  | .sel _ => ⟨.gd, .gs, .gs, .ps, 0b000000, 0x00, 0x0, false, false, .sel⟩
  | .mov _ => ⟨.gd, .gs, .none, .none, 0b000000, 0x00, 0x0, false, false, .sel⟩
  | .movh _ => ⟨.gd, .gs, .gs, .none, 0b000000, 0x00, 0x0, false, false, .sel⟩
  | .lea _ => ⟨.gd, .gs, .gs, .none, 0b000000, 0x00, 0x0, false, false, .any⟩
  | .ext _ => ⟨.gd, .gs, .gs, .none, 0b000000, 0x00, 0x0, false, false, .sel⟩
  | .extu _ => ⟨.gd, .gs, .gs, .none, 0b000000, 0x00, 0x0, false, false, .sel⟩
  | .ins _ => ⟨.gd, .gs, .gs, .gs, 0b000000, 0x00, 0x0, false, false, .sel⟩
  | .sext _ => ⟨.gd, .gs, .gs, .none, 0b000000, 0x00, 0x0, false, false, .sel⟩
  | .zext _ => ⟨.gd, .gs, .gs, .none, 0b000000, 0x00, 0x0, false, false, .sel⟩
  | .clz _ => ⟨.gd, .gs, .gs, .none, 0b000000, 0x00, 0x0, false, false, .sel⟩
  | .ctz _ => ⟨.gd, .gs, .gs, .none, 0b000000, 0x00, 0x0, false, false, .sel⟩
  | .ffs _ => ⟨.gd, .gs, .gs, .none, 0b000000, 0x00, 0x0, false, false, .sel⟩
  | .popc _ => ⟨.gd, .gs, .gs, .none, 0b000000, 0x00, 0x0, false, false, .sel⟩
  | .bswap _ => ⟨.gd, .gs, .gs, .none, 0b000000, 0x00, 0x0, false, false, .sel⟩
  | .brev _ => ⟨.gd, .gs, .gs, .none, 0b000000, 0x00, 0x0, false, false, .sel⟩
  | .cmp _ => ⟨.pd, .gs, .gs, .none, 0b010111, 0x00, 0x0, false, false, .sel⟩
  | .cmpf _ => ⟨.pd, .gs, .gs, .none, 0b100111, 0x00, 0x0, false, false, .sel⟩
  | .fadd _ => ⟨.gd, .gs, .gs, .none, 0b100000, 0x00, 0x0, false, false, .sel⟩
  | .fmul _ => ⟨.gd, .gs, .gs, .none, 0b100000, 0x00, 0x0, false, false, .sel⟩
  | .ffma _ => ⟨.gd, .gs, .gs, .gs, 0b100000, 0x00, 0x0, false, false, .sel⟩
  | .fmin _ => ⟨.gd, .gs, .gs, .none, 0b100000, 0x00, 0x0, false, false, .sel⟩
  | .fmax _ => ⟨.gd, .gs, .gs, .none, 0b100000, 0x00, 0x0, false, false, .sel⟩
  | .fcvt _ => ⟨.gd, .gs, .none, .none, 0b111110, 0x00, 0x0, false, false, .sel⟩
  | .pset _ => ⟨.pd, .ps, .ps, .none, 0b000011, 0x00, 0x0, false, false, .sel⟩
  | .mrd _ => ⟨.gd, .none, .none, .none, 0b000000, 0x00, 0x0, false, false, .mask 0xFFF⟩
  | .mwr _ => ⟨.none, .gs, .none, .none, 0b000000, 0x00, 0x0, false, false, .mask 0xFFF⟩
  | .rdtime _ => ⟨.gd, .none, .none, .none, 0b000000, 0x00, 0x0, false, false, .sel⟩
  | .vadd _ => ⟨.vd, .vs, .vs, .none, 0b100000, 0x00, 0x0, true, true, .sel⟩
  | .vsub _ => ⟨.vd, .vs, .vs, .none, 0b100000, 0x00, 0x0, true, true, .sel⟩
  | .vmul _ => ⟨.vd, .vs, .vs, .none, 0b100000, 0x00, 0x0, true, true, .sel⟩
  | .vfma _ => ⟨.vd, .vs, .vs, .vs, 0b100000, 0x00, 0x0, true, true, .sel⟩
  | .vfms _ => ⟨.vd, .vs, .vs, .vs, 0b100000, 0x00, 0x0, true, true, .sel⟩
  | .vfnma _ => ⟨.vd, .vs, .vs, .vs, 0b100000, 0x00, 0x0, true, true, .sel⟩
  | .vmin _ => ⟨.vd, .vs, .vs, .none, 0b110000, 0x00, 0x0, true, true, .sel⟩
  | .vmax _ => ⟨.vd, .vs, .vs, .none, 0b110000, 0x00, 0x0, true, true, .sel⟩
  | .vabs _ => ⟨.vd, .vs, .none, .none, 0b000000, 0x00, 0x0, true, false, .sel⟩
  | .vneg _ => ⟨.vd, .vs, .none, .none, 0b000000, 0x00, 0x0, true, false, .sel⟩
  | .vand _ => ⟨.vd, .vs, .vs, .none, 0b000000, 0x00, 0x0, true, true, .sel⟩
  | .vor _ => ⟨.vd, .vs, .vs, .none, 0b000000, 0x00, 0x0, true, true, .sel⟩
  | .vxor _ => ⟨.vd, .vs, .vs, .none, 0b000000, 0x00, 0x0, true, true, .sel⟩
  | .vandn _ => ⟨.vd, .vs, .vs, .none, 0b000000, 0x00, 0x0, true, true, .sel⟩
  | .vshl _ => ⟨.vd, .vs, .vs, .none, 0b100000, 0x00, 0x0, true, true, .sel⟩
  | .vshr _ => ⟨.vd, .vs, .vs, .none, 0b100000, 0x00, 0x0, true, true, .sel⟩
  | .vsra _ => ⟨.vd, .vs, .vs, .none, 0b100000, 0x00, 0x0, true, true, .sel⟩
  | .vmulh _ => ⟨.vd, .vs, .vs, .none, 0b110000, 0x00, 0x0, true, true, .sel⟩
  | .vavg _ => ⟨.vd, .vs, .vs, .none, 0b110000, 0x00, 0x0, true, true, .sel⟩
  | .vabd _ => ⟨.vd, .vs, .vs, .none, 0b110000, 0x00, 0x0, true, true, .sel⟩
  | .vcmp _ => ⟨.pd, .vs, .vs, .none, 0b110111, 0x00, 0x0, true, true, .sel⟩
  | .vsel _ => ⟨.vd, .vs, .vs, .ps, 0b000000, 0x00, 0x0, true, true, .sel⟩
  | .vmov _ => ⟨.vd, .vs, .none, .none, 0b000000, 0x00, 0x0, true, false, .sel⟩
  | .vbc _ => ⟨.vd, .gi, .none, .none, 0b000000, 0x0F, 0x0, false, false, .sel⟩
  | .vget _ => ⟨.gz, .vs, .gi, .none, 0b000000, 0x00, 0x0, true, false, .sel⟩
  | .vset _ => ⟨.vrw, .gi, .gi, .none, 0b000000, 0x00, 0x0, false, false, .sel⟩
  | .vperm _ => ⟨.vd, .vs, .vs, .none, 0b000000, 0x00, 0x0, true, true, .sel⟩
  | .vcomp _ => ⟨.vd, .vs, .none, .ps, 0b000000, 0x00, 0x0, true, false, .sel⟩
  | .vexpd _ => ⟨.vd, .vs, .none, .ps, 0b000000, 0x00, 0x0, true, false, .sel⟩
  | .vred _ => ⟨.vd, .vs, .none, .none, 0b010111, 0x00, 0x0, true, false, .sel⟩
  | .vscan _ => ⟨.vd, .vs, .none, .none, 0b010111, 0x00, 0x0, true, false, .sel⟩
  | .vdot4 _ => ⟨.vd, .vs, .vs, .vs, 0b110000, 0x00, 0x0, true, true, .sel⟩
  | .vclz _ => ⟨.vd, .vs, .none, .none, 0b000000, 0x00, 0x0, true, false, .sel⟩
  | .vpopc _ => ⟨.vd, .vs, .none, .none, 0b000000, 0x00, 0x0, true, false, .sel⟩
  | .vffs _ => ⟨.vd, .vs, .none, .none, 0b000000, 0x00, 0x0, true, false, .sel⟩
  | .vexp2 _ => ⟨.vd, .vs, .none, .none, 0b000000, 0x00, 0x0, true, false, .sel⟩
  | .vlog2 _ => ⟨.vd, .vs, .none, .none, 0b000000, 0x00, 0x0, true, false, .sel⟩
  | .vrcp _ => ⟨.vd, .vs, .none, .none, 0b000000, 0x00, 0x0, true, false, .sel⟩
  | .vrsq _ => ⟨.vd, .vs, .none, .none, 0b000000, 0x00, 0x0, true, false, .sel⟩
  | .vsin _ => ⟨.vd, .vs, .none, .none, 0b000000, 0x00, 0x0, true, false, .sel⟩
  | .vcos _ => ⟨.vd, .vs, .none, .none, 0b000000, 0x00, 0x0, true, false, .sel⟩
  | .vtanh _ => ⟨.vd, .vs, .none, .none, 0b000000, 0x00, 0x0, true, false, .sel⟩
  | .vcvt _ => ⟨.vd, .vl, .none, .none, 0b010010, 0x0F, 0x0, true, false, .mask 0xF⟩
  | .vtag _ => ⟨.vd, .vlz, .none, .none, 0b000000, 0x0F, 0x0, true, false, .sel⟩
  | .vqnt _ => ⟨.vd, .vl, .vl, .none, 0b000010, 0x0F, 0x0, true, true, .mask 0xF⟩
  | .vdqt _ => ⟨.vd, .vl, .vl, .none, 0b000000, 0x0F, 0x0, true, true, .mask 0xF⟩
  | .vbmax _ => ⟨.vd, .vl, .none, .none, 0b000000, 0x0F, 0x0, true, false, .mask 0xF⟩
  | .vsat _ => ⟨.vd, .vl, .none, .none, 0b000000, 0x0F, 0x0, true, false, .sel⟩
  | .mzero _ => ⟨.acc, .none, .none, .none, 0b000000, 0x0F, 0x0, false, false, .sel⟩
  | .mlda _ => ⟨.none, .gr, .gi, .gi, 0b000111, 0x0F, 0x0, false, false, .sel⟩
  | .mldb _ => ⟨.none, .gr, .gi, .gi, 0b000111, 0x0F, 0x0, false, false, .sel⟩
  | .mgat _ => ⟨.none, .gr, .vr, .gi, 0b000111, 0x0F, 0x0, false, false, .sel⟩
  | .mmul _ => ⟨.acc, .gi, .gls, .none, 0b110000, 0x00, 0x0, false, false, .sel⟩
  | .mmuls _ => ⟨.acc, .gi, .gls, .none, 0b110000, 0x00, 0x0, false, false, .sel⟩
  | .mcom _ => ⟨.acc, .none, .none, .none, 0b000000, 0x00, 0x0, false, false, .sel⟩
  | .mdis _ => ⟨.acc, .none, .none, .none, 0b000000, 0x00, 0x0, false, false, .sel⟩
  | .mscq _ => ⟨.gz, .gi, .none, .none, 0b000000, 0x00, 0x0, false, false, .sel⟩
  | .mfin _ => ⟨.acc, .gi, .none, .none, 0b000000, 0x0F, 0x0, false, false, .sel⟩
  | .mrow _ => ⟨.vr_d, .accs, .gi, .none, 0b000000, 0x00, 0x0, false, false, .sel⟩
  | .mst _ => ⟨.none, .gr, .accs, .gi, 0b000111, 0x00, 0x0, false, false, .sel⟩
  | .mcnt _ => ⟨.gz, .accs, .gi, .none, 0b000000, 0x00, 0x0, false, false, .sel⟩
  | .mthr _ => ⟨.none, .gi, .none, .none, 0b000000, 0x00, 0x0, false, false, .sel⟩
  | .mwt _ => ⟨.none, .accz, .none, .none, 0b000000, 0x00, 0x0, false, false, .sel⟩
  | .mstat _ => ⟨.gz, .none, .none, .none, 0b000000, 0x00, 0x0, false, false, .sel⟩
  | .eclr _ => ⟨.env, .none, .none, .none, 0b000000, 0x00, 0x0, false, false, .sel⟩
  | .eins _ => ⟨.env, .vz, .vz, .gi, 0b000001, 0x00, 0x0, false, false, .sel⟩
  | .eevl _ => ⟨.vr_d, .envs, .vz, .none, 0b000000, 0x00, 0x0, false, false, .sel⟩
  | .esum _ => ⟨.env, .envs, .envs, .none, 0b000001, 0x00, 0x0, false, false, .sel⟩
  | .emax _ => ⟨.env, .envs, .envs, .none, 0b000001, 0x00, 0x0, false, false, .sel⟩
  | .einf _ => ⟨.env, .envs, .envs, .none, 0b000001, 0x00, 0x0, false, false, .sel⟩
  | .econj _ => ⟨.env, .envs, .none, .none, 0b000001, 0x00, 0x0, false, false, .sel⟩
  | .esimp _ => ⟨.env, .envs, .none, .none, 0b000000, 0x00, 0x0, false, false, .sel⟩
  | .eld _ => ⟨.env, .gr, .none, .none, 0b000000, 0x00, 0x0, false, false, .sel⟩
  | .est _ => ⟨.none, .gr, .envs, .none, 0b000000, 0x00, 0x0, false, false, .sel⟩
  | .eadd _ => ⟨.env, .gi, .gi, .none, 0b000001, 0x00, 0x0, false, false, .sel⟩
  | .ecnt _ => ⟨.gz, .envs, .none, .none, 0b000000, 0x00, 0x0, false, false, .sel⟩
  | .edom _ => ⟨.env, .gi, .gi, .none, 0b000000, 0x00, 0x0, false, false, .sel⟩
  | .edomGet _ => ⟨.gz, .envs, .none, .none, 0b000001, 0x00, 0x0, false, false, .sel⟩
  | .ewt _ => ⟨.none, .envz, .none, .none, 0b000000, 0x00, 0x0, false, false, .sel⟩
  | .ldl _ => ⟨.gz, .gr, .none, .none, 0b000011, 0x7E, 0x0, false, false, .any⟩
  | .stl _ => ⟨.none, .gr, .gi, .none, 0b000011, 0x7E, 0x0, false, false, .any⟩
  | .vldl _ => ⟨.vzd, .gr, .none, .none, 0b000111, 0x7E, 0xF, false, false, .any⟩
  | .vstl _ => ⟨.none, .gr, .vr, .none, 0b000111, 0x7E, 0x0, false, false, .any⟩
  | .vgl _ => ⟨.vzd, .gr, .vr, .none, 0b000111, 0x7E, 0xF, false, false, .any⟩
  | .vsl _ => ⟨.none, .gr, .vr, .vr, 0b000111, 0x7E, 0x0, false, false, .any⟩
  | .ala _ => ⟨.gz, .gr, .gi, .none, 0b000111, 0x7E, 0xF, false, false, .any⟩
  | .alf _ => ⟨.gz, .gr, .gi, .none, 0b000111, 0x7E, 0xF, false, false, .any⟩
  | .stmap _ => ⟨.none, .gr, .gr, .gr, 0b000011, 0x7E, 0x0, false, false, .any⟩
  | .stfl _ => ⟨.none, .none, .none, .none, 0b000011, 0x7E, 0x0, false, false, .sel⟩
  | .stinv _ => ⟨.none, .none, .none, .none, 0b000011, 0x7E, 0x0, false, false, .sel⟩
  | .rres _ => ⟨.gz, .ring, .none, .none, 0b000000, 0x00, 0x0, false, false, .sel⟩
  | .rtake _ => ⟨.gz, .ring, .none, .none, 0b000000, 0x00, 0x0, false, false, .sel⟩
  | .rrel _ => ⟨.none, .ring, .grz, .none, 0b000000, 0x00, 0x0, false, false, .sel⟩
  | .rcfg _ => ⟨.none, .ring, .gr, .gr, 0b000000, 0x00, 0x0, false, false, .sel⟩
  | .rstat _ => ⟨.gz, .ring, .none, .none, 0b000000, 0x00, 0x0, false, false, .sel⟩
  | .ld _ => ⟨.gz, .gr, .none, .none, 0b111011, 0x7F, 0x0, false, false, .any⟩
  | .st _ => ⟨.none, .gr, .gi, .none, 0b111011, 0x7F, 0x0, false, false, .any⟩
  | .vld _ => ⟨.vr_d, .gr, .none, .none, 0b111111, 0x7F, 0xF, false, false, .any⟩
  | .vst _ => ⟨.none, .gr, .vr, .none, 0b111111, 0x7F, 0x0, false, false, .any⟩
  | .vgg _ => ⟨.vr_d, .gr, .vr, .none, 0b111111, 0x7F, 0xF, false, false, .any⟩
  | .vsg _ => ⟨.none, .gr, .vr, .vr, 0b111111, 0x7F, 0x0, false, false, .any⟩
  | .amo _ => ⟨.gz, .gr, .gi, .none, 0b111111, 0x7F, 0xF, false, false, .any⟩
  | .cas _ => ⟨.gz, .gr, .gi, .gi, 0b111111, 0x7F, 0x0, false, false, .any⟩
  | .famo _ => ⟨.gz, .gr, .gi, .none, 0b111111, 0x7F, 0xF, false, false, .any⟩
  | .fset _ => ⟨.none, .gr, .gi, .none, 0b111011, 0x7F, 0x0, false, false, .any⟩
  | .fget _ => ⟨.gz, .gr, .none, .pd, 0b111011, 0x7F, 0x0, false, false, .any⟩
  | .pf _ => ⟨.none, .gr, .none, .none, 0b111000, 0x7E, 0x0, false, false, .any⟩
  | .wb _ => ⟨.none, .gr, .none, .none, 0b111000, 0x7E, 0x0, false, false, .any⟩
  | .inv _ => ⟨.none, .gr, .none, .none, 0b111000, 0x7E, 0x0, false, false, .any⟩
  | .cp _ => ⟨.gz, .cpd, .gr, .gi, 0b111111, 0x7F, 0x1, false, false, .sel⟩
  | .cps _ => ⟨.gz, .cpd, .gr, .gr, 0b111111, 0x7F, 0x1, false, false, .sel⟩
  | .cpw _ => ⟨.gz, .gr, .none, .none, 0b000000, 0x00, 0x0, false, false, .sel⟩
  | .streamSub _ => ⟨.none, .ring, .gr, .none, 0b000000, 0x00, 0x0, false, false, .sel⟩
  | .unsub _ => ⟨.none, .ring, .none, .none, 0b000000, 0x00, 0x0, false, false, .sel⟩
  | .drn _ => ⟨.none, .ring, .gr, .none, 0b000000, 0x00, 0x0, false, false, .sel⟩
  | .cpq _ => ⟨.gz, .gr, .none, .none, 0b000000, 0x00, 0x0, false, false, .sel⟩
  | .msg _ => ⟨.none, .gr, .gr, .none, 0b000001, 0x00, 0x0, false, false, .any⟩
  | .mcst _ => ⟨.vzd, .gr, .gr, .none, 0b111000, 0x00, 0x0, false, false, .any⟩
  | .gopen _ => ⟨.gz, .none, .none, .none, 0b000000, 0x00, 0x0, false, false, .sel⟩
  | .gst _ => ⟨.gr, .gr, .gi, .none, 0b000011, 0x00, 0x0, false, false, .any⟩
  | .gcom _ => ⟨.gz, .gr, .none, .none, 0b000000, 0x00, 0x0, false, false, .sel⟩
  | .gab _ => ⟨.gz, .gr, .none, .none, 0b000000, 0x00, 0x0, false, false, .sel⟩
  | .gstt _ => ⟨.gz, .gr, .none, .none, 0b000000, 0x00, 0x0, false, false, .sel⟩
  | .nop _ => ⟨.none, .none, .none, .none, 0b000000, 0x00, 0x0, false, false, .sel⟩
  | .b _ => ⟨.none, .none, .none, .none, 0b000000, 0x00, 0x0, false, false, .any⟩
  | .ba _ => ⟨.none, .none, .none, .none, 0b000000, 0x00, 0x0, false, false, .any⟩
  | .bl _ => ⟨.gz, .none, .none, .none, 0b000000, 0x00, 0x0, false, false, .any⟩
  | .br _ => ⟨.none, .gr, .none, .none, 0b000000, 0x00, 0x0, false, false, .sel⟩
  | .brl _ => ⟨.gz, .gr, .none, .none, 0b000000, 0x00, 0x0, false, false, .sel⟩
  | .rep _ => ⟨.none, .gi, .none, .none, 0b000000, 0x07, 0x0, false, false, .sel⟩
  | .lpin _ => ⟨.none, .gr, .none, .none, 0b000000, 0x07, 0x0, false, false, .any⟩
  | .lfree _ => ⟨.none, .gr, .none, .none, 0b000000, 0x07, 0x0, false, false, .any⟩
  | .tick _ => ⟨.none, .none, .none, .none, 0b000000, 0x00, 0x0, false, false, .sel⟩
  | .bkpt _ => ⟨.none, .none, .none, .none, 0b000000, 0x00, 0x0, false, false, .sel⟩
  | .fence _ => ⟨.none, .none, .none, .none, 0b111111, 0x00, 0x0, false, false, .sel⟩
  | .bar _ => ⟨.none, .none, .none, .none, 0b111000, 0x00, 0x0, false, false, .sel⟩
  | .mon _ => ⟨.none, .gr, .none, .none, 0b000000, 0x00, 0x0, false, false, .any⟩
  | .mwait _ => ⟨.none, .none, .none, .none, 0b000000, 0x00, 0x0, false, false, .sel⟩
  | .sopen _ => ⟨.gz, .none, .none, .none, 0b111001, 0x00, 0x0, false, false, .sel⟩
  | .sclose _ => ⟨.gz, .gh, .none, .gz, 0b000000, 0x00, 0x0, false, false, .sel⟩
  | .scnl _ => ⟨.none, .gh, .none, .none, 0b000000, 0x00, 0x0, false, false, .sel⟩
  | .sshd _ => ⟨.none, .none, .none, .none, 0b000000, 0x00, 0x0, false, false, .sel⟩
  | .sunsh _ => ⟨.none, .none, .none, .none, 0b000000, 0x00, 0x0, false, false, .sel⟩
  | .claim _ => ⟨.pd, .gh, .gi, .none, 0b000000, 0x00, 0x0, false, false, .sel⟩
  | .spawn _ => ⟨.gz, .gr, .none, .none, 0b000000, 0x00, 0x0, false, false, .any⟩
  | .spwg _ => ⟨.gz, .gr, .none, .none, 0b000000, 0x00, 0x0, false, false, .any⟩
  | .start _ => ⟨.pd, .gr, .gi, .none, 0b000001, 0x00, 0x0, false, false, .sel⟩
  | .exit _ => ⟨.none, .none, .none, .none, 0b000000, 0x00, 0x0, false, false, .sel⟩
  | .yield _ => ⟨.none, .none, .none, .none, 0b000000, 0x00, 0x0, false, false, .sel⟩
  | .poll _ => ⟨.pd, .none, .none, .none, 0b000000, 0x00, 0x0, false, false, .sel⟩
  | .tgnode _ => ⟨.pd, .gr, .none, .none, 0b000000, 0x00, 0x0, false, false, .any⟩
  | .tgdec _ => ⟨.pd, .gr, .none, .none, 0b000000, 0x00, 0x0, false, false, .any⟩
  | .sinfo _ => ⟨.gz, .gh, .gi, .none, 0b000000, 0x00, 0x0, false, false, .sel⟩
  | .trap _ => ⟨.none, .gr, .none, .none, 0b000000, 0x00, 0x0, false, false, .mask 0xFF⟩
  | .kill _ => ⟨.none, .gr, .none, .none, 0b000000, 0x00, 0x0, false, false, .mask 0xFF⟩
  | .killDom _ => ⟨.none, .zero, .gr, .none, 0b000001, 0x00, 0x0, false, false, .mask 0xFF⟩
  | .prmt _ => ⟨.none, .gr, .none, .none, 0b000000, 0x00, 0x0, false, false, .sel⟩
  | .resm _ => ⟨.none, .gr, .none, .none, 0b000001, 0x00, 0x0, false, false, .sel⟩
  | .plbw _ => ⟨.none, .grz, .gr, .gr, 0b000000, 0x00, 0x0, false, false, .mask 0x3F⟩
  | .plbi _ => ⟨.none, .grz, .none, .none, 0b000000, 0x00, 0x0, false, false, .mask 0x3F⟩
  | .plbiDom _ => ⟨.none, .grz, .gr, .none, 0b000001, 0x00, 0x0, false, false, .sel⟩
  | .xlti _ => ⟨.none, .gr, .gr, .none, 0b111000, 0x00, 0x0, false, false, .sel⟩
  | .pgok _ => ⟨.none, .gr, .none, .none, 0b000000, 0x00, 0x0, false, false, .sel⟩
  | .wpt _ => ⟨.none, .gr, .gr, .none, 0b000000, 0x00, 0x0, false, false, .mask 0x3⟩
  | .auds _ => ⟨.none, .grz, .gr, .none, 0b000000, 0x00, 0x0, false, false, .sel⟩
  | .divideLand _ => ⟨.none, .none, .none, .none, 0, 0, 0, false, false, .sel⟩
  | .matrixCommandRun _ => ⟨.none, .none, .none, .none, 0, 0, 0, false, false, .sel⟩
  | .macroOpBlock _ => ⟨.none, .none, .none, .none, 0, 0, 0, false, false, .sel⟩
  | .envelopeCommandRun _ => ⟨.none, .none, .none, .none, 0, 0, 0, false, false, .sel⟩
  | .ringReservationServed _ _ => ⟨.none, .none, .none, .none, 0, 0, 0, false, false, .sel⟩
  | .ringTakeServed _ _ => ⟨.none, .none, .none, .none, 0, 0, 0, false, false, .sel⟩
  | .globalAccessLand _ => ⟨.none, .none, .none, .none, 0, 0, 0, false, false, .sel⟩
  | .sliceAccess _ => ⟨.none, .none, .none, .none, 0, 0, 0, false, false, .sel⟩
  | .victimChoice _ _ _ => ⟨.none, .none, .none, .none, 0, 0, 0, false, false, .sel⟩
  | .trustShiftUpdate _ => ⟨.none, .none, .none, .none, 0, 0, 0, false, false, .sel⟩
  | .sweepVisit _ _ _ => ⟨.none, .none, .none, .none, 0, 0, 0, false, false, .sel⟩
  | .homeAccess _ _ => ⟨.none, .none, .none, .none, 0, 0, 0, false, false, .sel⟩
  | .storePerformed _ _ => ⟨.none, .none, .none, .none, 0, 0, 0, false, false, .sel⟩
  | .forcedPublish _ => ⟨.none, .none, .none, .none, 0, 0, 0, false, false, .sel⟩
  | .atomicAtHome _ => ⟨.none, .none, .none, .none, 0, 0, 0, false, false, .sel⟩
  | .fsetAtHome _ => ⟨.none, .none, .none, .none, 0, 0, 0, false, false, .sel⟩
  | .fgetAtHome _ => ⟨.none, .none, .none, .none, 0, 0, 0, false, false, .sel⟩
  | .stashRecall _ _ _ _ => ⟨.none, .none, .none, .none, 0, 0, 0, false, false, .sel⟩
  | .remoteAccess _ => ⟨.none, .none, .none, .none, 0, 0, 0, false, false, .sel⟩
  | .windowNack _ => ⟨.none, .none, .none, .none, 0, 0, 0, false, false, .sel⟩
  | .peerAccessTimeout _ => ⟨.none, .none, .none, .none, 0, 0, 0, false, false, .sel⟩
  | .wbTimeout _ => ⟨.none, .none, .none, .none, 0, 0, 0, false, false, .sel⟩
  | .asyncFaultRecord _ => ⟨.none, .none, .none, .none, 0, 0, 0, false, false, .sel⟩
  | .poisonConsumed _ => ⟨.none, .none, .none, .none, 0, 0, 0, false, false, .sel⟩
  | .copyChunkStart _ => ⟨.none, .none, .none, .none, 0, 0, 0, false, false, .sel⟩
  | .copyChunkEnd _ _ => ⟨.none, .none, .none, .none, 0, 0, 0, false, false, .sel⟩
  | .copySlotReserve _ => ⟨.none, .none, .none, .none, 0, 0, 0, false, false, .sel⟩
  | .copyFinish _ => ⟨.none, .none, .none, .none, 0, 0, 0, false, false, .sel⟩
  | .streamTileWrite _ => ⟨.none, .none, .none, .none, 0, 0, 0, false, false, .sel⟩
  | .drainTile _ => ⟨.none, .none, .none, .none, 0, 0, 0, false, false, .sel⟩
  | .drainSlotEmpty _ => ⟨.none, .none, .none, .none, 0, 0, 0, false, false, .sel⟩
  | .streamDetach _ => ⟨.none, .none, .none, .none, 0, 0, 0, false, false, .sel⟩
  | .streamError _ _ => ⟨.none, .none, .none, .none, 0, 0, 0, false, false, .sel⟩
  | .messageDelivery _ => ⟨.none, .none, .none, .none, 0, 0, 0, false, false, .sel⟩
  | .spillReplay _ => ⟨.none, .none, .none, .none, 0, 0, 0, false, false, .sel⟩
  | .messageResend _ => ⟨.none, .none, .none, .none, 0, 0, 0, false, false, .sel⟩
  | .messageTimeout _ => ⟨.none, .none, .none, .none, 0, 0, 0, false, false, .sel⟩
  | .multicastMemberWrite _ _ => ⟨.none, .none, .none, .none, 0, 0, 0, false, false, .sel⟩
  | .multicastReply _ => ⟨.none, .none, .none, .none, 0, 0, 0, false, false, .sel⟩
  | .gstStage _ => ⟨.none, .none, .none, .none, 0, 0, 0, false, false, .sel⟩
  | .groupJoin _ => ⟨.none, .none, .none, .none, 0, 0, 0, false, false, .sel⟩
  | .groupReasonReport _ _ _ => ⟨.none, .none, .none, .none, 0, 0, 0, false, false, .sel⟩
  | .groupPrepare _ => ⟨.none, .none, .none, .none, 0, 0, 0, false, false, .sel⟩
  | .participantPrepare _ _ => ⟨.none, .none, .none, .none, 0, 0, 0, false, false, .sel⟩
  | .groupVote _ _ _ _ => ⟨.none, .none, .none, .none, 0, 0, 0, false, false, .sel⟩
  | .tVoteExpiry _ => ⟨.none, .none, .none, .none, 0, 0, 0, false, false, .sel⟩
  | .groupPublish _ _ => ⟨.none, .none, .none, .none, 0, 0, 0, false, false, .sel⟩
  | .groupAbort _ _ => ⟨.none, .none, .none, .none, 0, 0, 0, false, false, .sel⟩
  | .groupConfirm _ _ => ⟨.none, .none, .none, .none, 0, 0, 0, false, false, .sel⟩
  | .tCommitExpiry _ => ⟨.none, .none, .none, .none, 0, 0, 0, false, false, .sel⟩
  | .participantQuery _ _ => ⟨.none, .none, .none, .none, 0, 0, 0, false, false, .sel⟩
  | .queryAnswer _ _ _ => ⟨.none, .none, .none, .none, 0, 0, 0, false, false, .sel⟩
  | .resolveTimeout _ _ => ⟨.none, .none, .none, .none, 0, 0, 0, false, false, .sel⟩
  | .joinTimeout _ _ => ⟨.none, .none, .none, .none, 0, 0, 0, false, false, .sel⟩
  | .failureNotice _ _ => ⟨.none, .none, .none, .none, 0, 0, 0, false, false, .sel⟩
  | .peerSilenceTimeout _ _ _ => ⟨.none, .none, .none, .none, 0, 0, 0, false, false, .sel⟩
  | .finalStateExpiry _ _ => ⟨.none, .none, .none, .none, 0, 0, 0, false, false, .sel⟩
  | .writePacketArrival _ => ⟨.none, .none, .none, .none, 0, 0, 0, false, false, .sel⟩
  | .flitCrcReplay _ _ => ⟨.none, .none, .none, .none, 0, 0, 0, false, false, .sel⟩
  | .laneRetrain _ _ _ => ⟨.none, .none, .none, .none, 0, 0, 0, false, false, .sel⟩
  | .authenticationFailure _ => ⟨.none, .none, .none, .none, 0, 0, 0, false, false, .sel⟩
  | .routerCycle _ _ _ => ⟨.none, .none, .none, .none, 0, 0, 0, false, false, .sel⟩
  | .annulledPacket _ => ⟨.none, .none, .none, .none, 0, 0, 0, false, false, .sel⟩
  | .emptyPacket _ => ⟨.none, .none, .none, .none, 0, 0, 0, false, false, .sel⟩
  | .sequentialResolve _ => ⟨.none, .none, .none, .none, 0, 0, 0, false, false, .sel⟩
  | .fenceAbandon _ _ => ⟨.none, .none, .none, .none, 0, 0, 0, false, false, .sel⟩
  | .mwaitTimeout _ => ⟨.none, .none, .none, .none, 0, 0, 0, false, false, .sel⟩
  | .monitorLost _ => ⟨.none, .none, .none, .none, 0, 0, 0, false, false, .sel⟩
  | .hubSpokeReturn _ _ _ => ⟨.none, .none, .none, .none, 0, 0, 0, false, false, .sel⟩
  | .borrow _ _ => ⟨.none, .none, .none, .none, 0, 0, 0, false, false, .sel⟩
  | .hubBrake _ => ⟨.none, .none, .none, .none, 0, 0, 0, false, false, .sel⟩
  | .claimAtHub _ => ⟨.none, .none, .none, .none, 0, 0, 0, false, false, .sel⟩
  | .replayRestore _ => ⟨.none, .none, .none, .none, 0, 0, 0, false, false, .sel⟩
  | .replayContain _ => ⟨.none, .none, .none, .none, 0, 0, 0, false, false, .sel⟩
  | .undoLogWrite _ _ => ⟨.none, .none, .none, .none, 0, 0, 0, false, false, .sel⟩
  | .nodeDecrement _ => ⟨.none, .none, .none, .none, 0, 0, 0, false, false, .sel⟩
  | .nodeFire _ => ⟨.none, .none, .none, .none, 0, 0, 0, false, false, .sel⟩
  | .launchPacketWrite _ _ _ _ => ⟨.none, .none, .none, .none, 0, 0, 0, false, false, .sel⟩
  | .launchTake _ _ _ => ⟨.none, .none, .none, .none, 0, 0, 0, false, false, .sel⟩
  | .dispatch _ => ⟨.none, .none, .none, .none, 0, 0, 0, false, false, .sel⟩
  | .footprintFillDone _ => ⟨.none, .none, .none, .none, 0, 0, 0, false, false, .sel⟩
  | .priorityAging _ => ⟨.none, .none, .none, .none, 0, 0, 0, false, false, .sel⟩
  | .preemptTrigger _ => ⟨.none, .none, .none, .none, 0, 0, 0, false, false, .sel⟩
  | .preemptAck _ _ => ⟨.none, .none, .none, .none, 0, 0, 0, false, false, .sel⟩
  | .frameSwap _ => ⟨.none, .none, .none, .none, 0, 0, 0, false, false, .sel⟩
  | .frameBackgroundWrite _ _ => ⟨.none, .none, .none, .none, 0, 0, 0, false, false, .sel⟩
  | .taskPark _ => ⟨.none, .none, .none, .none, 0, 0, 0, false, false, .sel⟩
  | .translationWalk _ _ => ⟨.none, .none, .none, .none, 0, 0, 0, false, false, .sel⟩
  | .pgokRewalk _ => ⟨.none, .none, .none, .none, 0, 0, 0, false, false, .sel⟩
  | .killFlood _ _ => ⟨.none, .none, .none, .none, 0, 0, 0, false, false, .sel⟩
  | .killSweepExpiry _ _ => ⟨.none, .none, .none, .none, 0, 0, 0, false, false, .sel⟩
  | .faultEventDeliver _ => ⟨.none, .none, .none, .none, 0, 0, 0, false, false, .sel⟩
  | .debugWindowWrite _ => ⟨.none, .none, .none, .none, 0, 0, 0, false, false, .sel⟩
  | .auditReplay _ => ⟨.none, .none, .none, .none, 0, 0, 0, false, false, .sel⟩
  | .auditClr _ => ⟨.none, .none, .none, .none, 0, 0, 0, false, false, .sel⟩
  | .eccrClr _ => ⟨.none, .none, .none, .none, 0, 0, 0, false, false, .sel⟩
  | .eccrStrong _ _ => ⟨.none, .none, .none, .none, 0, 0, 0, false, false, .sel⟩
  | .reencodeDone _ => ⟨.none, .none, .none, .none, 0, 0, 0, false, false, .sel⟩
  | .l2RowSpare _ _ => ⟨.none, .none, .none, .none, 0, 0, 0, false, false, .sel⟩
  | .remapGo _ _ => ⟨.none, .none, .none, .none, 0, 0, 0, false, false, .sel⟩
  | .remapSup _ _ => ⟨.none, .none, .none, .none, 0, 0, 0, false, false, .sel⟩
  | .sctlSncz _ => ⟨.none, .none, .none, .none, 0, 0, 0, false, false, .sel⟩
  | .sctlLtz _ => ⟨.none, .none, .none, .none, 0, 0, 0, false, false, .sel⟩
  | .fstatFailedClear _ => ⟨.none, .none, .none, .none, 0, 0, 0, false, false, .sel⟩
  | .groupTableWrite _ _ _ => ⟨.none, .none, .none, .none, 0, 0, 0, false, false, .sel⟩
  | .registerWrite _ _ => ⟨.none, .none, .none, .none, 0, 0, 0, false, false, .sel⟩
  | .hostCxlMemAccess _ _ _ => ⟨.none, .none, .none, .none, 0, 0, 0, false, false, .sel⟩
  | .powerUp _ => ⟨.none, .none, .none, .none, 0, 0, 0, false, false, .sel⟩
  | .pkgidWrite _ _ => ⟨.none, .none, .none, .none, 0, 0, 0, false, false, .sel⟩
  | .fwgo _ _ => ⟨.none, .none, .none, .none, 0, 0, 0, false, false, .sel⟩
  | .firmwareFetchDone _ _ _ => ⟨.none, .none, .none, .none, 0, 0, 0, false, false, .sel⟩
  | .discoveryPacket _ _ _ _ => ⟨.none, .none, .none, .none, 0, 0, 0, false, false, .sel⟩
  | .discoveryReport _ _ _ _ => ⟨.none, .none, .none, .none, 0, 0, 0, false, false, .sel⟩
  | .discoveryTimeout _ _ => ⟨.none, .none, .none, .none, 0, 0, 0, false, false, .sel⟩
  | .roleAssignment _ _ => ⟨.none, .none, .none, .none, 0, 0, 0, false, false, .sel⟩
  | .imageMulticastAck _ _ _ => ⟨.none, .none, .none, .none, 0, 0, 0, false, false, .sel⟩
  | .dieBootDone _ _ => ⟨.none, .none, .none, .none, 0, 0, 0, false, false, .sel⟩
  | .pwrlimWrite _ _ => ⟨.none, .none, .none, .none, 0, 0, 0, false, false, .sel⟩
  | .powerThrottle _ _ _ _ => ⟨.none, .none, .none, .none, 0, 0, 0, false, false, .sel⟩
  | .attgo _ _ => ⟨.none, .none, .none, .none, 0, 0, 0, false, false, .sel⟩
  | .attestDone _ => ⟨.none, .none, .none, .none, 0, 0, 0, false, false, .sel⟩
  | .peerRestore _ _ => ⟨.none, .none, .none, .none, 0, 0, 0, false, false, .sel⟩
  | .slotPowerLoss _ => ⟨.none, .none, .none, .none, 0, 0, 0, false, false, .sel⟩
  | .expanderTimeout _ => ⟨.none, .none, .none, .none, 0, 0, 0, false, false, .sel⟩
  | .gsttTimeout _ => ⟨.none, .none, .none, .none, 0, 0, 0, false, false, .sel⟩
  | .multicastMemberTimeout _ _ => ⟨.none, .none, .none, .none, 0, 0, 0, false, false, .sel⟩
  | .cxlCacheHostSnoop _ _ _ => ⟨.none, .none, .none, .none, 0, 0, 0, false, false, .sel⟩

/-- What an entry asks of its own fields beyond the shape (sizes, tags, operators, conditions, causes). -/
def Instr.entryOk : Instr → Bool
  | .add _ => true
  | .sub _ => true
  | .mul _ => true
  | .mulh _ => true
  | .mulhu _ => true
  | .div _ => true
  | .divu _ => true
  | .rem _ => true
  | .remu _ => true
  | .and _ => true
  | .or _ => true
  | .xor _ => true
  | .andn _ => true
  | .shl _ => true
  | .shr _ => true
  | .sra _ => true
  | .rol _ => true
  | .min _ => true
  | .minu _ => true
  | .max _ => true
  | .maxu _ => true
  | .sel _ => true
  | .mov _ => true
  | .movh _ => true
  | .lea _ => true
  | .ext _ => true
  | .extu _ => true
  | .ins _ => true
  | .sext _ => true
  | .zext _ => true
  | .clz _ => true
  | .ctz _ => true
  | .ffs _ => true
  | .popc _ => true
  | .bswap _ => true
  | .brev _ => true
  | .cmp f => f.cc < 6
  | .cmpf _ => true
  | .fadd _ => true
  | .fmul _ => true
  | .ffma _ => true
  | .fmin _ => true
  | .fmax _ => true
  | .fcvt f => !f.modInf || f.cvtTo == 0
  | .pset _ => true
  | .mrd f => sprListed f.sprNum
  | .mwr f => sprWritable f.sprNum
  | .rdtime _ => true
  | .vadd _ => true
  | .vsub _ => true
  | .vmul _ => true
  | .vfma _ => true
  | .vfms _ => true
  | .vfnma _ => true
  | .vmin _ => true
  | .vmax _ => true
  | .vabs _ => true
  | .vneg _ => true
  | .vand _ => true
  | .vor _ => true
  | .vxor _ => true
  | .vandn _ => true
  | .vshl _ => true
  | .vshr _ => true
  | .vsra _ => true
  | .vmulh _ => true
  | .vavg _ => true
  | .vabd _ => true
  | .vcmp _ => true
  | .vsel _ => true
  | .vmov _ => true
  | .vbc f => f.xTag != .raw
  | .vget _ => true
  | .vset _ => true
  | .vperm _ => true
  | .vcomp _ => true
  | .vexpd _ => true
  | .vred f => f.cc < 6
  | .vscan f => f.cc < 6
  | .vdot4 _ => true
  | .vclz _ => true
  | .vpopc _ => true
  | .vffs _ => true
  | .vexp2 _ => true
  | .vlog2 _ => true
  | .vrcp _ => true
  | .vrsq _ => true
  | .vsin _ => true
  | .vcos _ => true
  | .vtanh _ => true
  | .vcvt f => f.xTag != .raw
  | .vtag _ => true
  | .vqnt f => isBlockTag f.xTag
  | .vdqt f => isWideTag f.xTag
  | .vbmax f => isBlockTag f.xTag
  | .vsat f => f.xTag != .raw
  | .mzero f => f.xTag == .f32 || f.xTag == .i32
  | .mlda f => f.xTag.code ≤ 12
  | .mldb f => f.xTag.code ≤ 12
  | .mgat f => f.xTag.code ≤ 12
  | .mmul _ => true
  | .mmuls _ => true
  | .mcom _ => true
  | .mdis _ => true
  | .mscq _ => true
  | .mfin f => 1 ≤ f.xTag.code && f.xTag.code ≤ 14
  | .mrow _ => true
  | .mst _ => true
  | .mcnt _ => true
  | .mthr _ => true
  | .mwt _ => true
  | .mstat _ => true
  | .eclr _ => true
  | .eins _ => true
  | .eevl _ => true
  | .esum _ => true
  | .emax _ => true
  | .einf _ => true
  | .econj _ => true
  | .esimp _ => true
  | .eld _ => true
  | .est _ => true
  | .eadd _ => true
  | .ecnt _ => true
  | .edom f => !f.mod0
  | .edomGet f => f.mod0
  | .ewt _ => true
  | .ldl _ => true
  | .stl _ => true
  | .vldl f => f.szCode == 6 || (f.szCode == 7 && (f.extTag == .t6 || f.extTag == .f6))
  | .vstl f => 6 ≤ f.szCode
  | .vgl f => f.szCode == 6
  | .vsl f => f.szCode == 6
  | .ala f => (f.szCode == 2 || f.szCode == 3) && f.extCode ≤ 8
  | .alf f => (f.szCode == 2 && f.extCode == 10) || (f.szCode == 1 && (f.extCode == 8 || f.extCode == 9))
  | .stmap _ => true
  | .stfl _ => true
  | .stinv _ => true
  | .rres _ => true
  | .rtake _ => true
  | .rrel _ => true
  | .rcfg _ => true
  | .rstat _ => true
  | .ld f => f.reachOk
  | .st f => f.reachOk
  | .vld f => f.reachOk && (f.szCode == 6 || (f.szCode == 7 && (f.extTag == .t6 || f.extTag == .f6)))
  | .vst f => f.reachOk && 6 ≤ f.szCode
  | .vgg f => f.reachOk && f.szCode == 6
  | .vsg f => f.reachOk && f.szCode == 6
  | .amo f => f.reachOk && (f.szCode == 2 || f.szCode == 3) && f.extCode ≤ 8
  | .cas f => f.reachOk && (f.szCode == 2 || f.szCode == 3)
  | .famo f => f.reachOk && ((f.szCode == 2 && f.extCode == 10) || (f.szCode == 1 && (f.extCode == 8 || f.extCode == 9)))
  | .fset f => f.reachOk && f.szCode == 3
  | .fget f => f.reachOk && f.szCode == 3
  | .pf f => f.reachOk
  | .wb f => f.reachOk
  | .inv f => f.reachOk
  | .cp f => f.reachOk
  | .cps f => f.reachOk
  | .cpw _ => true
  | .streamSub _ => true
  | .unsub _ => true
  | .drn _ => true
  | .cpq _ => true
  | .msg _ => true
  | .mcst f => f.reachOk
  | .gopen _ => true
  | .gst _ => true
  | .gcom _ => true
  | .gab _ => true
  | .gstt _ => true
  | .nop _ => true
  | .b f => f.targetPos ≤ 4
  | .ba f => f.targetPos ≤ 4
  | .bl f => f.targetPos ≤ 4
  | .br _ => true
  | .brl _ => true
  | .rep _ => true
  | .lpin _ => true
  | .lfree _ => true
  | .tick _ => true
  | .bkpt _ => true
  | .fence f => f.reachOk && f.mod &&& 7 != 0
  | .bar f => f.reachOk
  | .mon _ => true
  | .mwait _ => true
  | .sopen f => f.reachOk && (!f.mod0 || f.reachCode ≤ 2)
  | .sclose _ => true
  | .scnl _ => true
  | .sshd _ => true
  | .sunsh _ => true
  | .claim _ => true
  | .spawn _ => true
  | .spwg _ => true
  | .start _ => true
  | .exit _ => true
  | .yield _ => true
  | .poll _ => true
  | .tgnode _ => true
  | .tgdec _ => true
  | .sinfo _ => true
  | .trap f => 1 ≤ f.imm.toNat && f.imm.toNat ≤ 0x17
  | .kill f => 1 ≤ f.imm.toNat && f.imm.toNat ≤ 0x17
  | .killDom f => f.mod0 && 1 ≤ f.imm.toNat && f.imm.toNat ≤ 0x17
  | .prmt _ => true
  | .resm _ => true
  | .plbw _ => true
  | .plbi f => !f.mod0
  | .plbiDom f => f.mod0
  | .xlti f => f.reachCode == 3 || f.reachCode == 4
  | .pgok _ => true
  | .wpt _ => true
  | .auds _ => true
  | .divideLand _ => false
  | .matrixCommandRun _ => false
  | .macroOpBlock _ => false
  | .envelopeCommandRun _ => false
  | .ringReservationServed _ _ => false
  | .ringTakeServed _ _ => false
  | .globalAccessLand _ => false
  | .sliceAccess _ => false
  | .victimChoice _ _ _ => false
  | .trustShiftUpdate _ => false
  | .sweepVisit _ _ _ => false
  | .homeAccess _ _ => false
  | .storePerformed _ _ => false
  | .forcedPublish _ => false
  | .atomicAtHome _ => false
  | .fsetAtHome _ => false
  | .fgetAtHome _ => false
  | .stashRecall _ _ _ _ => false
  | .remoteAccess _ => false
  | .windowNack _ => false
  | .peerAccessTimeout _ => false
  | .wbTimeout _ => false
  | .asyncFaultRecord _ => false
  | .poisonConsumed _ => false
  | .copyChunkStart _ => false
  | .copyChunkEnd _ _ => false
  | .copySlotReserve _ => false
  | .copyFinish _ => false
  | .streamTileWrite _ => false
  | .drainTile _ => false
  | .drainSlotEmpty _ => false
  | .streamDetach _ => false
  | .streamError _ _ => false
  | .messageDelivery _ => false
  | .spillReplay _ => false
  | .messageResend _ => false
  | .messageTimeout _ => false
  | .multicastMemberWrite _ _ => false
  | .multicastReply _ => false
  | .gstStage _ => false
  | .groupJoin _ => false
  | .groupReasonReport _ _ _ => false
  | .groupPrepare _ => false
  | .participantPrepare _ _ => false
  | .groupVote _ _ _ _ => false
  | .tVoteExpiry _ => false
  | .groupPublish _ _ => false
  | .groupAbort _ _ => false
  | .groupConfirm _ _ => false
  | .tCommitExpiry _ => false
  | .participantQuery _ _ => false
  | .queryAnswer _ _ _ => false
  | .resolveTimeout _ _ => false
  | .joinTimeout _ _ => false
  | .failureNotice _ _ => false
  | .peerSilenceTimeout _ _ _ => false
  | .finalStateExpiry _ _ => false
  | .writePacketArrival _ => false
  | .flitCrcReplay _ _ => false
  | .laneRetrain _ _ _ => false
  | .authenticationFailure _ => false
  | .routerCycle _ _ _ => false
  | .annulledPacket _ => false
  | .emptyPacket _ => false
  | .sequentialResolve _ => false
  | .fenceAbandon _ _ => false
  | .mwaitTimeout _ => false
  | .monitorLost _ => false
  | .hubSpokeReturn _ _ _ => false
  | .borrow _ _ => false
  | .hubBrake _ => false
  | .claimAtHub _ => false
  | .replayRestore _ => false
  | .replayContain _ => false
  | .undoLogWrite _ _ => false
  | .nodeDecrement _ => false
  | .nodeFire _ => false
  | .launchPacketWrite _ _ _ _ => false
  | .launchTake _ _ _ => false
  | .dispatch _ => false
  | .footprintFillDone _ => false
  | .priorityAging _ => false
  | .preemptTrigger _ => false
  | .preemptAck _ _ => false
  | .frameSwap _ => false
  | .frameBackgroundWrite _ _ => false
  | .taskPark _ => false
  | .translationWalk _ _ => false
  | .pgokRewalk _ => false
  | .killFlood _ _ => false
  | .killSweepExpiry _ _ => false
  | .faultEventDeliver _ => false
  | .debugWindowWrite _ => false
  | .auditReplay _ => false
  | .auditClr _ => false
  | .eccrClr _ => false
  | .eccrStrong _ _ => false
  | .reencodeDone _ => false
  | .l2RowSpare _ _ => false
  | .remapGo _ _ => false
  | .remapSup _ _ => false
  | .sctlSncz _ => false
  | .sctlLtz _ => false
  | .fstatFailedClear _ => false
  | .groupTableWrite _ _ _ => false
  | .registerWrite _ _ => false
  | .hostCxlMemAccess _ _ _ => false
  | .powerUp _ => false
  | .pkgidWrite _ _ => false
  | .fwgo _ _ => false
  | .firmwareFetchDone _ _ _ => false
  | .discoveryPacket _ _ _ _ => false
  | .discoveryReport _ _ _ _ => false
  | .discoveryTimeout _ _ => false
  | .roleAssignment _ _ => false
  | .imageMulticastAck _ _ _ => false
  | .dieBootDone _ _ => false
  | .pwrlimWrite _ _ => false
  | .powerThrottle _ _ _ _ => false
  | .attgo _ _ => false
  | .attestDone _ => false
  | .peerRestore _ _ => false
  | .slotPowerLoss _ => false
  | .expanderTimeout _ => false
  | .gsttTimeout _ => false
  | .multicastMemberTimeout _ _ => false
  | .cxlCacheHostSnoop _ _ _ => false

end Sys2Proof
end

