-- ==== Sys2Proof/WellFormed.lean ====
section
/-! DEFINITION. The well-formed instructions: every field holds what the entry assigns it, and every other field is zero
(02 R31-R38, R47). -/

namespace Sys2Proof

/-- A selector that its entry accepts (02 R31-R33, R47 and the entries' field tables). -/
def SelKind.accepts (k : SelKind) (ls rg : Bool) : Sel → Bool
  | .reg n => match k with
    | .none => n == 0
    | .zero => false
    | .gls => ls || n == 0
    | .pd | .ps => n.toNat ≤ 7
    | .acc | .accs | .accz => n.toNat ≤ 3
    | .env | .envs | .envz | .ring => n.toNat ≤ 7
    | .cpd => !rg || n.toNat ≤ 7
    | _ => true
  | .link _ => match k with
    | .gd | .gs | .vd | .vs | .vl | .vlz => true
    | _ => false
  | .zero => match k with
    | .gd | .gz | .gs | .gi | .grz | .gh | .zero | .pd | .ps | .vd | .vzd | .vrw | .vs | .vlz | .vz | .accz | .envz => true
    | _ => false
  | .imm => match k with
    | .gs | .gi | .vs => true
    | _ => false

/-- A selector that can carry a lane pattern: a v register or a vector link (02 R35). -/
def Sel.isVector : Sel → Bool
  | .reg _ | .link _ => true
  | _ => false

/-- A lane pattern with an assigned kind and parameter (02 R35). -/
def patternOk (p : BitVec 6) : Bool :=
  match p.toNat / 8 with
  | 0 | 2 => p.toNat % 8 == 0
  | 1 | 3 | 4 => true
  | _ => false

/-- The fields keep to the shape of their entry (02 R31-R36, R47). -/
def Shape.ok (s : Shape) (f : Fields) : Bool :=
  let ls := f.modU
  let rg := f.rg
  s.d.accepts ls rg f.d && s.a.accepts ls rg f.a && s.b.accepts ls rg f.b && s.c.accepts ls rg f.c
    && f.mod &&& ~~~ s.modMask == 0 && f.x &&& ~~~ s.xMask == 0
    && (f.la == 0 || (s.patA && f.a.isVector && patternOk f.la))
    && (if s.patB then f.lb == 0 || (f.b.isVector && patternOk f.lb) else f.lb &&& ~~~ s.extMask == 0)
    && (match s.imm with
        | .any => true
        | .mask m => f.imm &&& ~~~ m == 0
        | .sel => f.imm == 0 || f.a == .imm || f.b == .imm || f.c == .imm)

/-- The guard 0b1000 would never take effect and is unassigned (02 R30). -/
def Guard.ok (g : Guard) : Bool := !(g.neg && g.p == 0)

/-- A well-formed instruction word. A step of the device has no word and is not well formed in this sense. -/
def Instr.wellFormed (i : Instr) : Bool :=
  match i.fields with
  | some f => f.guard.ok && i.shape.ok f && i.entryOk
  | none => false

end Sys2Proof
end

