-- ==== Sys2Proof/Decode.lean ====
section
/-! DEFINITION. From instruction words to instructions and back (02 R19, R29-R47). Every word that is not an instruction
is rejected by name; each rejection is the fate ILLEGAL of 02 R47. -/

namespace Sys2Proof

/-- Why a word is no instruction (02 R47). -/
inductive Reject where
  /-- CL = 101, 110 or 111 -/
  | unassignedClass (cl : Nat)
  /-- an OP value missing from the map of its class -/
  | unassignedOpcode (cl op : Nat)
  /-- GD = 0b1000 -/
  | guardNever
  /-- a selector 38-63 -/
  | unassignedSelector (value : Nat)
  /-- a field, bit or operand that the entry does not assign -/
  | unassignedField
  /-- fewer than twelve bytes -/
  | tooShort (n : Nat)
  deriving DecidableEq, Repr

/-- The selector of a six-bit code (02 R31). -/
def decodeSel (n : Nat) : Except Reject Sel :=
  if n < 32 then .ok (.reg (BitVec.ofNat 5 n))
  else if n < 36 then .ok (.link (dirOfCode n))
  else if n = 36 then .ok .zero
  else if n = 37 then .ok .imm
  else .error (.unassignedSelector n)

/-- The six-bit code of a selector (02 R31). -/
def encodeSel : Sel → Nat
  | .reg n => n.toNat
  | .link d => 32 + d.code
  | .zero => 36
  | .imm => 37

/-- The fields of a word (02 R29). -/
def decodeFields (w : W96) : Except Reject Fields := do
  let d ← decodeSel (bitsOf w 80 75)
  let a ← decodeSel (bitsOf w 74 69)
  let b ← decodeSel (bitsOf w 68 63)
  let c ← decodeSel (bitsOf w 62 57)
  .ok { guard := ⟨bitAt w 84, BitVec.ofNat 3 (bitsOf w 83 81)⟩, d := d, a := a, b := b, c := c
        mod := BitVec.ofNat 6 (bitsOf w 56 51), la := BitVec.ofNat 6 (bitsOf w 50 45)
        lb := BitVec.ofNat 6 (bitsOf w 44 39), x := BitVec.ofNat 7 (bitsOf w 38 32)
        imm := BitVec.ofNat 32 (bitsOf w 31 0) }

/-- The word of a class, an opcode and fields (02 R29). -/
def encodeFields (k : OpKey) (f : Fields) : W96 :=
  BitVec.ofNat 96
    (k.cl <<< 93 + k.op <<< 85 + f.guard.neg.toNat <<< 84 + f.guard.p.toNat <<< 81 + encodeSel f.d <<< 75
      + encodeSel f.a <<< 69 + encodeSel f.b <<< 63 + encodeSel f.c <<< 57 + f.mod.toNat <<< 51 + f.la.toNat <<< 45
      + f.lb.toNat <<< 39 + f.x.toNat <<< 32 + f.imm.toNat)

/-- The opcode map of class S (02 R42). -/
def opcodeS (op : Nat) (f : Fields) : Option Instr :=
  match op with
  | 0x00 => some (.add f)
  | 0x01 => some (.sub f)
  | 0x02 => some (.mul f)
  | 0x03 => some (.mulh f)
  | 0x04 => some (.mulhu f)
  | 0x05 => some (.div f)
  | 0x06 => some (.divu f)
  | 0x07 => some (.rem f)
  | 0x08 => some (.remu f)
  | 0x09 => some (.and f)
  | 0x0A => some (.or f)
  | 0x0B => some (.xor f)
  | 0x0C => some (.andn f)
  | 0x0D => some (.shl f)
  | 0x0E => some (.shr f)
  | 0x0F => some (.sra f)
  | 0x10 => some (.rol f)
  | 0x11 => some (.min f)
  | 0x12 => some (.minu f)
  | 0x13 => some (.max f)
  | 0x14 => some (.maxu f)
  | 0x15 => some (.sel f)
  | 0x16 => some (.mov f)
  | 0x17 => some (.movh f)
  | 0x18 => some (.lea f)
  | 0x19 => some (.ext f)
  | 0x1A => some (.extu f)
  | 0x1B => some (.ins f)
  | 0x1C => some (.sext f)
  | 0x1D => some (.zext f)
  | 0x1E => some (.clz f)
  | 0x1F => some (.ctz f)
  | 0x20 => some (.ffs f)
  | 0x21 => some (.popc f)
  | 0x22 => some (.bswap f)
  | 0x23 => some (.brev f)
  | 0x24 => some (.cmp f)
  | 0x25 => some (.cmpf f)
  | 0x26 => some (.fadd f)
  | 0x27 => some (.fmul f)
  | 0x28 => some (.ffma f)
  | 0x29 => some (.fmin f)
  | 0x2A => some (.fmax f)
  | 0x2B => some (.fcvt f)
  | 0x2C => some (.pset f)
  | 0x2D => some (.mrd f)
  | 0x2E => some (.mwr f)
  | 0x2F => some (.rdtime f)
  | _ => none

/-- The opcode map of class V (02 R43). -/
def opcodeV (op : Nat) (f : Fields) : Option Instr :=
  match op with
  | 0x00 => some (.vadd f)
  | 0x01 => some (.vsub f)
  | 0x02 => some (.vmul f)
  | 0x03 => some (.vfma f)
  | 0x04 => some (.vfms f)
  | 0x05 => some (.vfnma f)
  | 0x06 => some (.vmin f)
  | 0x07 => some (.vmax f)
  | 0x08 => some (.vabs f)
  | 0x09 => some (.vneg f)
  | 0x0A => some (.vand f)
  | 0x0B => some (.vor f)
  | 0x0C => some (.vxor f)
  | 0x0D => some (.vandn f)
  | 0x0E => some (.vshl f)
  | 0x0F => some (.vshr f)
  | 0x10 => some (.vsra f)
  | 0x11 => some (.vmulh f)
  | 0x12 => some (.vavg f)
  | 0x13 => some (.vabd f)
  | 0x14 => some (.vcmp f)
  | 0x15 => some (.vsel f)
  | 0x16 => some (.vmov f)
  | 0x17 => some (.vbc f)
  | 0x18 => some (.vget f)
  | 0x19 => some (.vset f)
  | 0x1A => some (.vperm f)
  | 0x1B => some (.vcomp f)
  | 0x1C => some (.vexpd f)
  | 0x1D => some (.vred f)
  | 0x1E => some (.vscan f)
  | 0x1F => some (.vdot4 f)
  | 0x20 => some (.vclz f)
  | 0x21 => some (.vpopc f)
  | 0x22 => some (.vffs f)
  | 0x23 => some (.vexp2 f)
  | 0x24 => some (.vlog2 f)
  | 0x25 => some (.vrcp f)
  | 0x26 => some (.vrsq f)
  | 0x27 => some (.vsin f)
  | 0x28 => some (.vcos f)
  | 0x29 => some (.vtanh f)
  | 0x2A => some (.vcvt f)
  | 0x2B => some (.vtag f)
  | 0x2C => some (.vqnt f)
  | 0x2D => some (.vdqt f)
  | 0x2E => some (.vbmax f)
  | 0x2F => some (.vsat f)
  | _ => none

/-- The opcode map of class M (02 R44). -/
def opcodeM (op : Nat) (f : Fields) : Option Instr :=
  match op with
  | 0x00 => some (.mzero f)
  | 0x01 => some (.mlda f)
  | 0x02 => some (.mldb f)
  | 0x03 => some (.mgat f)
  | 0x04 => some (.mmul f)
  | 0x05 => some (.mmuls f)
  | 0x06 => some (.mcom f)
  | 0x07 => some (.mdis f)
  | 0x08 => some (.mscq f)
  | 0x09 => some (.mfin f)
  | 0x0A => some (.mrow f)
  | 0x0B => some (.mst f)
  | 0x0C => some (.mcnt f)
  | 0x0D => some (.mthr f)
  | 0x0E => some (.mwt f)
  | 0x0F => some (.mstat f)
  | 0x20 => some (.eclr f)
  | 0x21 => some (.eins f)
  | 0x22 => some (.eevl f)
  | 0x23 => some (.esum f)
  | 0x24 => some (.emax f)
  | 0x25 => some (.einf f)
  | 0x26 => some (.econj f)
  | 0x27 => some (.esimp f)
  | 0x28 => some (.eld f)
  | 0x29 => some (.est f)
  | 0x2A => some (.eadd f)
  | 0x2B => some (.ecnt f)
  | 0x2C => some (if f.mod0 then .edomGet f else .edom f)
  | 0x2D => some (.ewt f)
  | _ => none

/-- The opcode map of class C (02 R45). -/
def opcodeC (op : Nat) (f : Fields) : Option Instr :=
  match op with
  | 0x00 => some (.ldl f)
  | 0x01 => some (.stl f)
  | 0x02 => some (.vldl f)
  | 0x03 => some (.vstl f)
  | 0x04 => some (.vgl f)
  | 0x05 => some (.vsl f)
  | 0x06 => some (.ala f)
  | 0x07 => some (.alf f)
  | 0x08 => some (.stmap f)
  | 0x09 => some (.stfl f)
  | 0x0A => some (.stinv f)
  | 0x0B => some (.rres f)
  | 0x0C => some (.rtake f)
  | 0x0D => some (.rrel f)
  | 0x0E => some (.rcfg f)
  | 0x0F => some (.rstat f)
  | 0x10 => some (.ld f)
  | 0x11 => some (.st f)
  | 0x12 => some (.vld f)
  | 0x13 => some (.vst f)
  | 0x14 => some (.vgg f)
  | 0x15 => some (.vsg f)
  | 0x16 => some (.amo f)
  | 0x17 => some (.cas f)
  | 0x18 => some (.famo f)
  | 0x19 => some (.fset f)
  | 0x1A => some (.fget f)
  | 0x1B => some (.pf f)
  | 0x1C => some (.wb f)
  | 0x1D => some (.inv f)
  | 0x20 => some (.cp f)
  | 0x21 => some (.cps f)
  | 0x22 => some (.cpw f)
  | 0x23 => some (.streamSub f)
  | 0x24 => some (.unsub f)
  | 0x25 => some (.drn f)
  | 0x26 => some (.cpq f)
  | 0x27 => some (.msg f)
  | 0x30 => some (.mcst f)
  | 0x31 => some (.gopen f)
  | 0x32 => some (.gst f)
  | 0x33 => some (.gcom f)
  | 0x34 => some (.gab f)
  | 0x35 => some (.gstt f)
  | _ => none

/-- The opcode map of class K (02 R46). -/
def opcodeK (op : Nat) (f : Fields) : Option Instr :=
  match op with
  | 0x00 => some (.nop f)
  | 0x01 => some (.b f)
  | 0x02 => some (.ba f)
  | 0x03 => some (.bl f)
  | 0x04 => some (.br f)
  | 0x05 => some (.brl f)
  | 0x06 => some (.rep f)
  | 0x07 => some (.lpin f)
  | 0x08 => some (.lfree f)
  | 0x09 => some (.tick f)
  | 0x0A => some (.bkpt f)
  | 0x10 => some (.fence f)
  | 0x11 => some (.bar f)
  | 0x12 => some (.mon f)
  | 0x13 => some (.mwait f)
  | 0x20 => some (.sopen f)
  | 0x21 => some (.sclose f)
  | 0x22 => some (.scnl f)
  | 0x23 => some (.sshd f)
  | 0x24 => some (.sunsh f)
  | 0x25 => some (.claim f)
  | 0x26 => some (.spawn f)
  | 0x27 => some (.spwg f)
  | 0x28 => some (.start f)
  | 0x29 => some (.exit f)
  | 0x2A => some (.yield f)
  | 0x2B => some (.poll f)
  | 0x2C => some (.tgnode f)
  | 0x2D => some (.tgdec f)
  | 0x2E => some (.sinfo f)
  | 0x30 => some (.trap f)
  | 0x31 => some (if f.mod0 then .killDom f else .kill f)
  | 0x32 => some (.prmt f)
  | 0x33 => some (.resm f)
  | 0x34 => some (.plbw f)
  | 0x35 => some (if f.mod0 then .plbiDom f else .plbi f)
  | 0x36 => some (.xlti f)
  | 0x37 => some (.pgok f)
  | 0x38 => some (.wpt f)
  | 0x39 => some (.auds f)
  | _ => none

/-- The opcode maps (02 R42-R46). -/
def opcodeMap (cl op : Nat) (f : Fields) : Except Reject Instr :=
  let pick := fun (r : Option Instr) => match r with
    | some i => Except.ok i
    | none => .error (Reject.unassignedOpcode cl op)
  match cl with
  | 0 => pick (opcodeS op f)
  | 1 => pick (opcodeV op f)
  | 2 => pick (opcodeM op f)
  | 3 => pick (opcodeC op f)
  | 4 => pick (opcodeK op f)
  | _ => .error (.unassignedClass cl)

/-- The instruction of a word, or why there is none (02 R29-R47). -/
def decode (w : W96) : Except Reject Instr := do
  let f ← decodeFields w
  let i ← opcodeMap (bitsOf w 95 93) (bitsOf w 92 85) f
  if f.guard.neg && f.guard.p == 0 then .error .guardNever
  else if i.wellFormed then .ok i else .error .unassignedField

/-- The word held by the first twelve bytes, little-endian (02 R19). -/
def word96 (bs : List Byte) : Nat := ((bs.take 12).foldr (fun b n => b.toNat + 256 * n) 0)

/-- Decode any bytes: an instruction and the bytes after it, or a rejection by name. -/
def decodeBytes (bs : List Byte) : Except Reject (Instr × List Byte) := do
  if bs.length < 12 then .error (.tooShort bs.length)
  else
    let i ← decode (BitVec.ofNat 96 (word96 bs))
    .ok (i, bs.drop 12)

/-- The word of an instruction; a step of the device has none (02 R29). -/
def encode (i : Instr) : Option W96 :=
  match i.key, i.fields with
  | some k, some f => some (encodeFields k f)
  | _, _ => none

/-- The bytes of an instruction position, the lowest address first (02 R19). -/
def wordBytes (w : Nat) : List Byte := (List.range 12).map (fun k => BitVec.ofNat 8 (w >>> (8 * k)))

/-- What the decoder reads from an instruction whose bits are `w`, every bit above `nbits` zero. The GD-7 has one word of
96 bits (02 R29), laid out little-endian (02 R19). -/
def decodeTableWord (nbits w : Nat) : Option Instr :=
  match decodeBytes (wordBytes (w % 2 ^ nbits)) with
  | .ok (i, _) => some i
  | .error _ => none

end Sys2Proof
end

