-- ==== Sys2Proof/Config.lean ====
section
/-! DEFINITION. The values that the spec leaves open: constants without a body, so that nothing can be proved of one
(log 6, DESIGN CHOICE). -/

namespace Sys2Proof.Config

/-- The bits that `vexp2`, `vlog2`, `vsin`, `vcos` or `vtanh` gives on an F32 code where its bound leaves a choice (08
R167): a function of the operation (0-4), FCTL and the code, the same in every lane, context, core and package. The lane
takes it only where it keeps the bound. -/
opaque transcendental : Nat → Nat → Nat → Nat

/-- A value that the spec leaves open, fresh at each draw (log 6, DESIGN CHOICE). -/
opaque free : Nat → Nat

/-- What a byte reads as under a key that did not write its word (20 R432): a function of its physical address, the
reader's and the writer's key and the word's content. -/
opaque noise : Nat → Nat → Nat → Nat → Nat

/-- How many sectors a 256 B block of HBM, as a number, takes once it is compressed (12 R266). -/
opaque sectors : Nat → Nat

/-- The verdict of the signature check over `n` bytes of firmware, whose fused key is not given (22 R470). -/
opaque signatureOk : List Byte → Bool

/-- The signature bytes that the identity key gives, which is not in the manual (22 R475). -/
opaque attestation : Nat → Nat → Byte

/-- What a visit finds in a granule whose flipped bits, in either half, are more than its code detects (21 R448): nothing (0), what it corrects
(1), or what it cannot. -/
opaque beyondCode : Nat → Nat → Nat

/-- The same of a granule in HBM, whose stack's code the manual does not give (21 R448). -/
opaque stackCode : Nat → Nat → Nat

/-- The spare rows of an L2 slice, whose count the manual does not give (21 R463). -/
opaque spareRows : Nat

end Sys2Proof.Config
end

