-- ==== Sys2Proof/Machine/Num.lean ====
section
/-! DEFINITION. Exact values, the formats of 07 R128-R132 and the one rounding of R129, R134 and R135. Every value that an
instruction computes is formed exactly as a signed ratio of naturals and narrowed once. -/

namespace Sys2Proof.Num

/-- A rounding direction (07 R133). -/
inductive Rm where
  | rne | rtz | rup | rdn
  deriving DecidableEq, Repr

/-- FCTL.RM (07 R133). -/
def rmOf (n : Nat) : Rm :=
  match n % 4 with
  | 0 => .rne | 1 => .rtz | 2 => .rup | _ => .rdn

/-- An exact value: NaN, an infinity, or the sign and the ratio `num / den`, `den > 0`; a zero keeps its sign. -/
inductive Ext where
  | nan
  | inf (neg : Bool)
  | fin (neg : Bool) (num den : Nat)
  deriving DecidableEq, Repr

/-- `+0`. -/
def zero : Ext := .fin false 0 1

/-- `m * 2^e` with the sign `neg`. -/
def dyadic (neg : Bool) (m : Nat) (e : Int) : Ext :=
  match e with
  | .ofNat k => .fin neg (m * 2 ^ k) 1
  | .negSucc k => .fin neg m (2 ^ (k + 1))

/-- The value of an integer. -/
def ofInt (z : Int) : Ext := .fin (z < 0) z.natAbs 1

/-- NaN? -/
def Ext.isNan : Ext → Bool
  | .nan => true
  | _ => false

/-- Infinite? -/
def Ext.isInf : Ext → Bool
  | .inf _ => true
  | _ => false

/-- Zero of either sign? -/
def Ext.isZero : Ext → Bool
  | .fin _ 0 _ => true
  | _ => false

/-- The sign of a value; NaN counts as positive. -/
def Ext.neg : Ext → Bool
  | .nan => false
  | .inf s => s
  | .fin s _ _ => s

/-- The value with the other sign. -/
def Ext.flip : Ext → Ext
  | .nan => .nan
  | .inf s => .inf (!s)
  | .fin s n d => .fin (!s) n d

/-- The magnitude. -/
def Ext.abs : Ext → Ext
  | .nan => .nan
  | .inf _ => .inf false
  | .fin _ n d => .fin false n d

/-- The signed numerator. -/
def signed (neg : Bool) (n : Nat) : Int := if neg then -(n : Int) else n

/-- Exact sum, with the sign of an exact zero by IEEE 754-2019 6.3: `-0` only from two negative zeros, or under RDN
(06 R116, 07 R134). -/
def add (rm : Rm) : Ext → Ext → Ext
  | .nan, _ => .nan
  | _, .nan => .nan
  | .inf s, .inf t => if s == t then .inf s else .nan
  | .inf s, _ => .inf s
  | _, .inf t => .inf t
  | .fin s n d, .fin t m e =>
    let z := signed s n * e + signed t m * d
    if z = 0 then
      if n = 0 ∧ m = 0 ∧ s = t then .fin s 0 1 else .fin (rm == .rdn) 0 1
    else .fin (z < 0) z.natAbs (d * e)

/-- Exact product (06 R116); `∞ × 0` is NaN. -/
def mul : Ext → Ext → Ext
  | .nan, _ => .nan
  | _, .nan => .nan
  | .inf s, y => if y.isZero then .nan else .inf (s != y.neg)
  | x, .inf t => if x.isZero then .nan else .inf (x.neg != t)
  | .fin s n d, .fin t m e => .fin (s != t) (n * m) (d * e)

/-- `x * 2^e`, exact. -/
def scale (x : Ext) (e : Int) : Ext :=
  match x with
  | .fin s n d => match e with
    | .ofNat k => .fin s (n * 2 ^ k) d
    | .negSucc k => .fin s n (d * 2 ^ (k + 1))
  | y => y

/-- Order of two values that are not NaN: `-∞ < finite < ∞`, `-0 = +0`. -/
def cmp : Ext → Ext → Ordering
  | .inf s, .inf t => if s == t then .eq else if s then .lt else .gt
  | .inf s, _ => if s then .lt else .gt
  | _, .inf t => if t then .gt else .lt
  | .fin s n d, .fin t m e => compare (signed s n * e) (signed t m * d)
  | _, _ => .eq

/-- `x < y`, both not NaN. -/
def lt (x y : Ext) : Bool := cmp x y == .lt
/-- `x ≤ y`, both not NaN. -/
def le (x y : Ext) : Bool := cmp x y != .gt

/-- `Floor(Log2(n / d))` for `n, d > 0`. -/
def ilog2 (n d : Nat) : Int :=
  let t : Int := (n.log2 : Int) - d.log2
  let ge : Bool := match t with
    | .ofNat k => decide (d * 2 ^ k ≤ n)
    | .negSucc k => decide (d ≤ n * 2 ^ (k + 1))
  if ge then t else t - 1

/-- `n / d` rounded to a natural in direction `rm`; `neg` is the sign of the value that is rounded. -/
def roundNat (rm : Rm) (neg : Bool) (n d : Nat) : Nat :=
  let q := n / d
  let r := n % d
  let up := match rm with
    | .rne => decide (2 * r > d) || (decide (2 * r = d) && q % 2 == 1)
    | .rtz => false
    | .rup => !neg && decide (r ≠ 0)
    | .rdn => neg && decide (r ≠ 0)
  if up then q + 1 else q

/-- `n / d / 2^q` as a ratio. -/
def ratioAt (n d : Nat) (q : Int) : Nat × Nat :=
  match q with
  | .ofNat k => (n, d * 2 ^ k)
  | .negSucc k => (n * 2 ^ (k + 1), d)

/-- An IEEE-style format (07 R130). `nanCode` is the NaN that is written; `infCode` the magnitude code of infinity. -/
structure Ieee where
  e : Nat
  f : Nat
  bias : Nat
  maxCode : Nat
  infCode : Option Nat
  nanCode : Option Nat
  /-- FZ applies (07 R133) -/
  fz : Bool
  deriving DecidableEq, Repr

/-- The formats of 07 R130, and binary64 (06 R116). -/
def f8a : Ieee := ⟨4, 3, 7, 0x7E, none, some 0x7F, false⟩
@[inherit_doc f8a] def f8b : Ieee := ⟨5, 2, 15, 0x7B, some 0x7C, some 0x7E, false⟩
@[inherit_doc f8a] def f6 : Ieee := ⟨3, 2, 3, 0x1F, none, none, false⟩
@[inherit_doc f8a] def f4 : Ieee := ⟨2, 1, 1, 0x7, none, none, false⟩
@[inherit_doc f8a] def h16 : Ieee := ⟨5, 10, 15, 0x7BFF, some 0x7C00, some 0x7E00, true⟩
@[inherit_doc f8a] def b16 : Ieee := ⟨8, 7, 127, 0x7F7F, some 0x7F80, some 0x7FC0, true⟩
@[inherit_doc f8a] def f32 : Ieee := ⟨8, 23, 127, 0x7F7FFFFF, some 0x7F800000, some 0x7FC00000, true⟩
@[inherit_doc f8a] def f64 : Ieee := ⟨11, 52, 1023, 0x7FEFFFFFFFFFFFFF, some 0x7FF0000000000000, some 0x7FF8000000000000, true⟩

/-- Bits of the format. -/
def Ieee.width (k : Ieee) : Nat := 1 + k.e + k.f

/-- The code with a sign. -/
def Ieee.withSign (k : Ieee) (neg : Bool) (code : Nat) : Nat := code + (if neg then 2 ^ (k.e + k.f) else 0)

/-- The value of a code (07 R130), with FZ (07 R133, R135). -/
def Ieee.decode (k : Ieee) (fz : Bool) (x : Nat) : Ext :=
  let neg := x.testBit (k.e + k.f)
  let code := x % 2 ^ (k.e + k.f)
  let ee := code / 2 ^ k.f
  let ff := code % 2 ^ k.f
  if code > k.maxCode then
    if some code = k.infCode then .inf neg else .nan
  else if ee = 0 then
    if fz && k.fz then .fin neg 0 1 else dyadic neg ff (1 - (k.bias : Int) - k.f)
  else dyadic neg (2 ^ k.f + ff) ((ee : Int) - k.bias - k.f)

/-- RoundIeee of a positive ratio: the code with its exponent unbounded above (07 R135). -/
def Ieee.roundCode (k : Ieee) (rm : Rm) (neg : Bool) (n d : Nat) : Nat :=
  let emin : Int := 1 - (k.bias : Int)
  let t := max (ilog2 n d) emin
  let (a, b) := ratioAt n d (t - k.f)
  (t - emin).toNat * 2 ^ k.f + roundNat rm neg a b

/-- Overflow goes to infinity in this direction (IEEE 754-2019 7.4; 07 R135). -/
def overflowsToInf (rm : Rm) (neg : Bool) : Bool :=
  match rm with
  | .rne => true
  | .rtz => false
  | .rup => !neg
  | .rdn => neg

/-- ConvertElement into an IEEE-style format (07 R135); `big` says whether it overflows to infinity. -/
def Ieee.convert (k : Ieee) (rm : Rm) (big fz : Bool) : Ext → Nat
  | .nan => k.nanCode.getD 0
  | .inf s => k.withSign s (if big then k.infCode.getD k.maxCode else k.maxCode)
  | .fin s 0 _ => k.withSign s 0
  | .fin s (n + 1) d =>
    let c := k.roundCode rm s (n + 1) d
    if c > k.maxCode then
      k.withSign s (if big && overflowsToInf rm s then k.infCode.getD k.maxCode else k.maxCode)
    else if fz && k.fz && c < 2 ^ k.f then k.withSign s 0
    else k.withSign s c

/-- A tapered format (07 R128). -/
structure Tapered where
  n : Nat
  es : Nat
  deriving DecidableEq, Repr

/-- The tapered tags (07 R122). -/
def t8 : Tapered := ⟨8, 1⟩
@[inherit_doc t8] def t8w : Tapered := ⟨8, 2⟩
@[inherit_doc t8] def t6 : Tapered := ⟨6, 1⟩

/-- The length of the run of bits equal to `r` downward from bit `i - 1` of `b`. -/
def runLength (b : Nat) (r : Bool) : Nat → Nat
  | 0 => 0
  | i + 1 => if b.testBit i == r then 1 + runLength b r i else 0

/-- TaperedDecode (07 R128). -/
def Tapered.decode (k : Tapered) (x : Nat) : Ext :=
  let s := x.testBit (k.n - 1)
  let b := x % 2 ^ (k.n - 1)
  if b = 0 then (if s then .nan else zero)
  else
    let r := b.testBit (k.n - 2)
    let m := runLength b r (k.n - 1)
    let kk : Int := if r then (m : Int) - 1 else -(m : Int)
    let left := k.n - 1 - m - 1
    let rest := b % 2 ^ left
    let e := if k.es ≤ left then rest / 2 ^ (left - k.es) else rest * 2 ^ (k.es - left)
    let fl := left - k.es
    let f := rest % 2 ^ fl
    dyadic s (2 ^ fl + f) (kk * 2 ^ k.es + e - fl)

/-- TaperedRound of a value that is neither NaN nor zero nor infinite, as the body (07 R129). The bit string is the
integer part (regime and exponent) times a power of two, followed by the fraction of `f`. -/
def Tapered.roundBody (k : Tapered) (n d : Nat) : Nat :=
  let t := ilog2 n d
  let kk := t / (2 ^ k.es : Int)
  let e := (t - kk * 2 ^ k.es).toNat
  let head := match kk with
    | .ofNat j => (2 ^ (j + 1) - 1) * 2
    | .negSucc _ => 1
  let headLen := match kk with
    | .ofNat j => j + 2
    | .negSucc j => j + 2
  let (a, b) := ratioAt n d t
  -- the string as a number with its binary point after regime and exponent
  let num := (head * 2 ^ k.es + e) * b + (a - b)
  let len := headLen + k.es
  let (x, y) := ratioAt num b ((len : Int) - (k.n - 1 : Nat))
  let kept := roundNat .rne false x y
  if kept = 0 then 1 else kept

/-- TaperedRound (07 R129). -/
def Tapered.convert (k : Tapered) : Ext → Nat
  | .nan => 2 ^ (k.n - 1)
  | .inf s => (if s then 2 ^ (k.n - 1) else 0) + (2 ^ (k.n - 1) - 1)
  | .fin _ 0 _ => 0
  | .fin s (m + 1) d =>
    let sgn := if s then 2 ^ (k.n - 1) else 0
    if 2 ^ ((k.n - 2) * 2 ^ k.es) * d ≤ m + 1 then sgn + (2 ^ (k.n - 1) - 1)
    else sgn + k.roundBody (m + 1) d

/-- RoundToInteger (07 R135). -/
def roundInt (rm : Rm) (neg : Bool) (n d : Nat) : Int := signed neg (roundNat rm neg n d)

/-- The range of a `w`-bit integer. -/
def intMin (w : Nat) (u : Bool) : Int := if u then 0 else -(2 ^ (w - 1) : Int)
@[inherit_doc intMin] def intMax (w : Nat) (u : Bool) : Int := if u then 2 ^ w - 1 else 2 ^ (w - 1) - 1

/-- The low `w` bits of an integer. -/
def wrap (w : Nat) (z : Int) : Nat := (z % (2 ^ w : Int)).toNat

/-- `Clamp`. -/
def clamp (x lo hi : Int) : Int := if x < lo then lo else if hi < x then hi else x

/-- ConvertElement into a `w`-bit integer (07 R135). -/
def convertInt (w : Nat) (u : Bool) (rm : Rm) : Ext → Nat
  | .nan => 0
  | .inf s => wrap w (if s then intMin w u else intMax w u)
  | .fin s n d => wrap w (clamp (roundInt rm s n d) (intMin w u) (intMax w u))

/-- The `w`-bit code `x` as an integer (07 R131). -/
def intOf (w : Nat) (u : Bool) (x : Nat) : Int :=
  if u || !x.testBit (w - 1) then (x % 2 ^ w : Nat) else (x % 2 ^ w : Nat) - (2 ^ w : Int)

/-- The kind of an element format. -/
inductive Kind where
  | tap (k : Tapered)
  | ieee (k : Ieee)
  | int (w : Nat)
  deriving DecidableEq, Repr

/-- The kind of a tag (07 R122); RAW lanes are 32-bit words. -/
def kindOf : Tag → Kind
  | .raw => .int 32
  | .t8 => .tap t8 | .t8w => .tap t8w | .t6 => .tap t6
  | .f8a => .ieee f8a | .f8b => .ieee f8b | .f6 => .ieee f6 | .f4 => .ieee f4
  | .h16 => .ieee h16 | .b16 => .ieee b16 | .f32 => .ieee f32
  | .i8 => .int 8 | .i4 => .int 4 | .i16 => .int 16 | .i32 => .int 32 | .i64 => .int 64

/-- The exact value of a lane (07 R123, R128, R130, R131); T6 and F6 read bits [5:0] only. -/
def ofCode (t : Tag) (u fz : Bool) (x : Nat) : Ext :=
  match kindOf t with
  | .tap k => k.decode (x % 2 ^ k.n)
  | .ieee k => k.decode fz (x % 2 ^ k.width)
  | .int w => ofInt (intOf w u x)

/-- ConvertElement (07 R135) into a tag. B16 and F32 always overflow to infinity; F8B and H16 under `.inf`. -/
def convert (t : Tag) (inf u : Bool) (rm : Rm) (fz : Bool) (x : Ext) : Nat :=
  match kindOf t with
  | .tap k => k.convert x
  | .ieee k => k.convert rm (t == .b16 || t == .f32 || (inf && (t == .f8b || t == .h16))) fz x
  | .int w => convertInt w u rm x

/-- The single rounding of an exact arithmetic result into a floating or tapered tag (07 R134): IEEE under RM and FZ for
H16, B16 and F32; ConvertElement, RNE, without `.inf` for the others. -/
def roundTo (t : Tag) (rm : Rm) (fz : Bool) (x : Ext) : Nat :=
  match kindOf t with
  | .tap k => k.convert x
  | .ieee k => if k.fz then k.convert rm true fz x else k.convert .rne false false x
  | .int w => convertInt w false rm x

/-- Binary32 and binary64 codes. -/
def dec32 (fz : Bool) (x : Nat) : Ext := f32.decode fz (x % 2 ^ 32)
@[inherit_doc dec32] def dec64 (fz : Bool) (x : Nat) : Ext := f64.decode fz (x % 2 ^ 64)
@[inherit_doc dec32] def rnd32 (rm : Rm) (fz : Bool) (x : Ext) : Nat := f32.convert rm true fz x
@[inherit_doc dec32] def rnd64 (rm : Rm) (fz : Bool) (x : Ext) : Nat := f64.convert rm true fz x

/-- The largest finite value of a floating or tapered tag (07 R129, R130). -/
def maxFinite (t : Tag) : Ext :=
  match kindOf t with
  | .tap k => .fin false (2 ^ ((k.n - 2) * 2 ^ k.es)) 1
  | .ieee k => k.decode false k.maxCode
  | .int _ => zero

/-- `fmin` and `fmax` (06 R116): a lone NaN yields to the other operand, `-0` ranks below `+0`. -/
def minMax (isMax : Bool) (x y : Ext) : Ext :=
  if x.isNan then y else if y.isNan then x
  else
    let xLess := match cmp x y with
      | .lt => true
      | .gt => false
      | .eq => x.neg || !y.neg
    if xLess != isMax then x else y

/-- The conditions of `cmpf` (06 R114). -/
def condFloat (cc : Nat) (x y : Ext) : Bool :=
  let un := x.isNan || y.isNan
  match cc with
  | 0 => !un && cmp x y == .eq
  | 1 => un || cmp x y != .eq
  | 2 => !un && cmp x y == .lt
  | 3 => !un && cmp x y != .gt
  | 4 => !un && cmp x y == .gt
  | 5 => !un && cmp x y != .lt
  | 6 => un
  | _ => !un

/-- The conditions of `cmp` (06 R113). -/
def condInt (cc : Nat) (x y : Int) : Bool :=
  match cc with
  | 0 => x == y
  | 1 => x != y
  | 2 => decide (x < y)
  | 3 => decide (x ≤ y)
  | 4 => decide (x > y)
  | _ => decide (x ≥ y)

end Sys2Proof.Num
end

