-- ==== Sys2Proof/Machine/Alu.lean ====
section
/-! DEFINITION. What the scalar unit computes from operand values (06 R104-R116, 07 R144). -/

namespace Sys2Proof.Alu

open Sys2Proof

/-- `min`, `minu`, `max`, `maxu` (06 R104). -/
def smin (a b : W64) : W64 := if a.slt b then a else b
@[inherit_doc smin] def umin (a b : W64) : W64 := if a.ult b then a else b
@[inherit_doc smin] def smax (a b : W64) : W64 := if a.slt b then b else a
@[inherit_doc smin] def umax (a b : W64) : W64 := if a.ult b then b else a

/-- Bits [127:64] of the signed and the unsigned product (06 R104). -/
def mulhS (a b : W64) : W64 := BitVec.ofInt 64 ((a.toInt * b.toInt) / 2 ^ 64)
@[inherit_doc mulhS] def mulhU (a b : W64) : W64 := BitVec.ofNat 64 ((a.toNat * b.toNat) / 2 ^ 64)

/-- A shift amount: b[5:0] (06 R104). -/
def shamt (b : W64) : Nat := b.toNat % 64

/-- `rol` (06 R104). -/
def rol (a b : W64) : W64 := (a <<< shamt b) ||| (a >>> (64 - shamt b))

/-- The quotient and the remainder of `div` and `rem` (06 R105). -/
def quotS (a b : W64) : W64 := if b = 0 then BitVec.allOnes 64 else BitVec.ofInt 64 (a.toInt.tdiv b.toInt)
@[inherit_doc quotS] def remS (a b : W64) : W64 :=
  if b = 0 then a else BitVec.ofInt 64 (a.toInt - b.toInt * a.toInt.tdiv b.toInt)
/-- The quotient and the remainder of `divu` and `remu` (06 R105). -/
def quotU (a b : W64) : W64 := if b = 0 then BitVec.allOnes 64 else BitVec.ofNat 64 (a.toNat / b.toNat)
@[inherit_doc quotU] def remU (a b : W64) : W64 := if b = 0 then a else BitVec.ofNat 64 (a.toNat % b.toNat)

/-- The count of significant bits of a magnitude. -/
def sigBits (n : Nat) : Nat := if n = 0 then 0 else n.log2 + 1

/-- The cycles of a divide (06 R106). -/
def divCycles (isSigned : Bool) (a b : W64) : Nat :=
  if b = 0 then 12
  else
    let n := sigBits (if isSigned then a.toInt.natAbs else a.toNat)
    min 40 (max 12 (8 + (n + 1) / 2))

/-- `movh` (06 R108). -/
def movh (a b : W64) : W64 := (b <<< 32) ||| (a &&& 0xFFFFFFFF#64)

/-- A width of six bits, 0 meaning 64 (06 R110-R112). -/
def widthOf (n : Nat) : Nat := if n % 64 = 0 then 64 else n % 64
/-- WD of a field descriptor (06 R110): bits [13:8], 0 meaning 64; every other bit but PS is ignored, and no value faults. -/
def fieldWidth (d : W64) : Nat := widthOf (d.toNat / 256)
/-- PS of a field descriptor (06 R110): bits [5:0]. -/
def fieldPos (d : W64) : Nat := d.toNat % 64

/-- The low `w` bits as an unsigned and as a signed 64-bit value (06 R111). -/
def zextN (a : W64) (w : Nat) : W64 := BitVec.ofNat 64 (a.toNat % 2 ^ w)
@[inherit_doc zextN] def sextN (a : W64) (w : Nat) : W64 := BitVec.ofInt 64 (Num.intOf w false a.toNat)

/-- `ext`, `extu` and `ins` (06 R111). -/
def ext (a d : W64) : W64 := sextN (a.sshiftRight (fieldPos d)) (fieldWidth d)
@[inherit_doc ext] def extu (a d : W64) : W64 := zextN (a >>> fieldPos d) (fieldWidth d)
@[inherit_doc ext] def ins (a b d : W64) : W64 :=
  let m : W64 := BitVec.ofNat 64 ((2 ^ fieldWidth d - 1) <<< fieldPos d)
  (a &&& ~~~ m) ||| ((b <<< fieldPos d) &&& m)

/-- Zeros above the highest set bit of `x`, within `w` bits (06 R112). -/
def clz (w x : Nat) : Nat := w - sigBits x

/-- Zeros below bit `i` counted upward from `i`, for a number with a set bit below `i + fuel`. -/
def ctzFrom (x i : Nat) : Nat → Nat
  | 0 => i
  | n + 1 => if x.testBit i then i else ctzFrom x (i + 1) n

/-- Zeros below the lowest set bit of `x`, within `w` bits; `w` if `x` is zero (06 R112). -/
def ctz (w x : Nat) : Nat := ctzFrom x 0 w

/-- 1 + the index of the lowest set bit, or 0 (06 R112). -/
def ffs (w x : Nat) : Nat := if x = 0 then 0 else ctz w x + 1

/-- The set bits among the low `w` (06 R112). -/
def popc (x : Nat) : Nat → Nat
  | 0 => 0
  | w + 1 => (x.testBit w).toNat + popc x w

/-- The low `n` bytes of `x` reversed (06 R112). -/
def bswap (x : Nat) : Nat → Nat
  | 0 => 0
  | n + 1 => (x % 256) * 256 ^ n + bswap (x / 256) n

/-- The low `w` bits of `x` reversed (06 R112). -/
def brev (x : Nat) : Nat → Nat
  | 0 => 0
  | w + 1 => (x % 2) * 2 ^ w + brev (x / 2) w

/-- The field `x` of R112 and its width. -/
def bitField (a b : W64) : Nat × Nat :=
  let w := widthOf b.toNat
  (w, a.toNat % 2 ^ w)

/-- `clz`, `ctz`, `ffs`, `popc`, `bswap` and `brev` (06 R112). -/
def clzOp (a b : W64) : W64 := BitVec.ofNat 64 (clz (bitField a b).1 (bitField a b).2)
@[inherit_doc clzOp] def ctzOp (a b : W64) : W64 := BitVec.ofNat 64 (ctz (bitField a b).1 (bitField a b).2)
@[inherit_doc clzOp] def ffsOp (a b : W64) : W64 := BitVec.ofNat 64 (ffs (bitField a b).1 (bitField a b).2)
@[inherit_doc clzOp] def popcOp (a b : W64) : W64 := BitVec.ofNat 64 (popc (bitField a b).2 (bitField a b).1)
@[inherit_doc clzOp] def bswapOp (a b : W64) : W64 := BitVec.ofNat 64 (bswap (bitField a b).2 ((bitField a b).1 / 8))
@[inherit_doc clzOp] def brevOp (a b : W64) : W64 := BitVec.ofNat 64 (brev (bitField a b).2 (bitField a b).1)

/-- The condition of `cmp.cc` (06 R113). -/
def cmp (cc : Nat) (u : Bool) (a b : W64) : Bool :=
  if u then Num.condInt cc a.toNat b.toNat else Num.condInt cc a.toInt b.toInt

/-- FCTL.RM and FCTL.FZ (07 R133). -/
def rmOf (fctl : W64) : Num.Rm := Num.rmOf fctl.toNat
@[inherit_doc rmOf] def fzOf (fctl : W64) : Bool := bitAt fctl 2

/-- A scalar float source, `.s` or `.d` (06 R116). -/
def fdec (dbl fz : Bool) (a : W64) : Num.Ext := if dbl then Num.dec64 fz a.toNat else Num.dec32 fz a.toNat

/-- A scalar float result, `.s` or `.d`; a binary32 result is zero-extended (06 R116). -/
def frnd (dbl : Bool) (fctl : W64) (x : Num.Ext) : W64 :=
  BitVec.ofNat 64 (if dbl then Num.rnd64 (rmOf fctl) (fzOf fctl) x else Num.rnd32 (rmOf fctl) (fzOf fctl) x)

/-- `fadd`, `fmul` and `ffma` (06 R116). -/
def fadd (dbl : Bool) (fctl a b : W64) : W64 :=
  frnd dbl fctl (Num.add (rmOf fctl) (fdec dbl (fzOf fctl) a) (fdec dbl (fzOf fctl) b))
@[inherit_doc fadd] def fmul (dbl : Bool) (fctl a b : W64) : W64 :=
  frnd dbl fctl (Num.mul (fdec dbl (fzOf fctl) a) (fdec dbl (fzOf fctl) b))
@[inherit_doc fadd] def ffma (dbl : Bool) (fctl a b c : W64) : W64 :=
  frnd dbl fctl (Num.add (rmOf fctl) (Num.mul (fdec dbl (fzOf fctl) a) (fdec dbl (fzOf fctl) b))
    (fdec dbl (fzOf fctl) c))

/-- `fmin` and `fmax`: exact; under FZ a subnormal result is zero of its sign (06 R116). -/
def fminmax (isMax dbl : Bool) (fctl a b : W64) : W64 :=
  frnd dbl fctl (Num.minMax isMax (fdec dbl (fzOf fctl) a) (fdec dbl (fzOf fctl) b))

/-- `cmpf.cc` (06 R114). -/
def cmpf (cc : Nat) (dbl : Bool) (fctl a b : W64) : Bool :=
  Num.condFloat cc (fdec dbl (fzOf fctl) a) (fdec dbl (fzOf fctl) b)

/-- `fcvt.to.from`: 0 binary32, 1 binary64, 2 signed, 3 unsigned 64-bit integer (07 R144). A binary32 target saturates
unless `.inf`, except from binary32 itself, which copies. -/
def fcvt (to_ from_ : Nat) (inf : Bool) (fctl a : W64) : W64 :=
  let rm := rmOf fctl
  let fz := fzOf fctl
  let x := match from_ with
    | 0 => Num.dec32 fz a.toNat
    | 1 => Num.dec64 fz a.toNat
    | 2 => Num.ofInt a.toInt
    | _ => Num.ofInt a.toNat
  BitVec.ofNat 64 (match to_ with
    | 0 => Num.f32.convert rm (inf || from_ == 0) fz x
    | 1 => Num.f64.convert rm true fz x
    | 2 => Num.convertInt 64 false rm x
    | _ => Num.convertInt 64 true rm x)

end Sys2Proof.Alu
end

