-- ==== Sys2Proof/Machine/Lanes.lean ====
section
/-! DEFINITION. Vector registers as lanes: lane patterns, the tag check and `.cv`, predicates as masks, and what each
vector instruction computes from its operand values (07 R122-R143, 08 R145-R166). -/

namespace Sys2Proof.Lanes

open Sys2Proof Sys2Proof.Num

/-- A vector value with its tag (07 R125). -/
structure VReg where
  bits : VBits
  tag : Tag
  deriving DecidableEq, Repr

/-- A vector operand as it is read: a register or link entry under its lane pattern, ZERO, or IMM (02 R32). -/
inductive VSrc where
  | val (r : VReg)
  | zero
  | imm (x : W64)
  deriving DecidableEq, Repr

/-- The tag of a vector source; ZERO and IMM have none of their own (07 R126). -/
def VSrc.tag? : VSrc → Option Tag
  | .val r => some r.tag
  | _ => none

/-- `n` lanes of `w` bits, from lane 0. -/
def split (w : Nat) : Nat → Nat → List Nat
  | 0, _ => []
  | n + 1, x => x % 2 ^ w :: split w n (x / 2 ^ w)

/-- The bits of a list of `w`-bit lanes (07 R123). -/
def join (w : Nat) : List Nat → Nat
  | [] => 0
  | x :: xs => x % 2 ^ w + 2 ^ w * join w xs

/-- A vector from `w`-bit lanes. -/
def ofLanes (w : Nat) (xs : List Nat) : VBits := BitVec.ofNat 2048 (join w xs)

/-- The lanes of a vector at width `w` (07 R123). -/
def lanes (w : Nat) (x : VBits) : List Nat := split w (2048 / w) x.toNat

/-- The low `w` bits of IMM in every lane (02 R32). -/
def splat (w : Nat) (x : W64) : VBits := ofLanes w (List.replicate (2048 / w) x.toNat)

/-- The bits of a source whose lanes are `w` bits wide. -/
def VSrc.bitsAt (w : Nat) : VSrc → VBits
  | .val r => r.bits
  | .zero => 0
  | .imm x => splat w x

/-- Every instruction that writes a T6 or F6 result, `vtag` apart, writes bits [7:6] of its lanes as zero (07 R123,
R139; log 20, DEDUCED). -/
def VReg.canon (r : VReg) : VReg :=
  if r.tag == .t6 || r.tag == .f6 then { r with bits := r.bits &&& splat 8 0x3F } else r

/-- A tapered T6 or an F6 lane reads bits [5:0] only (07 R123). -/
def sixBits (t : Tag) (x : Nat) : Nat := if t == .t6 || t == .f6 then x % 64 else x

/-! ## Lane patterns (08 R146, R147) -/

/-- The rotation amounts. -/
def rotAmount (n : Nat) : Nat := [1, 2, 4, 8, 16, 31, 30, 28].getD n 0

/-- The permutations within eight. -/
def permTable (n b : Nat) : Nat :=
  (match n with
    | 0 => [1, 0, 3, 2, 5, 4, 7, 6]
    | 1 => [2, 3, 0, 1, 6, 7, 4, 5]
    | 2 => [4, 5, 6, 7, 0, 1, 2, 3]
    | 3 => [7, 6, 5, 4, 3, 2, 1, 0]
    | 4 => [0, 2, 4, 6, 1, 3, 5, 7]
    | 5 => [0, 4, 1, 5, 2, 6, 3, 7]
    | 6 => [0, 0, 2, 2, 4, 4, 6, 6]
    | _ => [1, 1, 3, 3, 5, 5, 7, 7]).getD b 0

/-- The block position that position `b` receives. -/
def patternIndex (p : BitVec 6) (b : Nat) : Nat :=
  let n := p.toNat % 8
  match p.toNat / 8 with
  | 1 => (b + rotAmount n) % 32
  | 2 => 31 - b
  | 3 => 8 * (b / 8) + permTable n (b % 8)
  | 4 => n
  | _ => b

/-- A pattern over blocks of 32 lanes; `fuel` bounds the count of blocks. -/
def patternBlocks (p : BitVec 6) : Nat → List Nat → List Nat
  | 0, _ => []
  | n + 1, xs =>
    let blk := xs.take 32
    (List.range blk.length).map (fun b => blk.getD (patternIndex p b) 0) ++ patternBlocks p n (xs.drop 32)

/-- The value an operand has after its lane pattern. -/
def applyPattern (p : BitVec 6) (r : VReg) : VReg :=
  if p = 0 then r else { r with bits := ofLanes r.tag.width (patternBlocks p 16 (lanes r.tag.width r.bits)) }

/-! ## The tag check and `.cv` (07 R126, R127) -/

/-- `c` holds every value of `t` exactly, both floating or tapered. F4's `-0` counts as its value 0, so that the tapered tags,
which have one zero, hold every value of F4 (log 11, DESIGN CHOICE). -/
def holds (c t : Tag) : Bool :=
  c == t || match c with
    | .f32 => true
    | .h16 => t == .t8 || t == .t6 || t == .f8a || t == .f8b || t == .f6 || t == .f4
    | .b16 => t == .t8 || t == .t8w || t == .t6 || t == .f8a || t == .f8b || t == .f6 || t == .f4
    | .t8 | .t8w | .t6 | .f8a | .f8b | .f6 => t == .f4
    | _ => false

/-- The greatest lane width of some tags. -/
def maxWidth : List Tag → Nat
  | [] => 0
  | t :: ts => max t.width (maxWidth ts)

/-- The common format of unequal tags, if they are all integer or all floating (07 R127). -/
def common (ts : List Tag) : Option Tag :=
  let w := maxWidth ts
  let widest := (ts.filter (fun t => t.width == w)).eraseDups
  if ts.all Tag.isInt then widest.head?
  else if ts.all Tag.isFloat then
    let first := match widest with
      | [t] => [t]
      | _ => []
    (first ++ [.h16, .b16, .f32]).find? (fun c => ts.all (holds c))
  else none

/-- The tags of the sources that have one. -/
def tagsOf (srcs : List VSrc) : List Tag := srcs.filterMap VSrc.tag?

/-- The operand tag of a tagged instruction, or none for FORMAT (07 R126, R127); `dtag` is the committed tag of the
destination register, RAW where it is not one. -/
def operandTag (cv : Bool) (srcs : List VSrc) (dtag : Tag) : Option Tag :=
  match tagsOf srcs with
  | [] => if dtag == .raw then none else some dtag
  | t :: ts =>
    if (t :: ts).any (· == .raw) then none
    else if ts.all (· == t) then some t
    else if cv then common (t :: ts) else none

/-- The lane width and tag of an untagged instruction: those of the first source that has a tag, else the destination's
(08 R154, R157, R158). -/
def untagged (srcs : List VSrc) (dtag : Tag) : Tag := (tagsOf srcs).headD dtag

/-- FCTL as the vector unit uses it. -/
structure Fp where
  rm : Rm
  fz : Bool
  deriving DecidableEq, Repr

/-- FCTL (07 R133). -/
def fpOf (fctl : W64) : Fp := ⟨Alu.rmOf fctl, Alu.fzOf fctl⟩

/-- The lanes of a source read in format `t`, after `.cv`'s exact conversion (07 R127). An integer widens by its sign, or
by zeros under `.u`; FZ applies to the conversion (07 R133, R135). -/
def lanesIn (t : Tag) (u fz : Bool) (s : VSrc) : List Nat :=
  match s with
  | .val r =>
    if r.tag == t then lanes t.width r.bits
    else ((lanes r.tag.width r.bits).take t.lanes).map (fun x =>
      if t.isInt then wrap t.width (intOf r.tag.width u x) else convert t true false .rne fz (ofCode r.tag false fz x))
  | s => lanes t.width (s.bitsAt t.width)

/-- An exact result of `t`'s own values, written back in `t` (06 R116, 08 R151): infinities stay. -/
def exactIn (t : Tag) (fp : Fp) (x : Ext) : Nat := convert t true false .rne fp.fz x

/-- Lane by lane. -/
def zip3 (f : Nat → Nat → Nat → Nat) : List Nat → List Nat → List Nat → List Nat
  | a :: as, b :: bs, c :: cs => f a b c :: zip3 f as bs cs
  | _, _, _ => []

/-! ## Lane arithmetic (08 R151-R153) -/

/-- The direction that sets the sign of an exact zero sum: FCTL.RM on H16, B16 and F32 only (07 R134). -/
def sumRm (t : Tag) (fp : Fp) : Rm :=
  match kindOf t with
  | .ieee k => if k.fz then fp.rm else .rne
  | _ => .rne

/-- The two-source operations of 08 R151. -/
inductive Op2 where
  | add | sub | mul | min | max | mulh | avg | abd
  deriving DecidableEq, Repr

/-- On integer lanes. -/
def Op2.int (o : Op2) (w : Nat) (a b : Int) : Int :=
  match o with
  | .add => a + b
  | .sub => a - b
  | .mul => a * b
  | .min => if b < a then b else a
  | .max => if a < b then b else a
  | .mulh => (a * b) / (2 ^ w : Int)
  | .avg => (a + b + 1) / 2
  | .abd => ((a - b).natAbs : Int)

/-- On floating and tapered lanes; `mulh` has no such form. -/
def Op2.float (o : Op2) (t : Tag) (fp : Fp) (a b : Ext) : Nat :=
  match o with
  | .add => roundTo t fp.rm fp.fz (Num.add (sumRm t fp) a b)
  | .sub => roundTo t fp.rm fp.fz (Num.add (sumRm t fp) a b.flip)
  | .mul | .mulh => roundTo t fp.rm fp.fz (Num.mul a b)
  | .min => exactIn t fp (minMax false a b)
  | .max => exactIn t fp (minMax true a b)
  | .avg => roundTo t fp.rm fp.fz (scale (Num.add (sumRm t fp) a b) (-1))
  | .abd => roundTo t fp.rm fp.fz (Num.add (sumRm t fp) a b.flip).abs

/-- One lane of an operation of 08 R151. -/
def Op2.lane (o : Op2) (t : Tag) (u : Bool) (fp : Fp) (a b : Nat) : Nat :=
  if t.isInt then wrap t.width (o.int t.width (intOf t.width u a) (intOf t.width u b))
  else o.float t fp (ofCode t false fp.fz a) (ofCode t false fp.fz b)

/-- The operations of 08 R151 on whole operands. -/
def op2 (o : Op2) (t : Tag) (u : Bool) (fp : Fp) (a b : VSrc) : VReg :=
  ⟨ofLanes t.width (List.zipWith (o.lane t u fp) (lanesIn t u fp.fz a) (lanesIn t u fp.fz b)), t⟩

/-- The fused forms of 08 R152: `a*b + c`, `a*b - c`, `c - a*b`. -/
inductive Op3 where
  | fma | fms | fnma
  deriving DecidableEq, Repr

/-- One lane of a fused form. -/
def Op3.lane (o : Op3) (t : Tag) (fp : Fp) (a b c : Nat) : Nat :=
  if t.isInt then
    let p := intOf t.width false a * intOf t.width false b
    let z := intOf t.width false c
    wrap t.width (match o with
      | .fma => p + z
      | .fms => p - z
      | .fnma => z - p)
  else
    let p := Num.mul (ofCode t false fp.fz a) (ofCode t false fp.fz b)
    let z := ofCode t false fp.fz c
    roundTo t fp.rm fp.fz (match o with
      | .fma => Num.add (sumRm t fp) p z
      | .fms => Num.add (sumRm t fp) p z.flip
      | .fnma => Num.add (sumRm t fp) z p.flip)

/-- The fused forms on whole operands. -/
def op3 (o : Op3) (t : Tag) (fp : Fp) (a b c : VSrc) : VReg :=
  ⟨ofLanes t.width (zip3 (o.lane t fp) (lanesIn t false fp.fz a) (lanesIn t false fp.fz b) (lanesIn t false fp.fz c)), t⟩

/-- One lane of `vabs` and `vneg` (08 R153). -/
def absNegLane (isNeg : Bool) (t : Tag) (fp : Fp) (x : Nat) : Nat :=
  match kindOf t with
  | .int w =>
    let z := intOf w false x
    wrap w (if isNeg then -z else z.natAbs)
  | .tap k =>
    let body := x % 2 ^ (k.n - 1)
    let sign := x.testBit (k.n - 1)
    if body = 0 then x % 2 ^ k.n
    else if isNeg && !sign then body + 2 ^ (k.n - 1) else body
  | .ieee k =>
    let y := k.decode fp.fz (x % 2 ^ k.width)
    exactIn t ⟨fp.rm, false⟩ (if isNeg then y.flip else y.abs)

/-- `vabs` and `vneg` (08 R153). -/
def absNeg (isNeg : Bool) (t : Tag) (fp : Fp) (a : VSrc) : VReg :=
  ⟨ofLanes t.width ((lanesIn t false fp.fz a).map (absNegLane isNeg t fp)), t⟩

/-! ## Bitwise operations and shifts (08 R154, R155) -/

/-- The bitwise operations. -/
def bitwise (f : VBits → VBits → VBits) (t : Tag) (a b : VSrc) : VReg := ⟨f (a.bitsAt t.width) (b.bitsAt t.width), t⟩

/-- The shifts. -/
inductive Shift where
  | shl | shr | sra
  deriving DecidableEq, Repr

/-- One lane of a shift. -/
def Shift.lane (o : Shift) (w a b : Nat) : Nat :=
  let s := b % w
  match o with
  | .shl => (a * 2 ^ s) % 2 ^ w
  | .shr => a / 2 ^ s
  | .sra => wrap w (intOf w false a / (2 ^ s : Int))

/-- The shifts on whole operands. -/
def shift (o : Shift) (t : Tag) (a b : VSrc) : VReg :=
  ⟨ofLanes t.width (List.zipWith (o.lane t.width) (lanesIn t false false a) (lanesIn t false false b)), t⟩

/-! ## Predicates, compare, select and move (08 R148, R156-R160) -/

/-- Every lane writes `w / 4` predicate bits. -/
def maskOf (w : Nat) (bs : List Bool) : PBits :=
  BitVec.ofNat 512 (join (w / 4) (bs.map (fun b => if b then 2 ^ (w / 4) - 1 else 0)))

/-- The predicate bit of each lane. -/
def maskLanes (w : Nat) (p : PBits) : List Bool := (split (w / 4) (2048 / w) p.toNat).map (fun x => x % 2 == 1)

/-- One lane of `vcmp`. -/
def cmpLane (cc : Nat) (t : Tag) (u : Bool) (fp : Fp) (a b : Nat) : Bool :=
  if t.isInt then condInt cc (intOf t.width u a) (intOf t.width u b)
  else condFloat cc (ofCode t false fp.fz a) (ofCode t false fp.fz b)

/-- `vcmp` (08 R156). -/
def vcmp (cc : Nat) (t : Tag) (u : Bool) (fp : Fp) (a b : VSrc) : PBits :=
  maskOf t.width (List.zipWith (cmpLane cc t u fp) (lanesIn t u fp.fz a) (lanesIn t u fp.fz b))

/-- Choose lane by lane. -/
def choose : List Bool → List Nat → List Nat → List Nat
  | m :: ms, a :: as, b :: bs => (if m then a else b) :: choose ms as bs
  | _, _, _ => []

/-- `vsel` (08 R157). It moves lanes of vb at va's width and tag: where vb is T6 or F6 and va another 8-bit tag, bits [7:6] of
vb's lanes move too (log 20, DESIGN CHOICE). -/
def vsel (t : Tag) (a b : VSrc) (p : PBits) : VReg :=
  ⟨ofLanes t.width (choose (maskLanes t.width p) (lanes t.width (a.bitsAt t.width)) (lanes t.width (b.bitsAt t.width))), t⟩

/-- `vget` (08 R160); a T6 or F6 lane is read by its bits [5:0] (07 R123). -/
def vget (t : Tag) (a : VSrc) (ix : W64) : W64 :=
  let w := t.width
  let x := (lanes w (a.bitsAt w)).getD (ix.toNat % (2048 / w)) 0
  if t.isInt then BitVec.ofInt 64 (intOf w false x) else BitVec.ofNat 64 (sixBits t x)

/-- `vset` (08 R160). -/
def vset (r : VReg) (a ix : W64) : VReg :=
  let w := r.tag.width
  ⟨ofLanes w ((lanes w r.bits).set (ix.toNat % (2048 / w)) (a.toNat % 2 ^ w)), r.tag⟩

/-! ## Permute, compress and expand (08 R161, R162) -/

/-- `vperm`; 4-bit tags move as bytes. -/
def vperm (t : Tag) (a b : VSrc) : VReg :=
  let w := max 8 t.width
  let src := lanes w (a.bitsAt t.width)
  ⟨ofLanes w ((lanes w (b.bitsAt w)).map (fun x => src.getD (x % (2048 / w)) 0)), t⟩

/-- The lanes whose mask bit is set. -/
def keep : List Bool → List Nat → List Nat
  | m :: ms, a :: as => if m then a :: keep ms as else keep ms as
  | _, _ => []

/-- `vcomp`: kept lanes first, then zeros (`join` reads a short list as zeros above it). -/
def vcomp (t : Tag) (a : VSrc) (p : PBits) : VReg :=
  ⟨ofLanes t.width (keep (maskLanes t.width p) (lanes t.width (a.bitsAt t.width))), t⟩

/-- Spread lanes over a mask. -/
def spread : List Bool → List Nat → List Nat
  | [], _ => []
  | true :: ms, a :: as => a :: spread ms as
  | true :: ms, [] => 0 :: spread ms []
  | false :: ms, as => 0 :: spread ms as

/-- `vexpd`. -/
def vexpd (t : Tag) (a : VSrc) (p : PBits) : VReg :=
  ⟨ofLanes t.width (spread (maskLanes t.width p) (lanes t.width (a.bitsAt t.width))), t⟩

/-! ## Reduction, scan, dot products and bit counts (08 R163-R166) -/

/-- The operators of `vred` and `vscan` on codes of tag `t` (08 R163, R164): `.add` 0, `.min` 1, `.max` 2, `.and` 3,
`.or` 4, `.xor` 5. -/
def redOp (op : Nat) (t : Tag) (u : Bool) (fp : Fp) (a b : Nat) : Nat :=
  match op with
  | 0 => Op2.lane .add t u fp a b
  | 1 => Op2.lane .min t u fp a b
  | 2 => Op2.lane .max t u fp a b
  | 3 => a &&& b
  | 4 => a ||| b
  | _ => a ^^^ b

/-- Pairs of neighbours combined once. -/
def pairs (f : Nat → Nat → Nat) : List Nat → List Nat
  | a :: b :: rest => f a b :: pairs f rest
  | rest => rest

/-- The pairwise tree (08 R163); `fuel` is the count of levels. -/
def tree (f : Nat → Nat → Nat) : Nat → List Nat → List Nat
  | 0, xs => xs
  | n + 1, xs => tree f n (pairs f xs)

/-- FZ on a code: a subnormal becomes zero of its sign (07 R133). -/
def flush (t : Tag) (fp : Fp) (x : Nat) : Nat :=
  match kindOf t with
  | .ieee k => if fp.fz && k.fz && (x % 2 ^ (k.e + k.f)) < 2 ^ k.f then x - x % 2 ^ (k.e + k.f) else x
  | _ => x

/-- The working format and result tag of `vred` (08 R163). -/
def redTag (op : Nat) (t : Tag) : Tag := if op = 0 then (if t.isInt then .i64 else .f32) else t

/-- `vred` (08 R163). -/
def vred (op : Nat) (t : Tag) (u : Bool) (fp : Fp) (a : VSrc) : VReg :=
  let r := redTag op t
  let xs := (lanesIn t u fp.fz a).map (fun x =>
    if r == t then flush t fp (sixBits t x)
    else if t.isInt then wrap 64 (intOf t.width u x)
    else convert .f32 true false .rne false (ofCode t false fp.fz x))
  ⟨BitVec.ofNat 2048 ((tree (redOp op r u fp) 9 xs).headD 0), r⟩

/-- One doubling step of the scan (08 R164). -/
def scanStep (f : Nat → Nat → Nat) (d : Nat) (xs : List Nat) : List Nat := xs.take d ++ List.zipWith f xs (xs.drop d)

/-- The doubling tree (08 R164); `fuel` is the count of steps. -/
def scan (f : Nat → Nat → Nat) : Nat → Nat → List Nat → List Nat
  | 0, _, xs => xs
  | n + 1, d, xs => scan f n (2 * d) (if d < xs.length then scanStep f d xs else xs)

/-- `vscan` (08 R164). Lane 0 passes no Op: a NaN there keeps its payload (log 12, DESIGN CHOICE). -/
def vscan (op : Nat) (t : Tag) (u : Bool) (fp : Fp) (a : VSrc) : VReg :=
  let xs := (lanesIn t u fp.fz a).map (fun x => flush t fp (sixBits t x))
  ⟨ofLanes t.width (scan (redOp op t u fp) 9 1 xs), t⟩

/-- Groups of four. -/
def quads : Nat → List Nat → List (List Nat)
  | 0, _ => []
  | n + 1, xs => xs.take 4 :: quads n (xs.drop 4)

/-- One result lane of `vdot4` (08 R165). -/
def dotLane (t : Tag) (u : Bool) (fp : Fp) (as bs : List Nat) (c : Nat) : Nat :=
  if t.isInt then
    wrap 32 ((List.zipWith (fun a b => intOf 8 u a * intOf 8 u b) as bs).foldl (· + ·) (c : Int))
  else
    rnd32 fp.rm fp.fz ((List.zipWith (fun a b => Num.mul (ofCode t false fp.fz a) (ofCode t false fp.fz b)) as bs).foldl
      (Num.add fp.rm) (dec32 fp.fz c))

/-- Lane by lane over groups. -/
def zipDot (f : List Nat → List Nat → Nat → Nat) : List (List Nat) → List (List Nat) → List Nat → List Nat
  | a :: as, b :: bs, c :: cs => f a b c :: zipDot f as bs cs
  | _, _, _ => []

/-- The addend and result tag of `vdot4`, for the operand tags it takes (08 R165). -/
def dotTag (t : Tag) : Option Tag :=
  match t with
  | .i8 => some .i32
  | .t8 | .t8w | .f8a | .f8b => some .f32
  | _ => none

/-- `vdot4` (08 R165). -/
def vdot4 (t r : Tag) (u : Bool) (fp : Fp) (a b c : VSrc) : VReg :=
  ⟨ofLanes 32 (zipDot (dotLane t u fp) (quads 64 (lanesIn t u fp.fz a)) (quads 64 (lanesIn t u fp.fz b)) (lanes 32 (c.bitsAt 32))), r⟩

/-- `vclz`, `vpopc` and `vffs` (08 R166). -/
inductive Count where
  | clz | popc | ffs
  deriving DecidableEq, Repr

/-- The bit counts on whole operands. -/
def count (o : Count) (t : Tag) (a : VSrc) : VReg :=
  let w := t.width
  ⟨ofLanes w ((lanesIn t false false a).map (fun x => match o with
    | .clz => Alu.clz w x
    | .popc => Alu.popc x w
    | .ffs => Alu.ffs w x)), t⟩

/-! ## Conversions (07 R137-R143) -/

/-- The part `q` is within its bound (07 R137). -/
def partOk (ts td : Tag) (q : Nat) : Bool :=
  if ts.lanes < td.lanes then q < td.lanes / ts.lanes
  else if td.lanes < ts.lanes then q < ts.lanes / td.lanes
  else q == 0

/-- Spread converted lanes over the destination (07 R137): `f i` converts source lane `i` for destination lane `j`.
`old` are the bits that the other lanes keep. -/
def parts (ts td : Tag) (q : Nat) (f : Nat → Nat → Nat) (old : VBits) : VReg :=
  let keepOld := lanes td.width old
  ⟨ofLanes td.width ((List.range td.lanes).zipWith (fun j o =>
    if ts.lanes < td.lanes then
      if q * ts.lanes ≤ j ∧ j < q * ts.lanes + ts.lanes then f (j - q * ts.lanes) j else o
    else f (q * td.lanes + j) j) keepOld), td⟩

/-- One lane of `vcvt` (07 R138): a lane of the target's own tag is copied, but for FZ and the written NaN. -/
def cvtLane (ts td : Tag) (inf u : Bool) (fp : Fp) (x : Nat) : Nat :=
  if ts == td then
    if td.isInt then x else exactIn td ⟨.rne, fp.fz⟩ (ofCode ts false fp.fz x)
  else convert td inf u (if td.isInt then fp.rm else .rne) fp.fz (ofCode ts u fp.fz x)

/-- `vcvt` (07 R138). -/
def vcvt (td : Tag) (q : Nat) (inf u : Bool) (fp : Fp) (a : VReg) (old : VBits) : VReg :=
  let xs := lanes a.tag.width a.bits
  parts a.tag td q (fun i _ => cvtLane a.tag td inf u fp (xs.getD i 0)) old

/-- The clamp of `vsat` on a floating lane (07 R140). FZ does not act on it: a subnormal lane within the limit is unchanged (log 12,
DESIGN CHOICE). -/
def satFloat (ts td : Tag) (x : Nat) : Nat :=
  let v := ofCode ts false false x
  -- the limit, rounded toward zero into the source format
  let limCode := match kindOf ts with
    | .tap k => satTapered k (maxFinite td)
    | .ieee k => k.convert .rtz false false (maxFinite td)
    | .int _ => 0
  let lim := ofCode ts false false limCode
  match v with
  | .nan => sixBits ts x
  | v => if lt lim v.abs then convert ts true false .rne false (if v.neg then lim.flip else lim) else sixBits ts x
where
  /-- The largest tapered code whose value does not exceed the limit. -/
  satTapered (k : Tapered) (lim : Ext) : Nat :=
    (List.range (2 ^ (k.n - 1))).foldl (fun best c => if le (k.decode c) lim then c else best) 0

/-- The clamp of `vsat` on an integer lane (07 R140). -/
def satInt (ts td : Tag) (x : Nat) : Nat :=
  wrap ts.width (clamp (intOf ts.width false x) (max (intMin td.width false) (intMin ts.width false))
    (min (intMax td.width false) (intMax ts.width false)))

/-- `vsat` (07 R140), for a source and a target of one kind. -/
def vsat (td : Tag) (a : VReg) : VReg :=
  ⟨ofLanes a.tag.width ((lanes a.tag.width a.bits).map (if td.isInt then satInt a.tag td else satFloat a.tag td)), a.tag⟩

/-- Emax of a block target (07 R141). -/
def emax (t : Tag) : Int :=
  match t with
  | .t8 => 12 | .t8w => 24 | .t6 => 8 | .f8a => 8 | .f8b => 15 | .f6 => 4 | .f4 => 2 | .i8 => 6 | .i4 => 2
  | _ => 0

/-- The larger of two magnitudes. -/
def maxAbs (x y : Ext) : Ext := if lt x.abs y.abs then y.abs else x.abs

/-- The scale byte of one block (07 R141). -/
def blockScale (td : Tag) (xs : List Ext) : Nat :=
  if xs.any (fun x => x.isNan || x.isInf) then 0xFF
  else match xs.foldl maxAbs zero with
    | .fin _ (n + 1) d => (clamp (ilog2 (n + 1) d - emax td + 127) 0 254).toNat
    | _ => 0x7F

/-- Blocks of 32 lanes. -/
def blocks : Nat → List Nat → List (List Nat)
  | 0, _ => []
  | n + 1, xs => xs.take 32 :: blocks n (xs.drop 32)

/-- `vbmax` (07 R141). -/
def vbmax (td : Tag) (q : Nat) (fp : Fp) (a : VReg) (old : VBits) : VReg :=
  let b := a.tag.lanes / 32
  let ss := (blocks b (lanes a.tag.width a.bits)).map (fun blk => blockScale td (blk.map (ofCode a.tag false fp.fz)))
  ⟨ofLanes 8 ((List.range 256).zipWith (fun j o => if q * b ≤ j ∧ j < q * b + b then ss.getD (j - q * b) 0 else o)
    (lanes 8 old)), .raw⟩

/-- `x * 2^(s - 127)` for a scale byte; 0xFF is NaN (07 R132). -/
def byScale (x : Ext) (s : Nat) (up : Bool) : Ext :=
  if s = 0xFF then .nan else scale x (if up then (s : Int) - 127 else 127 - (s : Int))

/-- `vqnt` (07 R142). -/
def vqnt (td : Tag) (q : Nat) (inf : Bool) (fp : Fp) (a b : VReg) (old : VBits) : VReg :=
  let xs := lanes a.tag.width a.bits
  let ss := lanes 8 b.bits
  parts a.tag td q (fun i j => convert td inf false (if td.isInt then fp.rm else .rne) fp.fz
    (byScale (ofCode a.tag false fp.fz (xs.getD i 0)) (ss.getD (j / 32) 0) false)) old

/-- `vdqt` (07 R143). -/
def vdqt (td : Tag) (q : Nat) (fp : Fp) (a b : VReg) (old : VBits) : VReg :=
  let xs := lanes a.tag.width a.bits
  let ss := lanes 8 b.bits
  parts a.tag td q (fun i _ => convert td false false .rne fp.fz
    (byScale (ofCode a.tag false fp.fz (xs.getD i 0)) (ss.getD (i / 32) 0) true)) old

end Sys2Proof.Lanes
end

