-- ==== Sys2Proof/Machine/Types.lean ====
section
/-! DEFINITION. Tables keyed by names, and byte memories in one canonical form. -/

namespace Sys2Proof.Machine

/-- A table: a key at most once, in the order of first entry. -/
abbrev Map (κ ν : Type) := List (κ × ν)

/-- The entry of a key. -/
def Map.find {κ ν : Type} [DecidableEq κ] : Map κ ν → κ → Option ν
  | [], _ => none
  | (a, v) :: m, k => if a = k then some v else Map.find m k

/-- The entry of a key, or a default. -/
def Map.get {κ ν : Type} [DecidableEq κ] (m : Map κ ν) (k : κ) (d : ν) : ν := (Map.find m k).getD d

/-- Set the entry of a key. -/
def Map.set {κ ν : Type} [DecidableEq κ] : Map κ ν → κ → ν → Map κ ν
  | [], k, v => [(k, v)]
  | (a, w) :: m, k, v => if a = k then (a, v) :: m else (a, w) :: Map.set m k v

/-- Remove the entry of a key. -/
def Map.del {κ ν : Type} [DecidableEq κ] (m : Map κ ν) (k : κ) : Map κ ν := m.filter (fun e => e.1 ≠ k)

/-- Change the entry of a key, if there is one. -/
def Map.adjust {κ ν : Type} [DecidableEq κ] (m : Map κ ν) (k : κ) (f : ν → ν) : Map κ ν :=
  m.map (fun e => if e.1 = k then (e.1, f e.2) else e)

/-- Has an entry for the key. -/
def Map.has {κ ν : Type} [DecidableEq κ] (m : Map κ ν) (k : κ) : Bool := (Map.find m k).isSome

/-- The first entry whose value meets a condition. -/
def Map.search {κ ν : Type} (m : Map κ ν) (p : κ → ν → Bool) : Option (κ × ν) := m.find? (fun e => p e.1 e.2)

/-! ## The codes of granules (21 R448, R453) -/

/-- Which code each 128-bit granule of a slice or a scratchpad holds, strong where `true`: the code that STRONG names, which a write or a visit
gives a granule, the code of the granules not listed, and the listed ones. -/
structure Codes where
  strong : Bool
  rest : Bool
  listed : Map Nat Bool
  deriving DecidableEq, Repr

/-- Every granule holds SECDED, which STRONG names at reset (21 R451). -/
def Codes.fresh : Codes := ⟨false, false, []⟩
/-- The code that a granule holds. -/
def Codes.holds (c : Codes) (g : Nat) : Bool := c.listed.get g c.rest
/-- A granule is encoded in the code that STRONG names. -/
def Codes.encode (c : Codes) (g : Nat) : Codes := if c.holds g == c.strong then c else { c with listed := c.listed.set g c.strong }
/-- The granules of `[o, o + n)` are encoded so. -/
def Codes.encodeSpan (c : Codes) (o n : Nat) : Codes :=
  if c.rest == c.strong && c.listed.isEmpty then c
  else (List.range ((o + n + 15) / 16 - o / 16)).foldl (fun c i => c.encode (o / 16 + i)) c
/-- Every granule holds the code that STRONG names. -/
def Codes.settled (c : Codes) : Codes := ⟨c.strong, c.strong, []⟩

/-! ## Memory: address and byte pairs, addresses strictly rising, no byte that an unlisted address reads as -/

/-- Bytes of a memory or a scratchpad. -/
abbrev Memory := List Host.Cell

/-- What an address that is not listed reads as (log 3, DESIGN CHOICE). -/
def unlisted : Byte := 0

/-- One byte. -/
def Memory.byte : Memory → Nat → Byte
  | [], _ => unlisted
  | (a, b) :: m, k => if a = k then b else if k < a then unlisted else Memory.byte m k

/-- A byte put in front, unless it is what an unlisted address reads as. -/
def Memory.cons (a : Nat) (b : Byte) (m : Memory) : Memory := if b = unlisted then m else (a, b) :: m

/-- Write one byte. -/
def Memory.put : Memory → Nat → Byte → Memory
  | [], k, v => Memory.cons k v []
  | (a, b) :: m, k, v =>
    if a = k then Memory.cons k v m
    else if k < a then Memory.cons k v ((a, b) :: m)
    else (a, b) :: Memory.put m k v

/-- `n` bytes from an address. -/
def Memory.read (m : Memory) (a : Nat) : Nat → List Byte
  | 0 => []
  | n + 1 => m.byte a :: Memory.read m (a + 1) n

/-- Bytes written from an address on. -/
def Memory.write (m : Memory) (a : Nat) : List Byte → Memory
  | [] => m
  | b :: bs => Memory.write (m.put a b) (a + 1) bs

/-- Bytes written where a mask holds. -/
def Memory.writeMasked (m : Memory) (a : Nat) : List (Option Byte) → Memory
  | [] => m
  | none :: bs => Memory.writeMasked m (a + 1) bs
  | some b :: bs => Memory.writeMasked (m.put a b) (a + 1) bs

/-- The canonical form, above a bound. -/
def Memory.wfFrom : Nat → Memory → Bool
  | _, [] => true
  | n, (a, b) :: m => decide (n ≤ a) && b != unlisted && Memory.wfFrom (a + 1) m

/-- The canonical form. -/
def Memory.wf (m : Memory) : Bool := m.wfFrom 0

/-- Little-endian bytes as a number (00 R2). -/
def leNat : List Byte → Nat
  | [] => 0
  | b :: bs => b.toNat + 256 * leNat bs

/-- `n` little-endian bytes of a number (00 R2). -/
def leBytes : Nat → Nat → List Byte
  | 0, _ => []
  | n + 1, x => BitVec.ofNat 8 x :: leBytes n (x / 256)

/-- Bytes `[off, off + n)` of a list as a number. -/
def field (bs : List Byte) (off n : Nat) : Nat := leNat ((bs.drop off).take n)

/-- Replace the element at an index, if there is one. -/
def listSet {α : Type} (l : List α) (i : Nat) (x : α) : List α := l.set i x

end Sys2Proof.Machine
end

