-- ==== Sys2Proof/Machine/Envelope.lean ====
section
/-! DEFINITION. The envelope unit's registers, its exact arithmetic and its command queue (11 R233-R258). Slopes,
intercepts, breakpoints and bounds are binary32 codes; every computed one is formed exactly and rounded once. -/

namespace Sys2Proof.Machine

open Sys2Proof Sys2Proof.Num

/-- A piece: left breakpoint, slope, intercept (11 R233). -/
structure Piece where
  x : Nat
  m : Nat
  c : Nat
  deriving DecidableEq, Repr

/-- An envelope register (11 R233). -/
structure Env where
  pieces : List Piece
  lo : Nat
  hi : Nat
  clip : Bool
  deriving DecidableEq, Repr

namespace EnvUnit

/-- The codes of the infinities and of the canonical NaN. -/
def posInf : Nat := 0x7F800000
@[inherit_doc posInf] def negInf : Nat := 0xFF800000
@[inherit_doc posInf] def qNan : Nat := 0x7FC00000

/-- The value of a code; the unit ignores FCTL (11 R237). -/
def val (x : Nat) : Ext := dec32 false x

/-- EMPTY over a domain, EMPTY over the whole line, and VOID (11 R234, R235). -/
def emptyOn (lo hi : Nat) (clip : Bool) : Env := ⟨[], lo, hi, clip⟩
@[inherit_doc emptyOn] def emptyAll : Env := emptyOn negInf posInf false
@[inherit_doc emptyOn] def void (clip : Bool) : Env := ⟨[], posInf, negInf, clip⟩

/-- `a ≤ b` on codes; false for a NaN (11 R238). -/
def leC (a b : Nat) : Bool := !(val a).isNan && !(val b).isNan && le (val a) (val b)

/-- A VOID register. -/
def isVoid (e : Env) : Bool := e.pieces.isEmpty && !leC e.lo e.hi
/-- An EMPTY register. -/
def isEmpty (e : Env) : Bool := e.pieces.isEmpty && leC e.lo e.hi

/-- An exact zero has no sign. -/
def plain (x : Ext) : Ext := if x.isZero then zero else x

/-- RoundSat: the code, and whether it was saturated (11 R237). -/
def roundSat (y : Ext) : Nat × Bool :=
  let c := rnd32 .rne false (plain y)
  if (val c).isInf then (if y.neg then 0xFF7FFFFF else 0x7F7FFFFF, true) else (c, false)

/-- RoundPoint (11 R237). -/
def roundPoint (y : Ext) : Nat := rnd32 .rne false (plain y)

/-- Exact difference and quotient of finite values. -/
def minus (a b : Ext) : Ext := plain (add .rne a b.flip)
@[inherit_doc minus] def quot (a b : Ext) : Ext :=
  match a, b with
  | .fin s n d, .fin t m e => .fin (s != t) (n * e) (d * m)
  | _, _ => .nan

/-- A line: slope and intercept. -/
abbrev Line := Nat × Nat

/-- The crossing of two lines of different slopes. -/
def intersect (u v : Line) : Ext := quot (minus (val u.2) (val v.2)) (minus (val v.1) (val u.1))

/-- `m x + c`, with the infinite points of 11 R234. -/
def eval (l : Line) (x : Ext) : Ext :=
  if x.isInf && (val l.1).isZero then val l.2 else plain (add .rne (mul (val l.1) x) (val l.2))

/-- Insert a line by slope; of parallel lines the higher stays. -/
def insertLine : List Line → Line → List Line
  | [], l => [l]
  | k :: ks, l =>
    match cmp (val l.1) (val k.1) with
    | .lt => l :: k :: ks
    | .eq => if lt (val k.2) (val l.2) then l :: ks else k :: ks
    | .gt => k :: insertLine ks l

/-- Put a steeper line on the stack of lines that are greatest somewhere, steepest first. -/
def pushHull (l : Line) : List Line → List Line
  | t :: s :: rest => if le (intersect s l) (intersect s t) then pushHull l (s :: rest) else l :: t :: s :: rest
  | st => l :: st

/-- The lines that are strictly greatest on some interval, in increasing slope. -/
def hull (ls : List Line) : List Line := (ls.foldl (fun st l => pushHull l st) []).reverse

/-- The hull lines with a stretch of positive length inside the domain. `left` is where the head's stretch begins. -/
def clipHull (lo hi : Ext) : Ext → List Line → List Line
  | _, [] => []
  | left, [l] => if lt (if lt left lo then lo else left) hi then [l] else []
  | left, l :: k :: rest =>
    let z := intersect l k
    let a := if lt left lo then lo else left
    let b := if lt z hi then z else hi
    if lt a b then l :: clipHull lo hi z (k :: rest) else clipHull lo hi z (k :: rest)

/-- The breakpoints of lines in order. -/
def breaks : List Line → List Nat
  | l :: k :: rest => roundPoint (intersect l k) :: breaks (k :: rest)
  | _ => []

/-- Remove every piece of no width; the pieces left keep their own breakpoint (11 R238). -/
def dropThin (hi : Nat) : List Piece → List Piece
  | [] => []
  | [p] => if lt (val p.x) (val hi) then [p] else []
  | p :: q :: rest => if lt (val p.x) (val q.x) then p :: dropThin hi (q :: rest) else dropThin hi (q :: rest)

/-- Set the first breakpoint. -/
def firstAt (lo : Nat) : List Piece → List Piece
  | [] => []
  | p :: ps => { p with x := lo } :: ps

/-- The highest line at a point, the lowest slope among ties; the lines are in increasing slope. -/
def bestAt (x : Ext) : List Line → Option Line
  | [] => none
  | l :: ls => match bestAt x ls with
    | none => some l
    | some k => if lt (eval l x) (eval k x) then some k else some l

/-- Normalize (11 R238). -/
def normalize (ls : List Line) (lo hi : Nat) (clip : Bool) : Env :=
  if !leC lo hi then void clip
  else
    let sorted := ls.foldl insertLine []
    if sorted.isEmpty then emptyOn lo hi clip
    else if leC hi lo then
      match bestAt (val lo) sorted with
      | some l => ⟨[⟨lo, l.1, l.2⟩], lo, hi, clip⟩
      | none => emptyOn lo hi clip
    else
      let u := clipHull (val lo) (val hi) (.inf true) (hull sorted)
      let ps := List.zipWith (fun x (l : Line) => (⟨x, l.1, l.2⟩ : Piece)) (lo :: breaks u) u
      ⟨firstAt lo (dropThin hi ps), lo, hi, clip⟩

/-- The lines of a register. -/
def linesOf (e : Env) : List Line := e.pieces.map (fun p => (p.m, p.c))

/-- The piece that holds `x`: the last one whose breakpoint is not above it (11 R234). -/
def pieceAt (x : Ext) : List Piece → Option Piece
  | [] => none
  | [p] => some p
  | p :: q :: rest => if le (val q.x) x then pieceAt x (q :: rest) else some p

/-- Value(e, x) inside the domain of a normal register. -/
def valueAt (e : Env) (x : Ext) : Ext :=
  match pieceAt x e.pieces with
  | some p => eval (p.m, p.c) x
  | none => .nan

/-- The finite points in ascending order (11 R239). -/
def finitePoints (e : Env) : List Nat :=
  (if (val e.lo).isInf then [] else [e.lo]) ++ (e.pieces.drop 1).map (·.x)
    ++ (if (val e.hi).isInf || leC e.hi e.lo then [] else [e.hi])

/-- The slope range (11 R239). -/
def slopeLo (e : Env) : Nat :=
  if val e.lo == .inf true then (e.pieces.head?.map (·.m)).getD negInf else negInf
@[inherit_doc slopeLo] def slopeHi (e : Env) : Nat :=
  if val e.hi == .inf false then (e.pieces.getLast?.map (·.m)).getD posInf else posInf

/-- The larger of two values. -/
def maxE (x y : Ext) : Ext := if lt x y then y else x

/-- Conj(a, s) (11 R239). -/
def conj (e : Env) (s : Ext) : Ext :=
  match (finitePoints e).map (fun p => minus (mul s (val p)) (valueAt e (val p))) with
  | [] => match e.pieces with
    | p :: _ => plain (val p.c).flip
    | [] => .nan
  | v :: vs => vs.foldl maxE v

/-- `l[i]`, with a default. -/
def pieceGet (ps : List Piece) (i : Nat) : Piece := ps.getD i ⟨0, 0, 0⟩

/-- Simplify (11 R240) from index `k`; a negative or NaN tolerance removes nothing (11 R236). -/
def simplifyFrom (lo hi : Nat) (tol : Ext) : Nat → Nat → List Piece → List Piece
  | 0, _, ps => ps
  | fuel + 1, k, ps =>
    let n := ps.length
    if k < n ∧ 1 < n then
      let pk := pieceGet ps k
      let prev := pieceGet ps (k - 1)
      let next := pieceGet ps (k + 1)
      if (k = 0 ∧ val lo = .inf true) ∨ (k = n - 1 ∧ val hi = .inf false) then simplifyFrom lo hi tol fuel (k + 1) ps
      else if 0 < k ∧ k < n - 1 ∧ cmp (val prev.m) (val next.m) = .eq then simplifyFrom lo hi tol fuel (k + 1) ps
      else
        let z := if k = 0 then val lo else if k = n - 1 then val hi
          else intersect (prev.m, prev.c) (next.m, next.c)
        let q := if k = 0 then next else prev
        let d := minus (eval (pk.m, pk.c) z) (eval (q.m, q.c) z)
        if !tol.isNan && le Num.zero tol && le d tol then
          let rest := ps.eraseIdx k
          let rest := if k = 0 ∨ k = n - 1 then rest
            else rest.set k { pieceGet rest k with x := roundPoint z }
          simplifyFrom lo hi tol fuel k (firstAt lo (dropThin hi (firstAt lo rest)))
        else simplifyFrom lo hi tol fuel (k + 1) ps
    else ps

/-- Simplify (11 R240). -/
def simplify (e : Env) (tol : Nat) : Env :=
  { e with pieces := simplifyFrom e.lo e.hi (val tol) (2 * e.pieces.length + 1) 0 e.pieces }

/-- The limit of 256 pieces (11 R241); none is ENV_OVERFLOW. -/
def limit (simp : Bool) (tol : Nat) (e : Env) : Option Env :=
  if e.pieces.length ≤ 256 then some e
  else if simp then
    let s := simplify e tol
    if s.pieces.length ≤ 256 then some s else none
  else none

/-- `eins` (11 R249): a line with a NaN or infinite coefficient is skipped and sets CLIP. With no line to insert the register's own
lines are normalized, and breakpoints that are not their rounded crossings move (log 16, DEDUCED). -/
def insert (e : Env) (ls : List Line) : Env :=
  let good := ls.filter (fun l => !(val l.1).isNan && !(val l.1).isInf && !(val l.2).isNan && !(val l.2).isInf)
  let clip := e.clip || decide (good.length < ls.length)
  if isVoid e then { e with clip := clip } else normalize (linesOf e ++ good) e.lo e.hi clip

/-- One lane of `eevl` (11 R250). -/
def evalLane (e : Env) (x : Nat) : Nat :=
  let v := val x
  if v.isNan then qNan
  else if isVoid e || !(leC e.lo x && leC x e.hi) then posInf
  else if e.pieces.isEmpty then negInf
  else roundPoint (valueAt e v)

/-- The later of two lower bounds and the earlier of two upper bounds. -/
def maxC (a b : Nat) : Nat := if lt (val a) (val b) then b else a
@[inherit_doc maxC] def minC (a b : Nat) : Nat := if lt (val b) (val a) then b else a

/-- Insert a breakpoint in ascending order, once. -/
def insertPoint : List Nat → Nat → List Nat
  | [], x => [x]
  | y :: ys, x =>
    match cmp (val x) (val y) with
    | .lt => x :: y :: ys
    | .eq => y :: ys
    | .gt => y :: insertPoint ys x

/-- Merge adjacent pieces equal in slope and intercept. -/
def mergeEqual : List Piece → List Piece
  | [] => []
  | p :: ps =>
    match mergeEqual ps with
    | [] => [p]
    | q :: qs =>
      if cmp (val p.m) (val q.m) = .eq ∧ cmp (val p.c) (val q.c) = .eq then p :: qs else p :: q :: qs

/-- A piece with rounded coefficients, and whether one was saturated. -/
def roundPiece (x : Nat) (m c : Ext) : Piece × Bool :=
  (⟨x, (roundSat m).1, (roundSat c).1⟩, (roundSat m).2 || (roundSat c).2)

/-- `esum` (11 R251). -/
def sum (a b : Env) : Env :=
  let clip := a.clip || b.clip
  let lo := maxC a.lo b.lo
  let hi := minC a.hi b.hi
  if !leC lo hi then void clip
  else if a.pieces.isEmpty || b.pieces.isEmpty then emptyOn lo hi clip
  else
    let xs := ((a.pieces.drop 1).map (·.x) ++ (b.pieces.drop 1).map (·.x)).filter
      (fun x => lt (val lo) (val x) && lt (val x) (val hi))
    let cells := (lo :: xs.foldl insertPoint []).map (fun x =>
      match pieceAt (val x) a.pieces, pieceAt (val x) b.pieces with
      | some p, some q => roundPiece x (add .rne (val p.m) (val q.m)) (add .rne (val p.c) (val q.c))
      | _, _ => (⟨x, 0, 0⟩, false))
    ⟨mergeEqual (cells.map (·.1)), lo, hi, clip || cells.any (·.2)⟩

/-- `emax` (11 R251). -/
def max (a b : Env) : Env :=
  let clip := a.clip || b.clip
  let lo := maxC a.lo b.lo
  let hi := minC a.hi b.hi
  if !leC lo hi then void clip else normalize (linesOf a ++ linesOf b) lo hi clip

/-- `einf` (11 R252). -/
def infConv (a b : Env) : Env :=
  let clip := a.clip || b.clip
  let lo := add .rne (val a.lo) (val b.lo)
  let hi := add .rne (val a.hi) (val b.hi)
  if isVoid a || isVoid b || lo.isNan || hi.isNan then void clip
  else
    let lo := rnd32 .rdn false (plain lo)
    let hi := rnd32 .rup false (plain hi)
    let sl := maxC (slopeLo a) (slopeLo b)
    let sh := minC (slopeHi a) (slopeHi b)
    let s := ((a.pieces ++ b.pieces).map (·.m)).filter (fun m => leC sl m && leC m sh)
    if a.pieces.isEmpty || b.pieces.isEmpty || s.isEmpty then emptyOn lo hi clip
    else
      let ls := s.map (fun m => (m, roundSat (add .rne (conj a (val m)) (conj b (val m))).flip))
      normalize (ls.map (fun l => (l.1, l.2.1))) lo hi (clip || ls.any (·.2.2))

/-- The slopes of the pieces between consecutive finite points: the piece that begins at each point but the last, or the
first piece where the domain has no finite lower end. -/
def conjBreaks (e : Env) : List Nat → List Nat
  | p :: q :: rest =>
    (match pieceAt (val p) e.pieces with
      | some pc => pc.m
      | none => 0) :: conjBreaks e (q :: rest)
  | _ => []

/-- `econj` (11 R253). Where every slope is one, the domain is a point, and one piece is left, as Normalize leaves it there: the largest
(log 16, DEDUCED). -/
def legendre (e : Env) : Env :=
  if isVoid e then emptyOn negInf posInf e.clip
  else match e.pieces.head?, e.pieces.getLast? with
    | some first, some last =>
      let ps := finitePoints e
      let lo := if (val e.lo).isInf then first.m else negInf
      let hi := if (val e.hi).isInf then last.m else posInf
      if ps.isEmpty then ⟨[⟨first.m, 0, (roundSat (val first.c).flip).1⟩], first.m, first.m, e.clip⟩
      else
        let cells := List.zipWith (fun x p =>
          let r := roundSat (valueAt e (val p)).flip
          ((⟨x, p, r.1⟩ : Piece), r.2)) (lo :: conjBreaks e ps) ps
        let body := cells.map (·.1)
        let kept := if leC hi lo then ((bestAt (val lo) (body.map (fun p => (p.m, p.c)))).map (fun l => (⟨lo, l.1, l.2⟩ : Piece))).toList
          else dropThin hi body
        ⟨firstAt lo kept, lo, hi, e.clip || cells.any (·.2)⟩
    | _, _ => void e.clip

/-- `eadd` (11 R255). -/
def addAffine (e : Env) (gm gc : Nat) : Env :=
  if (val gm).isNan || (val gm).isInf || (val gc).isNan || (val gc).isInf then { e with clip := true }
  else
    let cells := e.pieces.map (fun p => roundPiece p.x (add .rne (val p.m) (val gm)) (add .rne (val p.c) (val gc)))
    { e with pieces := mergeEqual (cells.map (·.1)), clip := e.clip || cells.any (·.2) }

/-- The image of a register (11 R257). -/
def image (e : Env) : List Byte :=
  leBytes 4 e.lo ++ leBytes 4 e.hi ++ leBytes 4 e.pieces.length ++ leBytes 4 e.clip.toNat
    ++ e.pieces.flatMap (fun p => leBytes 4 p.x ++ leBytes 4 p.m ++ leBytes 4 p.c ++ leBytes 4 0)

/-- Pieces of an image. -/
def imagePieces (bs : List Byte) (n : Nat) : List Piece :=
  (List.range n).map (fun k => ⟨field bs (16 + 16 * k) 4, field bs (20 + 16 * k) 4, field bs (24 + 16 * k) 4⟩)

/-- Adjacent pieces keep the invariants of 11 R233. -/
def chainOk : List Piece → Bool
  | p :: q :: rest =>
    lt (val p.x) (val q.x) && !(val q.x).isInf && le (val p.m) (val q.m)
      && !(cmp (val p.m) (val q.m) == .eq && cmp (val p.c) (val q.c) == .eq) && chainOk (q :: rest)
  | _ => true

/-- A register that meets 11 R233 and R234. -/
def wellFormed (e : Env) : Bool :=
  !(val e.lo).isNan && !(val e.hi).isNan &&
  if e.pieces.isEmpty then leC e.lo e.hi || (e.lo == posInf && e.hi == negInf)
  else
    leC e.lo e.hi && e.pieces.length ≤ 256 && (pieceGet e.pieces 0).x == e.lo
      && e.pieces.all (fun p => !(val p.x).isNan && !(val p.m).isNan && !(val p.m).isInf && !(val p.c).isNan
        && !(val p.c).isInf)
      && chainOk e.pieces
      && (if leC e.hi e.lo then e.pieces.length == 1
          else lt (val ((e.pieces.getLast?.map (·.x)).getD 0)) (val e.hi))

/-- A register from its image; none is FORMAT (11 R257). -/
def ofImage (bs : List Byte) : Option Env :=
  let n := field bs 8 4
  let e : Env := ⟨imagePieces bs n, field bs 0 4, field bs 4 4, field bs 12 4 == 1⟩
  if n ≤ 256 ∧ field bs 12 4 ≤ 1 ∧ (List.range n).all (fun k => field bs (28 + 16 * k) 4 == 0) ∧ wellFormed e = true then
    some e
  else none

/-- What `ecnt` writes (11 R258). -/
def countWord (e : Env) : W64 :=
  BitVec.ofNat 64 ((isVoid e).toNat <<< 33 + e.clip.toNat <<< 32 + (e.pieces.length - 1) <<< 16 + e.pieces.length)

end EnvUnit

/-- A command of the envelope unit with the g and v operands it took at issue (11 R242). -/
inductive ECmd where
  | clr (e : Fin 8)
  | ins (e : Fin 8) (lines : List (Nat × Nat)) (simp : Bool)
  | evl (e : Fin 8) (points : List Nat)
  | sum (d a b : Fin 8) (simp : Bool)
  | max (d a b : Fin 8) (simp : Bool)
  | inf (d a b : Fin 8) (simp : Bool)
  | conj (d a : Fin 8) (simp : Bool)
  | simp (d a : Fin 8)
  | ld (e : Fin 8) (off : Nat)
  | st (e : Fin 8) (off : Nat)
  | add (e : Fin 8) (gm gc : Nat)
  | cnt (e : Fin 8)
  | dom (e : Fin 8) (lo hi : Nat)
  | getDom (e : Fin 8)
  /-- `ewt`, which has waited at issue -/
  | nop
  deriving DecidableEq, Repr

/-- A queued envelope command (11 R242), as `MEntry`. -/
structure EEntry where
  cmd : ECmd
  seq : Nat
  pc : W64
  tok : Option Nat
  follows : Option Nat
  deriving DecidableEq, Repr

/-- The envelope unit (11 R233, R242). -/
structure EnvState where
  e : Vector Env 8
  queue : List EEntry
  deriving DecidableEq, Repr

/-- The unit at task start (11 R235). -/
def EnvState.fresh : EnvState := ⟨Vector.replicate 8 EnvUnit.emptyAll, []⟩

/-- The register a command writes (11 R243). -/
def ECmd.writes : ECmd → Option (Fin 8)
  | .clr e | .ins e _ _ | .ld e _ | .add e _ _ | .dom e _ _ => some e
  | .sum d _ _ _ | .max d _ _ _ | .inf d _ _ _ | .conj d _ _ | .simp d _ => some d
  | .evl _ _ | .st _ _ | .cnt _ | .getDom _ | .nop => none

/-- The registers a command names (11 R243). -/
def ECmd.names : ECmd → List (Fin 8)
  | .clr e | .ins e _ _ | .ld e _ | .add e _ _ | .dom e _ _ | .evl e _ | .st e _ | .cnt e | .getDom e => [e]
  | .sum d a b _ | .max d a b _ | .inf d a b _ => [d, a, b]
  | .conj d a _ | .simp d a => [d, a]
  | .nop => []

/-- A register is busy, or pending (11 R243). -/
def EnvState.busy (s : EnvState) (i : Fin 8) : Bool := s.queue.any (fun q => q.cmd.writes == some i)
@[inherit_doc EnvState.busy] def EnvState.pending (s : EnvState) (i : Fin 8) : Bool :=
  s.queue.any (fun q => q.cmd.names.contains i)

end Sys2Proof.Machine
end

