-- ==== Sys2Proof/Machine/CtxState.lean ====
section
/-! DEFINITION. The state of a context and of what a core holds for the task bound to it: registers, PC chain, in-flight
records, scoreboard, scope stack, scratchpad, rings, stashes, link channels (01, 05, 06, 09, 13, 15, 20). -/

namespace Sys2Proof.Machine

open Sys2Proof Sys2Proof.Lanes

/-- A PC chain entry (05 R81): a PC (02 R23), which a register branch may have left bad, and the bits SQ, TGT and ANL. -/
structure PcWord where
  pc : W64
  sq : Bool
  tgt : Bool
  anl : Bool
  deriving DecidableEq, Repr

/-- Where a result goes (05 R86). A link result names the entry that it reserved. -/
inductive Dest where
  | none
  | g (n : BitVec 5)
  | v (n : BitVec 5)
  | p (n : BitVec 3)
  | spr (n : Nat)
  | link (d : Dir) (vec : Bool) (key : Nat)
  deriving DecidableEq, Repr

/-- A result value (05 R86); `linkOf` is the resolved PC that an unresolved
chain entry will give (05 R82). -/
inductive RVal where
  | g (x : W64)
  | v (r : VReg)
  | p (x : PBits)
  | linkOf
  deriving DecidableEq, Repr

/-- An in-flight record (05 R86): `due` is the packet of pipe time at whose start it commits, so `r = due - pipe + 1`
counts from the next packet. `tok` names the scoreboard entry that the commit clears, for a scoreboarded result that
waited for a fixed one (05 R77). -/
structure InFlight where
  dest : Dest
  val : RVal
  due : Nat
  tok : Option Nat
  deriving DecidableEq, Repr

/-- A pending scoreboard entry (05 R77): one destination of the operation named `tok`. -/
structure Pend where
  dest : Dest
  tok : Nat
  deriving DecidableEq, Repr

/-- The one pending divide of a context (06 R106): its result and the cycle in which it lands. -/
structure Divide where
  tok : Nat
  val : W64
  landAt : Nat
  deriving DecidableEq, Repr

/-- The context-scoped special registers (06 R118). -/
structure SprFile where
  csc : W64
  rclk : W64
  cad : W64
  fctl : W64
  fstat : W64
  /-- the packages that FSTAT counts (13 R312) -/
  lost : List Nat
  ibp : Vector W64 4
  wpc : Vector W64 2
  deriving DecidableEq, Repr

/-- STATE of a context (20 R417). A swapped-out context is SWAPPED where its frame stands. -/
inductive CtxLife where
  | free | running | frozen
  deriving DecidableEq, Repr

/-- The asynchronous fault record (20 R419). -/
structure Afr where
  ea : W64
  pc : W64
  cause : Nat
  sel : Nat
  kind : Nat
  count : Nat
  deriving DecidableEq, Repr

/-- The fault packet's fields that the cause does not fix (20 R414): CAUSE, bits [7:4] of TYPE, ADDR. -/
structure FaultInfo where
  cause : Nat
  typ : Nat
  addr : W64
  deriving DecidableEq, Repr

/-- An armed monitor (13 R314): the physical line, and HIT. -/
structure Monitor where
  line : Nat
  hit : Bool
  deriving DecidableEq, Repr

/-- A scope-stack entry (15 R344): a handle and a share; `own` says that this context opened the scope. -/
structure ScopeEntry where
  handle : W64
  share : Nat
  own : Bool
  deriving DecidableEq, Repr

/-- What a held instruction waits as: a fence that waits for stores, or one that does not (13 R310), an `mwait` (13 R315), or as its own
entry says. -/
inductive HoldKind where
  | fence | acquire | mwait | own
  deriving DecidableEq, Repr

/-- The progress of a blocking instruction that holds its context (13 R310-R315, 15 R365-R371, 20 R440-R447): the cycle
in which it began, the operations it waits for, and what it was told. -/
structure Hold where
  kind : HoldKind
  since : Nat
  ids : List Nat
  answer : Option (W64 × W64)
  deriving DecidableEq, Repr

/-- Repeat state (05 R93-R96): RepLeft, RepFirst and RepLast as line numbers, whether the repeat runs, and the copies
of its body lines. -/
structure RepState where
  left : Nat
  first : Nat
  last : Nat
  run : Bool
  buf : Map Nat Nat
  deriving DecidableEq, Repr

/-- A context. -/
structure Ctx where
  g : Vector W64 32
  v : Vector VReg 32
  p : Vector PBits 8
  pcq0 : PcWord
  pcq1 : PcWord
  pcq2 : PcWord
  rep : RepState
  /-- pipe time (05 R74) -/
  pipe : Nat
  /-- newest first -/
  inflight : List InFlight
  pend : List Pend
  divide : Option Divide
  spr : SprFile
  /-- the cycle from which ElapsedCycles counts, and the cycles counted before a freeze or swap (12 R269) -/
  elapsedFrom : Nat
  elapsedHeld : Nat
  poisonG : BitVec 32
  poisonV : BitVec 32
  poisonP : BitVec 8
  afr : Option Afr
  /-- what the bytes of the empty record hold, and where a window write leaves them (20 R417, R419) -/
  afrHeld : Afr
  life : CtxLife
  /-- the cause of the freeze (20 R417) -/
  cause : Nat
  freewheel : Nat
  /-- newest first -/
  stack : List ScopeEntry
  /-- the name of its armed monitor (13 R314) -/
  monitor : Option Nat
  /-- barriers completed, and whether it has arrived at the next (13 R313) -/
  barCount : Nat
  barHere : Bool
  domain : BitVec 16
  incarn : Nat
  starve : Nat
  storeSeq : Nat
  hold : Option Hold
  /-- that of a class C instruction -/
  holdC : Option Hold
  /-- the next packet is exempt from steps 1 and 6 of 02 R28 -/
  resumed : Bool
  /-- `resm.st`: freeze after one packet (20 R442) -/
  stepOnce : Bool
  /-- its `exit` has issued with the rest of its packet, and holds until what that packet began has ended (05 R71, 15 R371;
  log 26, DEDUCED) -/
  leaving : Bool
  /-- the line whose first copy from memory had wrong parity, to be read once more (02 R24) -/
  refetch : Option Nat
  /-- where the PC of the last issued branch ended: the packets left of its two delay packets (05 R94) -/
  delayLeft : Nat
  /-- the cycle of its latest packet: the fetch of the next is asked for then (22 R473) -/
  issuedAt : Nat
  deriving DecidableEq, Repr

/-- The special registers of a context at its creation (06 R118). -/
def SprFile.fresh : SprFile :=
  ⟨0, 0, 0x0400, 0, 0, [], Vector.replicate 4 0, Vector.replicate 2 0⟩

/-- A register of zero bits tagged RAW (07 R125). -/
def VReg.rawZero : VReg := ⟨0, .raw⟩

/-- A context that is not live: every register as at creation (15 R354; for the rest log 2, DESIGN CHOICE). -/
def Ctx.fresh : Ctx where
  g := Vector.replicate 32 0
  v := Vector.replicate 32 VReg.rawZero
  p := Vector.replicate 8 0
  pcq0 := ⟨0, false, false, false⟩
  pcq1 := ⟨0, false, false, false⟩
  pcq2 := ⟨0, false, false, false⟩
  rep := ⟨0, 0, 0, false, []⟩
  pipe := 0
  inflight := []
  pend := []
  divide := none
  spr := SprFile.fresh
  elapsedFrom := 0
  elapsedHeld := 0
  poisonG := 0
  poisonV := 0
  poisonP := 0
  afr := none
  afrHeld := ⟨0, 0, 0, 0, 0, 0⟩
  life := .free
  cause := 0
  freewheel := 0
  stack := []
  monitor := none
  barCount := 0
  barHere := false
  domain := 0
  incarn := 0
  starve := 0
  storeSeq := 0
  hold := none
  holdC := none
  resumed := false
  stepOnce := false
  leaving := false
  refetch := none
  delayLeft := 0
  issuedAt := 0

/-! ## Rings, stashes, links and the loop buffer -/

/-- A slot tag (09 R193). -/
inductive SlotTag where
  | empty | filling | full | draining
  deriving DecidableEq, Repr

/-- A reservation or a take that waits (09 R195, R196). -/
structure RingWait where
  tok : Nat
  ctx : Nat
  /-- the copy whose reservation it is (14 R323) -/
  copy : Option Nat
  deriving DecidableEq, Repr

/-- A ring (09 R193): `c = 0` is an unconfigured ring. `taken` are the DRAINING slots in the order of their takes. -/
structure Ring where
  base : W64
  z : Nat
  c : Nat
  head : Nat
  tail : Nat
  slots : List (SlotTag × Nat)
  err : Bool
  att : Bool
  taken : List Nat
  res : List RingWait
  takes : List RingWait
  deriving DecidableEq, Repr

/-- An unconfigured ring. -/
def Ring.fresh : Ring := ⟨0, 0, 0, 0, 0, [], false, false, [], [], []⟩

/-- A line of a slice or a stash, without its data: every read returns the performed bytes of the home (12 R265; log 8, DEDUCED).
`line` is the physical address divided by 64. -/
structure LineTag where
  line : Nat
  tenant : Nat
  /-- none is NOREUSE (12 R270) -/
  stamp : Option Nat
  od : Bool
  dirty : Bool
  filling : Bool
  /-- held exclusive, as a store needs it, and not shared (09 R190) -/
  excl : Bool
  deriving DecidableEq, Repr

/-- A mapped stash (09 R189, R190): the global base, SPAN, the region's offset, CAP, and the lines by set and way. -/
structure Stash where
  gbase : W64
  span : Nat
  region : Nat
  cap : Nat
  lines : Map (Nat × Nat) LineTag
  deriving DecidableEq, Repr

/-- One entry of a link channel: the writer's packet, and its value once that has committed (05 R80). -/
structure LinkEntry where
  key : Nat
  val : Option RVal
  deriving DecidableEq, Repr

/-- The inbound channels of a core, oldest entry first (05 R80). -/
structure Links where
  s : Map Dir (List LinkEntry)
  v : Map Dir (List LinkEntry)
  deriving DecidableEq, Repr

/-- An entry of the loop buffer (05 R98): the line number, its 64 bytes as a number, and the context that pinned it. -/
structure Pin where
  line : Nat
  bits : Nat
  ctx : Nat
  /-- its line is still to be read again after a resume (05 R98) -/
  waiting : Bool
  deriving DecidableEq, Repr

end Sys2Proof.Machine
end

