-- ==== Sys2Proof/Machine/Matrix.lean ====
section
/-! DEFINITION. The matrix engine's state (10 R200-R202) and the exact arithmetic of a macro-op and of `mfin` (10
R207-R210, R226). -/

namespace Sys2Proof.Machine

open Sys2Proof Sys2Proof.Lanes

/-- The counters of a tile (10 R200), or the increments held for a shadow (10 R216). -/
structure Counts where
  sat : Nat
  nan : Nat
  bso : Nat
  deriving DecidableEq, Repr

/-- The elements of a tile or a shadow: element (i, j) is lane `64 i + j` at the tag's lane width (10 R201). -/
structure TileData where
  bits : BitVec 65536
  tag : Tag
  deriving DecidableEq, Repr

/-- A tile (10 R200): its shadow is RUN where there is one. -/
structure Tile where
  data : TileData
  counts : Counts
  xp : Bool
  shadow : Option (TileData × Counts)
  deriving DecidableEq, Repr

/-- A latch (10 R202): element (i, k) of A is lane `depth * i + k`, element (k, j) of B lane `64 k + j`, at the width of
an element in memory. -/
structure Latch where
  bits : BitVec 131072
  tag : Tag
  depth : Nat
  deriving DecidableEq, Repr

/-- What last filled a latch (21 R459): its tag, depth, swizzle, and the offset of each row (none is a row of zeros). -/
structure LatchSrc where
  tag : Tag
  depth : Nat
  swz : Nat
  rows : List (Option Nat)
  deriving DecidableEq, Repr

/-- A command of the matrix engine with the operands it took at issue (10 R220-R230). -/
inductive MCmd where
  | mzero (acc : Fin 4) (tag : Tag)
  /-- `mlda` and `mldb` by the offsets of their rows -/
  | load (isB : Bool) (src : LatchSrc)
  /-- `mgat` by the offsets of its rows, and the rows gathered -/
  | gather (src : LatchSrc) (got : List (List Byte))
  | mul (acc : Fin 4) (k : Nat) (zs : Bool) (scales : Option Nat) (shadow : Bool)
  | com (acc : Fin 4)
  | dis (acc : Fin 4)
  | scq (n : W64)
  | fin (acc : Fin 4) (tag : Tag) (t : W32)
  | row (acc : Fin 4) (row : Nat)
  | store (acc : Fin 4) (rows : List Nat) (swz : Nat)
  | cnt (acc : Fin 4) (mask : Nat)
  | thr (value : W64)
  /-- `mwt` and `mstat`, whose work is done at issue -/
  | nop
  deriving DecidableEq, Repr

/-- A queued command: its issue number, the PC of its instruction, the blocks or rows done, the scoreboard entry it will
land, and the copy it follows (10 R217). -/
structure MEntry where
  cmd : MCmd
  seq : Nat
  pc : W64
  done : Nat
  tok : Option Nat
  follows : Option Nat
  deriving DecidableEq, Repr

/-- Tags, depths and shadow states as recorded at issue (10 R201). -/
structure MRecord where
  tiles : Vector Tag 4
  shadows : Vector Bool 4
  aTag : Tag
  aDepth : Nat
  bTag : Tag
  bDepth : Nat
  deriving DecidableEq, Repr

/-- The matrix engine (10 R200). `scq` are the bytes of the scale queue, oldest first; `fod` is FOD of R232; `before` and
`used` are the tile before the macro-op at the head and the scale bytes it has taken (21 R459); `held` says that a command has been refused
whose tile's XP was then cleared, and that waits for the lead's resume (10 R215). -/
structure Matrix where
  srcA : LatchSrc
  srcB : LatchSrc
  before : Option Tile
  used : List Byte
  acc : Vector Tile 4
  a : Latch
  b : Latch
  scq : List Byte
  queue : List MEntry
  recd : MRecord
  fod : Bool
  held : Bool
  deriving DecidableEq, Repr

/-- The engine at task start (10 R200). -/
def Matrix.fresh : Matrix :=
  { acc := Vector.replicate 4 ⟨⟨0, .raw⟩, ⟨0, 0, 0⟩, false, none⟩
    a := ⟨0, .raw, 0⟩
    b := ⟨0, .raw, 0⟩
    srcA := ⟨.raw, 0, 0, []⟩
    srcB := ⟨.raw, 0, 0, []⟩
    before := none
    used := []
    scq := []
    queue := []
    recd := ⟨Vector.replicate 4 .raw, Vector.replicate 4 false, .raw, 0, .raw, 0⟩
    fod := false
    held := false }


/-- Kmax of a latch tag (10 R202). -/
def kMax (t : Tag) : Nat := 2048 / t.width

/-- Columns or rows of decoded elements: lane `start + step * i` for `i < n`. -/
def latchElems (l : Latch) (start step n : Nat) : List Num.Ext :=
  (List.range n).map (fun i =>
    Num.ofCode l.tag false false ((l.bits.toNat >>> (l.tag.width * (start + step * i))) % 2 ^ l.tag.width))

@[inherit_doc latchElems] def latchInts (l : Latch) (start step n : Nat) : List Int :=
  (List.range n).map (fun i =>
    Num.intOf l.tag.width false ((l.bits.toNat >>> (l.tag.width * (start + step * i))) % 2 ^ l.tag.width))

/-- ExactSum (10 R208): an exact zero is `+0`. -/
def exactSum (xs ys : List Num.Ext) : Num.Ext :=
  match (List.zipWith Num.mul xs ys).foldl (Num.add .rne) Num.zero with
  | .fin _ 0 _ => Num.zero
  | x => x

/-- MaxF32 (10 R208). -/
def maxF32 : Nat := 0x7F7FFFFF

/-- `±MaxF32` as a code. -/
def signedMax (neg : Bool) : Nat := if neg then maxF32 + 2 ^ 31 else maxF32

/-- The events of one element's update. -/
structure Events where
  sat : Bool
  nan : Bool
  bso : Bool
  deriving DecidableEq, Repr

/-- BlockUpdate of one element (10 R208) from its row of A, its column of B, its scale bytes and its old code. -/
def blockElem (zs : Bool) (as bs : List Num.Ext) (sa sb old : Nat) : Nat × Events :=
  if zs && (as.all Num.Ext.isZero || bs.all Num.Ext.isZero) then (old, ⟨false, false, false⟩)
  else
    let v := if sa = 0xFF ∨ sb = 0xFF then Num.Ext.nan
      else Num.scale (Num.scale (exactSum as bs) ((sa : Int) - 127)) ((sb : Int) - 127)
    let big := !v.isNan && !v.isInf && Num.lt (Num.dec32 false maxF32) v.abs
    let v := if big then Num.dec32 false (signedMax v.neg) else v
    let o := Num.dec32 false old
    let sum := Num.add .rne o v
    let y := Num.rnd32 .rne false sum
    let sat := !sum.isNan && !sum.isInf && (Num.dec32 false y).isInf
    let y := if sat then signedMax sum.neg else y
    if sum.isNan then (0x7FC00000, ⟨false, !o.isNan, big⟩) else (y, ⟨sat, false, big⟩)

/-- The update of one element of an integer block (10 R209). -/
def blockInt (as bs : List Int) (old : Nat) : Nat × Events :=
  let z := Num.intOf 32 false old + (List.zipWith (· * ·) as bs).foldl (· + ·) 0
  let c := Num.clamp z (-(2 ^ 31 : Int)) (2 ^ 31 - 1)
  (Num.wrap 32 c, ⟨c != z, false, false⟩)

/-- Events counted. -/
def countEvents (es : List Events) : Counts :=
  ⟨(es.filter (·.sat)).length, (es.filter (·.nan)).length, (es.filter (·.bso)).length⟩

/-- Block `b` of a macro-op on a tile's elements, with its 96 scale bytes (10 R208-R211). -/
def blockUpdate (a bl : Latch) (zs : Bool) (scales : List Byte) (b : Nat) (t : TileData) : TileData × Counts :=
  let rowsF := (List.range 32).map (fun i => latchElems a (a.depth * i + 32 * b) 1 32)
  let colsF := (List.range 64).map (fun j => latchElems bl (64 * 32 * b + j) 64 32)
  let rowsI := (List.range 32).map (fun i => latchInts a (a.depth * i + 32 * b) 1 32)
  let colsI := (List.range 64).map (fun j => latchInts bl (64 * 32 * b + j) 64 32)
  let olds := split 32 2048 t.bits.toNat
  let res := (List.range 2048).zipWith (fun e old =>
    let i := e / 64
    let j := e % 64
    if a.tag.isInt then blockInt (rowsI.getD i []) (colsI.getD j []) old
    else blockElem zs (rowsF.getD i []) (colsF.getD j []) ((scales.getD i 0).toNat) ((scales.getD (32 + j) 0).toNat) old) olds
  ({ t with bits := BitVec.ofNat 65536 (join 32 (res.map (·.1))) }, countEvents (res.map (·.2)))

/-- Counters with increments added, saturating at 0xFFFF (10 R208), and whether an increment found or left one above a
threshold: an increment of a counter that stands above it counts too, at 0xFFFF as well (10 R214; log 16, DEDUCED). -/
def Counts.add (c d : Counts) : Counts :=
  ⟨min (c.sat + d.sat) 0xFFFF, min (c.nan + d.nan) 0xFFFF, min (c.bso + d.bso) 0xFFFF⟩
@[inherit_doc Counts.add] def Counts.over (c d : Counts) (th : Nat) : Bool :=
  (decide (0 < d.sat) && decide (th < min (c.sat + d.sat) 0xFFFF))
    || (decide (0 < d.nan) && decide (th < min (c.nan + d.nan) 0xFFFF))
    || (decide (0 < d.bso) && decide (th < min (c.bso + d.bso) 0xFFFF))

/-- Add increments to a tile's counters, setting XP where one passes the threshold (10 R214). -/
def Tile.count (t : Tile) (d : Counts) (th : Nat) : Tile :=
  { t with counts := t.counts.add d, xp := t.xp || t.counts.over d th }

/-- One element of `mfin` (10 R226). -/
def finElem (from_ to_ : Tag) (t x : Nat) : Nat × Events :=
  let v := if from_.isInt then Num.ofInt (Num.intOf 32 false x) else Num.dec32 false x
  let prod := Num.mul v (Num.dec32 false t)
  let y := Num.rnd32 .rne false prod
  let sat := !prod.isNan && !prod.isInf && (Num.dec32 false y).isInf
  let y := if sat then signedMax prod.neg else y
  ((if to_ == .f32 then y else Num.convert to_ false false .rne false (Num.dec32 false y)), ⟨sat, false, false⟩)

/-- `mfin` on a tile's elements (10 R226). -/
def finTile (to_ : Tag) (t : Nat) (d : TileData) : TileData × Counts :=
  let res := (split 32 2048 d.bits.toNat).map (finElem d.tag to_ t)
  (⟨BitVec.ofNat 65536 (join to_.width (res.map (·.1))), to_⟩, countEvents (res.map (·.2)))

/-- Element (i, j) of a tile at its tag's lane width. -/
def TileData.elem (d : TileData) (i j : Nat) : Nat :=
  (d.bits.toNat >>> (d.tag.width * (64 * i + j))) % 2 ^ d.tag.width

/-- The register that `mrow` writes (10 R227). A RAW tile gives zero bits. -/
def rowValue (d : TileData) (row : Nat) : VReg :=
  if d.tag == .raw then VReg.rawZero
  else
    let m := 32 / d.tag.width
    ⟨ofLanes d.tag.width ((List.range m).flatMap (fun q => (List.range 64).map (fun j => d.elem ((row % 32 + q) % 32) j))),
      d.tag⟩

/-- The bytes of row `i` of a tile, as `mst` writes them (10 R228). -/
def rowBytes (d : TileData) (i : Nat) : List Byte :=
  leBytes (8 * d.tag.width) (join d.tag.width ((List.range 64).map (d.elem i)))

/-- Set the recorded tag of a tile (10 R201). -/
def MRecord.setTile (r : MRecord) (i : Fin 4) (t : Tag) : MRecord := { r with tiles := r.tiles.set i t }

/-- Commands that write a tile (10 R204). -/
def MCmd.writes : MCmd → Option (Fin 4)
  | .mzero a _ | .mul a _ _ _ _ | .com a | .dis a | .fin a _ _ => some a
  | _ => none

/-- The tile a command names (10 R204). -/
def MCmd.names : MCmd → Option (Fin 4)
  | .mzero a _ | .mul a _ _ _ _ | .com a | .dis a | .fin a _ _ | .row a _ | .store a _ _ | .cnt a _ => some a
  | _ => none

/-- A tile is busy, or pending (10 R204). -/
def Matrix.busy (m : Matrix) (i : Fin 4) : Bool := m.queue.any (fun e => e.cmd.writes == some i)
@[inherit_doc Matrix.busy] def Matrix.pending (m : Matrix) (i : Fin 4) : Bool :=
  m.queue.any (fun e => e.cmd.names == some i)

/-- Complete entries of the scale queue, and the bytes of the one being assembled (10 R211, R212). -/
def Matrix.entries (m : Matrix) : Nat := m.scq.length / 96
@[inherit_doc Matrix.entries] def Matrix.partialBytes (m : Matrix) : Nat := m.scq.length % 96

/-- TH of a tile (10 R214). -/
def thresholdOf (mthr : W64) (i : Fin 4) : Nat := bitsOf mthr (16 * i.val + 15) (16 * i.val)

end Sys2Proof.Machine
end

