-- ==== Sys2Proof/Machine/CoreState.lean ====
section
/-! DEFINITION. What a core holds: the part that belongs to the bound task and travels with its frame, and the rest (01,
09, 10, 11, 14, 15, 20). -/

namespace Sys2Proof.Machine

open Sys2Proof Sys2Proof.Lanes

/-- A deferred engine fault (02 R28, 10 R215, 11 R244): the cause and address it will freeze with, the unit it stopped
(false matrix, true envelope), and the issue number of the failing command. -/
structure Deferred where
  cause : Nat
  addr : W64
  envelope : Bool
  seq : Nat
  deriving DecidableEq, Repr

/-- The undo log of a replay scope on one core (15 R351): old bytes by 256 B block. -/
structure UndoLog where
  scope : W64
  blocks : Map Nat (List Byte)
  deriving DecidableEq, Repr

/-- The part of a core that belongs to the task bound to its lead context. It is the content of the task's frame image
(20 R421; log 14, DESIGN CHOICE). -/
structure TaskCore where
  ctxs : Map Nat Ctx
  spad : Memory
  /-- layout tags of 2 KiB segments; 0 where not listed (09 R176) -/
  layout : Map Nat Nat
  sctl : W64
  etol : W64
  mthr : W64
  win : Vector W64 4
  rings : Vector Ring 8
  stash : Vector (Option Stash) 4
  links : Links
  mat : Matrix
  env : EnvState
  deferred : List Deferred
  /-- an engine fault that has frozen the context holds its unit until the resume (11 R244) -/
  envHeld : Bool
  undo : List UndoLog
  /-- the opener's frame recorded at `sopen.rp` (15 R351), by scope, with the first name that was given after it -/
  recorded : Map W64 (Nat × Ctx)
  /-- poisoned 32 B granules of the scratchpad (21 R454) -/
  poisonRows : List Nat
  /-- the codes of the scratchpad's granules (21 R448); they stay with the site -/
  codes : Codes
  /-- the loop buffer (05 R98) -/
  pins : List Pin
  /-- copies (14 R324): the next number, and the 16 latest final statuses, newest first -/
  nextCopy : Nat
  statuses : List (Nat × W64)
  deriving DecidableEq, Repr

/-- A core's task part before any task: the reset values of 06 R118. -/
def TaskCore.fresh : TaskCore where
  ctxs := []
  spad := []
  layout := []
  sctl := 0
  etol := 0
  mthr := BitVec.allOnes 64
  win := Vector.replicate 4 0
  rings := Vector.replicate 8 Ring.fresh
  stash := Vector.replicate 4 none
  links := ⟨[], []⟩
  mat := Matrix.fresh
  env := EnvState.fresh
  deferred := []
  envHeld := false
  undo := []
  recorded := []
  poisonRows := []
  codes := Codes.fresh
  pins := []
  nextCopy := 1
  statuses := []

/-- Why a task leaves its core (15 R362, R363, R372; 20 R427, R441). -/
inductive SwitchWhy where
  | preempt | yield | prmt | park
  deriving DecidableEq, Repr

/-- A task switch in progress (15 R363, 17 R380): the engines that have stopped, and why it was begun. -/
structure Switch where
  acked : List Engine
  why : SwitchWhy
  since : Nat
  /-- the command that the matrix engine, and the envelope unit, runs to its end before it stops (10 R218, 11 R246): its issue number -/
  matrixHead : Option Nat
  envHead : Option Nat
  deriving DecidableEq, Repr

/-- A core. -/
structure Core where
  task : Option Nat
  tc : TaskCore
  plb : Map Nat (W64 × W64)
  /-- messages caught by the spill ring, oldest first (14 R340) -/
  spill : List Nat
  /-- the helper that issued last (05 R72) -/
  lastHelper : Nat
  switch : Option Switch
  /-- the gang whose rectangle it stands in until the last member's exit (15 R356) -/
  reserved : Option Nat
  /-- the next sequence number of the stream to each package (18 R386) -/
  streamSeq : Map Nat Nat
  deriving DecidableEq, Repr

/-- A core with no task. -/
def Core.fresh : Core := ⟨none, TaskCore.fresh, [], [], 10, none, none, []⟩

end Sys2Proof.Machine
end

