-- ==== Sys2Proof/Machine/WorkState.lean ====
section
/-! DEFINITION. Global accesses, copies, streams and messages in flight (12, 14), L2 slices and their translation (12, 20),
hubs, tasks, gangs and queues (15). -/

namespace Sys2Proof.Machine

open Sys2Proof Sys2Proof.Lanes

/-! ## Global accesses -/

/-- What a global access does (12 R280-R290). -/
inductive AccOp where
  /-- `ld` of n bytes -/
  | ld (n : Nat)
  /-- `vld`, with `.p6` -/
  | vld (tag : Tag) (p6 : Bool)
  /-- `vgg` with granule size -/
  | vgg (tag : Tag) (g : Nat)
  /-- `st`, `vst`, `vsg` -/
  | st
  | amo (op n : Nat) (v : W64)
  | cas (n : Nat) (cmp new : W64)
  | famo (fmt : Tag) (v : W64)
  | fset (v : W64)
  | fget
  | pf
  | wb
  | inv
  /-- the store of a launch's completion word, made by the device for a tenant (15 R359) -/
  | complete (tenant : Nat)
  /-- the read of a task record by `spawn` or `spwg`, with the share that it has carved (15 R369) -/
  | task (gang : Bool) (share : Nat)
  deriving DecidableEq, Repr

/-- A single-copy-atomic part of an access (12 R277): its effective address, its bytes to write with a mask, its physical
address once translated, whether it has been performed or read, and what was read. -/
structure Part where
  ea : Nat
  bytes : List (Option Byte)
  len : Nat
  pa : Option Nat
  done : Bool
  data : List Byte
  /-- its page is confidential (18 R388) -/
  conf : Bool
  /-- its page compresses (12 R266) -/
  cmp : Bool
  /-- the package and number of the write packet that carries it in its core's stream (18 R386) -/
  seqNo : Option (Nat × Nat)
  deriving DecidableEq, Repr

/-- Where an access stands. -/
inductive AccStage where
  /-- issued, on its way to the slice or the network interface -/
  | issued
  /-- held by a walk at the slice of this cluster (20 R425) -/
  | walking
  /-- accepted by the slice, translated -/
  | placed
  /-- held in a deferred table (12 R289) -/
  | deferred
  /-- refused by the windows of its target (09 R179) -/
  | nacked
  /-- failed with a cause -/
  | failed (cause : Nat)
  deriving DecidableEq, Repr

/-- A global access in flight (12 R275-R291). -/
structure Access where
  ctx : CtxId
  incarn : Nat
  /-- the task in whose frame it lands when its context is swapped out -/
  task : Option Nat
  op : AccOp
  ea : W64
  pc : W64
  dom : BitVec 16
  nud : Nat
  cad : Nat
  reach : Nat
  ord : Bool
  /-- the destination selector as the fault record gives it (20 R419) -/
  sel : Nat
  /-- the scoreboard entry it lands -/
  tok : Option Nat
  /-- store sequence number of its context (13 R296) -/
  seq : Nat
  parts : List Part
  stage : AccStage
  /-- the windows of its target's task have accepted it whole (09 R179) -/
  granted : Bool
  /-- the cycle of issue, or that in which its slice sent it on -/
  since : Nat
  /-- a store abandoned by its fence (13 R311), or left on its way by a kill (20 R435) -/
  abandoned : Bool
  /-- CSC of the context at issue -/
  scope : W64
  /-- the first part that failed: its cause and address -/
  bad : Option (Nat × W64)
  deriving DecidableEq, Repr

/-- A release record at a home line (13 R296). -/
structure RelRecord where
  ctx : CtxId
  task : Option Nat
  reach : Nat
  seq : Nat
  deriving DecidableEq, Repr

/-! ## L2 slices and translation -/

/-- A cached translation (20 R423-R425): the 64 KiB page and the flags of its leaf. -/
structure TlbEntry where
  page : Nat
  pa : Nat
  conf : Bool
  rro : Bool
  cmp : Bool
  deriving DecidableEq, Repr

/-- A walk entry (20 R425, R427). `upcall` says that it awaits a `pgok`, and `others` that a fetch, an engine or another party without an
access of its own has waited on it. -/
structure Walk where
  slot : Nat
  gen : Nat
  page : Nat
  kind : Nat
  dom : BitVec 16
  upcall : Bool
  others : Bool
  deriving DecidableEq, Repr

/-- An L2 slice (12 R270-R274, 20 R425), with the codes of the granules of the lines that it holds (21 R448): granule `g` begins at PA 16 g. -/
structure Slice where
  lines : Map (Nat × Nat) LineTag
  quota : Map Nat Nat
  ts : Map Nat Nat
  ev : Map Nat Nat
  ov : Map Nat Nat
  n : Nat
  tlb : List TlbEntry
  walks : List Walk
  walkGen : Map Nat Nat
  deferred : List Nat
  codes : Codes
  deriving DecidableEq, Repr

/-- A slice after reset: TS 0, every quota 16, nothing cached (12 R273, R274). -/
def Slice.fresh : Slice := ⟨[], [], [], [], [], 0, [], [], [], [], Codes.fresh⟩

/-! ## Copies, streams and messages -/

/-- Where a span begins (14 R316). -/
inductive Span where
  | spad (off : Nat)
  | peer (k : CoreId) (off : Nat)
  | va (a : Nat)
  | ring (n : Fin 8)
  deriving DecidableEq, Repr

/-- A stretch's start moved by `n` bytes. -/
def Span.shift (n : Nat) : Span → Span
  | .spad o => .spad (o + n)
  | .peer k o => .peer k (o + n)
  | .va a => .va (a + n)
  | .ring i => .ring i

/-- How a copy stands (14 R318-R326). -/
inductive CopyEnd where
  | running
  | braked
  | error (cause : Nat)
  deriving DecidableEq, Repr

/-- A copy in flight (14 R316-R330). -/
structure Copy where
  /-- the core whose slot it holds or held -/
  core : CoreId
  task : Option Nat
  ctx : Nat
  handle : Nat
  pc : W64
  dom : BitVec 16
  incarn : Nat
  dst : Span
  src : Span
  rowBytes : Nat
  rows : Nat
  ds : Nat
  ss : Nat
  swz : Nat
  nud : Nat
  cad : Nat
  reach : Nat
  scope : W64
  share : Nat
  /-- the freewheel mark -/
  free : Bool
  /-- stream bytes of the chunks started; the starts and lengths of those in flight; bytes of the chunks ended -/
  started : Nat
  flying : List (Nat × Nat)
  written : Nat
  ended : CopyEnd
  /-- the slot of its ring that it fills -/
  slot : Option Nat
  /-- its reservation waits in its ring's queue -/
  waiting : Bool
  /-- saved in its task's frame, without a command slot (14 R322) -/
  saved : Bool
  /-- the cycle in which its latest chunk started (18 R385) -/
  since : Nat
  deriving DecidableEq, Repr

/-- A stream record (14 R332). -/
structure StreamRec where
  base : Nat
  rowb : Nat
  rows : Nat
  rstr : Int
  tstr : Int
  count : Nat
  swz : Nat
  nud : Nat
  inner : Nat
  ostr : Int
  deriving DecidableEq, Repr

/-- An attached stream (14 R331-R337). -/
structure Stream where
  core : CoreId
  task : Option Nat
  drain : Bool
  ring : Fin 8
  recd : StreamRec
  dom : BitVec 16
  cad : Nat
  scope : W64
  share : Nat
  free : Bool
  /-- tiles done -/
  tile : Nat
  /-- the slot of the tile in progress, and whether its writes have been performed -/
  slot : Option Nat
  wrote : Bool
  /-- it is to detach at its tile boundary (14 R336) -/
  unsub : Bool
  deriving DecidableEq, Repr

/-- A message in flight (14 R339-R341). -/
structure Message where
  src : CtxId
  task : Option Nat
  incarn : Nat
  dst : CoreId
  scq : Bool
  payload : List Byte
  dom : BitVec 16
  ea : W64
  pc : W64
  scope : W64
  share : Nat
  free : Bool
  /-- no scope and no share: an upcall of 20 R427 -/
  upcall : Bool
  since : Nat
  nacked : Bool
  /-- it stands in the spill ring -/
  held : Bool
  deriving DecidableEq, Repr

/-! ## Hubs, tasks and queues -/

/-- A hub record (15 R343). `opener` is the context that opened it, as its task names it. -/
structure Hub where
  state : Nat
  gen : Nat
  parent : W64
  parentShare : Nat
  reach : Nat
  rp : Bool
  runs : Nat
  group : W64
  brake : Bool
  claimed : Bool
  claimv : W64
  fault : Bool
  cause : Nat
  depu : Bool
  t : Nat
  r : Nat
  pres : List CluId
  tenant : Nat
  opener : Option (Option Nat × CtxId)
  /-- the package and completion word of a launch (15 R359) -/
  root : Option (Nat × Nat)
  /-- a consumed error waits for every share (15 R352) -/
  replaying : Bool
  /-- its parties have been ended (21 R457) -/
  contained : Bool
  /-- writes of its descendants that had been accepted, and were not performed, as their contexts exited (13 R296, R305) -/
  owes : List Nat
  /-- a log or the recorded frame could not be read: the replay ends (21 R457) -/
  spent : Bool
  deriving DecidableEq, Repr

/-- A share on its way back to its hub, with the fault that its party records (15 R344, R346). -/
structure SpokeBack where
  h : W64
  share : Nat
  closing : Bool
  fault : Option Nat
  deriving DecidableEq, Repr

/-- A free record of generation 1 (log 2, DESIGN CHOICE). -/
def Hub.fresh : Hub :=
  ⟨0, 1, 0, 0, 0, false, 0, 0, false, false, 0, false, 0, false, 0, 0, [], 0, none, none, false, false, [], false⟩

/-- Where a task stands (15 R360-R363, 20 R427, R441). -/
inductive TaskLife where
  /-- in a ready queue -/
  | queued
  /-- bound to a core, the footprint not yet filled -/
  | filling
  /-- bound and started -/
  | running
  /-- swapped out and off the queues: parked on a miss, or frozen -/
  | parked
  deriving DecidableEq, Repr

/-- A gang membership (15 R356): the gang's name, this member's position, the gang's size. -/
structure GangPos where
  gang : Nat
  x : Nat
  y : Nat
  w : Nat
  h : Nat
  deriving DecidableEq, Repr

/-- The header of a frame image (20 R421): the task's id, domain and incarnation, the mask of the sections present, and their sizes in
the image's order. -/
structure FrameHeader where
  task : Nat
  dom : BitVec 16
  incarn : Nat
  mask : Nat
  sizes : List Nat
  deriving DecidableEq, Repr

/-- A task (15 R353-R363). -/
structure Task where
  pkg : Nat
  dom : BitVec 16
  entry : W64
  args : List W64
  prio : Nat
  /-- the level it waits at (15 R360) -/
  level : Nat
  reach : Nat
  foot : Nat
  gang : Option GangPos
  scope : W64
  share : Nat
  /-- the site from which its placement reach is measured -/
  origin : Nat × Nat × Nat
  clu : CluId
  /-- order in its tenant's queue; smaller is nearer the head -/
  order : Int
  since : Nat
  life : TaskLife
  core : Option CoreId
  /-- the frame image of a swapped-out task -/
  frame : Option TaskCore
  header : Option FrameHeader
  /-- the core in whose shadow storage the image stands, and how many bytes of it (20 R422) -/
  shadow : Option (CoreId × Nat)
  /-- the whole image stands in the memory frame (20 R422) -/
  spilled : Bool
  /-- what its memory frame takes of the tenant's pool, in bytes (20 R422) -/
  pooled : Nat
  /-- the node that fired it (15 R358): the node's SCOPE and its successors -/
  node : Option (W64 × List Nat)
  /-- the earlier writes of its spawner, which count as done at its reach before it starts (15 R354) -/
  waits : List Nat
  /-- the latest start or resume -/
  started : Nat
  /-- how many starts it has had -/
  starts : Nat
  /-- the core on which it was pre-empted, for its held messages (14 R340) -/
  lastCore : Option CoreId
  incarn : Nat
  /-- a launch's gang, whose member (0,0) starts in the cluster that was chosen (15 R359) -/
  rooted : Bool
  /-- the pages that its fetches wait for while it is parked (02 R23) -/
  fetches : List Nat
  /-- its scratchpad has been spilled to its memory frame (15 R363) -/
  ousted : Bool
  /-- the writes that stood in its way, unperformed, when it last left a core (13 R302) -/
  seen : List Nat
  deriving DecidableEq, Repr

/-- A cluster's dispatch unit (15 R360, R361): deficits by priority and tenant, and the tenant served last. -/
structure Dispatcher where
  deficit : Map (Nat × Nat) Nat
  last : Map Nat Nat
  deriving DecidableEq, Repr

/-- A step of a task graph in flight (15 R357, R358, R374). -/
inductive NodeOp where
  /-- a decrement: `tgdec`, or one sent by the scheduler as the installer's access -/
  | dec
  /-- `tgnode` -/
  | install
  deriving DecidableEq, Repr

/-- A node operation in flight. -/
structure NodeReq where
  op : NodeOp
  /-- the cluster whose slice translates it -/
  clu : CluId
  ea : Nat
  /-- none where the scheduler sends it -/
  ctx : Option CtxId
  incarn : Nat
  task : Option Nat
  tok : Option Nat
  dom : BitVec 16
  csc : W64
  share : Nat
  pc : W64
  /-- the earlier writes it releases (15 R374) -/
  waits : List Nat
  reach : Nat
  sel : Nat
  /-- the cycle in which it set out (18 R385) -/
  since : Nat
  deriving DecidableEq, Repr

/-- A node that fires (15 R358): its physical address and its address, its SCOPE field, and the share of the decrement with the scope that it
belongs to. -/
structure NodeFire where
  pa : Nat
  ea : Nat
  scope : W64
  holder : W64
  share : Nat
  deriving DecidableEq, Repr

/-- A claim on its way to its hub (15 R350). -/
structure ClaimReq where
  ctx : CtxId
  task : Option Nat
  handle : W64
  value : W64
  tok : Nat
  /-- the handle stands on the claimer's stack -/
  held : Bool
  deriving DecidableEq, Repr

end Sys2Proof.Machine
end

