-- ==== Sys2Proof/Machine/FabState.lean ====
section
/-! DEFINITION. Multicasts, groups and the torus (18), reliability units (21), boot, device control and the host's side of
a package (20 R413, R432-R437, 22). -/

namespace Sys2Proof.Machine

open Sys2Proof Sys2Proof.Lanes

/-! ## Multicast and group commit -/

/-- What a member has answered (18 R390). -/
inductive McstAnswer where
  | waiting | ok | nack | lost
  deriving DecidableEq, Repr

/-- A multicast in flight (18 R391). -/
structure Mcst where
  ctx : CtxId
  incarn : Nat
  task : Option Nat
  dom : BitVec 16
  ea : W64
  pc : W64
  grp : Nat
  off : Nat
  payload : List Byte
  reach : Nat
  /-- the earlier writes of its context that are not done at its reach -/
  waits : List Nat
  sent : Bool
  /-- the group table entry as it was read (18 R391) -/
  entry : BitVec 1024
  answers : Map Nat McstAnswer
  sel : Nat
  tok : Option Nat
  scope : W64
  share : Nat
  free : Bool
  since : Nat
  deriving DecidableEq, Repr

/-- How a staged store stands (18 R403). -/
inductive GstStage where
  /-- on its way to its home package -/
  | issued
  /-- waits for the answer to its JOIN -/
  | joining
  /-- dropped with a reason, which is on its way to the coordinator -/
  | dropped (reason : Nat)
  deriving DecidableEq, Repr

/-- A staged store in flight (18 R403). -/
structure Gst where
  ctx : CtxId
  incarn : Nat
  task : Option Nat
  dom : BitVec 16
  h : W64
  ea : W64
  pc : W64
  bytes : List Byte
  pa : Option Nat
  /-- the package and number of its packet in its core's stream (18 R386) -/
  stream : Option (Nat × Nat)
  stage : GstStage
  /-- the copy or stream of a replay scope whose bytes it carries (15 R351) -/
  engine : Option Nat
  /-- the cycle in which its JOIN or the report of its drop set out -/
  asked : Nat
  since : Nat
  deriving DecidableEq, Repr

/-- A coordinator's state (18 R397); a group that is not in use is `free`. -/
inductive GroupPhase where
  | free | opened | preparing | publishing | aborting
  deriving DecidableEq, Repr

/-- A result owed to a context by a coordinator (18 R404-R406). -/
structure GroupWait where
  h : W64
  ctx : CtxId
  incarn : Nat
  task : Option Nat
  tok : Option Nat
  /-- a `gstt` -/
  peek : Bool
  /-- a `gab` -/
  abort : Bool
  /-- the staged stores that must be accepted first -/
  waits : List Nat
  since : Nat
  deriving DecidableEq, Repr

/-- A group at its coordinator (18 R392, R395, R397). -/
structure Group where
  gen : Nat
  phase : GroupPhase
  reasons : Nat
  firstPkg : Nat
  parts : List Nat
  yes : List Nat
  confirmed : List Nat
  since : Nat
  /-- a commit has been asked for -/
  asked : Bool
  deriving DecidableEq, Repr

/-- A group never used (log 2, DESIGN CHOICE). -/
def Group.fresh : Group := ⟨1, .free, 0, 0, [], [], [], 0, false⟩

/-- A participant's state (18 R398). -/
inductive PartPhase where
  | staging | doomed | prepared | resolving | published | aborted
  deriving DecidableEq, Repr

/-- A participant (18 R393, R398): its staged lines with byte masks, by physical line. -/
structure Participant where
  phase : PartPhase
  lines : Map Nat (List (Option Byte))
  reason : Nat
  peers : List Nat
  since : Nat
  answers : List Nat
  deriving DecidableEq, Repr

/-- A message between coordinator and participants, on its way (18 R397, R398). -/
inductive GroupMsg where
  | prepare (h : W64) (pkg : Nat) (peers : List Nat)
  | vote (h : W64) (pkg : Nat) (yes : Bool) (reason : Nat)
  | publish (h : W64) (pkg : Nat)
  | abort (h : W64) (pkg : Nat)
  | confirm (h : W64) (pkg : Nat)
  | query (h : W64) (src dst : Nat)
  deriving DecidableEq, Repr

/-! ## The package torus and Fenco ports -/

/-- What a packet of the torus carries, by its transaction's name and its line: a message, a request of an access or the reply to it, a piece of
a chunk of a copy, or of a multicast (18 R382). -/
inductive Cargo where
  | message (id : Nat)
  | request (id line : Nat)
  | reply (id line : Nat)
  | chunk (id line : Nat)
  | member (id line : Nat)
  deriving DecidableEq, Repr

/-- A packet on the torus (18 R382, R383): `at` is its router, or none while it waits at its source's local interface;
`port` the port on which it arrived. -/
structure TorusPacket where
  src : Nat × Nat
  dst : Nat × Nat
  at_ : Option (Nat × Nat)
  port : Dir
  age : Nat
  /-- the cycle in which it entered this router's stage -/
  since : Nat
  cargo : Cargo
  deriving DecidableEq, Repr

/-- A Fenco port (18 R384): retired lanes, whether it is down, and the flits sent again. -/
structure FencoPort where
  bad : List Nat
  down : Bool
  resent : Nat
  deriving DecidableEq, Repr

/-! ## Events of a quadrant -/

/-- The event buffer of a quadrant (20 R413, R414): SEQ, and the waiting events of 64 B, oldest first; `held` are the
fault events that wait at their cores. -/
structure QuadEvents where
  seq : Nat
  buffer : List (List Byte)
  held : List (List Byte)
  deriving DecidableEq, Repr

/-- No event. -/
def QuadEvents.fresh : QuadEvents := ⟨0, [], []⟩

/-- A home watchpoint of a package (20 R437). -/
structure HomeWatch where
  base : Nat
  len : Nat
  receiver : QuadId
  deriving DecidableEq, Repr

/-! ## Reliability -/

/-- An entry of an audit buffer (21 R459): the core and tile, the latches and scale bytes as they were, the tile before
the macro-op, the sources of the latches by address and tag, CRC_in and the signature. -/
structure AuditEntry where
  core : CoreId
  acc : Fin 4
  k : Nat
  zs : Bool
  a : LatchSrc
  b : LatchSrc
  scales : List Byte
  scaleAt : Option Nat
  tile : TileData
  crcIn : W64
  signature : W64
  deriving DecidableEq, Repr

/-- The audit buffer and counters of a cluster (21 R458, R462). -/
structure Audit where
  lfsr : W32
  k : Nat
  en : Bool
  buffer : List AuditEntry
  samp : Nat
  skip : Nat
  void : Nat
  matched : Nat
  mism : Nat
  deriving DecidableEq, Repr

/-- After reset (21 R458; K and EN: log 2, DESIGN CHOICE). -/
def Audit.fresh : Audit := ⟨0xFFFFFFFF, 0, false, [], 0, 0, 0, 0, 0⟩

/-- A key of AES-256-XTS that memory stands under (20 R432): a value that a tenant's slot holds or held, or the one of a slot that nothing has
written, which no other slot has (log 22, DESIGN CHOICE). -/
inductive MemKey where
  | value (k : BitVec 512)
  | slot (tenant : Nat)
  deriving DecidableEq, Repr

/-- A key as a number. -/
def MemKey.code : MemKey → Nat
  | .slot t => t
  | .value k => 256 + k.toNat

/-- A slice's or a site's reliability state (21 R448-R454, R463): ECCR's fields, whether its report of kind 1 has been sent, the rows
replaced by spare rows, and the corrections of each row. Which code each granule holds stands with the slice or the scratchpad. -/
structure Ras where
  ce : Nat
  ue : Nat
  ceth : Nat
  ret : Bool
  strong : Bool
  done : Bool
  reported : Bool
  spared : List Nat
  fixes : Map Nat Nat
  deriving DecidableEq, Repr

/-- ECCR after reset (21 R451). -/
def Ras.fresh : Ras := ⟨0, 0, 0xFFFF, false, false, true, false, [], []⟩

/-- REMAP of a die (21 R464). -/
structure Remap where
  st : Nat
  id : Nat
  y : Nat
  x : Nat
  sup : Bool
  /-- the worker that moves, and the site it moves to (21 R465) -/
  move : Option (Nat × Nat)
  deriving DecidableEq, Repr

/-! ## Boot -/

/-- BOOTST.ST (22 R469). -/
inductive BootSt where
  | idle | fetch | verify | discover | load | ready | failed
  deriving DecidableEq, Repr

/-- A site during discovery (22 R471): coordinates, parent port, hop count. -/
structure SiteMark where
  x : Nat
  y : Nat
  parent : Option Dir
  hops : Nat
  deriving DecidableEq, Repr

/-- A discovery packet on its way to a site, by the port on which it arrives (22 R471). -/
structure FloodPacket where
  site : Nat
  port : Dir
  x : Nat
  y : Nat
  hops : Nat
  deriving DecidableEq, Repr

/-- A die's boot and role map (22 R470-R472). -/
structure DieState where
  /-- sites fused at manufacture (22 R470) -/
  fused : List Nat
  bootCore : Nat
  image : Option (List Byte)
  verified : Option Bool
  marks : Map Nat SiteMark
  flood : List FloodPacket
  floodSince : Nat
  reports : Map Nat Bool
  acks : List Nat
  workers : Map Nat Nat
  sups : Map Nat Nat
  spares : List Nat
  ok : Bool
  remap : Remap
  /-- what the cores of the spare sites hold (22 R472, 21 R466) -/
  spareCores : Map Nat TaskCore
  deriving DecidableEq, Repr

/-- A die before power-up. -/
def DieState.fresh : DieState :=
  ⟨[], 0, none, none, [], [], 0, [], [], [], [], [], false, ⟨0, 0, 0, 0, false, none⟩, []⟩

/-! ## Tenants and the package -/

/-- A tenant's record in device control and its launch port (20 R432, R433). -/
structure Tenant where
  valid : Bool
  poolBase : Nat
  poolSize : Nat
  queue : List (BitVec 512)
  drops : Nat
  /-- pool bytes given to memory frames -/
  poolUsed : Nat
  deriving DecidableEq, Repr

/-- A tenant that firmware has not set up (log 2, DESIGN CHOICE). -/
def Tenant.fresh : Tenant := ⟨false, 0, 0, [], 0, 0⟩

/-- A kill whose sweep runs (20 R434, R435): its parties' contexts, the sites it has reached and when, the issuer. -/
structure KillSweep where
  issuer : Option CtxId
  since : Nat
  reached : Map Nat Nat
  swept : List Nat
  ids : List Nat
  /-- the stores of the ended parties that were still on their way -/
  strays : List Nat
  deriving DecidableEq, Repr

/-- A package. -/
structure Pkg where
  powered : Bool
  st : BootSt
  code : Nat
  pkgid : Nat
  fwaddr : Nat
  fwsize : Nat
  pwrnow : Nat
  pwrlim : Nat
  /-- MHz and mV of the islands -/
  islands : Map Nat (Nat × Nat)
  attn : Vector W64 4
  attst : Nat
  attrep : List Byte
  /-- ATTN and BOOTST as they stood at ATTGO (22 R475) -/
  attHeld : Option (Vector W64 4 × Nat)
  /-- the digest of the verified image -/
  digest : List Byte
  /-- the cycle at which the time counter was 0 (06 R117) -/
  timeBase : Nat
  dies : Map Nat DieState
  ttbr : W64
  pgtbase : W64
  tenants : Map Nat Tenant
  /-- group table copies by I/O die and entry (18 R389): 1,024 bits each -/
  groupTable : Map (Nat × Nat) (BitVec 1024)
  /-- scratchpad image tables by tenant and entry (15 R355): 512 bits each -/
  images : Map (Nat × Nat) (BitVec 512)
  linkKeys : Map (Nat × Nat) (BitVec 256)
  memKeys : Map Nat (BitVec 512)
  authFails : Nat
  watchDrops : Nat
  /-- the memory ports whose expander has not answered (22 R473) -/
  memDown : List Nat
  /-- signalling NaNs met by float-add, by tenant (12 R285) -/
  snans : Map Nat Nat
  msix : List Nat
  failed : List Nat
  watches : Map Nat HomeWatch
  ports : Map Nat FencoPort
  torus : List TorusPacket
  /-- the cycle in which a router has injected last (18 R382) -/
  injected : Map (Nat × Nat) Nat
  kills : List KillSweep
  deriving DecidableEq, Repr

/-- The ports that are reported down: Fenco ports, and memory ports (18 R384, 22 R473). -/
def Pkg.portsDown (k : Pkg) : Nat := (k.ports.filter (fun e => e.2.down)).length + k.memDown.length

/-- A package before power-up: BAR0 as 22 R469 resets it; the rest log 2, DESIGN CHOICE. -/
def Pkg.fresh : Pkg where
  powered := false
  st := .idle
  code := 0
  pkgid := 0
  fwaddr := 0
  fwsize := 0
  pwrnow := 0
  pwrlim := 2400000
  islands := []
  attn := Vector.replicate 4 0
  attst := 0
  attrep := []
  attHeld := none
  digest := []
  timeBase := 0
  dies := []
  ttbr := 0
  pgtbase := 0
  tenants := []
  groupTable := []
  images := []
  linkKeys := []
  memKeys := []
  authFails := 0
  watchDrops := 0
  memDown := []
  snans := []
  msix := []
  failed := []
  watches := []
  ports := []
  torus := []
  injected := []
  kills := []

end Sys2Proof.Machine
end

