-- ==== Sys2Proof/Machine/State.lean ====
section
/-! DEFINITION. The state of the machine: a whole fabric domain, and its value right after reset. -/

namespace Sys2Proof.Machine

open Sys2Proof Sys2Proof.Lanes

/-- Where the machine model itself stops. -/
inductive Fault where
  /-- Raised by `step` when the agenda names a context of a core that the package does not have. Safe: the model stops
  where no hardware exists. -/
  | noSuchCore
  deriving DecidableEq, Repr

/-- Instructions that have no meaning. -/
inductive Refusal where
  /-- Raised by an arm of `exec` that has no meaning yet. Safe: the model stops where the hardware goes on. -/
  | notModelled (mnemonic : String)
  deriving DecidableEq, Repr

/-- What a meaning finds before it acts (02 R26-R28, 05 R78; log 5, DESIGN CHOICE): the instruction can issue; a false guard, or an event
that is not enabled; a stall of 02 R28 step 3; the hold of a blocking instruction; or a fault. `cls` orders the faults of a
packet: 1 checks 7-9 of 02 R26, 2 step 2 of 02 R28, 4 its step 4, 5 its step 5, 6 its step 6. -/
inductive Verdict where
  | ok
  | idle
  | stall
  | hold
  | fault (cls : Nat) (info : FaultInfo)
  deriving DecidableEq, Repr

/-- How `exec` is used (log 5, DESIGN CHOICE): on one instruction by itself; to examine an instruction of a packet; to give its
effect once the whole packet has passed. -/
inductive Phase where
  | alone | check | effect
  deriving DecidableEq, Repr

/-- What a packet leaves for its boundary, and what its instructions read as it stood before the packet (log 5, DESIGN CHOICE). -/
structure Pk where
  phase : Phase
  verdict : Verdict
  /-- the position of the instruction -/
  pos : Nat
  /-- the core's part as it stood before the packet's effects, for reads of special registers (06 R119) -/
  before : Option TaskCore
  /-- the target of a taken branch (05 R82) -/
  target : Option W64
  /-- the destination of the link of a taken `bl` or `brl` (05 R82) -/
  link : Option Dest
  /-- the results in flight when that branch issued: the link commits after them and before later ones (05 R71, R76) -/
  linkAt : Nat
  /-- a `ba` whose guard is false (05 R91) -/
  annul : Bool
  /-- a branch stands in the packet: its two followers are delay packets (05 R94) -/
  branch : Bool
  /-- the count and lines of a `rep` (05 R93) -/
  rep : Option (Nat × Nat)
  /-- a freeze at the boundary after the packet (05 R85) -/
  after : Option FaultInfo
  /-- a copy with `.then` issued in the packet (10 R217) -/
  follow : Option Nat
  /-- issue numbers of the engine commands of the packet -/
  cmds : List Nat
  /-- the task exits (15 R371) -/
  leave : Bool
  /-- its `exit` holds although its packet has issued -/
  stay : Bool
  /-- the replay scope whose opener's frame is recorded after the packet (15 R351) -/
  record : Option W64
  deriving DecidableEq, Repr

/-- Nothing under way. -/
def Pk.fresh : Pk := ⟨.alone, .ok, 0, none, none, none, 0, false, false, none, none, none, [], false, false, none⟩

/-- Who moves next (log 4, DESIGN CHOICE): an event row; the issue arbiter of a core; time alone. -/
inductive Move where
  | event (i : Instr)
  | core (k : CoreId)
  | wait (n : Nat)
  deriving DecidableEq, Repr

/-- The machine. The first seven fields are the model's own (logs 4-6), the others the spec's. -/
structure State where
  /-- cycles since reset (01 R18) -/
  now : Nat
  /-- the context whose packet issues -/
  cur : CtxId
  pk : Pk
  agenda : List Move
  /-- names of accesses, copies and the like, never given twice -/
  nextId : Nat
  /-- how many free values have been drawn -/
  draws : Nat
  pkgs : Map Nat Pkg
  cores : Map CoreId Core
  /-- bytes by 56-bit physical address (20 R424) -/
  mem : Memory
  /-- the tenant whose key an 8 B word was written under, by physical address / 8 (20 R432); the host's is 0 -/
  keys : Map Nat MemKey
  /-- the 4-bit states of 256 B blocks of HBM in the metadata caches, by physical address / 256; 0 where not listed (12 R266) -/
  packs : Map Nat Nat
  /-- the words that are FULL, by physical address / 8 (12 R287) -/
  full : List Nat
  /-- lines that a copy or a stream owns at their home (12 R265) -/
  owned : Map Nat Nat
  /-- release records by line (13 R296) -/
  rels : Map Nat (List RelRecord)
  /-- poisoned 64 B lines (21 R454) -/
  poison : List Nat
  /-- armed monitors by name (13 R314) -/
  monitors : Map Nat Monitor
  /-- tokens of `pgok` on their way to their slices (20 R445) -/
  tokens : List W64
  /-- lines that the host holds (12 R264, 22 R468) -/
  hostHeld : List Nat
  slices : Map CluId Slice
  accs : Map Nat Access
  copies : Map Nat Copy
  streams : Map Nat Stream
  msgs : Map Nat Message
  mcsts : Map Nat Mcst
  gsts : Map Nat Gst
  nodeOps : Map Nat NodeReq
  fires : Map Nat NodeFire
  claims : Map Nat ClaimReq
  hubs : Map (CluId × Nat) Hub
  /-- shares on their way back to their hubs (15 R344) -/
  returns : List SpokeBack
  tasks : Map Nat Task
  units : Map CluId Dispatcher
  audits : Map CluId Audit
  ras : Map RasUnit Ras
  quads : Map QuadId QuadEvents
  groups : Map (Nat × Nat × Nat) Group
  gwaits : Map (Nat × Nat × Nat) (List GroupWait)
  parts : Map (Nat × W64) Participant
  /-- messages of the commit protocol on their way, with the cycles in which they were sent (18 R396) -/
  gmsgs : List (GroupMsg × Nat)
  deriving DecidableEq, Repr

/-- Right after reset: one package, powered, BOOTST.ST = IDLE (22 R469, R470). -/
def State.reset : State where
  now := 0
  cur := ⟨⟨0, 0, 0⟩, 0⟩
  pk := Pk.fresh
  agenda := []
  nextId := 1
  draws := 0
  pkgs := [(0, { Pkg.fresh with powered := true, dies := (List.range 4).map (fun d => (d, DieState.fresh)) })]
  cores := []
  mem := []
  keys := []
  packs := []
  full := []
  owned := []
  rels := []
  poison := []
  monitors := []
  tokens := []
  hostHeld := []
  slices := []
  accs := []
  copies := []
  streams := []
  msgs := []
  mcsts := []
  gsts := []
  nodeOps := []
  fires := []
  claims := []
  hubs := []
  returns := []
  tasks := []
  units := []
  audits := []
  ras := []
  quads := []
  groups := []
  gwaits := []
  parts := []
  gmsgs := []

end Sys2Proof.Machine
end

