-- ==== Sys2Proof/Machine/Ops.lean ====
section
/-! DEFINITION. The named operations over the state: places of cores and contexts, commits and landings (05 R75-R80),
links (05 R80, R87), asynchronous faults (20 R419), and taking a fault (02 R27, 05 R85, 20 R413-R415). -/

namespace Sys2Proof.Machine

open Sys2Proof Sys2Proof.Lanes

/-- What a meaning answers. -/
abbrev Out := Host.Outcome State Fault Refusal

/-! ## Parts of the state -/

/-- A package by its id. -/
def State.pkg (s : State) (p : Nat) : Pkg := s.pkgs.get p Pkg.fresh
@[inherit_doc State.pkg] def State.setPkg (s : State) (p : Nat) (f : Pkg → Pkg) : State :=
  { s with pkgs := s.pkgs.set p (f (s.pkg p)) }

/-- A die of a package. -/
def State.die (s : State) (p d : Nat) : DieState := (s.pkg p).dies.get d DieState.fresh
@[inherit_doc State.die] def State.setDie (s : State) (p d : Nat) (f : DieState → DieState) : State :=
  s.setPkg p (fun k => { k with dies := k.dies.set d (f (s.die p d)) })

/-- A tenant of a package (20 R432). -/
def State.tenant (s : State) (p t : Nat) : Tenant := (s.pkg p).tenants.get t Tenant.fresh
@[inherit_doc State.tenant] def State.setTenant (s : State) (p t : Nat) (f : Tenant → Tenant) : State :=
  s.setPkg p (fun k => { k with tenants := k.tenants.set t (f (s.tenant p t)) })

/-- A core. -/
def State.core (s : State) (k : CoreId) : Core := s.cores.get k Core.fresh
@[inherit_doc State.core] def State.setCore (s : State) (k : CoreId) (f : Core → Core) : State :=
  { s with cores := s.cores.set k (f (s.core k)) }

/-- A slice. -/
def State.slice (s : State) (l : CluId) : Slice := s.slices.get l Slice.fresh
@[inherit_doc State.slice] def State.setSlice (s : State) (l : CluId) (f : Slice → Slice) : State :=
  { s with slices := s.slices.set l (f (s.slice l)) }

/-- A unit's reliability state (21 R451). -/
def State.rasOf (s : State) (u : RasUnit) : Ras := s.ras.get u Ras.fresh
@[inherit_doc State.rasOf] def State.setRas (s : State) (u : RasUnit) (f : Ras → Ras) : State :=
  { s with ras := s.ras.set u (f (s.rasOf u)) }

/-- A cluster's auditor (21 R458). -/
def State.audit (s : State) (l : CluId) : Audit := s.audits.get l Audit.fresh
@[inherit_doc State.audit] def State.setAudit (s : State) (l : CluId) (f : Audit → Audit) : State :=
  { s with audits := s.audits.set l (f (s.audit l)) }

/-- A name never given before. -/
def State.fresh (s : State) : Nat × State := (s.nextId, { s with nextId := s.nextId + 1 })

/-- A value that the spec leaves open, one per draw (log 6, DESIGN CHOICE). -/
def State.draw (s : State) : Nat × State := (Config.free s.draws, { s with draws := s.draws + 1 })

/-! ## Places (01 R9, R10, R13, R14; 22 R472) -/

/-- A supervisor core (log 1, DESIGN CHOICE). -/
def isSup (k : CoreId) : Bool := 992 ≤ k.num

/-- The site of a core in its die, 32 y + x; a core without a role stands where its number says (log 1, DESIGN CHOICE). -/
def State.site (s : State) (k : CoreId) : Nat :=
  let d := s.die k.pkg k.die
  if isSup k then
    let q := k.num - 992
    d.sups.get q (512 * (q / 2) + 16 * (q % 2))
  else d.workers.get k.num k.num

/-- Coordinates of a site. -/
def siteX (n : Nat) : Nat := n % 32
@[inherit_doc siteX] def siteY (n : Nat) : Nat := n / 32 % 32

/-- The cluster, quadrant of a site (01 R10). -/
def siteClu (n : Nat) : Nat := siteY n / 4 * 8 + siteX n / 4
@[inherit_doc siteClu] def siteQuad (n : Nat) : Nat := siteY n / 16 * 2 + siteX n / 16

/-- The voltage and frequency island of a site in its package (01 R10). -/
def siteIsland (die n : Nat) : Nat := die * 8 + siteQuad n * 2 + siteY n / 8 % 2

/-- Torus coordinates of a site (01 R9). -/
def torusXY (die n : Nat) : Nat × Nat := (siteX n + 32 * (die % 2), siteY n + 32 * (die / 2))

/-- The cluster and the quadrant of a core. -/
def State.clu (s : State) (k : CoreId) : CluId := ⟨k.pkg, k.die, siteClu (s.site k)⟩
@[inherit_doc State.clu] def State.quad (s : State) (k : CoreId) : QuadId := ⟨k.pkg, k.die, siteQuad (s.site k)⟩

/-- The supervisor core of a quadrant (log 1, DESIGN CHOICE). -/
def supOf (q : QuadId) : CoreId := ⟨q.pkg, q.die, 992 + q.quad⟩

/-- Two cores share the storage of a reach (01 R15). -/
def State.within (s : State) (reach : Nat) (a b : CoreId) : Bool :=
  match reach with
  | 0 => a == b
  | 1 => s.clu a == s.clu b
  | 2 => s.quad a == s.quad b
  | 3 => a.pkg == b.pkg
  | _ => true

/-! ## Contexts -/

/-- A context of a task part. -/
def TaskCore.ctx (t : TaskCore) (n : Nat) : Ctx := t.ctxs.get n Ctx.fresh
@[inherit_doc TaskCore.ctx] def TaskCore.setCtx (t : TaskCore) (n : Nat) (f : Ctx → Ctx) : TaskCore :=
  { t with ctxs := t.ctxs.set n (f (t.ctx n)) }

/-- The task part of a core. -/
def State.tc (s : State) (k : CoreId) : TaskCore := (s.core k).tc
@[inherit_doc State.tc] def State.setTc (s : State) (k : CoreId) (f : TaskCore → TaskCore) : State :=
  s.setCore k (fun c => { c with tc := f c.tc })

/-- A switch in progress has stopped an engine of the core (15 R363). -/
def State.stopped (s : State) (k : CoreId) (e : Engine) : Bool :=
  match (s.core k).switch with
  | some w => w.acked.contains e
  | none => false

/-- A context by its name. -/
def State.ctx (s : State) (c : CtxId) : Ctx := (s.tc c.core).ctx c.ctx
@[inherit_doc State.ctx] def State.setCtx (s : State) (c : CtxId) (f : Ctx → Ctx) : State :=
  s.setTc c.core (fun t => t.setCtx c.ctx f)

/-- The issuing context and its core. -/
def State.me (s : State) : Ctx := s.ctx s.cur
@[inherit_doc State.me] def State.setMe (s : State) (f : Ctx → Ctx) : State := s.setCtx s.cur f
@[inherit_doc State.me] def State.myTc (s : State) : TaskCore := s.tc s.cur.core
@[inherit_doc State.me] def State.setMyTc (s : State) (f : TaskCore → TaskCore) : State := s.setTc s.cur.core f
/-- The task bound to the issuing context's core. -/
def State.myTask (s : State) : Option Nat := (s.core s.cur.core).task

/-- The tenant and the package of the issuing context (20 R429). -/
def tenantOf (dom : BitVec 16) : Nat := dom.toNat / 256
@[inherit_doc tenantOf] def State.myTenant (s : State) : Nat := tenantOf s.me.domain

/-- Where a task's part stands: on its core, or in its frame (20 R421). A context without a task is the core's own; a task that
has gone has none. -/
def State.partOf (s : State) (task : Option Nat) (k : CoreId) : TaskCore :=
  match task with
  | none => s.tc k
  | some t => match s.tasks.find t with
    | some tk => match tk.core with
      | some k' => s.tc k'
      | none => tk.frame.getD TaskCore.fresh
    | none => TaskCore.fresh
@[inherit_doc State.partOf] def State.setPart (s : State) (task : Option Nat) (k : CoreId) (f : TaskCore → TaskCore) : State :=
  match task with
  | none => s.setTc k f
  | some t => match s.tasks.find t with
    | some tk => match tk.core with
      | some k' => s.setTc k' f
      | none => { s with tasks := s.tasks.set t { tk with frame := some (f (tk.frame.getD TaskCore.fresh)) } }
    | none => s

/-- A context wherever its task stands. -/
def State.ctxOf (s : State) (task : Option Nat) (c : CtxId) : Ctx := (s.partOf task c.core).ctx c.ctx
@[inherit_doc State.ctxOf] def State.setCtxOf (s : State) (task : Option Nat) (c : CtxId) (f : Ctx → Ctx) : State :=
  s.setPart task c.core (fun t => t.setCtx c.ctx f)

/-- Two names of one context. A task keeps its contexts when it goes on on another core (15 R363); a context without a task is its
core's. -/
def sameCtx (t u : Option Nat) (a b : CtxId) : Bool := t == u && a.ctx == b.ctx && (t.isSome || a.core == b.core)

/-- The name is the issuing context's. -/
def State.ofMine (s : State) (c : CtxId) (task : Option Nat) : Bool := sameCtx task s.myTask c s.cur

/-! ## Registers -/

/-- The registers of 01, 08: p0 reads all ones (05 R76). -/
def Ctx.getG (c : Ctx) (n : BitVec 5) : W64 := c.g.toArray.getD n.toNat 0
@[inherit_doc Ctx.getG] def Ctx.getV (c : Ctx) (n : BitVec 5) : VReg := c.v.toArray.getD n.toNat VReg.rawZero
@[inherit_doc Ctx.getG] def Ctx.getP (c : Ctx) (n : BitVec 3) : PBits :=
  if n = 0 then BitVec.allOnes 512 else c.p.toArray.getD n.toNat 0

/-- A write clears the register's poison (20 R420); a write to p0 is discarded (05 R76). -/
def Ctx.setG (c : Ctx) (n : BitVec 5) (x : W64) : Ctx :=
  { c with g := c.g.setIfInBounds n.toNat x, poisonG := c.poisonG &&& ~~~ (1#32 <<< n.toNat) }
@[inherit_doc Ctx.setG] def Ctx.setV (c : Ctx) (n : BitVec 5) (x : VReg) : Ctx :=
  { c with v := c.v.setIfInBounds n.toNat x, poisonV := c.poisonV &&& ~~~ (1#32 <<< n.toNat) }
@[inherit_doc Ctx.setG] def Ctx.setP (c : Ctx) (n : BitVec 3) (x : PBits) : Ctx :=
  if n = 0 then c
  else { c with p := c.p.setIfInBounds n.toNat x, poisonP := c.poisonP &&& ~~~ (1#8 <<< n.toNat) }

/-! ## Special registers (06 R118-R120) -/

/-- A context-scoped special register by number, the chain apart. -/
def SprFile.read (r : SprFile) (n : Nat) : W64 :=
  if n = 0 then r.csc else if n = 1 then r.rclk else if n = 2 then r.cad else if n = 3 then r.fctl
  else if n = 7 then r.fstat
  else if 0x20 ≤ n ∧ n ≤ 0x23 then r.ibp.toArray.getD (n - 0x20) 0
  else if n = 0x28 ∨ n = 0x29 then r.wpc.toArray.getD (n - 0x28) 0
  else 0

/-- The writable bits of a special register (00 R5, R6 and the register's map). -/
def sprMask (n : Nat) : W64 :=
  if n = 2 then 0xFFFF
  else if n = 3 then 7
  else if n = 4 then 1
  else if n = 5 then 0xFFFFFFFF
  else if n = 6 then BitVec.allOnes 64
  else if 0x10 ≤ n ∧ n ≤ 0x13 then 0xFFFFFF000007F800
  else if 0x20 ≤ n ∧ n ≤ 0x23 then 0xFFFFFFFFFFFFFFE7
  else if n = 0x28 ∨ n = 0x29 then BitVec.allOnes 64
  else 0

/-- BASE bits below the size of an open window read as zero (09 R178). -/
def winKept (v : W64) : W64 :=
  let sz := bitsOf v 46 43
  if 1 ≤ sz ∧ sz ≤ 9 then v &&& ~~~ BitVec.ofNat 64 (2 ^ (10 + sz) - 1) else v
/-- ADDR bits below the length of a watchpoint read as zero; KIND and SZ stand (20 R436). -/
def wpcKept (v : W64) : W64 :=
  (v &&& ~~~ BitVec.ofNat 64 (16 * 4 ^ bitsOf v 1 0 - 1)) ||| (v &&& 15)

/-- Clear FAILED, CNT and the ids of FSTAT (13 R312). -/
def fstatClear (_ : W64) : W64 := 0

/-- A write to a context-scoped register takes effect. Writing 1 to FSTAT.FAILED clears it (13 R312). -/
def SprFile.write (r : SprFile) (n : Nat) (x : W64) : SprFile :=
  let v := x &&& sprMask n
  if n = 2 then { r with cad := v }
  else if n = 3 then { r with fctl := v }
  else if n = 7 then (if bitAt x 0 then { r with fstat := fstatClear r.fstat, lost := [] } else r)
  else if 0x20 ≤ n ∧ n ≤ 0x23 then { r with ibp := r.ibp.setIfInBounds (n - 0x20) v }
  else if n = 0x28 ∨ n = 0x29 then { r with wpc := r.wpc.setIfInBounds (n - 0x28) (wpcKept v) }
  else r

/-- SCTL.SNC cleared (09 R177). -/
def TaskCore.clearSnc (t : TaskCore) : TaskCore := { t with sctl := t.sctl &&& 1 }
/-- Every layout tag 0 (09 R176, R177). -/
def TaskCore.clearLayout (t : TaskCore) : TaskCore := { t with layout := [] }

/-- A core-scoped register by number. -/
def TaskCore.sprRead (t : TaskCore) (n : Nat) : W64 :=
  if n = 4 then t.sctl else if n = 5 then t.etol else if n = 6 then t.mthr
  else t.win.toArray.getD (n - 0x10) 0

/-- A write to a core-scoped register takes effect (06 R120, 09 R177). -/
def TaskCore.sprWrite (t : TaskCore) (n : Nat) (x : W64) : TaskCore :=
  let v := x &&& sprMask n
  if n = 4 then
    let t1 := { t with sctl := (t.sctl &&& 0x0000FFFF00000000) ||| v }
    let t2 := if bitAt x 2 then t1.clearSnc else t1
    if bitAt x 1 then t2.clearLayout else t2
  else if n = 5 then { t with etol := v }
  else if n = 6 then { t with mthr := v }
  else { t with win := t.win.setIfInBounds (n - 0x10) (winKept v) }

/-! ## Gangs and links (02 R33, R34; 05 R80, R87) -/

/-- A gang member's task by position. -/
def State.member (s : State) (gang x y : Nat) : Option Nat :=
  (s.tasks.search (fun _ t => match t.gang with
    | some g => g.gang == gang && g.x == x && g.y == y
    | none => false)).map (·.1)

/-- The position next to one, inside the gang's rectangle. North is +y, east is +x (01 R9). -/
def GangPos.next (g : GangPos) : Dir → Option (Nat × Nat)
  | .n => if g.y + 1 < g.h then some (g.x, g.y + 1) else none
  | .e => if g.x + 1 < g.w then some (g.x + 1, g.y) else none
  | .s => if 0 < g.y then some (g.x, g.y - 1) else none
  | .w => if 0 < g.x then some (g.x - 1, g.y) else none

/-- The task joined to a task in a direction. -/
def State.neighbour (s : State) (task : Option Nat) (d : Dir) : Option Nat :=
  (task.bind s.tasks.find).bind (fun t => t.gang.bind (fun g => (g.next d).bind (fun p => s.member g.gang p.1 p.2)))

/-- An inbound channel. -/
def Links.chan (l : Links) (vec : Bool) (d : Dir) : List LinkEntry := (if vec then l.v else l.s).get d []
@[inherit_doc Links.chan] def Links.setChan (l : Links) (vec : Bool) (d : Dir) (f : List LinkEntry → List LinkEntry) : Links :=
  if vec then { l with v := l.v.set d (f (l.chan vec d)) } else { l with s := l.s.set d (f (l.chan vec d)) }

/-- Fill the reserved entry `key` of the neighbour's channel (05 R80); an entry discarded since is gone (05 R87). -/
def State.fillLink (s : State) (task : Option Nat) (k : CoreId) (d : Dir) (vec : Bool) (key : Nat) (v : RVal) : State :=
  match s.neighbour task d with
  | none => s
  | some n => s.setPart (some n) k (fun t => { t with
      links := t.links.setChan vec d.opposite (fun es => es.map (fun e => if e.key = key then { e with val := some v } else e)) })

/-! ## Commits and landings (05 R75-R77, R86) -/

/-- A value enters its destination. A link result is filled by the caller. -/
def Ctx.enter (c : Ctx) (d : Dest) (v : RVal) : Ctx :=
  match d, v with
  | .g n, .g x => c.setG n x
  | .v n, .v x => c.setV n x
  | .p n, .p x => c.setP n x
  | _, _ => c

/-- A result commits. -/
def State.commitOne (s : State) (task : Option Nat) (c : CtxId) (d : Dest) (v : RVal) : State :=
  match d, v with
  | .link dir vec key, v => s.fillLink task c.core dir vec key v
  | .spr n, .g x =>
    if sprCoreScoped n then s.setPart task c.core (fun t => t.sprWrite n x)
    else s.setCtxOf task c (fun k => { k with spr := k.spr.write n x })
  | d, v => s.setCtxOf task c (fun k => k.enter d v)

/-- The records of a context that commit at the packet about to issue, oldest first (05 R75, R76). -/
def Ctx.due (c : Ctx) : List InFlight := (c.inflight.filter (fun r => decide (r.due ≤ c.pipe))).reverse

/-- Commit one record and clear the scoreboard entry it carries (05 R77). -/
def State.commitRec (s : State) (task : Option Nat) (c : CtxId) (r : InFlight) : State :=
  let s1 := s.commitOne task c r.dest r.val
  match r.tok with
  | some t => s1.setCtxOf task c (fun k => { k with pend := k.pend.filter (fun p => !(p.tok == t && p.dest == r.dest)) })
  | none => s1

/-- The commits of a packet's start (05 R75). -/
def State.commitDue (s : State) (task : Option Nat) (c : CtxId) : State :=
  let k := s.ctxOf task c
  let s1 := k.due.foldl (fun s r => s.commitRec task c r) s
  s1.setCtxOf task c (fun k => { k with inflight := k.inflight.filter (fun r => !decide (r.due ≤ k.pipe)) })

/-- A scoreboarded result lands in one destination (05 R77): after a fixed result to the same destination that is still
in flight, else at once. -/
def State.landOne (s : State) (task : Option Nat) (c : CtxId) (tok : Nat) (d : Dest) (v : RVal) : State :=
  let k := s.ctxOf task c
  match (k.inflight.filter (fun r => r.dest == d)).map (·.due) with
  | [] =>
    let s1 := s.commitOne task c d v
    s1.setCtxOf task c (fun k => { k with pend := k.pend.filter (fun p => !(p.tok == tok && p.dest == d)) })
  | x :: xs => s.setCtxOf task c (fun k => { k with inflight := ⟨d, v, xs.foldl max x, some tok⟩ :: k.inflight })

/-- The destinations that wait for an operation. -/
def Ctx.waitingOn (c : Ctx) (tok : Nat) : List Dest := (c.pend.filter (fun p => p.tok == tok)).map (·.dest)

/-- The same in the registers of a recorded frame. -/
def Ctx.landOne (k : Ctx) (tok : Nat) (d : Dest) (v : RVal) : Ctx :=
  match (k.inflight.filter (fun r => r.dest == d)).map (·.due) with
  | [] => { k.enter d v with pend := k.pend.filter (fun p => !(p.tok == tok && p.dest == d)) }
  | x :: xs => { k with inflight := ⟨d, v, xs.foldl max x, some tok⟩ :: k.inflight }

/-- What comes back to a context of a part reaches the frames that are recorded there, too: they were recorded with the operation in flight
(15 R351; log 28, DEDUCED). -/
def State.onRecorded (s : State) (task : Option Nat) (k : CoreId) (g : Ctx → Ctx) : State :=
  if (s.partOf task k).recorded.isEmpty then s
  else s.setPart task k (fun t => { t with recorded := t.recorded.map (fun e => (e.1, e.2.1, g e.2.2)) })

/-- A scoreboarded operation lands; `f` gives the value of each kind of destination. -/
def State.land (s : State) (task : Option Nat) (c : CtxId) (tok : Nat) (f : Dest → RVal) : State :=
  (((s.ctxOf task c).waitingOn tok).foldl (fun s d => s.landOne task c tok d (f d)) s).onRecorded task c.core
    (fun k => (k.waitingOn tok).foldl (fun k d => k.landOne tok d (f d)) k)

/-- An operation lands a g result. -/
def State.landG (s : State) (task : Option Nat) (c : CtxId) (tok : Nat) (x : W64) : State := s.land task c tok (fun _ => .g x)
@[inherit_doc State.landG] def State.landV (s : State) (task : Option Nat) (c : CtxId) (tok : Nat) (x : VReg) : State :=
  s.land task c tok (fun _ => .v x.canon)

/-- Insertion behind every record that is due no later. -/
def insertDue (r : InFlight) : List InFlight → List InFlight
  | [] => [r]
  | x :: xs => if r.due < x.due then r :: x :: xs else x :: insertDue r xs

/-- At `exit` every in-flight result commits at once, in the order of their packets, and a pending divide lands: a result bound for a
link enters its reserved entry (05 R80, R87). -/
def State.commitAll (s : State) (task : Option Nat) (c : CtxId) : State :=
  let k := s.ctxOf task c
  let s1 := (k.inflight.reverse.foldl (fun l r => insertDue r l) []).foldl (fun s r => s.commitRec task c r) s
  let s2 := s1.setCtxOf task c (fun k => { k with inflight := [], divide := none })
  match k.divide with
  | some d => s2.landG task c d.tok d.val
  | none => s2

/-! ## Results at issue (05 R75-R80) -/

/-- A destination without a link. -/
def Dest.ofG : Sel → Dest
  | .reg n => .g n
  | _ => .none
@[inherit_doc Dest.ofG] def Dest.ofV : Sel → Dest
  | .reg n => .v n
  | _ => .none
@[inherit_doc Dest.ofG] def Dest.ofP : Sel → Dest
  | .reg n => if n.toNat % 8 = 0 then .none else .p (n.truncate 3)
  | _ => .none

/-- Reserve an entry of the outbound channel (05 R80). -/
def State.reserve (s : State) (d : Dir) (vec : Bool) : Dest × State :=
  match s.neighbour s.myTask d with
  | none => (.none, s)
  | some n =>
    let key := s.nextId
    (.link d vec key, { s with nextId := key + 1 }.setPart (some n) s.cur.core (fun t => { t with
      links := t.links.setChan vec d.opposite (fun es => es ++ [(⟨key, none⟩ : LinkEntry)]) }))

/-- The destination of an S or a V instruction, its link entry reserved. -/
def State.destOf (s : State) (vec : Bool) (sel : Sel) : Dest × State :=
  match sel with
  | .link d => s.reserve d vec
  | x => (if vec then Dest.ofV x else Dest.ofG x, s)

/-- A result of fixed latency (05 R75). A result to ZERO or p0 is discarded (05 R76). -/
def State.later (s : State) (d : Dest) (lat : Nat) (v : RVal) : State :=
  if d = .none then s else s.setMe (fun c => { c with inflight := (⟨d, v, c.pipe + lat, none⟩ : InFlight) :: c.inflight })

/-- An S result of latency `lat`. -/
def State.resultG (s : State) (sel : Sel) (lat : Nat) (x : W64) : State :=
  let r := s.destOf false sel
  r.2.later r.1 lat (.g x)
/-- A V result of latency `lat` (07 R123). -/
def State.resultV (s : State) (sel : Sel) (lat : Nat) (x : VReg) : State :=
  let r := s.destOf true sel
  r.2.later r.1 lat (.v x.canon)
/-- A predicate result of latency `lat`. -/
def State.resultP (s : State) (sel : Sel) (lat : Nat) (x : PBits) : State := s.later (Dest.ofP sel) lat (.p x)

/-- Mark the destinations of a new scoreboarded operation pending, and name the operation (05 R77). -/
def State.pendOn (s : State) (ds : List Dest) : Nat × State :=
  let tok := s.nextId
  (tok, { s with nextId := tok + 1 }.setMe (fun c =>
    { c with pend := (ds.filter (fun d => d != Dest.none)).map (fun d => (⟨d, tok⟩ : Pend)) ++ c.pend }))

/-! ## Events of a quadrant and taking a fault (02 R27, 05 R85, 20 R413-R415) -/

/-- A quadrant's events. -/
def State.quadEvents (s : State) (q : QuadId) : QuadEvents := s.quads.get q QuadEvents.fresh

/-- Put SEQ into bytes 6-7 of an event. -/
def withSeq (n : Nat) (bs : List Byte) : List Byte := bs.take 6 ++ leBytes 2 n ++ bs.drop 8

/-- An event enters the buffer; of a full buffer's events a fault event waits at its core, and any other is dropped and
counted (20 R413, R437, 21 R456). -/
def State.pushEvent (s : State) (q : QuadId) (isFault : Bool) (bs : List Byte) : State :=
  let e := s.quadEvents q
  if e.buffer.length < 256 then
    { s with quads := s.quads.set q { e with seq := (e.seq + 1) % 65536, buffer := e.buffer ++ [withSeq e.seq bs] } }
  else if isFault then { s with quads := s.quads.set q { e with held := e.held ++ [bs] } }
  else s.setPkg q.pkg (fun p => { p with watchDrops := p.watchDrops + 1 })

/-- SRC of a fault packet (20 R414). -/
def srcCode (c : CtxId) : Nat := c.core.num % 1024 + 1024 * (c.core.die % 4) + 4096 * c.ctx

/-- A chain entry as a register shows it (05 R81). -/
def PcWord.word (e : PcWord) : W64 :=
  e.pc ||| BitVec.ofNat 64 (e.sq.toNat * 32 + e.tgt.toNat * 16 + e.anl.toNat * 8)
/-- A chain entry from a register's bits. -/
def pcOfWord (w : W64) : PcWord := ⟨w &&& ~~~ 0x38#64, bitAt w 5, bitAt w 4, bitAt w 3⟩

/-- A fault packet, SEQ left open (20 R414). -/
def faultBytes (c : CtxId) (k : Ctx) (fi : FaultInfo) : List Byte :=
  leBytes 2 (srcCode c) ++ leBytes 1 fi.cause ++ leBytes 1 (1 + 16 * fi.typ) ++ leBytes 2 k.domain.toNat ++ leBytes 2 0
    ++ leBytes 8 fi.addr.toNat ++ leBytes 8 k.pcq0.word.toNat ++ leBytes 4 k.pcq1.word.toNat ++ leBytes 4 k.pcq2.word.toNat
    ++ List.replicate 32 0

/-- Cycles in which the context was neither frozen nor swapped out, since the last tick (12 R269). -/
def Ctx.elapsed (c : Ctx) (now : Nat) : Nat :=
  if c.life = .running then c.elapsedHeld + (now - c.elapsedFrom) else c.elapsedHeld

/-- What an instruction that has begun and cannot begin again waits for stays across a freeze. -/
def keepHold (h : Option Hold) : Option Hold := h.bind (fun x => if x.kind = .own then some x else none)

/-- A context stops running. -/
def Ctx.stop (c : Ctx) (now : Nat) (cause : Nat) : Ctx :=
  { c with
    life := .frozen, cause := cause, elapsedHeld := c.elapsed now, hold := keepHold c.hold, holdC := keepHold c.holdC, resumed := false
    stepOnce := false }

/-- TAKE A FAULT: the context freezes with the cause, and its fault packet goes to the quadrant's supervisor (02 R27, 05
R85, 20 R413-R415). A context that is not running is left as it is. -/
def State.takeFault (s : State) (c : CtxId) (fi : FaultInfo) : State :=
  let k := s.ctx c
  if k.life = .running then
    (s.setCtx c (fun k => k.stop s.now fi.cause)).pushEvent (s.quad c.core) true (faultBytes c k fi)
  else s

/-- A context runs again from PCQ0 (20 R442): RETURN from a fault. The lines of a repeat body are read afresh (05 R96). -/
def Ctx.resume (c : Ctx) (now : Nat) (once : Bool) : Ctx :=
  { c with life := .running, cause := 0, elapsedFrom := now, resumed := true, stepOnce := once, rep := { c.rep with buf := [] } }

/-! ## Asynchronous faults (20 R419, R420) -/

/-- Poison a destination. -/
def Ctx.poison (c : Ctx) : Dest → Ctx
  | .g n => { c with poisonG := c.poisonG ||| (1#32 <<< n.toNat) }
  | .v n => { c with poisonV := c.poisonV ||| (1#32 <<< n.toNat) }
  | .p n => if n = 0 then c else { c with poisonP := c.poisonP ||| (1#8 <<< n.toNat) }
  | _ => c

/-- A destination is poisoned. -/
def Ctx.poisoned (c : Ctx) : Dest → Bool
  | .g n => bitAt c.poisonG n.toNat
  | .v n => bitAt c.poisonV n.toNat
  | .p n => bitAt c.poisonP n.toNat
  | _ => false

/-- The record takes a fault, or counts it. -/
def Ctx.record (c : Ctx) (a : Afr) : Ctx :=
  match c.afr with
  | none => { c with afr := some a }
  | some r => { c with afr := some { r with count := min (r.count + 1) 255 } }

/-- An operation's destinations are poisoned, and no longer pending. -/
def Ctx.spoilt (k : Ctx) (tok : Option Nat) : Ctx :=
  let k1 := ((tok.map k.waitingOn).getD []).foldl Ctx.poison k
  { k1 with pend := k1.pend.filter (fun p => some p.tok != tok) }

/-- An asynchronous memory fault (20 R419): its destinations are poisoned and no longer pending, and the record takes
it. -/
def State.asyncFault (s : State) (task : Option Nat) (c : CtxId) (tok : Option Nat) (a : Afr) : State :=
  (s.setCtxOf task c (fun k => (k.spoilt tok).record a)).onRecorded task c.core (·.spoilt tok)

/-- An asynchronous fault of an operation: its context takes it, unless that has gone meanwhile (20 R419, R434). -/
def State.faultOf (s : State) (task : Option Nat) (c : CtxId) (incarn : Nat) (tok : Option Nat) (a : Afr) : State :=
  if (s.ctxOf task c).incarn = incarn then s.asyncFault task c tok a else s

/-- A pending freeze of 02 R28 step 2 by the record: POISON 4, FENCE 8 beside ASYNC 1 (20 R414, R420). -/
def Ctx.afrFault (c : Ctx) (typ : Nat) : Option FaultInfo := c.afr.map (fun a => ⟨a.cause, 1 + typ, a.ea⟩)

end Sys2Proof.Machine
end

