-- ==== Sys2Proof/Machine/Operands.lean ====
section
/-! DEFINITION. Operands: what the selectors of an instruction read and write, their values, and how a meaning is run: the
checks of 02 R26 and R28 that depend on the word alone, then the entry's own (logs 5, 7). -/

namespace Sys2Proof.Machine

open Sys2Proof Sys2Proof.Lanes

/-! ## Reads and writes of a selector -/

/-- The register that a selector reads in its role. -/
def readOf (k : SelKind) (ls rg : Bool) : Sel → Option Dest
  | .reg n => match k with
    | .gs | .gi | .gr | .grz | .gh => some (.g n)
    | .gls => if ls then some (.g n) else none
    | .cpd => if rg then none else some (.g n)
    | .ps => some (.p (n.truncate 3))
    | .vs | .vl | .vlz | .vr | .vz | .vrw => some (.v n)
    | _ => none
  | _ => none

/-- The register that a selector writes in its role. -/
def writeOf (k : SelKind) : Sel → Option Dest
  | .reg n => match k with
    | .gd | .gz => some (.g n)
    | .pd => if n.toNat % 8 = 0 then none else some (.p (n.truncate 3))
    | .vd | .vzd | .vr_d | .vrw => some (.v n)
    | _ => none
  | _ => none

/-- The channel kind of a link in its role: vector or scalar. -/
def isVecLink : SelKind → Bool
  | .vd | .vs | .vl | .vlz => true
  | _ => false

/-- The selectors of a word with their roles, the destination first. -/
def roles (sh : Shape) (f : Fields) : List (SelKind × Sel) := [(sh.d, f.d), (sh.a, f.a), (sh.b, f.b), (sh.c, f.c)]

/-- The registers read as sources. -/
def sources (sh : Shape) (f : Fields) : List Dest := (roles sh f).filterMap (fun r => readOf r.1 f.modU f.rg r.2)
/-- The registers written. -/
def targets (sh : Shape) (f : Fields) : List Dest := (roles sh f).filterMap (fun r => writeOf r.1 r.2)

/-- The inbound links named, each once (02 R33). -/
def linksIn (sh : Shape) (f : Fields) : List (Bool × Dir) :=
  (([(sh.a, f.a), (sh.b, f.b), (sh.c, f.c)].filterMap (fun r => match r.2 with
    | .link d => some (isVecLink r.1, d)
    | _ => none)).eraseDups)

/-- The outbound link named. -/
def linkOut (sh : Shape) (f : Fields) : Option (Bool × Dir) :=
  match f.d with
  | .link d => some (isVecLink sh.d, d)
  | _ => none

/-- A link selector stands in the word. -/
def namesLink (f : Fields) : Bool := [f.d, f.a, f.b, f.c].any (fun x => match x with
  | .link _ => true
  | _ => false)

/-- The v registers named, of any role (02 R26 check 7). -/
def vectorNames (sh : Shape) (f : Fields) : List (BitVec 5) := (roles sh f).filterMap (fun r =>
  match r.1, r.2 with
  | .vd, .reg n | .vzd, .reg n | .vr_d, .reg n | .vrw, .reg n | .vs, .reg n | .vl, .reg n | .vlz, .reg n | .vr, .reg n
  | .vz, .reg n => some n
  | _, _ => none)

/-! ## Values -/

/-- The oldest arrived entry of the issuing core's inbound channel (05 R80). -/
def State.linkHead (s : State) (vec : Bool) (d : Dir) : Option RVal :=
  match s.myTc.links.chan vec d with
  | e :: _ => e.val
  | [] => none

/-- A g operand (02 R31, R32). -/
def State.gval (s : State) (f : Fields) : Sel → W64
  | .reg n => s.me.getG n
  | .zero => 0
  | .imm => f.immS
  | .link d => match s.linkHead false d with
    | some (.g x) => x
    | _ => 0

/-- A v operand under its lane pattern (02 R32, R35). -/
def State.vval (s : State) (f : Fields) (pat : BitVec 6) : Sel → VSrc
  | .reg n => .val (applyPattern pat (s.me.getV n))
  | .zero => .zero
  | .imm => .imm f.immS
  | .link d => match s.linkHead true d with
    | some (.v r) => .val (applyPattern pat r)
    | _ => .zero

/-- A p operand. -/
def State.pval (s : State) : Sel → PBits
  | .reg n => s.me.getP (n.truncate 3)
  | _ => 0

/-- The guard's value at issue (02 R30). A predicate holds as a guard where its bit 0 is set (08 R149). -/
def State.guardTrue (s : State) (f : Fields) : Bool := (bitAt (s.me.getP f.guard.p) 0) != f.guard.neg

/-- The PC of the instruction in hand (02 R27). -/
def State.myPc (s : State) : W64 := (s.me.pcq0.pc &&& ~~~ 63#64) ||| BitVec.ofNat 64 s.pk.pos

/-- A fault whose address field is the instruction's PC. -/
def State.atPc (s : State) (cls cause : Nat) : Verdict := .fault cls ⟨cause, 0, s.myPc⟩

/-! ## Causes (20 R412) -/

/-- The cause codes. -/
def cIllegal : Nat := 0x01
@[inherit_doc cIllegal]
def cBadLine : Nat := 0x02
@[inherit_doc cIllegal]
def cBadPacket : Nat := 0x03
@[inherit_doc cIllegal]
def cBadTarget : Nat := 0x04
@[inherit_doc cIllegal]
def cBadPc : Nat := 0x05
@[inherit_doc cIllegal]
def cHelper : Nat := 0x06
@[inherit_doc cIllegal]
def cFormat : Nat := 0x07
@[inherit_doc cIllegal]
def cLayout : Nat := 0x08
@[inherit_doc cIllegal]
def cWindow : Nat := 0x09
@[inherit_doc cIllegal]
def cProtection : Nat := 0x0A
@[inherit_doc cIllegal]
def cTranslation : Nat := 0x0B
@[inherit_doc cIllegal]
def cMatrix : Nat := 0x0C
@[inherit_doc cIllegal]
def cEnvOverflow : Nat := 0x0D
@[inherit_doc cIllegal]
def cScopeDepth : Nat := 0x0E
@[inherit_doc cIllegal]
def cDepUnderflow : Nat := 0x0F
@[inherit_doc cIllegal]
def cAlign : Nat := 0x10
@[inherit_doc cIllegal]
def cBreakpoint : Nat := 0x11
@[inherit_doc cIllegal]
def cWatchpoint : Nat := 0x12
@[inherit_doc cIllegal]
def cUncorrectable : Nat := 0x13
@[inherit_doc cIllegal]
def cPrivilege : Nat := 0x14
@[inherit_doc cIllegal]
def cMachineCheck : Nat := 0x15
@[inherit_doc cIllegal]
def cGroupState : Nat := 0x16
@[inherit_doc cIllegal]
def cRingState : Nat := 0x17

/-! ## Privilege (20 R411, R426) -/

/-- An entry of the pager table: DOM, package, die and core, if valid. -/
def State.pagerEntry (s : State) (p i : Nat) : Option (BitVec 16 × CoreId) :=
  let a := (s.pkg p).pgtbase.toNat + 16 * i
  if (s.mem.byte (a + 2)).toNat.testBit 0 then
    let w := leNat (s.mem.read (a + 4) 4)
    some (BitVec.ofNat 16 (leNat (s.mem.read a 2)), ⟨natBits w 0 9, natBits w 9 2, natBits w 11 10⟩)
  else none

/-- The domain is the DOM of a valid entry of the package's pager table. -/
def State.isPager (s : State) (p : Nat) (dom : BitVec 16) : Bool :=
  let base := (s.pkg p).pgtbase.toNat
  s.mem.any (fun c => decide (base ≤ c.1) && decide (c.1 < base + 2 ^ 22) && c.1 % 16 == (base + 2) % 16
    && (match s.pagerEntry p ((c.1 - base) / 16) with
      | some e => e.1 == dom
      | none => false))

/-- A context with privilege. -/
def State.privileged (s : State) : Bool := isSup s.cur.core
/-- A pager context. -/
def State.pagerContext (s : State) : Bool := !isSup s.cur.core && s.isPager s.cur.core.pkg s.me.domain

/-! ## How a meaning runs -/

/-- What an entry adds to the checks of its word: `gate` are its stalls, its checks in the order it gives them and the
hold of a blocking instruction; `act` its effect; `wait` what a held instruction does while it holds; `skip` the effect of a
false guard (only `ba` has one, 05 R91); `also` the registers that the entry reads beside its selectors' sources; `frozen`
a pending freeze of 02 R28 step 2 that this entry meets. -/
structure Entry where
  frozen : State → Option FaultInfo := fun _ => none
  also : State → List Dest := fun _ => []
  gate : State → Verdict := fun _ => .ok
  act : State → State
  wait : State → State := id
  skip : State → State := id

/-- Checks 7 to 9 of 02 R26. -/
def rankChecks (i : Instr) (f : Fields) (s : State) : Option Verdict :=
  let sh := i.shape
  let key := i.key.getD ⟨0, 0, 0⟩
  let helper := s.cur.ctx != 0
  if helper && (key.cl == 2 || namesLink f || (vectorNames sh f).any (fun n => decide (7 < n.toNat))) then
    some (s.atPc 1 cHelper)
  else if key.cl == 4 && decide (0x30 ≤ key.op) && !s.privileged
      && !((key.op == 0x36 || key.op == 0x37) && s.pagerContext) then some (s.atPc 1 cPrivilege)
  else if (linksIn sh f).any (fun l => (s.neighbour s.myTask l.2).isNone && (s.myTc.links.chan l.1 l.2).isEmpty)
      || (match linkOut sh f with
        | some l => (s.neighbour s.myTask l.2).isNone
        | none => false) then some (s.atPc 1 cProtection)
  else none

/-- A destination or source has a pending scoreboarded write (05 R77). -/
def Ctx.pending (c : Ctx) (d : Dest) : Bool := c.pend.any (fun p => p.dest == d)

/-- The outbound channel holds two entries (05 R80). -/
def State.linkFull (s : State) (vec : Bool) (d : Dir) : Bool :=
  match s.neighbour s.myTask d with
  | some n => decide (2 ≤ ((s.partOf (some n) s.cur.core).links.chan vec d.opposite).length)
  | none => false

/-- The stalls of 05 R78 that the word alone gives. -/
def wordStalls (sh : Shape) (f : Fields) (s : State) : Bool :=
  (sources sh f ++ targets sh f).any s.me.pending
    || (linksIn sh f).any (fun l => (s.linkHead l.1 l.2).isNone)
    || (match linkOut sh f with
      | some l => s.linkFull l.1 l.2
      | none => false)

/-- A refused matrix command: the head of the queue names a tile whose XP is set, and is not `mcnt` (10 R215). -/
def Matrix.refused (m : Matrix) : Option MEntry :=
  match m.queue with
  | e :: _ => match e.cmd with
    | .cnt _ _ => none
    | _ => if e.done = 0 && e.follows.isNone && (e.cmd.names.map (fun a => m.acc[a].xp)).getD false then some e else none
  | [] => none

/-- The deferred engine faults that stand, the refusal among them (02 R28). -/
def TaskCore.standing (t : TaskCore) : List Deferred :=
  t.deferred ++ (t.mat.refused.map (fun e => (⟨cMatrix, e.pc, false, e.seq⟩ : Deferred))).toList

/-- Of two deferred faults, the one whose command issued first. -/
def earlier (a b : Deferred) : Deferred := if b.seq < a.seq then b else a

/-- The deferred engine fault that freezes first (02 R28). -/
def TaskCore.firstDeferred (t : TaskCore) : Option Deferred :=
  match t.standing with
  | d :: ds => some (ds.foldl earlier d)
  | [] => none

/-- The freeze of an M instruction, `mwt`, `ewt`, `fence.eng` or `exit` of the lead (02 R28, 10 R215). -/
def State.engineFreeze (s : State) : Option FaultInfo :=
  if s.cur.ctx = 0 then s.myTc.firstDeferred.map (fun d => ⟨d.cause, 0, d.addr⟩) else none

/-- A deferred fault stands until it has frozen the context once; a refusal stands until XP is cleared (02 R28). -/
def TaskCore.dropDeferred (t : TaskCore) (fi : FaultInfo) : TaskCore :=
  match t.firstDeferred with
  | some d =>
    if d.cause = fi.cause ∧ d.addr = fi.addr then
      { t with deferred := t.deferred.filter (· != d), envHeld := t.envHeld || d.envelope }
    else t
  | none => t

/-- Freeze with a fault of a class (02 R27, R28). -/
def State.freezeWith (s : State) (cls : Nat) (fi : FaultInfo) : State :=
  let s1 := s.takeFault s.cur fi
  if cls = 2 && fi.typ = 0 then s1.setMyTc (fun t => t.dropDeferred fi) else s1

/-- The verdict on an instruction (02 R26-R28, R30). -/
def judge (i : Instr) (f : Fields) (e : Entry) (s : State) : Verdict :=
  match rankChecks i f s with
  | some v => v
  | none =>
    let g := Dest.p f.guard.p
    match (if s.me.poisoned g then s.me.afrFault 4 else none) with
    | some fi => .fault 2 fi
    | none =>
      if f.guard.p != 0 && s.me.pending g then .stall
      else if !s.guardTrue f then .idle
      else match (if (sources i.shape f ++ e.also s).any s.me.poisoned then s.me.afrFault 4 else none) with
        | some fi => .fault 2 fi
        | none => match (e.frozen s).orElse (fun _ => if (i.key.getD ⟨0, 0, 0⟩).cl = 2 then s.engineFreeze else none) with
          | some fi => .fault 2 fi
          | none => if wordStalls i.shape f s || (e.also s).any s.me.pending then .stall else e.gate s

/-- A link read takes the oldest arrived entry (05 R80). -/
def popLinks (sh : Shape) (f : Fields) (s : State) : State :=
  (linksIn sh f).foldl (fun s l => s.setMyTc (fun t => { t with links := t.links.setChan l.1 l.2 (List.drop 1) })) s

/-- The effect of an instruction. -/
def effect (i : Instr) (f : Fields) (e : Entry) (s : State) : State :=
  if s.guardTrue f then popLinks i.shape f (e.act s) else e.skip s

/-- Set the verdict. -/
def State.say (s : State) (v : Verdict) : State := { s with pk := { s.pk with verdict := v } }

/-- Run a meaning (log 5, DESIGN CHOICE). By itself, an instruction is judged and then takes its effect, takes its fault or waits. -/
def run (i : Instr) (f : Fields) (e : Entry) (s : State) : Out :=
  match s.pk.phase with
  | .effect => .next (effect i f e s)
  | .check =>
    let v := judge i f e s
    .next ((if v = .hold then e.wait s else s).say v)
  | .alone =>
    let v := judge i f e s
    match v with
    | .ok | .idle => .next ((effect i f e s).say v)
    | .stall => .next (s.say v)
    | .hold => .next ((e.wait s).say v)
    | .fault cls fi => .next ((s.freezeWith cls fi).say v)

/-- Run an event row: where it is not enabled nothing happens (log 4, DESIGN CHOICE). -/
def happen (enabled : Bool) (act : State → State) (s : State) : Out :=
  .next (if enabled then (match s.pk.phase with
      | .check => s.say .ok
      | _ => (act s).say .ok) else s.say .idle)

end Sys2Proof.Machine
end

