-- ==== Sys2Proof/Machine/Transcend.lean ====
section
/-! DEFINITION. The transcendental lanes (08 R167, R168). A value that is no ratio is enclosed far more closely than any
format can tell, and rounded once from there. -/

namespace Sys2Proof.Transcend

open Sys2Proof Sys2Proof.Num

/-- The scale of the fixed-point series: 2^420. -/
def prec : Nat := 420
@[inherit_doc prec] def one : Nat := 2 ^ prec

/-- Product and quotient of fixed-point values. -/
def fmul (x y : Nat) : Nat := (x * y) / one
@[inherit_doc fmul] def fdiv (x y : Nat) : Nat := (x * one) / y

/-- `Σ z^(2k+1) / (2k+1)` with the sign alternating if `alt`: `atanh z` or `atan z`. -/
def atanSeries (alt : Bool) (z2 : Nat) : Nat → Nat → Nat → Int → Int
  | 0, _, _, acc => acc
  | n + 1, k, p, acc =>
    let term : Int := (p / (2 * k + 1) : Nat)
    atanSeries alt z2 n (k + 1) (fmul p z2) (if alt && k % 2 == 1 then acc - term else acc + term)

/-- `ln 2 = 2 atanh (1/3)`. -/
def ln2 : Nat := (2 * atanSeries false (one / 9) 140 0 (one / 3) 0).toNat

/-- `π = 16 atan (1/5) - 4 atan (1/239)`. -/
def piFix : Nat :=
  (16 * atanSeries true (one / 25) 95 0 (one / 5) 0 - 4 * atanSeries true (one / 57121) 30 0 (one / 239) 0).toNat

/-- `Σ y^k / k!` from term `k` on: the exponential of `y`. -/
def expSeries (y : Nat) : Nat → Nat → Nat → Nat → Nat
  | 0, _, _, acc => acc
  | n + 1, k, p, acc => expSeries y n (k + 1) (fmul p y / (k + 1)) (acc + p)

/-- `e^y` for `0 ≤ y < 1`. -/
def expFix (y : Nat) : Nat := expSeries y 90 0 one 0

/-- `Σ (-1)^j y^(2j+i) / (2j+i)!`: cosine for `i = 0`, sine for `i = 1`; `k` is the exponent of the next term. -/
def trigSeries (y2 : Nat) : Nat → Nat → Nat → Bool → Int → Int
  | 0, _, _, _, acc => acc
  | n + 1, k, p, minus, acc =>
    trigSeries y2 n (k + 2) (fmul p y2 / ((k + 1) * (k + 2))) (!minus) (if minus then acc - p else acc + p)

/-- Sine and cosine of `y`, `0 ≤ y ≤ 2`. -/
def sinFix (y : Nat) : Nat := (trigSeries (fmul y y) 60 1 y false 0).toNat
@[inherit_doc sinFix] def cosFix (y : Nat) : Nat := (trigSeries (fmul y y) 60 0 one false 0).toNat

/-- `⌊√n⌋`, bit by bit from bit `k - 1` of the root. -/
def isqrtFrom (n : Nat) : Nat → Nat → Nat
  | 0, r => r
  | k + 1, r => isqrtFrom n k (if (r + 2 ^ k) * (r + 2 ^ k) ≤ n then r + 2 ^ k else r)

/-- `⌊√n⌋`. -/
def isqrt (n : Nat) : Nat := isqrtFrom n (n.log2 / 2 + 1) 0

/-- `1 / √(n / d)`: exact where it is a ratio, else between its neighbours at 2^-256 (08 R167). -/
def rsqrt (n d : Nat) : Ext :=
  let t := d * 4 ^ 256
  let r := isqrt (t / n)
  if t % n = 0 ∧ r * r = t / n then .fin false r (2 ^ 256) else .fin false (2 * r + 1) (2 ^ 257)

/-- `2^x` of the ratio `n / d`: the exponent, and the fraction as a fixed-point value. -/
def exp2 (neg : Bool) (n d : Nat) : Ext :=
  if 4000 * d < n then (if neg then dyadic false 1 (-4000) else dyadic false 1 4000)
  else
    let z := signed neg n
    let k := z / (d : Int)
    let f := (z - k * d).toNat
    if f = 0 then dyadic false 1 k
    else dyadic false (expFix ((f * ln2) / d)) (k - prec)

/-- `log2 x` of a positive ratio. -/
def log2 (n d : Nat) : Ext :=
  let e := ilog2 n d
  let (a, b) := ratioAt n d e
  if a = b then ofInt e
  else
    -- m = a / b in (1, 2); ln m = 2 atanh ((m - 1) / (m + 1))
    let z := ((a - b) * one) / (a + b)
    let lnm := 2 * atanSeries false (fmul z z) 140 0 z 0
    let v := e * one + (lnm * one) / ln2
    .fin (v < 0) v.natAbs one

/-- `sin (π r)` for `r = n / d` in `[0, 1/2]`. -/
def sinPi (n d : Nat) : Ext := .fin false (sinFix ((n * piFix) / d)) one

/-- `sin (π x)`, `x` not an integer multiple of one half; `shift` adds a quarter turn for the cosine. -/
def sinTurn (neg : Bool) (n d : Nat) (cosine : Bool) : Ext :=
  let d2 := 2 * d
  -- twice the argument modulo 4, over 2 d
  let z := signed neg (2 * n) + (if cosine then (d : Int) else 0)
  let r := (z % (2 * d2 : Int)).toNat
  let (s, r) := if r < d2 then (false, r) else (true, r - d2)
  let r := if 2 * r ≤ d2 then r else d2 - r
  match sinPi r d2 with
  | .fin _ a b => .fin s a b
  | y => y

/-- `tanh x` of a positive ratio (08 R167): below 2^-40 it is `x` less a trace, above 64 it is 1 less a trace. -/
def tanh (n d : Nat) : Ext :=
  if n * 2 ^ 40 ≤ d then .fin false (n * (2 ^ 70 - 1)) (d * 2 ^ 70)
  else if 64 * d < n then .fin false (2 ^ 100 - 1) (2 ^ 100)
  else
    let y := (2 * n * one) / d
    let k := y / ln2
    let e := expFix (y - k * ln2) * 2 ^ k
    .fin false (e - one) (e + one)

/-- The seven functions (08 R167). -/
inductive Fn where
  | exp2 | log2 | sin | cos | tanh | rcp | rsq
  deriving DecidableEq, Repr

/-- The number by which Config knows a function with a choice. -/
def Fn.code : Fn → Nat
  | .exp2 => 0 | .log2 => 1 | .sin => 2 | .cos => 3 | .tanh => 4 | .rcp => 5 | .rsq => 6

/-- The value of a function, and whether a special input or an exact case fixes it (08 R167, R168). -/
def value (g : Fn) (x : Ext) : Ext × Bool :=
  match g, x with
  | _, .nan => (.nan, true)
  | .exp2, .inf s => (if s then zero else .inf false, true)
  | .exp2, .fin s n d => (exp2 s n d, n % d == 0)
  | .log2, .inf s => (if s then .nan else .inf false, true)
  | .log2, .fin s n d =>
    if n = 0 then (.inf true, true)
    else if s then (.nan, true)
    else
      let e := ilog2 n d
      (log2 n d, (ratioAt n d e).1 == (ratioAt n d e).2)
  | .rcp, .inf s => (.fin s 0 1, true)
  | .rcp, .fin s n d => (if n = 0 then .inf s else .fin s d n, true)
  | .rsq, .inf s => (if s then .nan else zero, true)
  | .rsq, .fin s n d => (if n = 0 then .inf s else if s then .nan else rsqrt n d, true)
  | .sin, .inf _ => (.nan, true)
  | .sin, .fin s n d =>
    if n = 0 then (.fin s 0 1, true)
    else if n % d = 0 then (zero, true)
    else if (2 * n) % d = 0 then (ofInt (if ((signed s (2 * n) / d - 1) / 2) % 2 = 0 then 1 else -1), true)
    else (sinTurn s n d false, false)
  | .cos, .inf _ => (.nan, true)
  | .cos, .fin s n d =>
    if n % d = 0 then (ofInt (if (n / d) % 2 = 0 then 1 else -1), true)
    else if (2 * n) % d = 0 then (zero, true)
    else (sinTurn s n d true, false)
  | .tanh, .inf s => (.fin s 1 1, true)
  | .tanh, .fin s n d =>
    if n = 0 then (.fin s 0 1, true)
    else match tanh n d with
      | .fin _ a b => (.fin s a b, false)
      | y => (y, false)

/-- The bound on F32 in units of the last place of the exact result's binade (08 R167). -/
def ulps : Fn → Nat
  | .exp2 | .log2 => 1
  | .sin | .cos | .tanh => 2
  | .rcp | .rsq => 0

/-- `|y - v| ≤ k ulp` of `v`'s binade, or `≤ 2^-24` where that suffices too (08 R167); `vexp2` gives nothing below +0 (08
R168). -/
def withinBound (g : Fn) (v y : Ext) : Bool :=
  match v with
  | .fin _ (n + 1) d =>
    let err := (Num.add .rne y v.flip).abs
    let ulp := dyadic false 1 (max (ilog2 (n + 1) d) (-126) - 23)
    !err.isNan && (g != .exp2 || !y.neg) && (le err (Num.mul (.fin false (ulps g) 1) ulp)
      || ((g == .sin || g == .cos) && le err (dyadic false 1 (-24))))
  | _ => false

/-- One lane (08 R167): correctly rounded, but for an F32 lane whose bound leaves a choice and whose free value keeps
it. -/
def lane (g : Fn) (t : Tag) (fctl : W64) (x : Nat) : Nat :=
  let fp := Lanes.fpOf fctl
  let (v, fixed) := value g (ofCode t false fp.fz x)
  let exact := roundTo t fp.rm fp.fz v
  if t == .f32 && !fixed then
    let c := Config.transcendental g.code (fctl.toNat % 8) (x % 2 ^ 32) % 2 ^ 32
    let y := f32.decode fp.fz c
    if withinBound g v y then roundTo t fp.rm fp.fz y else exact
  else exact

/-- A transcendental on a whole operand. -/
def apply (g : Fn) (t : Tag) (fctl : W64) (a : Lanes.VSrc) : Lanes.VReg :=
  ⟨Lanes.ofLanes t.width ((Lanes.lanesIn t false (Lanes.fpOf fctl).fz a).map (lane g t fctl)), t⟩

end Sys2Proof.Transcend
end

