-- ==== Sys2Proof/Machine/Flags.lean ====
section
/-! DEFINITION. Conditions. The GD-7 has no flags register: a compare writes a predicate (06 R113, R114; 08 R156), and
what a compare, a minimum or a NaN gives is computed by `Alu.cmp`, `Alu.cmpf`, `Num.condInt`, `Num.condFloat` and
`Num.minMax`. Here stand the predicates of 08 R148 and R149 that guards and scalars read. -/

namespace Sys2Proof.Machine

open Sys2Proof Sys2Proof.Lanes

/-- A predicate that a scalar compare writes: every bit holds the result (08 R149). -/
def allBits (b : Bool) : PBits := if b then BitVec.allOnes 512 else 0

/-- What a guard or `sel` reads of a predicate (08 R149). -/
def lane0 (p : PBits) : Bool := bitAt p 0

/-- The four operators of `pset` (06 R115). -/
def psetOp (op : Nat) (a b : PBits) : PBits :=
  match op with
  | 0 => a &&& b
  | 1 => a ||| b
  | 2 => a ^^^ b
  | _ => a &&& ~~~ b


end Sys2Proof.Machine
end

