-- ==== Sys2Proof/Machine/Spoke.lean ====
section
/-! DEFINITION. Scope handles, hubs and spokes (15 R342-R352), error reports and the consumption of poison (21 R455-R457). -/

namespace Sys2Proof.Machine

open Sys2Proof Sys2Proof.Lanes

/-- A scope handle (15 R342). -/
def handleOf (l : CluId) (slot gen : Nat) : W64 :=
  BitVec.ofNat 64 ((l.pkg % 512) <<< 55 ||| (l.die % 4) <<< 53 ||| (l.clu % 64) <<< 47 ||| (slot % 4096) <<< 35 ||| (gen % 256) <<< 27)

/-- The hub that a handle names. -/
def hubKey (h : W64) : CluId × Nat := (⟨bitsOf h 63 55, bitsOf h 54 53, bitsOf h 52 47⟩, bitsOf h 46 35)
/-- The generation of a handle. -/
def hubGen (h : W64) : Nat := bitsOf h 34 27

/-- The record of a live handle: it holds the generation and is not FREE (15 R342). -/
def State.hub (s : State) (h : W64) : Option Hub :=
  match s.hubs.find (hubKey h) with
  | some b => if b.state ≠ 0 ∧ b.gen = hubGen h ∧ bitsOf h 26 0 = 0 then some b else none
  | none => none

/-- Change the record of a live handle. -/
def State.setHub (s : State) (h : W64) (f : Hub → Hub) : State :=
  match s.hub h with
  | some b => { s with hubs := s.hubs.set (hubKey h) (f b) }
  | none => s

/-- The replay scope that a scope belongs to: itself or the farthest enclosing one, whose rules, group and logs its child scopes use (15
R351). -/
def replayFrom (s : State) : Nat → W64 → Option W64
  | 0, _ => none
  | n + 1, h => match s.hub h with
    | some b => (replayFrom s n b.parent).orElse (fun _ => if b.rp then some h else none)
    | none => none
@[inherit_doc replayFrom]
def State.replayOf (s : State) (h : W64) : Option W64 := replayFrom s (s.hubs.length + 1) h

/-- `d` is `h` or one of its descendants. -/
def descends (s : State) (h : W64) : Nat → W64 → Bool
  | 0, _ => false
  | n + 1, d => d == h || (match s.hub d with
    | some b => descends s h n b.parent
    | none => false)
@[inherit_doc descends]
def State.descendsFrom (s : State) (h d : W64) : Bool := descends s h (s.hubs.length + 1) d

/-! ## Spokes (15 R344) -/

/-- The current scope's entry. -/
def Ctx.top (c : Ctx) : ScopeEntry := c.stack.headD ⟨0, 0, false⟩
/-- The scope named by CSC. -/
def Ctx.scope (c : Ctx) : W64 := c.spr.csc

/-- The carver must borrow first: its entry's share is 1. -/
def Ctx.mustBorrow (c : Ctx) : Bool := decide (c.top.share ≤ 1)

/-- SpokeSplit on an entry that need not borrow: the share carved, and the context without it. -/
def Ctx.carve (c : Ctx) : Nat × Ctx :=
  match c.stack with
  | e :: es => (e.share / 2, { c with stack := { e with share := e.share - e.share / 2 } :: es })
  | [] => (0, c)

/-- Mark the cluster where a share has been carved (15 R343). -/
def State.mark (s : State) (h : W64) (l : CluId) : State :=
  s.setHub h (fun b => if b.pres.contains l then b else { b with pres := b.pres ++ [l] })

/-- The current entry of a context borrows 2^16 (15 R344). -/
def State.borrowTop (s : State) (c : CtxId) : State :=
  (s.setHub (s.ctx c).top.handle (fun b => { b with t := b.t + 2 ^ 16 })).setCtx c (fun k => match k.stack with
    | e :: es => { k with stack := { e with share := e.share + 2 ^ 16 } :: es }
    | [] => k)

/-- Carve a share of the issuing context's current scope. Where two instructions of one packet carve, the second may find a
share of 1 and borrows first. -/
def State.carve (s0 : State) : Nat × State :=
  let s := if !s0.me.stack.isEmpty && s0.me.mustBorrow then s0.borrowTop s0.cur else s0
  let r := s.me.carve
  (r.1, (s.setMe (fun c => (Ctx.carve c).2)).mark s.me.scope (s.clu s.cur.core))

/-- A share sets out for its hub. -/
def State.giveBack (s : State) (h : W64) (share : Nat) (closing : Bool := false) (fault : Option Nat := none) : State :=
  { s with returns := s.returns ++ [⟨h, share, closing, fault⟩] }

/-! ## Brakes (15 R348, R349) -/

/-- The scope's brake is set. -/
def State.brakeOf (s : State) (h : W64) : Bool := ((s.hub h).map (·.brake)).getD false
/-- The issuing context observes a brake. -/
def State.braked (s : State) : Bool := s.me.freewheel == 0 && s.brakeOf s.me.scope

/-! ## Reports and consumption (21 R455-R457) -/

/-- SITE: torus coordinates (21 R456). -/
def siteWord (die n : Nat) : Nat := (torusXY die n).1 + 64 * (torusXY die n).2

/-- An error report (21 R456): kind, domain, address, second site, runs and signatures. -/
def reportBytes (site kind dom addr site2 runs sigA sigB : Nat) : List Byte :=
  leBytes 2 site ++ leBytes 1 kind ++ leBytes 1 3 ++ leBytes 2 dom ++ leBytes 2 0 ++ leBytes 8 addr ++ leBytes 2 site2
    ++ leBytes 2 runs ++ leBytes 8 sigA ++ leBytes 8 sigB ++ List.replicate 28 0

/-- A report from a core's site to its quadrant's supervisor. -/
def State.report (s : State) (k : CoreId) (kind dom addr : Nat) (runs : Nat := 0) : State :=
  s.pushEvent (s.quad k) false (reportBytes (siteWord k.die (s.site k)) kind dom addr 0 runs 0 0)

/-- The context holds an entry of the scope. -/
def Ctx.holds (k : Ctx) (h : W64) : Bool := k.stack.any (fun e => e.handle == h)

/-- The opener of a scope, where it is there still: it holds the scope's entry, or waits in its `sclose` (15 R346, R366). -/
def State.openerOf (s : State) (h : W64) (b : Hub) : Option (Option Nat × CtxId) :=
  b.opener.filter (fun o =>
    let k := s.ctxOf o.1 o.2
    k.holds h || k.hold.any (fun x => x.kind == .own && x.ids.head? == some h.toNat))

/-- A replay scope's opener stops at once, without a cause of its own (21 R457; the freeze cause 0 is log 28, DESIGN CHOICE). -/
def State.stopOpener (s : State) (h : W64) (b : Hub) : State :=
  match s.openerOf h b with
  | some (task, c) => s.setCtxOf task c (fun k => if k.life = .running then k.stop s.now 0 else k)
  | none => s

/-- The hub of the replay scope to which a consuming party belongs is told: the scope is braked, and its opener frozen (21 R457). The answer
says whether the outcome of R455 follows: outside a replay scope, and in one whose runs are spent. -/
def State.tell (s : State) (scope : W64) : Bool × State :=
  match (s.replayOf scope).bind (fun h => (s.hub h).map (fun b => (h, b))) with
  | some (h, b) =>
    if b.runs == 3 || b.spent then (true, s)
    else (false, (s.stopOpener h b).setHub h (fun b => { b with replaying := true, brake := true }))
  | none => (true, s)

/-- Poison is consumed by a party of a scope (21 R455, R457): a report of kind 3, and inside a replay scope its hub is told. -/
def State.consume (s : State) (k : CoreId) (dom : BitVec 16) (scope : W64) (addr : Nat) : Bool × State :=
  (s.report k 3 dom.toNat addr).tell scope

end Sys2Proof.Machine
end

