-- ==== Sys2Proof/Machine/Local.lean ====
section
/-! DEFINITION. The scratchpad and the local memory instructions (09 R169-R192). -/

namespace Sys2Proof.Machine

open Sys2Proof Sys2Proof.Lanes

/-! ## Verdicts -/

/-- The first verdict that is not ok. -/
def Verdict.andThen (v w : Verdict) : Verdict := if v = .ok then w else v

/-- `cond`, or a fault of class `cls`. -/
def need (cond : Bool) (cls cause : Nat) (addr : W64) : Verdict := if cond then .ok else .fault cls ⟨cause, 0, addr⟩

/-! ## Results that land at once (05 R77) -/

/-- A scoreboarded result that its unit answers before the next packet. -/
def State.quick (s : State) (d : Dest) (v : RVal) : State :=
  if d = .none then s
  else
    let p := s.pendOn [d]
    p.2.setMe (fun c =>
      let due := ((c.inflight.filter (fun r => r.dest == d)).map (·.due)).foldl max (c.pipe + 1)
      { c with inflight := (⟨d, v, due, some p.1⟩ : InFlight) :: c.inflight })

/-! ## Addresses, watchpoints and the reuse clock -/

/-- ga + IMM (02 R36). -/
def State.ea (s : State) (f : Fields) : W64 := s.gval f f.a + f.immS

/-- The footprint of the issuing context in bytes (09 R169); a supervisor's context has the whole scratchpad (log 1, DESIGN CHOICE). -/
def State.foot (s : State) : Nat :=
  match s.myTask.bind s.tasks.find with
  | some t => t.foot * 32768
  | none => 524288

/-- Bytes `[o, o + n)` meet a live stash region (09 R190). -/
def TaskCore.inStash (t : TaskCore) (o n : Nat) : Bool :=
  t.stash.toList.any (fun x => match x with
    | some st => decide (o < st.region + 2 ^ st.cap) && decide (st.region < o + n)
    | none => false)

/-- An address of the scratchpad in one of its two forms (09 R169). -/
def isLocal (ea : W64) : Bool :=
  decide (ea.toNat < 2 ^ 19) || (decide (bitsOf ea 63 60 = 15) && decide (bitsOf ea 59 19 = 0))

/-- LocalOffset: the offset or the cause (09 R169). -/
def localOffset (t : TaskCore) (foot : Nat) (ea : W64) (n align : Nat) : Except Nat Nat :=
  if !isLocal ea then .error cProtection
  else
    let o := ea.toNat % 2 ^ 19
    if o % align ≠ 0 then .error cAlign
    else if foot < o + n || t.inStash o n then .error cProtection
    else .ok o

/-- The check of a local access; the address field holds its ea (09 R170). -/
def State.localOk (s : State) (ea : W64) (n align : Nat) : Verdict :=
  match localOffset s.myTc s.foot ea n align with
  | .ok _ => .ok
  | .error c => .fault 5 ⟨c, 0, ea⟩

/-- The offset of an access that passed its check. -/
def spadOff (ea : W64) : Nat := ea.toNat % 2 ^ 19

/-- An armed watchpoint meets `[ea, ea + n)` (20 R436). -/
def watchHit (w : W64) (ea n : Nat) (rd wr : Bool) : Bool :=
  let len := 16 * 4 ^ bitsOf w 1 0
  let base := w.toNat / len * len
  let kind := bitsOf w 3 2
  ((wr && kind % 2 == 1) || (rd && decide (2 ≤ kind))) && decide (base < ea + n) && decide (ea < base + len)

/-- The watchpoints of the issuing context; the first packet after a resume is exempt (02 R28, 20 R436). -/
def State.watch (s : State) (ea : W64) (n : Nat) (rd wr : Bool) : Verdict :=
  need (s.me.resumed || !s.me.spr.wpc.toList.any (fun w => watchHit w ea.toNat n rd wr)) 6 cWatchpoint ea

/-- Tick() (12 R269). -/
def Ctx.tick (c : Ctx) (now : Nat) : Ctx :=
  let e : Int := min (c.elapsed now * 16) 0xFFFF
  let cad : Int := c.spr.cad.toNat
  { c with
    spr := { c.spr with rclk := c.spr.rclk + 1, cad := BitVec.ofInt 64 (cad + Int.tdiv (e - cad) 16) }
    elapsedFrom := now
    elapsedHeld := 0 }

/-- The tick of `.tk` (02 R36). -/
def State.tickIf (s : State) (f : Fields) : State := if f.tk then s.setMe (fun c => c.tick s.now) else s

/-! ## Bytes of the scratchpad -/

/-- The 32 B rows that `[o, o + n)` touches. -/
def rowsOf (o n : Nat) : List Nat := (List.range ((o + n - 1) / 32 + 1 - o / 32)).map (· + o / 32)
/-- The rows that it covers whole (21 R454). -/
def wholeRows (o n : Nat) : List Nat := (rowsOf o n).filter (fun r => decide (o ≤ 32 * r) && decide (32 * r + 32 ≤ o + n))

/-- A poisoned row is read. -/
def TaskCore.rotten (t : TaskCore) (o n : Nat) : Bool := decide (0 < n) && (rowsOf o n).any t.poisonRows.contains

/-- Log the old bytes of the blocks that a write of a replay scope touches (15 R351). -/
def TaskCore.logOld (t : TaskCore) (rp : Option W64) (o n : Nat) : TaskCore :=
  match rp with
  | none => t
  | some h =>
    let blocks := (List.range ((o + n - 1) / 256 + 1 - o / 256)).map (· + o / 256)
    { t with undo := t.undo.map (fun u => if u.scope == h then
        { u with blocks := blocks.foldl (fun m b => if Map.has m b then m else m.set b (t.spad.read (256 * b) 256)) u.blocks }
      else u) }

/-- A write of these stretches together would need a 256th block (15 R351). -/
def TaskCore.logsFull (t : TaskCore) (rp : Option W64) (xs : List (Nat × Nat)) : Bool :=
  match rp with
  | none => false
  | some h => (xs.foldl (fun t x => t.logOld (some h) x.1 x.2) t).undo.any (fun u => u.scope == h && decide (255 < u.blocks.length))
/-- A write of `[o, o + n)` would need a 256th block. -/
def TaskCore.logFull (t : TaskCore) (rp : Option W64) (o n : Nat) : Bool := t.logsFull rp [(o, n)]

/-- Write bytes under a mask into the scratchpad: its granules are encoded, and rows covered whole lose their poison (21
R453, R454). -/
def TaskCore.spadPut (t : TaskCore) (rp : Option W64) (o : Nat) (bs : List (Option Byte)) : TaskCore :=
  let t1 := if bs.isEmpty then t else t.logOld rp o bs.length
  let covered := wholeRows o bs.length
  let full := covered.filter (fun r => ((bs.drop (32 * r - o)).take 32).all Option.isSome)
  { t1 with
    spad := t1.spad.writeMasked o bs
    codes := t1.codes.encodeSpan o bs.length
    poisonRows := if t1.poisonRows.isEmpty then [] else t1.poisonRows.filter (fun r => !full.contains r) }

/-- The replay scope of the issuing context. -/
def State.myReplay (s : State) : Option W64 := if s.hubs.isEmpty then none else s.replayOf s.me.scope

/-- A thread's write. -/
def State.localWrite (s : State) (o : Nat) (bs : List Byte) : State :=
  let rp := s.myReplay
  s.setMyTc (fun t => t.spadPut rp o (bs.map some))

/-- A replay log that is full refuses a thread's write. -/
def State.logOk (s : State) (ea : W64) (n : Nat) : Verdict := need (!s.myTc.logFull s.myReplay (spadOff ea) n) 5 cProtection ea
/-- A thread's load of poisoned rows, outside a replay scope: the destination is poisoned, an asynchronous fault (21 R455).
`kind` is that of 20 R419. -/
def State.localFault (s : State) (d : Dest) (sel : Sel) (ea : W64) (kind : Nat) : State :=
  s.setMe (fun c => (c.poison d).record ⟨ea, s.myPc, cUncorrectable, encodeSel sel, kind, 0⟩)

/-- A local read of `n` bytes at each of some offsets: its result, or the consumption of poison. -/
def State.localRead (s : State) (f : Fields) (ea : W64) (offs : List Nat) (n kind : Nat) (d : Dest) (k : State → State) : State :=
  if offs.any (fun o => s.myTc.rotten o n) then
    let r := s.consume s.cur.core s.me.domain s.me.scope (offs.headD 0)
    if r.1 then r.2.localFault d f.d ea kind else k r.2
  else k s

/-! ## Loads and stores (09 R183-R185) -/

/-- Bytes of an access size (02 R37). -/
def sizeOf (code : Nat) : Nat :=
  match code with
  | 0 => 1 | 1 => 2 | 2 => 4 | 3 => 8 | 6 => 256 | 7 => 192 | _ => 0

/-- A little-endian value, sign-extended (09 R183). -/
def signedOf (bs : List Byte) : W64 := Alu.sextN (BitVec.ofNat 64 (leNat bs)) (8 * bs.length)

/-- Unpack and pack six-bit elements (07 R124). -/
def unpack6 (bs : List Byte) : VBits := ofLanes 8 (split 6 256 (leNat bs))
@[inherit_doc unpack6] def pack6 (x : VBits) : List Byte := leBytes 192 (join 6 (split 8 256 x.toNat))

/-- A register loaded from bytes (09 R184). -/
def vecOf (p6 : Bool) (t : Tag) (bs : List Byte) : VReg := ⟨if p6 then unpack6 bs else BitVec.ofNat 2048 (leNat bs), t⟩
/-- The bytes that a register stores. -/
def vecBytes (p6 : Bool) (r : VReg) : List Byte := if p6 then pack6 r.bits else leBytes 256 r.bits.toNat

/-- A v register operand. -/
def State.vreg (s : State) : Sel → VReg
  | .reg n => s.me.getV n
  | _ => VReg.rawZero

/-- `ldl` (09 R183). -/
def execLdl (f : Fields) (s : State) : Out :=
  let n := sizeOf f.szCode
  run (.ldl f) f {
    gate := fun s => (s.localOk (s.ea f) n n).andThen (s.watch (s.ea f) n true false)
    act := fun s => (s.localRead f (s.ea f) [spadOff (s.ea f)] n 0 (Dest.ofG f.d) (fun s =>
      s.later (Dest.ofG f.d) 4 (.g (signedOf (s.myTc.spad.read (spadOff (s.ea f)) n))))).tickIf f } s

/-- `stl` (09 R183). -/
def execStl (f : Fields) (s : State) : Out :=
  let n := sizeOf f.szCode
  run (.stl f) f {
    gate := fun s => ((s.localOk (s.ea f) n n).andThen (s.logOk (s.ea f) n)).andThen (s.watch (s.ea f) n false true)
    act := fun s => (s.localWrite (spadOff (s.ea f)) (leBytes n (s.gval f f.b).toNat)).tickIf f } s

/-- `vldl` (09 R184). -/
def execVldl (f : Fields) (s : State) : Out :=
  let n := sizeOf f.szCode
  run (.vldl f) f {
    gate := fun s => (s.localOk (s.ea f) n 32).andThen (s.watch (s.ea f) n true false)
    act := fun s => (s.localRead f (s.ea f) [spadOff (s.ea f)] n 0 (Dest.ofV f.d) (fun s =>
      s.later (Dest.ofV f.d) 5
        (.v (vecOf (f.szCode == 7) f.extTag (s.myTc.spad.read (spadOff (s.ea f)) n)).canon))).tickIf f } s

/-- A `.p6` store of a register that is neither T6 nor F6 raises FORMAT (02 R38, 09 R184). -/
def State.packOk (s : State) (f : Fields) : Verdict :=
  if f.szCode == 7 && (s.vreg f.b).tag != .t6 && (s.vreg f.b).tag != .f6 then s.atPc 4 cFormat else .ok

/-- `vstl` (09 R184). -/
def execVstl (f : Fields) (s : State) : Out :=
  let n := sizeOf f.szCode
  run (.vstl f) f {
    gate := fun s => (((s.packOk f).andThen (s.localOk (s.ea f) n 32)).andThen (s.logOk (s.ea f) n)).andThen
      (s.watch (s.ea f) n false true)
    act := fun s => (s.localWrite (spadOff (s.ea f)) (vecBytes (f.szCode == 7) (s.vreg f.b))).tickIf f } s

/-- The granule size of a gather or scatter (09 R185). -/
def granule (t : Tag) : Nat := if t == .i64 then 8 else 4

/-- The addresses of the granules (09 R185). -/
def granuleEas (base : W64) (ix : VReg) (g : Nat) : List W64 :=
  ((lanes 32 ix.bits).take (256 / g)).map (fun i => base + BitVec.ofNat 64 i)

/-- The first verdict of a list that is not ok. -/
def firstBad (vs : List Verdict) : Verdict := (vs.find? (· != .ok)).getD .ok

/-- `vgl` (09 R185). -/
def execVgl (f : Fields) (s : State) : Out :=
  let g := granule f.extTag
  run (.vgl f) f {
    gate := fun s =>
      let es := granuleEas (s.ea f) (s.vreg f.b) g
      (firstBad (es.map (fun e => s.localOk e g g))).andThen (firstBad (es.map (fun e => s.watch e g true false)))
    act := fun s =>
      let offs := (granuleEas (s.ea f) (s.vreg f.b) g).map spadOff
      (s.localRead f (s.ea f) offs g 4 (Dest.ofV f.d) (fun s =>
        s.later (Dest.ofV f.d) 8
          (.v (VReg.canon ⟨BitVec.ofNat 2048 (leNat (offs.flatMap (fun o => s.myTc.spad.read o g))), f.extTag⟩)))).tickIf f } s

/-- Granule j of a register. -/
def granuleBytes (r : VReg) (g j : Nat) : List Byte := ((leBytes 256 r.bits.toNat).drop (g * j)).take g

/-- A replay log that is full refuses a scatter as a whole, at the first granule for which it has no room. -/
def State.logsOk (s : State) (es : List W64) (n : Nat) : Verdict :=
  firstBad ((List.range es.length).map (fun i =>
    need (!s.myTc.logsFull s.myReplay ((es.take (i + 1)).map (fun e => (spadOff e, n)))) 5 cProtection (es.getD i 0)))

/-- `vsl` (09 R185). -/
def execVsl (f : Fields) (s : State) : Out :=
  run (.vsl f) f {
    gate := fun s =>
      let g := granule (s.vreg f.b).tag
      let es := granuleEas (s.ea f) (s.vreg f.c) g
      ((firstBad (es.map (fun e => s.localOk e g g))).andThen (s.logsOk es g)).andThen
        (firstBad (es.map (fun e => s.watch e g false true)))
    act := fun s =>
      let g := granule (s.vreg f.b).tag
      let es := granuleEas (s.ea f) (s.vreg f.c) g
      ((es.zipIdx).foldl (fun s' e => s'.localWrite (spadOff e.1) (granuleBytes (s.vreg f.b) g e.2)) s).tickIf f } s

/-! ## Local atomics (09 R186-R188) -/

/-- The operators of 04 R68 on `n`-byte values. -/
def atomicOp (op n : Nat) (old v : Nat) : Nat :=
  let w := 8 * n
  let si := Num.intOf w false
  match op with
  | 0 => (old + v) % 2 ^ w
  | 1 => old &&& v
  | 2 => old ||| v
  | 3 => old ^^^ v
  | 4 => if si v < si old then v else old
  | 5 => if si old < si v then v else old
  | 6 => min old v
  | 7 => max old v
  | _ => v

/-- `ala` (09 R186). -/
def execAla (f : Fields) (s : State) : Out :=
  let n := sizeOf f.szCode
  run (.ala f) f {
    gate := fun s => ((s.localOk (s.ea f) n n).andThen (s.logOk (s.ea f) n)).andThen (s.watch (s.ea f) n true true)
    act := fun s => (s.localRead f (s.ea f) [spadOff (s.ea f)] n 2 (Dest.ofG f.d) (fun s =>
      let old := s.myTc.spad.read (spadOff (s.ea f)) n
      let v := (s.gval f f.b).toNat % 2 ^ (8 * n)
      (s.localWrite (spadOff (s.ea f)) (leBytes n (atomicOp f.extCode n (leNat old) v))).later (Dest.ofG f.d) 6
        (.g (signedOf old)))).tickIf f } s

/-- A signalling NaN of F32, H16 or B16. -/
def isSnan (t : Tag) (x : Nat) : Bool :=
  match Num.kindOf t with
  | .ieee k => natBits x k.f k.e == 2 ^ k.e - 1 && natBits x 0 k.f != 0 && !x.testBit (k.f - 1)
  | _ => false

/-- The sum of a float add (09 R187): nearest even, subnormals kept, FCTL ignored. -/
def floatAdd (t : Tag) (x y : Nat) : Nat :=
  Num.convert t true false .rne false (Num.add .rne (Num.ofCode t false false x) (Num.ofCode t false false y))

/-- SCTL.SNC counts a signalling NaN (09 R177). -/
def TaskCore.countSnan (t : TaskCore) : TaskCore :=
  { t with sctl := BitVec.ofNat 64 (natSet t.sctl.toNat 32 16 (min (bitsOf t.sctl 47 32 + 1) 0xFFFF)) }

/-- `alf` (09 R187). -/
def execAlf (f : Fields) (s : State) : Out :=
  let n := sizeOf f.szCode
  let t := f.extTag
  run (.alf f) f {
    gate := fun s => ((s.localOk (s.ea f) n n).andThen (s.logOk (s.ea f) n)).andThen (s.watch (s.ea f) n true true)
    act := fun s => (s.localRead f (s.ea f) [spadOff (s.ea f)] n 2 (Dest.ofG f.d) (fun s =>
      let old := leNat (s.myTc.spad.read (spadOff (s.ea f)) n)
      let v := (s.gval f f.b).toNat % 2 ^ (8 * n)
      let s1 := if isSnan t old || isSnan t v then s.setMyTc TaskCore.countSnan else s
      (s1.localWrite (spadOff (s.ea f)) (leBytes n (floatAdd t old v))).later (Dest.ofG f.d) 6
        (.g (BitVec.ofNat 64 old)))).tickIf f } s

/-! ## The stash (09 R189-R192) -/

/-- The stash number of MOD[52:51]. -/
def stashNo (f : Fields) : Fin 4 := ⟨f.mod.toNat % 4, Nat.mod_lt _ (by decide)⟩

/-- The accesses of a core's task, and without a task of the core, to lines of a stash that have not landed (09 R192). -/
def State.stashBusy (s : State) (k : CoreId) (n : Fin 4) : Bool :=
  match (s.tc k).stash[n] with
  | none => false
  | some st => s.accs.any (fun a => a.2.task == (s.core k).task && (a.2.task.isSome || a.2.ctx.core == k) && a.2.parts.any (fun p =>
      decide (st.gbase.toNat ≤ p.ea) && decide (p.ea < st.gbase.toNat + 2 ^ st.span)))

/-- Every line written back: valid and clean (09 R192). A stash holds no data of its own (log 8, DEDUCED). -/
def Stash.clean (st : Stash) : Stash := { st with lines := st.lines.map (fun e => (e.1, { e.2 with dirty := false })) }
/-- Every line dropped. -/
def Stash.empty (st : Stash) : Stash := { st with lines := [] }

/-- The checks of `stmap` on a descriptor that maps (09 R189). -/
def State.stashOk (s : State) (n : Fin 4) (ga gb gc : W64) : Verdict :=
  let cap := bitsOf gc 4 0
  let span := bitsOf gc 13 8
  let others : List Stash := (s.myTc.stash.toList.zipIdx).filterMap (fun e => if e.2 = n.val then none else e.1)
  let g := ga.toNat
  let b := gb.toNat
  (need (decide (bitsOf ga 63 60 ≤ 7)) 5 cProtection s.myPc).andThen <|
  (need (decide (12 ≤ cap) && decide (cap ≤ 18) && decide (cap ≤ span) && decide (span ≤ 40)) 5 cIllegal s.myPc).andThen <|
  (need (g % 2 ^ span == 0 && b % 2 ^ cap == 0) 5 cAlign s.myPc).andThen <|
  need (decide (b + 2 ^ cap ≤ s.foot)
    && !others.any (fun o => decide (b < o.region + 2 ^ o.cap) && decide (o.region < b + 2 ^ cap))
    && !others.any (fun o => decide (g < o.gbase.toNat + 2 ^ o.span) && decide (o.gbase.toNat < g + 2 ^ span))
    && decide ((others.map (fun o => (2 ^ o.cap : Nat))).foldl Nat.add (2 ^ cap) ≤ 262144)) 5 cProtection s.myPc

/-- `stmap` (09 R189): CAP = 0 unmaps. -/
def execStmap (f : Fields) (s : State) : Out :=
  let n := stashNo f
  run (.stmap f) f {
    gate := fun s =>
      let gc := s.gval f f.c
      (if bitsOf gc 4 0 = 0 then .ok else s.stashOk n (s.ea f) (s.gval f f.b) gc).andThen
        (if s.stashBusy s.cur.core n then .hold else .ok)
    act := fun s =>
      let gc := s.gval f f.c
      let st := if bitsOf gc 4 0 = 0 then none
        else some ⟨s.ea f, bitsOf gc 13 8, (s.gval f f.b).toNat, bitsOf gc 4 0, []⟩
      (s.setMyTc (fun t => { t with stash := t.stash.set n st })).tickIf f } s

/-- An operation on a stash: it holds until the core's accesses to it have landed; an unmapped stash is left alone. The bytes of a
region that is unmapped read as they did before it was mapped (log 8, DESIGN CHOICE). -/
def stashOp (i : Fields → Instr) (g : Stash → Stash) (f : Fields) (s : State) : Out :=
  let n := stashNo f
  run (i f) f {
    gate := fun s => if s.stashBusy s.cur.core n then .hold else .ok
    act := fun s => (s.setMyTc (fun t => { t with stash := t.stash.set n ((t.stash[n]).map g) })).tickIf f } s

/-- `stfl` (09 R192). -/
def execStfl (f : Fields) (s : State) : Out := stashOp .stfl Stash.clean f s
/-- `stinv` (09 R192). -/
def execStinv (f : Fields) (s : State) : Out := stashOp .stinv Stash.empty f s

/-- STASH_RECALL: another party recalls a line of a stash: it is written back, and dropped or kept clean (09 R191). -/
def execStashRecall (k : CoreId) (n line : Nat) (drop : Bool) (s : State) : Out :=
  match (s.tc k).stash.toArray.getD n none with
  | none => happen false id s
  | some st =>
    happen (st.lines.any (fun e => e.2.line == line && !e.2.filling)) (fun s => s.setTc k (fun t => { t with
      stash := t.stash.setIfInBounds n (some { st with
        lines := if drop then st.lines.filter (fun e => e.2.line != line)
          else st.lines.map (fun e => if e.2.line = line then (e.1, { e.2 with excl := false, dirty := false }) else e) }) })) s

end Sys2Proof.Machine
end

