-- ==== Sys2Proof/Machine/Audit.lean ====
section
/-! DEFINITION. What the engines do to the scratchpad (09 R174-R176), and the auditor (21 R458-R462). -/

namespace Sys2Proof.Machine

open Sys2Proof Sys2Proof.Lanes

/-! ## Swizzles and layout tags -/

/-- `.swn` on an offset (09 R174): bits [lo + n - 1 : lo] are combined with those `up` places higher. -/
def swizzle (n o : Nat) : Nat :=
  let mix (w up : Nat) : Nat := o ^^^ (natBits o (5 + up) w <<< 5)
  match n with
  | 0 => o
  | 1 => mix 4 4
  | 2 => mix 4 5
  | 3 => mix 4 6
  | 4 => mix 4 7
  | 5 => mix 3 4
  | 6 => mix 4 8
  | _ => mix 2 4

/-- The 32 B pieces of `[o, o + n)`, each whole in one row: logical offset and length. -/
def pieces (o : Nat) : Nat → Nat → List (Nat × Nat)
  | 0, _ => []
  | fuel + 1, n =>
    if n = 0 then []
    else
      let k := min n (32 - o % 32)
      (o, k) :: pieces (o + k) fuel (n - k)

/-- Pieces of a span of the scratchpad. -/
def spanPieces (o n : Nat) : List (Nat × Nat) := pieces o (n / 32 + 2) n

/-- The stretches of the scratchpad that `[o, o + n)` names under a swizzle (09 R174). -/
def placed (swz o n : Nat) : List (Nat × Nat) := (spanPieces o n).map (fun p => (swizzle swz p.1, p.2))

/-- Bytes at logical offsets `[o, o + n)` under a swizzle. -/
def TaskCore.engineRead (t : TaskCore) (swz o n : Nat) : List Byte :=
  (spanPieces o n).flatMap (fun p => t.spad.read (swizzle swz p.1) p.2)

/-- Poisoned rows among them. -/
def TaskCore.engineRotten (t : TaskCore) (swz o n : Nat) : Bool :=
  !t.poisonRows.isEmpty && (spanPieces o n).any (fun p => t.rotten (swizzle swz p.1) p.2)

/-- Write bytes at logical offsets under a swizzle; the segments touched take the layout tag (09 R176). -/
def TaskCore.engineWrite (t : TaskCore) (rp : Option W64) (swz o : Nat) (bs : List Byte) : TaskCore :=
  let t1 := (spanPieces o bs.length).foldl (fun t p =>
    t.spadPut rp (swizzle swz p.1) (((bs.drop (p.1 - o)).take p.2).map some)) t
  { t1 with layout := (spanPieces o bs.length).foldl (fun m p => m.set (swizzle swz p.1 / 2048) swz) t1.layout }

/-- SCTL.LCHK. -/
def TaskCore.lchk (t : TaskCore) : Bool := bitAt t.sctl 0

/-- A segment of the span does not hold the layout tag (09 R176). -/
def TaskCore.misLaid (t : TaskCore) (swz o n : Nat) : Bool :=
  t.lchk && (spanPieces o n).any (fun p => t.layout.get (swizzle swz p.1 / 2048) 0 != swz)

/-! ## Latches -/

/-- Bytes of a row of A, and of B (10 R221). -/
def aRow (t : Tag) (k : Nat) : Nat := k * t.width / 8
@[inherit_doc aRow] def bRow (t : Tag) : Nat := 64 * t.width / 8

/-- The `n` bytes of a row; one without an address is zeros (10 R222). -/
def TaskCore.latchRow (t : TaskCore) (swz n : Nat) (r : Option Nat) : List Byte :=
  match r with
  | some o => t.engineRead swz o n
  | none => List.replicate n 0

/-- The bytes of a latch source, row by row (10 R221, R222). -/
def TaskCore.latchRows (t : TaskCore) (isB : Bool) (x : LatchSrc) : List (List Byte) :=
  x.rows.map (t.latchRow x.swz (if isB then bRow x.tag else aRow x.tag x.depth))

/-- A latch from its rows. -/
def latchOf (x : LatchSrc) (rows : List (List Byte)) : Latch := ⟨BitVec.ofNat 131072 (leNat rows.flatten), x.tag, x.depth⟩

/-- The bytes of the latch as read. -/
def latchBytes (isB : Bool) (x : LatchSrc) (l : Latch) : List Byte :=
  leBytes (x.rows.length * (if isB then bRow x.tag else aRow x.tag x.depth)) l.bits.toNat

/-! ## The auditor -/

/-- One step of the LFSR (21 R458; its direction: log 21, DEDUCED). -/
def lfsrStep (x : W32) : W32 := (x <<< 1) ^^^ (if x.msb then 0x00400007 else 0)

/-- CRC-64 of ECMA-182 (21 R460). -/
def crcByte (crc : W64) (b : Byte) : W64 :=
  (List.range 8).foldl (fun c _ => (c <<< 1) ^^^ (if c.msb then 0x42F0E1EBA9EA3693 else 0)) (crc ^^^ (b.zeroExtend 64 <<< 56))
@[inherit_doc crcByte] def crc64 (bs : List Byte) : W64 := bs.foldl crcByte 0

/-- The bytes of a tile, row-major, little-endian (21 R459). -/
def tileBytes (d : TileData) : List Byte := (List.range 32).flatMap (rowBytes d)

/-- A saturating 16-bit count. -/
def sat16 (n : Nat) : Nat := min (n + 1) 0xFFFF

/-- AUDIT_SAMPLE: a finished `mmul` steps the LFSR and may be sampled; SAMP counts the sample, and SKIP too where the buffer is full (21 R458,
R459, R462). -/
def Audit.sample (a : Audit) (mk : Unit → AuditEntry) : Audit :=
  let x := lfsrStep a.lfsr
  let a1 := { a with lfsr := x }
  if a.en && x.toNat % 2 ^ a.k == 0 then
    let a2 := { a1 with samp := sat16 a1.samp }
    if a2.buffer.length < 4 then { a2 with buffer := a2.buffer ++ [mk ()] } else { a2 with skip := sat16 a2.skip }
  else a1

/-- Write 1 to CLR (21 R462). -/
def Audit.cleared (a : Audit) : Audit := { a with samp := 0, skip := 0, void := 0, matched := 0, mism := 0 }

/-- The blocks of a macro-op from given latches and scales on a tile (10 R208-R210). -/
def replayBlocks (a b : Latch) (zs : Bool) (scales : List Byte) : Nat → Nat → TileData → TileData
  | 0, _, t => t
  | n + 1, i, t => replayBlocks a b zs scales n (i + 1) (blockUpdate a b zs ((scales.drop (96 * i)).take 96) i t).1

/-- The verdict on an entry: none is void, else whether the signatures agree; and the replay's signature (21 R461). -/
def AuditEntry.verdict (e : AuditEntry) (t : TaskCore) : Option Bool × W64 :=
  let ra := t.latchRows false e.a
  let rb := t.latchRows true e.b
  let scales := match e.scaleAt with
    | some o => t.spad.read o e.scales.length
    | none => e.scales
  if crc64 (ra.flatten ++ rb.flatten ++ scales) ≠ e.crcIn then (none, 0)
  else
    let sig := crc64 (tileBytes (replayBlocks (latchOf e.a ra) (latchOf e.b rb) e.zs scales (e.k / 32) 0 e.tile))
    (some (sig == e.signature), sig)

/-- AUDIT_REPLAY: the oldest entry is replayed by the supervisor of the opposite quadrant (21 R461). -/
def execAuditReplay (l : CluId) (s : State) : Out :=
  match (s.audit l).buffer with
  | [] => happen false id s
  | e :: rest => happen true (fun s =>
      let r := e.verdict (s.tc e.core)
      let s1 := s.setAudit l (fun a => { a with buffer := rest })
      match r.1 with
      | none => s1.setAudit l (fun a => { a with void := sat16 a.void })
      | some true => s1.setAudit l (fun a => { a with matched := sat16 a.matched })
      | some false =>
        let q := s.quad e.core
        let by_ := supOf ⟨q.pkg, q.die, q.quad ^^^ 3⟩
        (s1.setAudit l (fun a => { a with mism := sat16 a.mism })).pushEvent q false
          (reportBytes (siteWord e.core.die (s.site e.core)) 4 0 0 (siteWord by_.die (s.site by_)) 0 e.signature.toNat
            r.2.toNat)) s

/-- AUDIT_CLR (21 R462). -/
def execAuditClr (l : CluId) (s : State) : Out := happen true (fun s => s.setAudit l Audit.cleared) s

end Sys2Proof.Machine
end

