-- ==== Sys2Proof/Machine/Vector.lean ====
section
/-! DEFINITION. The vector instructions (08 R151-R168). -/

namespace Sys2Proof.Machine

open Sys2Proof Sys2Proof.Lanes

/-- Two and three vector sources under their lane patterns. -/
def State.va (s : State) (f : Fields) : VSrc := s.vval f f.la f.a
@[inherit_doc State.va]
def State.vb (s : State) (f : Fields) : VSrc := s.vval f f.lb f.b
@[inherit_doc State.va]
def State.vc (s : State) (f : Fields) : VSrc := s.vval f 0 f.c

/-- The committed tag of a destination register, RAW where it is not one (07 R126, 08 R150). -/
def State.dTag (s : State) : Sel → Tag
  | .reg n => (s.me.getV n).tag
  | _ => .raw

/-- FCTL as the vector unit uses it. -/
def State.fp (s : State) : Fp := fpOf s.me.spr.fctl

/-- A tagged instruction over some sources: FORMAT where they have no operand tag or the entry refuses it (07 R126, R127);
`more` are the entry's checks behind the tag's. -/
def tagged (i : Instr) (f : Fields) (srcs : State → List VSrc) (dtag : State → Tag) (ok : Tag → Bool) (act : Tag → State → State)
    (s : State) (more : Tag → State → Verdict := fun _ _ => .ok) : Out :=
  run i f {
    gate := fun s => match operandTag f.modTop (srcs s) (dtag s) with
      | some t => if ok t then more t s else s.atPc 4 cFormat
      | none => s.atPc 4 cFormat
    act := fun s => act ((operandTag f.modTop (srcs s) (dtag s)).getD .raw) s } s

/-- `op vd, va, vb` (08 R151). -/
def vector2 (i : Fields → Instr) (o : Op2) (ok : Tag → Bool) (li lf : Nat) (f : Fields) (s : State) : Out :=
  tagged (i f) f (fun s => [s.va f, s.vb f]) (fun s => s.dTag f.d) (fun t => ok t && (t.isInt || !f.modU))
    (fun t s => s.resultV f.d (if t.isInt then li else lf) (op2 o t f.modU s.fp (s.va f) (s.vb f))) s

/-- `op vd, va, vb, vc` (08 R152). -/
def vector3 (i : Fields → Instr) (o : Op3) (f : Fields) (s : State) : Out :=
  tagged (i f) f (fun s => [s.va f, s.vb f, s.vc f]) (fun s => s.dTag f.d) (fun _ => true)
    (fun t s => s.resultV f.d 4 (op3 o t s.fp (s.va f) (s.vb f) (s.vc f))) s

/-- `op vd, va`, tagged. -/
def vector1 (i : Fields → Instr) (ok : Tag → Bool) (lat : Nat) (g : Tag → State → VSrc → VReg) (f : Fields) (s : State) : Out :=
  tagged (i f) f (fun s => [s.va f]) (fun s => s.dTag f.d) ok (fun t s => s.resultV f.d lat (g t s (s.va f))) s

/-- The tag of an untagged two-source instruction (08 R154, R157). -/
def State.tag2 (s : State) (f : Fields) : Tag := untagged [s.va f, s.vb f] (s.dTag f.d)
/-- The tag of an untagged one-source instruction (08 R158, R161, R162). -/
def State.tag1 (s : State) (f : Fields) : Tag := untagged [s.va f] (s.dTag f.d)

/-- A bitwise instruction (08 R154). -/
def vectorBits (i : Fields → Instr) (g : VBits → VBits → VBits) (f : Fields) (s : State) : Out :=
  run (i f) f { act := fun s => s.resultV f.d 2 (bitwise g (s.tag2 f) (s.va f) (s.vb f)) } s

/-- A shift (08 R155). -/
def vectorShift (i : Fields → Instr) (o : Shift) (f : Fields) (s : State) : Out :=
  tagged (i f) f (fun s => [s.va f, s.vb f]) (fun s => s.dTag f.d) Tag.isInt
    (fun t s => s.resultV f.d 2 (shift o t (s.va f) (s.vb f))) s

/-- A bit count (08 R166). -/
def vectorCount (i : Fields → Instr) (o : Count) (f : Fields) (s : State) : Out :=
  vector1 i Tag.isInt 2 (fun t _ a => count o t a) f s

/-- A transcendental (08 R167). -/
def vectorFn (i : Fields → Instr) (g : Transcend.Fn) (f : Fields) (s : State) : Out :=
  vector1 i isWideTag 8 (fun t s a => Transcend.apply g t s.me.spr.fctl a) f s

/-- `vadd` (08 R151). -/
def execVadd (f : Fields) (s : State) : Out := vector2 .vadd .add (fun _ => true) 2 4 f s

/-- `vsub` (08 R151). -/
def execVsub (f : Fields) (s : State) : Out := vector2 .vsub .sub (fun _ => true) 2 4 f s

/-- `vmul` (08 R151). -/
def execVmul (f : Fields) (s : State) : Out := vector2 .vmul .mul (fun _ => true) 4 4 f s

/-- `vfma` (08 R152). -/
def execVfma (f : Fields) (s : State) : Out := vector3 .vfma .fma f s

/-- `vfms` (08 R152). -/
def execVfms (f : Fields) (s : State) : Out := vector3 .vfms .fms f s

/-- `vfnma` (08 R152). -/
def execVfnma (f : Fields) (s : State) : Out := vector3 .vfnma .fnma f s

/-- `vmin` (08 R151). -/
def execVmin (f : Fields) (s : State) : Out := vector2 .vmin .min (fun _ => true) 2 2 f s

/-- `vmax` (08 R151). -/
def execVmax (f : Fields) (s : State) : Out := vector2 .vmax .max (fun _ => true) 2 2 f s

/-- `vabs` (08 R153). -/
def execVabs (f : Fields) (s : State) : Out := vector1 .vabs (fun _ => true) 2 (fun t s a => absNeg false t s.fp a) f s

/-- `vneg` (08 R153). -/
def execVneg (f : Fields) (s : State) : Out := vector1 .vneg (fun _ => true) 2 (fun t s a => absNeg true t s.fp a) f s

/-- `vand` (08 R154). -/
def execVand (f : Fields) (s : State) : Out := vectorBits .vand (fun a b => a &&& b) f s

/-- `vor` (08 R154). -/
def execVor (f : Fields) (s : State) : Out := vectorBits .vor (fun a b => a ||| b) f s

/-- `vxor` (08 R154). -/
def execVxor (f : Fields) (s : State) : Out := vectorBits .vxor (fun a b => a ^^^ b) f s

/-- `vandn` (08 R154). -/
def execVandn (f : Fields) (s : State) : Out := vectorBits .vandn (fun a b => a &&& ~~~ b) f s

/-- `vshl` (08 R155). -/
def execVshl (f : Fields) (s : State) : Out := vectorShift .vshl .shl f s

/-- `vshr` (08 R155). -/
def execVshr (f : Fields) (s : State) : Out := vectorShift .vshr .shr f s

/-- `vsra` (08 R155). -/
def execVsra (f : Fields) (s : State) : Out := vectorShift .vsra .sra f s

/-- `vmulh` (08 R151). -/
def execVmulh (f : Fields) (s : State) : Out := vector2 .vmulh .mulh Tag.isInt 4 4 f s

/-- `vavg` (08 R151). -/
def execVavg (f : Fields) (s : State) : Out := vector2 .vavg .avg (fun _ => true) 2 4 f s

/-- `vabd` (08 R151). -/
def execVabd (f : Fields) (s : State) : Out := vector2 .vabd .abd (fun _ => true) 2 4 f s

/-- `vcmp` (08 R156). -/
def execVcmp (f : Fields) (s : State) : Out :=
  tagged (.vcmp f) f (fun s => [s.va f, s.vb f]) (fun _ => .raw) (fun t => t.isInt || !f.modU)
    (fun t s => s.resultP f.d 2 (vcmp f.cc t f.modU s.fp (s.va f) (s.vb f))) s
    (fun t s => if t.isInt && decide (6 ≤ f.cc) then s.atPc 5 cIllegal else .ok)

/-- `vsel` (08 R157). -/
def execVsel (f : Fields) (s : State) : Out :=
  run (.vsel f) f { act := fun s => s.resultV f.d 2 (vsel (s.tag2 f) (s.va f) (s.vb f) (s.pval f.c)) } s

/-- `vmov` (08 R158). -/
def execVmov (f : Fields) (s : State) : Out :=
  run (.vmov f) f {
    also := fun s => match s.va f, f.d with
      | .val _, _ => []
      | _, .reg n => [.v n]
      | _, _ => []
    act := fun s => s.resultV f.d 2 ⟨(s.va f).bitsAt (s.tag1 f).width, s.tag1 f⟩ } s

/-- `vbc` (08 R159). -/
def execVbc (f : Fields) (s : State) : Out :=
  run (.vbc f) f { act := fun s => s.resultV f.d 2 ⟨splat f.xTag.width (s.gval f f.a), f.xTag⟩ } s

/-- `vget` (08 R160). -/
def execVget (f : Fields) (s : State) : Out :=
  run (.vget f) f { act := fun s => s.later (Dest.ofG f.d) 2 (.g (vget (untagged [s.va f] .raw) (s.va f) (s.gval f f.b))) } s

/-- The old bits of a destination that is read as a source; a link or ZERO has none (07 R137). -/
def State.oldV (s : State) : Sel → VReg
  | .reg n => s.me.getV n
  | _ => VReg.rawZero

/-- `vset` (08 R160). -/
def execVset (f : Fields) (s : State) : Out :=
  run (.vset f) f { act := fun s => s.resultV f.d 2 (vset (s.oldV f.d) (s.gval f f.a) (s.gval f f.b)) } s

/-- `vperm` (08 R161). -/
def execVperm (f : Fields) (s : State) : Out :=
  run (.vperm f) f { act := fun s => s.resultV f.d 3 (vperm (s.tag1 f) (s.va f) (s.vb f)) } s

/-- `vcomp` (08 R162). -/
def execVcomp (f : Fields) (s : State) : Out :=
  run (.vcomp f) f { act := fun s => s.resultV f.d 3 (vcomp (s.tag1 f) (s.va f) (s.pval f.c)) } s

/-- `vexpd` (08 R162). -/
def execVexpd (f : Fields) (s : State) : Out :=
  run (.vexpd f) f { act := fun s => s.resultV f.d 3 (vexpd (s.tag1 f) (s.va f) (s.pval f.c)) } s

/-- `vred` (08 R163). -/
def execVred (f : Fields) (s : State) : Out :=
  vector1 .vred (fun t => t.isInt || !f.modU) 6 (fun t s a => vred f.cc t f.modU s.fp a) f s

/-- `vscan` (08 R164). -/
def execVscan (f : Fields) (s : State) : Out :=
  vector1 .vscan (fun t => (t.isInt || !f.modU) && (t.isInt || isWideTag t || f.cc != 0)) 8
    (fun t s a => vscan f.cc t f.modU s.fp a) f s

/-- `vdot4` (08 R165). -/
def execVdot4 (f : Fields) (s : State) : Out :=
  tagged (.vdot4 f) f (fun s => [s.va f, s.vb f]) (fun s => s.dTag f.d)
    (fun t => match dotTag t with
      | some r => (t.isInt || !f.modU) && (match s.vc f with
        | .val c => c.tag == r
        | _ => true)
      | none => false)
    (fun t s => s.resultV f.d 4 (vdot4 t ((dotTag t).getD .raw) f.modU s.fp (s.va f) (s.vb f) (s.vc f))) s

/-- `vclz` (08 R166). -/
def execVclz (f : Fields) (s : State) : Out := vectorCount .vclz .clz f s

/-- `vpopc` (08 R166). -/
def execVpopc (f : Fields) (s : State) : Out := vectorCount .vpopc .popc f s

/-- `vffs` (08 R166). -/
def execVffs (f : Fields) (s : State) : Out := vectorCount .vffs .ffs f s

/-- `vexp2` (08 R167, R168). -/
def execVexp2 (f : Fields) (s : State) : Out := vectorFn .vexp2 .exp2 f s

/-- `vlog2` (08 R167, R168). -/
def execVlog2 (f : Fields) (s : State) : Out := vectorFn .vlog2 .log2 f s

/-- `vrcp` (08 R167, R168). -/
def execVrcp (f : Fields) (s : State) : Out := vectorFn .vrcp .rcp f s

/-- `vrsq` (08 R167, R168). -/
def execVrsq (f : Fields) (s : State) : Out := vectorFn .vrsq .rsq f s

/-- `vsin` (08 R167, R168). -/
def execVsin (f : Fields) (s : State) : Out := vectorFn .vsin .sin f s

/-- `vcos` (08 R167, R168). -/
def execVcos (f : Fields) (s : State) : Out := vectorFn .vcos .cos f s

/-- `vtanh` (08 R167, R168). -/
def execVtanh (f : Fields) (s : State) : Out := vectorFn .vtanh .tanh f s

end Sys2Proof.Machine
end

