-- ==== Sys2Proof/Machine/Convert.lean ====
section
/-! DEFINITION. The conversion instructions (07 R137-R143). -/

namespace Sys2Proof.Machine

open Sys2Proof Sys2Proof.Lanes

/-- The register value of a source that is a register or a link. -/
def vregOf : VSrc → VReg
  | .val r => r
  | _ => VReg.rawZero

/-- A conversion with a part q: FORMAT where the source tag is refused or q is at its bound; a narrowing one reads its
destination, whose other lanes keep the bits they held (07 R137). -/
def converts (i : Instr) (f : Fields) (ok : Tag → Bool) (keeps : Tag → Bool) (lat : Nat) (g : State → VReg → VReg → VReg)
    (s : State) : Out :=
  run i f {
    also := fun s => match f.d with
      | .reg n => if keeps (vregOf (s.va f)).tag then [.v n] else []
      | _ => []
    gate := fun s => if ok (vregOf (s.va f)).tag then .ok else s.atPc 4 cFormat
    act := fun s =>
      let r := g s (vregOf (s.va f)) (s.oldV f.d)
      if keeps (vregOf (s.va f)).tag then
        let d := s.destOf true f.d
        d.2.later d.1 lat (.v r)
      else s.resultV f.d lat r } s

/-- `vcvt` (07 R138). -/
def execVcvt (f : Fields) (s : State) : Out :=
  converts (.vcvt f) f (fun t => t != .raw && partOk t f.xTag f.part) (fun t => decide (t.lanes < f.xTag.lanes)) 3
    (fun s a old => vcvt f.xTag f.part f.modInf f.modU s.fp a old.bits) s

/-- `vtag` (07 R139). -/
def execVtag (f : Fields) (s : State) : Out :=
  run (.vtag f) f {
    act := fun s =>
      let d := s.destOf true f.d
      d.2.later d.1 1 (.v ⟨(s.va f).bitsAt 32, f.xTag⟩) } s

/-- `vqnt` (07 R142). -/
def execVqnt (f : Fields) (s : State) : Out :=
  converts (.vqnt f) f (fun t => isWideTag t && partOk t f.xTag f.part) (fun t => decide (t.lanes < f.xTag.lanes)) 6
    (fun s a old => vqnt f.xTag f.part f.modInf s.fp a (vregOf (s.vb f)) old.bits) s

/-- `vdqt` (07 R143). Register vb is read as bytes whatever its tag, as 07 R142 says of `vqnt` (log 11, DEDUCED). -/
def execVdqt (f : Fields) (s : State) : Out :=
  converts (.vdqt f) f (fun t => isBlockTag t && partOk t f.xTag f.part) (fun t => decide (t.lanes < f.xTag.lanes)) 4
    (fun s a old => vdqt f.xTag f.part s.fp a (vregOf (s.vb f)) old.bits) s

/-- `vbmax` (07 R141). -/
def execVbmax (f : Fields) (s : State) : Out :=
  converts (.vbmax f) f isWideTag (fun _ => true) 4 (fun s a old => vbmax f.xTag f.part s.fp a old.bits) s

/-- `vsat` (07 R140). -/
def execVsat (f : Fields) (s : State) : Out :=
  converts (.vsat f) f (fun t => t != .raw && t.isInt == f.xTag.isInt) (fun _ => false) 2 (fun _ a _ => vsat f.xTag a) s

end Sys2Proof.Machine
end

