-- ==== Sys2Proof/Machine/Shake.lean ====
section
/-! DEFINITION. SHAKE256 (22 R470, R475): the sponge over Keccak-f[1600] with a rate of 136 bytes, as FIPS 202 defines it
(log 15, PRESUMED). -/

namespace Sys2Proof.Machine

open Sys2Proof

/-- The state of the permutation: 25 lanes, lane x + 5 y. -/
abbrev Lanes25 := List W64

/-- Lane (x, y), coordinates modulo 5. -/
def lane25 (a : Lanes25) (x y : Nat) : W64 := a.getD (x % 5 + 5 * (y % 5)) 0

/-- A rotation to the left. -/
def rol25 (x : W64) (n : Nat) : W64 := x.rotateLeft (n % 64)

/-- Every lane from its coordinates. -/
def build25 (f : Nat → Nat → W64) : Lanes25 := (List.range 25).map (fun i => f (i % 5) (i / 5))

/-- The rotation offsets, by x + 5 y. -/
def offsets25 : List Nat := [0, 1, 62, 28, 27, 36, 44, 6, 55, 20, 3, 10, 43, 25, 39, 41, 45, 15, 21, 8, 18, 2, 61, 56, 14]

/-- The round constants. -/
def rounds25 : List W64 :=
  [0x0000000000000001, 0x0000000000008082, 0x800000000000808A, 0x8000000080008000, 0x000000000000808B, 0x0000000080000001]
    ++ [0x8000000080008081, 0x8000000000008009, 0x000000000000008A, 0x0000000000000088, 0x0000000080008009, 0x000000008000000A]
    ++ [0x000000008000808B, 0x800000000000008B, 0x8000000000008089, 0x8000000000008003, 0x8000000000008002, 0x8000000000000080]
    ++ [0x000000000000800A, 0x800000008000000A, 0x8000000080008081, 0x8000000000008080, 0x0000000080000001, 0x8000000080008008]

/-- Theta. -/
def theta25 (a : Lanes25) : Lanes25 :=
  let c := (List.range 5).map (fun x => lane25 a x 0 ^^^ lane25 a x 1 ^^^ lane25 a x 2 ^^^ lane25 a x 3 ^^^ lane25 a x 4)
  build25 (fun x y => lane25 a x y ^^^ c.getD ((x + 4) % 5) 0 ^^^ rol25 (c.getD ((x + 1) % 5) 0) 1)

/-- Rho and pi: lane (x, y) goes to (y, 2 x + 3 y). -/
def pi25 (a : Lanes25) : Lanes25 :=
  build25 (fun x y =>
    let px := (x + 3 * y) % 5
    rol25 (lane25 a px x) (offsets25.getD (px + 5 * x) 0))

/-- Chi and iota. -/
def chi25 (rc : W64) (a : Lanes25) : Lanes25 :=
  build25 (fun x y => lane25 a x y ^^^ (~~~ lane25 a (x + 1) y &&& lane25 a (x + 2) y) ^^^ (if x = 0 ∧ y = 0 then rc else 0))

/-- Keccak-f[1600]. -/
def keccakF (a : Lanes25) : Lanes25 := rounds25.foldl (fun a rc => chi25 rc (pi25 (theta25 a))) a

/-- A block of 136 bytes is absorbed. -/
def absorb (a : Lanes25) (block : List Byte) : Lanes25 :=
  keccakF (build25 (fun x y => lane25 a x y ^^^ BitVec.ofNat 64 (field block (8 * (x + 5 * y)) 8)))

/-- The padded message: 0x1F, zeros, and 0x80 in the last byte of the block. -/
def padShake (bs : List Byte) : List Byte :=
  let z := 135 - bs.length % 136
  if z = 0 then bs ++ [0x9F] else bs ++ [0x1F] ++ List.replicate (z - 1) 0 ++ [0x80]

/-- The message is absorbed, block by block. -/
def absorbAll : Nat → Lanes25 → List Byte → Lanes25
  | 0, a, _ => a
  | n + 1, a, bs => absorbAll n (absorb a (bs.take 136)) (bs.drop 136)

/-- The first `n` bytes of SHAKE256, `n` at most 136. -/
def shake256 (bs : List Byte) (n : Nat) : List Byte :=
  let p := padShake bs
  (((absorbAll (p.length / 136) (List.replicate 25 0) p).flatMap (fun w => leBytes 8 w.toNat)).take n)

end Sys2Proof.Machine
end

