-- ==== Sys2Proof/Machine/MatrixUnit.lean ====
section
/-! DEFINITION. The matrix instructions and the engine's commands (10 R200-R232). -/

namespace Sys2Proof.Machine

open Sys2Proof Sys2Proof.Lanes

/-- The tile a selector names. -/
def tileNo : Sel → Fin 4
  | .reg n => ⟨n.toNat % 4, Nat.mod_lt _ (by decide)⟩
  | _ => 0

/-- The matrix engine of the issuing core. -/
def State.mat (s : State) : Matrix := s.myTc.mat
@[inherit_doc State.mat]
def State.setMat (s : State) (f : Matrix → Matrix) : State := s.setMyTc (fun t => { t with mat := f t.mat })

/-- An instruction that finds 16 commands queued holds its context (10 R203). -/
def State.roomM (s : State) : Verdict := if 16 ≤ s.mat.queue.length then .hold else .ok

/-- A command enters the queue (10 R203). -/
def State.enqueueM (s : State) (cmd : MCmd) (tok : Option Nat := none) : State :=
  let n := s.nextId
  let pc := s.myPc
  { (s.setMat (fun m => { m with queue := m.queue ++ [⟨cmd, n, pc, 0, tok, none⟩] })) with
    nextId := n + 1, pk := { s.pk with cmds := n :: s.pk.cmds } }

/-- Change the issue-time record (10 R201). -/
def State.record (s : State) (f : MRecord → MRecord) : State := s.setMat (fun m => { m with recd := f m.recd })

/-- The shadow of the tile is RUN, as recorded at issue (10 R216). -/
def State.shadowRun (s : State) (i : Fin 4) : Bool := s.mat.recd.shadows[i]

/-- A check of class 5 whose address is the PC. -/
def State.need5 (s : State) (cond : Bool) (cause : Nat) : Verdict := if cond then .ok else s.atPc 5 cause
/-- A FORMAT check (07 R126). -/
def State.tagCheck (s : State) (cond : Bool) : Verdict := if cond then .ok else s.atPc 4 cFormat

/-- `mzero` (10 R220). -/
def execMzero (f : Fields) (s : State) : Out :=
  let a := tileNo f.d
  run (.mzero f) f {
    gate := fun s => (s.need5 (!s.shadowRun a) cIllegal).andThen s.roomM
    act := fun s => (s.enqueueM (.mzero a f.xTag)).record (fun r => r.setTile a f.xTag) } s

/-- The tag of a latch load: code 0 keeps the recorded one (10 R221). -/
def State.latchTag (s : State) (isB : Bool) (f : Fields) : Tag :=
  if f.xTag == .raw then (if isB then s.mat.recd.bTag else s.mat.recd.aTag) else f.xTag

/-- K of a latch load: 0 is Kmax (10 R221). -/
def depthOf (t : Tag) (k : W64) : Nat := if k = 0 then kMax t else k.toNat
/-- The stride: 0 is the dense row (10 R221). -/
def strideOf (stride : W64) (dense : Nat) : W64 := if stride = 0 then BitVec.ofNat 64 dense else stride

/-- Every row of an engine access passes R169 (10 R205, R221). -/
def State.rowsOk (s : State) (eas : List W64) (n : Nat) : Verdict := firstBad (eas.map (fun e => s.localOk e n 32))

/-- Every row of `mlda`, `mldb` or `mst` passes R169; the first of them must be 32 B aligned, and with an aligned stride all are. The dense rows of
a 4-bit A latch whose depth is an odd multiple of 32 lie 16 B apart modulo 32 (10 R221). -/
def State.denseRowsOk (s : State) (eas : List W64) (n : Nat) : Verdict :=
  firstBad (eas.zipIdx.map (fun e => s.localOk e.1 n (if e.2 = 0 then 32 else 1)))

/-- The row addresses of `mlda`, `mldb` and `mst`. -/
def rowEas (ga stride : W64) (n : Nat) : List W64 := (List.range n).map (fun i => ga + BitVec.ofNat 64 i * stride)

/-- The latch takes its new tag and depth at issue (10 R221). -/
def State.recordLatch (s : State) (isB : Bool) (t : Tag) (k : Nat) : State :=
  s.record (fun r => if isB then { r with bTag := t, bDepth := k } else { r with aTag := t, aDepth := k })

/-- `mlda` and `mldb` (10 R221). -/
def latchLoad (i : Fields → Instr) (isB : Bool) (f : Fields) (s : State) : Out :=
  run (i f) f {
    gate := fun s =>
      let t := s.latchTag isB f
      let k := depthOf t (s.gval f f.c)
      let n := if isB then bRow t else aRow t k
      let st := strideOf (s.gval f f.b) n
      (s.tagCheck (t != .raw)).andThen <|
      (s.need5 (k % 32 == 0 && decide (32 ≤ k) && decide (k ≤ kMax t)) cIllegal).andThen <|
      (s.need5 ((s.gval f f.b).toNat % 32 == 0) cAlign).andThen <|
      (s.denseRowsOk (rowEas (s.gval f f.a) st (if isB then k else 32)) n).andThen s.roomM
    act := fun s =>
      let t := s.latchTag isB f
      let k := depthOf t (s.gval f f.c)
      let st := strideOf (s.gval f f.b) (if isB then bRow t else aRow t k)
      let rows := (rowEas (s.gval f f.a) st (if isB then k else 32)).map (fun e => some (spadOff e))
      (s.enqueueM (.load isB ⟨t, k, f.swz, rows⟩)).recordLatch isB t k } s

/-- `mlda` (10 R221). -/
def execMlda (f : Fields) (s : State) : Out := latchLoad .mlda false f s
/-- `mldb` (10 R221). -/
def execMldb (f : Fields) (s : State) : Out := latchLoad .mldb true f s

/-- The row addresses of `mgat`: an index of all ones makes no access (10 R222). -/
def gatherEas (ga : W64) (ix : VReg) : List (Option W64) :=
  ((lanes 32 ix.bits).take 32).map (fun i => if i = 0xFFFFFFFF then none else some (ga + BitVec.ofNat 64 i))

/-- `mgat` (10 R222). -/
def execMgat (f : Fields) (s : State) : Out :=
  run (.mgat f) f {
    gate := fun s =>
      let t := s.latchTag false f
      let k := depthOf t (s.gval f f.c)
      (s.tagCheck (t != .raw)).andThen <|
      (s.need5 (k % 32 == 0 && decide (32 ≤ k) && decide (k ≤ kMax t)) cIllegal).andThen <|
      (s.rowsOk ((gatherEas (s.gval f f.a) (s.vreg f.b)).filterMap id) (aRow t k)).andThen s.roomM
    act := fun s =>
      let t := s.latchTag false f
      let k := depthOf t (s.gval f f.c)
      let rows := (gatherEas (s.gval f f.a) (s.vreg f.b)).map (fun e => e.map spadOff)
      (s.enqueueM (.gather ⟨t, k, f.swz, rows⟩ [])).recordLatch false t k } s

/-- The checks of `mmul` and `mmuls` (10 R223). -/
def State.mmulOk (s : State) (f : Fields) (shadow : Bool) : Verdict :=
  let r := s.mat.recd
  let k := (s.gval f f.a).toNat
  (s.tagCheck (r.aTag == r.bTag && r.aTag != .raw
    && r.tiles[tileNo f.d] == (if r.aTag.isInt then Tag.i32 else Tag.f32))).andThen <|
  (s.need5 (k % 32 == 0 && decide (32 ≤ k) && decide (k ≤ min r.aDepth r.bDepth)) cIllegal).andThen <|
  (if f.modU then s.localOk (s.gval f f.b) (96 * (k / 32)) 32 else .ok).andThen <|
  (s.need5 (shadow || !s.shadowRun (tileNo f.d)) cIllegal).andThen s.roomM

/-- Queue a macro-op. -/
def State.queueMul (s : State) (f : Fields) (shadow : Bool) : State :=
  s.enqueueM (.mul (tileNo f.d) (s.gval f f.a).toNat f.modTop
    (if f.modU then some (spadOff (s.gval f f.b)) else none) shadow)

/-- `mmul` (10 R223). -/
def execMmul (f : Fields) (s : State) : Out :=
  run (.mmul f) f { gate := fun s => s.mmulOk f false, act := fun s => s.queueMul f false } s
/-- `mmuls` (10 R216, R223). -/
def execMmuls (f : Fields) (s : State) : Out :=
  run (.mmuls f) f {
    gate := fun s => s.mmulOk f true
    act := fun s => (s.queueMul f true).record (fun r => { r with shadows := r.shadows.set (tileNo f.d) true }) } s

/-- `mcom` (10 R224). -/
def execMcom (f : Fields) (s : State) : Out :=
  run (.mcom f) f {
    gate := fun s => s.roomM
    act := fun s => (s.enqueueM (.com (tileNo f.d))).record (fun r => { r with shadows := r.shadows.set (tileNo f.d) false }) } s
/-- `mdis` (10 R224). -/
def execMdis (f : Fields) (s : State) : Out :=
  run (.mdis f) f {
    gate := fun s => s.roomM
    act := fun s => (s.enqueueM (.dis (tileNo f.d))).record (fun r => { r with shadows := r.shadows.set (tileNo f.d) false }) } s

/-- Queue a command that lands a result. -/
def State.enqueueSb (s : State) (d : Dest) (cmd : MCmd) : State :=
  let p := s.pendOn [d]
  p.2.enqueueM cmd (some p.1)

/-- `mscq` (10 R225). -/
def execMscq (f : Fields) (s : State) : Out :=
  run (.mscq f) f {
    gate := fun s => s.roomM
    act := fun s => s.enqueueSb (Dest.ofG f.d) (.scq (s.gval f f.a)) } s

/-- `mfin` (10 R226). -/
def execMfin (f : Fields) (s : State) : Out :=
  let a := tileNo f.d
  run (.mfin f) f {
    gate := fun s =>
      let t := s.mat.recd.tiles[a]
      (s.tagCheck (t == .f32 || t == .i32)).andThen <| (s.need5 (!s.shadowRun a) cIllegal).andThen s.roomM
    act := fun s => (s.enqueueM (.fin a f.xTag ((s.gval f f.a).truncate 32))).record (fun r => r.setTile a f.xTag) } s

/-- A tile named as a source is busy (10 R204). -/
def State.tileFree (s : State) (a : Fin 4) : Verdict := if s.mat.busy a then .stall else .ok

/-- `mrow` (10 R227). -/
def execMrow (f : Fields) (s : State) : Out :=
  run (.mrow f) f {
    gate := fun s => (s.tileFree (tileNo f.a)).andThen s.roomM
    act := fun s => s.enqueueSb (Dest.ofV f.d) (.row (tileNo f.a) ((s.gval f f.b).toNat % 32)) } s

/-- `mst` (10 R228). -/
def execMst (f : Fields) (s : State) : Out :=
  let a := tileNo f.b
  run (.mst f) f {
    gate := fun s =>
      let t := s.mat.recd.tiles[a]
      let st := strideOf (s.gval f f.c) (bRow t)
      (s.tileFree a).andThen <|
      (s.tagCheck (t != .raw)).andThen <|
      (s.need5 ((s.gval f f.c).toNat % 32 == 0) cAlign).andThen <|
      (s.denseRowsOk (rowEas (s.gval f f.a) st 32) (bRow t)).andThen s.roomM
    act := fun s =>
      let st := strideOf (s.gval f f.c) (bRow s.mat.recd.tiles[a])
      s.enqueueM (.store a ((rowEas (s.gval f f.a) st 32).map spadOff) f.swz) } s

/-- `mcnt` (10 R229). -/
def execMcnt (f : Fields) (s : State) : Out :=
  run (.mcnt f) f {
    gate := fun s => (s.tileFree (tileNo f.a)).andThen s.roomM
    act := fun s => s.enqueueSb (Dest.ofG f.d) (.cnt (tileNo f.a) ((s.gval f f.b).toNat % 16)) } s

/-- `mthr` (10 R230). -/
def execMthr (f : Fields) (s : State) : Out :=
  run (.mthr f) f { gate := fun s => s.roomM, act := fun s => s.enqueueM (.thr (s.gval f f.a)) } s

/-- `mwt` (10 R231): it holds until the tile is not pending, or the queue is empty; then it takes its place in the queue (04 R64, R203). -/
def execMwt (f : Fields) (s : State) : Out :=
  run (.mwt f) f {
    gate := fun s => (if (match f.a with
        | .zero => !s.mat.queue.isEmpty
        | x => s.mat.pending (tileNo x)) then .hold else .ok : Verdict).andThen s.roomM
    act := fun s => s.enqueueM .nop } s

/-- Four bits, one for each tile. -/
def fourBits (p : Fin 4 → Bool) : Nat := (p 0).toNat + 2 * (p 1).toNat + 4 * (p 2).toNat + 8 * (p 3).toNat

/-- The word of `mstat` (10 R232). -/
def Matrix.word (m : Matrix) : W64 :=
  let step := match m.queue with
    | e :: _ => match e.cmd with
      | .mul _ _ _ _ _ => e.done
      | _ => 0
    | [] => 0
  BitVec.ofNat 64 (fourBits m.busy + fourBits m.pending <<< 4 + fourBits (fun i => m.acc[i].shadow.isSome) <<< 8
    + fourBits (fun i => m.acc[i].xp) <<< 12 + m.queue.length <<< 16 + m.entries <<< 24 + m.fod.toNat <<< 40 + step <<< 48)

/-- `mstat` (10 R232): it samples at issue, before it takes its place in the queue (04 R64, R203); reading clears FOD. -/
def execMstat (f : Fields) (s : State) : Out :=
  run (.mstat f) f {
    gate := fun s => s.roomM
    act := fun s => ((s.quick (Dest.ofG f.d) (.g s.mat.word)).setMat (fun m => { m with fod := false })).enqueueM .nop } s

/-! ## The engine -/

/-- A deferred engine fault (02 R28). -/
def TaskCore.defer (t : TaskCore) (cause : Nat) (addr : W64) (envelope : Bool) (seq : Nat) : TaskCore :=
  { t with deferred := t.deferred ++ [⟨cause, addr, envelope, seq⟩] }

/-- The engine stands behind an uncorrectable error until it has frozen the lead (21 R455), or refuses its head (10 R215). -/
def TaskCore.matrixStopped (t : TaskCore) : Bool :=
  t.deferred.any (fun d => !d.envelope && d.cause == cUncorrectable) || t.mat.refused.isSome || t.mat.held
    || ((t.ctx 0).life == .frozen && (t.ctx 0).cause == cUncorrectable)

/-- The state of the scale queue as `mscq` writes it (10 R225). -/
def Matrix.scqWord (m : Matrix) : W64 := BitVec.ofNat 64 (m.entries + m.partialBytes <<< 16)
/-- What `mscq` discards (10 R225). -/
def Matrix.scqDrop (m : Matrix) (n : W64) : Matrix :=
  if n.toInt < 0 then { m with scq := [] } else { m with scq := m.scq.drop (96 * min n.toNat m.entries) }

/-- The word and the clearing of `mcnt` (10 R229). -/
def Tile.cntWord (t : Tile) : W64 :=
  BitVec.ofNat 64 (t.counts.sat + t.counts.nan <<< 16 + t.counts.bso <<< 32 + t.xp.toNat <<< 48)
@[inherit_doc Tile.cntWord] def Tile.cntClear (t : Tile) (mask : Nat) : Tile :=
  { t with
    counts := ⟨if mask.testBit 0 then 0 else t.counts.sat, if mask.testBit 1 then 0 else t.counts.nan,
      if mask.testBit 2 then 0 else t.counts.bso⟩
    xp := t.xp && !mask.testBit 3 }

/-- Change a tile. -/
def Matrix.setAcc (m : Matrix) (i : Fin 4) (f : Tile → Tile) : Matrix := { m with acc := m.acc.set i (f m.acc[i]) }

/-- The replay scope of a core's lead, whose engine writes are logged (15 R351). -/
def State.leadReplay (s : State) (k : CoreId) : Option W64 :=
  if s.hubs.isEmpty then none else s.replayOf ((s.tc k).ctx 0).scope

/-- A latch is filled by a load. -/
def Matrix.fillLatch (m : Matrix) (isB : Bool) (x : LatchSrc) (rows : List (List Byte)) : Matrix :=
  if isB then { m with b := latchOf x rows, srcB := x } else { m with a := latchOf x rows, srcA := x }

/-- An engine read of rows at some offsets: a layout mismatch or poison is a deferred fault, and `bad` says what is left of the command
(09 R176, 21 R455); else `k` goes on. -/
def engineLoad (k : CoreId) (e : MEntry) (swz n : Nat) (offs : List Nat) (bad go : State → State) (s : State) : State :=
  let t := s.tc k
  if offs.any (fun o => t.misLaid swz o n) then bad (s.setTc k (fun t => t.defer cLayout e.pc false e.seq))
  else if offs.any (fun o => t.engineRotten swz o n) then
    let c := t.ctx 0
    let r := s.consume k c.domain c.scope (offs.headD 0)
    if r.1 then bad (r.2.setTc k (fun t => t.defer cUncorrectable e.pc false e.seq)) else go r.2
  else go s

/-- A latch load runs (10 R221): on a layout mismatch or poison the latch keeps its contents, and the tag and depth recorded at
issue stay (log 16, DESIGN CHOICE). -/
def runLoad (k : CoreId) (e : MEntry) (isB : Bool) (x : LatchSrc) (s : State) : State :=
  engineLoad k e x.swz (if isB then bRow x.tag else aRow x.tag x.depth) (x.rows.filterMap id) id
    (fun s => s.setTc k (fun t => { t with mat := t.mat.fillLatch isB x (t.latchRows isB x) })) s

/-- The head command leaves the queue. -/
def Matrix.pop (m : Matrix) : Matrix := { m with queue := m.queue.drop 1, before := none, used := [] }

/-- The tile of the macro-op at the head is as it was before its first block (21 R455). -/
def Matrix.undoBlocks (m : Matrix) (a : Fin 4) : Matrix := { m with acc := m.acc.set a (m.before.getD m.acc[a]) }

/-- The next row of a gather is read (10 R218, R222). The latch takes its contents with the last one, and keeps them where a row fails. -/
def runGather (k : CoreId) (e : MEntry) (x : LatchSrc) (got : List (List Byte)) (s : State) : State :=
  let n := aRow x.tag x.depth
  let row := x.rows.getD e.done none
  let pop (s : State) : State := s.setTc k (fun t => { t with mat := t.mat.pop })
  engineLoad k e x.swz n row.toList pop (fun s =>
    let rows := got ++ [(s.tc k).latchRow x.swz n row]
    if e.done + 1 < x.rows.length then
      s.setTc k (fun t => { t with mat := { t.mat with queue := { e with done := e.done + 1, cmd := .gather x rows } :: t.mat.queue.drop 1 } })
    else pop (s.setTc k (fun t => { t with mat := t.mat.fillLatch false x rows }))) s

/-- The rows of a tile go to the scratchpad in order, so a later row's bytes replace an earlier row's (10 R228). -/
def TaskCore.storeRows (t : TaskCore) (rp : Option W64) (swz : Nat) (d : TileData) (rows : List Nat) : TaskCore :=
  rows.zipIdx.foldl (fun t r => t.engineWrite rp swz r.1 (rowBytes d r.2)) t

/-- The effect of a queued command other than a macro-op or a gather (10 R220-R230). A store that would need a 256th block of its scope's
undo log writes nothing (15 R351; log 28, DEDUCED). -/
def runMatrix (k : CoreId) (e : MEntry) (s : State) : State :=
  let task := (s.core k).task
  let set (f : Matrix → Matrix) (s : State) : State := s.setTc k (fun t => { t with mat := f t.mat })
  let m := (s.tc k).mat
  match e.cmd with
  | .mzero a t => set (fun m => m.setAcc a (fun x => { x with data := ⟨0, t⟩ })) s
  | .load isB x => runLoad k e isB x s
  | .mul _ _ _ _ _ | .gather _ _ | .nop => s
  | .com a => set (fun m => m.setAcc a (fun x => match x.shadow with
      | some (d, n) => { (x.count n (thresholdOf (s.tc k).mthr a)) with data := d, shadow := none }
      | none => x)) s
  | .dis a => set (fun m => m.setAcc a (fun x => { x with shadow := none })) s
  | .scq n => (set (fun m => m.scqDrop n) s).landG task ⟨k, 0⟩ (e.tok.getD 0) m.scqWord
  | .fin a t x => set (fun m => m.setAcc a (fun y =>
      let r := finTile t x.toNat y.data
      { (y.count r.2 (thresholdOf (s.tc k).mthr a)) with data := r.1 })) s
  | .row a r => s.landV task ⟨k, 0⟩ (e.tok.getD 0) (rowValue m.acc[a].data r)
  | .store a rows swz =>
    let rp := s.leadReplay k
    let d := m.acc[a].data
    s.setTc k (fun t =>
      if t.logsFull rp (rows.flatMap (fun o => placed swz o (8 * d.tag.width))) then t.defer cProtection e.pc false e.seq
      else t.storeRows rp swz d rows)
  | .cnt a mask => (set (fun m => m.setAcc a (fun x => x.cntClear mask)) s).landG task ⟨k, 0⟩ (e.tok.getD 0) m.acc[a].cntWord
  | .thr v => s.setTc k (fun t => { t with mthr := v })

/-- MATRIX_COMMAND_RUN: the head command, not a macro-op and not a waiting follow-on, takes effect; of a gather, one row (10 R203, R218). -/
def execMatrixCommandRun (k : CoreId) (s : State) : Out :=
  match (s.tc k).mat.queue with
  | e :: _ =>
    let go := e.follows.isNone && !(s.tc k).matrixStopped
    match e.cmd with
    | .mul _ _ _ _ _ => happen false id s
    | .gather x got => happen (go && !s.stopped k .gather) (runGather k e x got) s
    | _ => happen (go && !s.stopped k .matrix) (fun s => (runMatrix k e s).setTc k (fun t => { t with mat := t.mat.pop })) s
  | [] => happen false id s

/-- The scale bytes of a macro-op's next block (10 R211). -/
def TaskCore.blockScales (t : TaskCore) (sc : Option Nat) (b : Nat) : List Byte :=
  match sc with
  | some o => t.spad.read (o + 96 * b) 96
  | none => t.mat.scq.take 96

/-- An integer macro-op uses no scales (10 R209). -/
def Matrix.integer (m : Matrix) : Bool := m.a.tag.isInt

/-- One block of the head macro-op on a task part (10 R208, R216). -/
def TaskCore.block (t : TaskCore) (e : MEntry) (a : Fin 4) (zs : Bool) (sc : Option Nat) (shadow : Bool) : TaskCore :=
  let m := t.mat
  let x := m.acc[a]
  let scales := if m.integer then [] else t.blockScales sc e.done
  let old := if shadow then (x.shadow.map (·.1)).getD x.data else x.data
  let r := blockUpdate m.a m.b zs scales e.done old
  let y := if shadow then
      let held := (x.shadow.map (·.2)).getD ⟨0, 0, 0⟩
      { x with shadow := some (r.1, held.add r.2) }
    else { (x.count r.2 (thresholdOf t.mthr a)) with data := r.1 }
  { t with mat := { m with
    acc := m.acc.set a y
    before := some (m.before.getD x)
    used := m.used ++ scales
    scq := if sc.isSome || m.integer then m.scq else m.scq.drop 96
    queue := { e with done := e.done + 1 } :: m.queue.drop 1 } }

/-- The shadow of a tile takes a copy of its value and tag, and is RUN (10 R216). -/
def Tile.runShadow (x : Tile) : Tile := { x with shadow := some (x.shadow.getD (x.data, ⟨0, 0, 0⟩)) }

/-- MACRO_OP_BLOCK: the head macro-op runs its next block once its scales are there (10 R207-R211); after the last block
it leaves the queue, and an `mmul` is offered to the auditor (21 R458). An `mmuls` that finds its shadow IDLE makes it RUN, scales or not
(10 R216). Poisoned scale bytes leave the tile as it was before the macro-op (21 R455). -/
def execMacroOpBlock (k : CoreId) (s : State) : Out :=
  let t := s.tc k
  match t.mat.queue with
  | e :: _ => match e.cmd with
    | .mul a kk zs sc shadow =>
      let ready := t.mat.integer || sc.isSome || decide (1 ≤ t.mat.entries)
      let idle := shadow && t.mat.acc[a].shadow.isNone
      happen ((ready || idle) && e.follows.isNone && !t.matrixStopped && !s.stopped k .matrix) (fun s =>
        if !ready then s.setTc k (fun t => { t with mat := t.mat.setAcc a Tile.runShadow }) else
        let go (s : State) : State :=
          let s1 := s.setTc k (fun t => t.block e a zs sc shadow)
          let t1 := s1.tc k
          if e.done + 1 < kk / 32 then s1
          else
            let s2 := s1.setTc k (fun t => { t with mat := t.mat.pop })
            if shadow then s2
            else s2.setAudit (s.clu k) (fun au => au.sample (fun _ =>
              let m := t1.mat
              { core := k, acc := a, k := kk, zs := zs, a := m.srcA, b := m.srcB, scales := m.used, scaleAt := sc
                tile := (m.before.getD m.acc[a]).data
                crcIn := crc64 (latchBytes false m.srcA m.a ++ latchBytes true m.srcB m.b ++ m.used)
                signature := crc64 (tileBytes m.acc[a].data) }))
        match sc with
        | some o =>
          if !t.mat.integer && t.rotten (o + 96 * e.done) 96 then
            let c := t.ctx 0
            let r := s.consume k c.domain c.scope (o + 96 * e.done)
            if r.1 then r.2.setTc k (fun t => { (t.defer cUncorrectable e.pc false e.seq) with mat := (t.mat.undoBlocks a).pop }) else go r.2
          else go s
        | none => go s) s
    | _ => happen false id s
  | [] => happen false id s

end Sys2Proof.Machine
end

