-- ==== Sys2Proof/Machine/EnvelopeUnit.lean ====
section
/-! DEFINITION. The envelope instructions and the unit's commands (11 R242-R259). -/

namespace Sys2Proof.Machine

open Sys2Proof Sys2Proof.Lanes

/-- The e register a selector names. -/
def envNo : Sel → Fin 8
  | .reg n => ⟨n.toNat % 8, Nat.mod_lt _ (by decide)⟩
  | _ => 0

/-- The envelope unit of the issuing core. -/
def State.env (s : State) : EnvState := s.myTc.env

/-- An instruction that finds 8 commands queued holds its context (11 R242). -/
def State.roomE (s : State) : Verdict := if 8 ≤ s.env.queue.length then .hold else .ok

/-- A command enters the queue (11 R242). -/
def State.enqueueE (s : State) (cmd : ECmd) (tok : Option Nat := none) : State :=
  let n := s.nextId
  let pc := s.myPc
  { (s.setMyTc (fun t => { t with env := { t.env with queue := t.env.queue ++ [⟨cmd, n, pc, tok, none⟩] } })) with
    nextId := n + 1, pk := { s.pk with cmds := n :: s.pk.cmds } }

/-- Queue a command that lands a result. -/
def State.enqueueEsb (s : State) (d : Dest) (cmd : ECmd) : State :=
  let p := s.pendOn [d]
  p.2.enqueueE cmd (some p.1)

/-- The e sources stall while busy (11 R243). -/
def State.envFree (s : State) (es : List (Fin 8)) : Verdict := if es.any s.env.busy then .stall else .ok

/-- A vector source carries F32, or is ZERO (11 R247). -/
def State.vecF32 (s : State) : Sel → Bool
  | .reg n => (s.me.getV n).tag == .f32
  | _ => true

/-- The 64 binary32 lanes of a vector source; ZERO is +0. -/
def State.f32Lanes (s : State) (x : Sel) : List Nat := lanes 32 (s.vreg x).bits

/-- bits [31:0] of a g source. -/
def State.low32 (s : State) (f : Fields) (x : Sel) : Nat := (s.gval f x).toNat % 2 ^ 32

/-- `eclr` (11 R248). -/
def execEclr (f : Fields) (s : State) : Out :=
  run (.eclr f) f { gate := fun s => s.roomE, act := fun s => s.enqueueE (.clr (envNo f.d)) } s

/-- `eins` (11 R249). -/
def execEins (f : Fields) (s : State) : Out :=
  run (.eins f) f {
    gate := fun s => (s.tagCheck (s.vecF32 f.a && s.vecF32 f.b)).andThen s.roomE
    act := fun s =>
      let j := min (s.gval f f.c).toNat 64
      s.enqueueE (.ins (envNo f.d) (((s.f32Lanes f.a).zip (s.f32Lanes f.b)).take j) f.mod0) } s

/-- `eevl` (11 R250). -/
def execEevl (f : Fields) (s : State) : Out :=
  run (.eevl f) f {
    gate := fun s => (s.envFree [envNo f.a]).andThen ((s.tagCheck (s.vecF32 f.b)).andThen s.roomE)
    act := fun s => s.enqueueEsb (Dest.ofV f.d) (.evl (envNo f.a) (s.f32Lanes f.b)) } s

/-- A command on two registers (11 R251, R252). -/
def env2 (i : Fields → Instr) (c : Fin 8 → Fin 8 → Fin 8 → Bool → ECmd) (f : Fields) (s : State) : Out :=
  run (i f) f {
    gate := fun s => (s.envFree [envNo f.a, envNo f.b]).andThen s.roomE
    act := fun s => s.enqueueE (c (envNo f.d) (envNo f.a) (envNo f.b) f.mod0) } s

/-- `esum` (11 R251). -/
def execEsum (f : Fields) (s : State) : Out := env2 .esum .sum f s
/-- `emax` (11 R251). -/
def execEmax (f : Fields) (s : State) : Out := env2 .emax .max f s
/-- `einf` (11 R252). -/
def execEinf (f : Fields) (s : State) : Out := env2 .einf .inf f s

/-- `econj` (11 R253). -/
def execEconj (f : Fields) (s : State) : Out :=
  run (.econj f) f {
    gate := fun s => (s.envFree [envNo f.a]).andThen s.roomE
    act := fun s => s.enqueueE (.conj (envNo f.d) (envNo f.a) f.mod0) } s
/-- `esimp` (11 R254). -/
def execEsimp (f : Fields) (s : State) : Out :=
  run (.esimp f) f {
    gate := fun s => (s.envFree [envNo f.a]).andThen s.roomE
    act := fun s => s.enqueueE (.simp (envNo f.d) (envNo f.a)) } s

/-- `eld` (11 R257). -/
def execEld (f : Fields) (s : State) : Out :=
  run (.eld f) f {
    gate := fun s => (s.localOk (s.gval f f.a) 4112 16).andThen s.roomE
    act := fun s => s.enqueueE (.ld (envNo f.d) (spadOff (s.gval f f.a))) } s
/-- `est` (11 R257). -/
def execEst (f : Fields) (s : State) : Out :=
  run (.est f) f {
    gate := fun s => (s.envFree [envNo f.b]).andThen ((s.localOk (s.gval f f.a) 4112 16).andThen s.roomE)
    act := fun s => s.enqueueE (.st (envNo f.b) (spadOff (s.gval f f.a))) } s

/-- `eadd` (11 R255). -/
def execEadd (f : Fields) (s : State) : Out :=
  run (.eadd f) f {
    gate := fun s => s.roomE
    act := fun s => s.enqueueE (.add (envNo f.d) (s.low32 f f.a) (s.low32 f f.b)) } s
/-- `ecnt` (11 R258). -/
def execEcnt (f : Fields) (s : State) : Out :=
  run (.ecnt f) f {
    gate := fun s => (s.envFree [envNo f.a]).andThen s.roomE
    act := fun s => s.enqueueEsb (Dest.ofG f.d) (.cnt (envNo f.a)) } s
/-- `edom` (11 R256). -/
def execEdom (f : Fields) (s : State) : Out :=
  run (.edom f) f {
    gate := fun s => s.roomE
    act := fun s => s.enqueueE (.dom (envNo f.d) (s.low32 f f.a) (s.low32 f f.b)) } s
/-- `edom.get` (11 R256). -/
def execEdomGet (f : Fields) (s : State) : Out :=
  run (.edomGet f) f {
    gate := fun s => (s.envFree [envNo f.a]).andThen s.roomE
    act := fun s => s.enqueueEsb (Dest.ofG f.d) (.getDom (envNo f.a)) } s
/-- `ewt` (11 R259): it holds until the register is not pending, or the queue is empty; then it takes its place in the queue (04 R64, R242). -/
def execEwt (f : Fields) (s : State) : Out :=
  run (.ewt f) f {
    gate := fun s => (if (match f.a with
        | .zero => !s.env.queue.isEmpty
        | x => s.env.pending (envNo x)) then .hold else .ok : Verdict).andThen s.roomE
    act := fun s => s.enqueueE .nop } s

/-! ## The unit -/

/-- The unit stands behind a failed command until the resume of its freeze (11 R244). -/
def TaskCore.envStopped (t : TaskCore) : Bool := t.envHeld || t.deferred.any (·.envelope)

/-- The value a command gives its register, or none for ENV_OVERFLOW (11 R241, R248-R256). -/
def ECmd.value (c : ECmd) (e : Vector Env 8) (tol : Nat) : Option Env :=
  match c with
  | .clr _ => some EnvUnit.emptyAll
  | .ins d ls sm => EnvUnit.limit sm tol (EnvUnit.insert e[d] ls)
  | .sum _ a b sm => EnvUnit.limit sm tol (EnvUnit.sum e[a] e[b])
  | .max _ a b sm => EnvUnit.limit sm tol (EnvUnit.max e[a] e[b])
  | .inf _ a b sm => EnvUnit.limit sm tol (EnvUnit.infConv e[a] e[b])
  | .conj _ a sm => EnvUnit.limit sm tol (EnvUnit.legendre e[a])
  | .simp _ a => some (if e[a].pieces.isEmpty then e[a] else EnvUnit.simplify e[a] tol)
  | .add d gm gc => some (if e[d].pieces.isEmpty && !(EnvUnit.val gm).isNan && !(EnvUnit.val gm).isInf
      && !(EnvUnit.val gc).isNan && !(EnvUnit.val gc).isInf then e[d] else EnvUnit.addAffine e[d] gm gc)
  | .dom d lo hi => some (EnvUnit.normalize (EnvUnit.linesOf e[d]) lo hi e[d].clip)
  | .evl d _ | .st d _ | .cnt d | .getDom d | .ld d _ => some e[d]
  | .nop => some EnvUnit.emptyAll

/-- A command that names a register whose image breaks 11 R233 or R234, as its source or its destination, raises FORMAT (20 R418). -/
def ECmd.badSource (c : ECmd) (e : Vector Env 8) : Bool := c.names.any (fun i => !EnvUnit.wellFormed e[i])

/-- Set an e register. -/
def TaskCore.setEnv (t : TaskCore) (d : Fin 8) (x : Env) : TaskCore := { t with env := { t.env with e := t.env.e.set d x } }

/-- The head command takes effect. -/
def runEnvelope (k : CoreId) (q : EEntry) (s : State) : State :=
  let t := s.tc k
  let task := (s.core k).task
  let e := t.env.e
  let tok := q.tok.getD 0
  let fail (cause : Nat) (s : State) : State := s.setTc k (fun t => t.defer cause q.pc true q.seq)
  if q.cmd.badSource e then fail cFormat s
  else match q.cmd with
    | .nop => s
    | .evl a ps => s.landV task ⟨k, 0⟩ tok ⟨ofLanes 32 (ps.map (EnvUnit.evalLane e[a])), .f32⟩
    | .cnt a => s.landG task ⟨k, 0⟩ tok (EnvUnit.countWord e[a])
    | .getDom a => s.landG task ⟨k, 0⟩ tok (BitVec.ofNat 64 (e[a].lo + e[a].hi <<< 32))
    | .st a o =>
      let rp := s.leadReplay k
      let bs := EnvUnit.image e[a]
      if t.logFull rp o bs.length then fail cProtection s else s.setTc k (fun t => t.spadPut rp o (bs.map some))
    | .ld d o =>
      let n := field (t.spad.read o 16) 8 4
      let bs := t.spad.read o (16 + 16 * min n 256)
      let take (s : State) : State := match EnvUnit.ofImage bs with
        | some x => s.setTc k (fun t => t.setEnv d x)
        | none => fail cFormat s
      if t.rotten o bs.length then
        let c := t.ctx 0
        let r := s.consume k c.domain c.scope o
        if r.1 then fail cUncorrectable r.2 else take r.2
      else take s
    | c => match c.value e (bitsOf t.etol 31 0), c.writes with
      | some x, some d => s.setTc k (fun t => t.setEnv d x)
      | _, _ => fail cEnvOverflow s

/-- ENVELOPE_COMMAND_RUN: the head command runs and leaves the queue; behind a failed one the others wait (11 R242,
R244). -/
def execEnvelopeCommandRun (k : CoreId) (s : State) : Out :=
  match (s.tc k).env.queue with
  | q :: _ => happen (q.follows.isNone && !(s.tc k).envStopped && !s.stopped k .envelope) (fun s =>
      (runEnvelope k q s).setTc k (fun t => { t with env := { t.env with queue := t.env.queue.drop 1 } })) s
  | [] => happen false id s

end Sys2Proof.Machine
end

