-- ==== Sys2Proof/Machine/Scalar.lean ====
section
/-! DEFINITION. The scalar instructions (06 R104-R120, 07 R144). -/

namespace Sys2Proof.Machine

open Sys2Proof Sys2Proof.Lanes

/-- `op gd, ga, gb` of latency `lat` (06 R104). -/
def scalar2 (i : Fields → Instr) (lat : Nat) (g : W64 → W64 → W64) (f : Fields) (s : State) : Out :=
  run (i f) f { act := fun s => s.resultG f.d lat (g (s.gval f f.a) (s.gval f f.b)) } s

/-- A divide or remainder: scoreboarded, landing `c` cycles after issue (06 R105, R106). -/
def divide (i : Fields → Instr) (isSigned : Bool) (g : W64 → W64 → W64) (f : Fields) (s : State) : Out :=
  run (i f) f {
    gate := fun s => if s.me.divide.isSome then .stall else .ok
    act := fun s =>
      let a := s.gval f f.a
      let b := s.gval f f.b
      let d := s.destOf false f.d
      let p := d.2.pendOn [d.1]
      p.2.setMe (fun c => { c with divide := some ⟨p.1, g a b, s.now + Alu.divCycles isSigned a b⟩ }) } s

/-- `add` (06 R104). -/
def execAdd (f : Fields) (s : State) : Out := scalar2 .add 1 (fun a b => a + b) f s

/-- `sub` (06 R104). -/
def execSub (f : Fields) (s : State) : Out := scalar2 .sub 1 (fun a b => a - b) f s

/-- `mul` (06 R104). -/
def execMul (f : Fields) (s : State) : Out := scalar2 .mul 3 (fun a b => a * b) f s

/-- `mulh` (06 R104). -/
def execMulh (f : Fields) (s : State) : Out := scalar2 .mulh 3 (Alu.mulhS) f s

/-- `mulhu` (06 R104). -/
def execMulhu (f : Fields) (s : State) : Out := scalar2 .mulhu 3 (Alu.mulhU) f s

/-- `div` (06 R105). -/
def execDiv (f : Fields) (s : State) : Out := divide .div true Alu.quotS f s

/-- `divu` (06 R105). -/
def execDivu (f : Fields) (s : State) : Out := divide .divu false Alu.quotU f s

/-- `rem` (06 R105). -/
def execRem (f : Fields) (s : State) : Out := divide .rem true Alu.remS f s

/-- `remu` (06 R105). -/
def execRemu (f : Fields) (s : State) : Out := divide .remu false Alu.remU f s

/-- `and` (06 R104). -/
def execAnd (f : Fields) (s : State) : Out := scalar2 .and 1 (fun a b => a &&& b) f s

/-- `or` (06 R104). -/
def execOr (f : Fields) (s : State) : Out := scalar2 .or 1 (fun a b => a ||| b) f s

/-- `xor` (06 R104). -/
def execXor (f : Fields) (s : State) : Out := scalar2 .xor 1 (fun a b => a ^^^ b) f s

/-- `andn` (06 R104). -/
def execAndn (f : Fields) (s : State) : Out := scalar2 .andn 1 (fun a b => a &&& ~~~ b) f s

/-- `shl` (06 R104). -/
def execShl (f : Fields) (s : State) : Out := scalar2 .shl 1 (fun a b => a <<< Alu.shamt b) f s

/-- `shr` (06 R104). -/
def execShr (f : Fields) (s : State) : Out := scalar2 .shr 1 (fun a b => a >>> Alu.shamt b) f s

/-- `sra` (06 R104). -/
def execSra (f : Fields) (s : State) : Out := scalar2 .sra 1 (fun a b => a.sshiftRight (Alu.shamt b)) f s

/-- `rol` (06 R104). -/
def execRol (f : Fields) (s : State) : Out := scalar2 .rol 1 (Alu.rol) f s

/-- `min` (06 R104). -/
def execMin (f : Fields) (s : State) : Out := scalar2 .min 1 (Alu.smin) f s

/-- `minu` (06 R104). -/
def execMinu (f : Fields) (s : State) : Out := scalar2 .minu 1 (Alu.umin) f s

/-- `max` (06 R104). -/
def execMax (f : Fields) (s : State) : Out := scalar2 .max 1 (Alu.smax) f s

/-- `maxu` (06 R104). -/
def execMaxu (f : Fields) (s : State) : Out := scalar2 .maxu 1 (Alu.umax) f s

/-- `sel` (06 R107). -/
def execSel (f : Fields) (s : State) : Out :=
  run (.sel f) f { act := fun s => s.resultG f.d 1 (if lane0 (s.pval f.c) then s.gval f f.a else s.gval f f.b) } s

/-- `mov` (06 R108). -/
def execMov (f : Fields) (s : State) : Out :=
  run (.mov f) f { act := fun s => s.resultG f.d 1 (s.gval f f.a) } s

/-- `movh` (06 R108). -/
def execMovh (f : Fields) (s : State) : Out := scalar2 .movh 1 (Alu.movh) f s

/-- `lea` (06 R109). -/
def execLea (f : Fields) (s : State) : Out :=
  run (.lea f) f { act := fun s => s.resultG f.d 1 (s.gval f f.a + f.immS + s.gval f f.b) } s

/-- `ext` (06 R111). -/
def execExt (f : Fields) (s : State) : Out := scalar2 .ext 1 (Alu.ext) f s

/-- `extu` (06 R111). -/
def execExtu (f : Fields) (s : State) : Out := scalar2 .extu 1 (Alu.extu) f s

/-- `ins` (06 R111). -/
def execIns (f : Fields) (s : State) : Out :=
  run (.ins f) f { act := fun s => s.resultG f.d 1 (Alu.ins (s.gval f f.a) (s.gval f f.b) (s.gval f f.c)) } s

/-- `sext` (06 R111). -/
def execSext (f : Fields) (s : State) : Out := scalar2 .sext 1 (fun a b => Alu.sextN a (Alu.widthOf b.toNat)) f s

/-- `zext` (06 R111). -/
def execZext (f : Fields) (s : State) : Out := scalar2 .zext 1 (fun a b => Alu.zextN a (Alu.widthOf b.toNat)) f s

/-- `clz` (06 R112). -/
def execClz (f : Fields) (s : State) : Out := scalar2 .clz 1 (Alu.clzOp) f s

/-- `ctz` (06 R112). -/
def execCtz (f : Fields) (s : State) : Out := scalar2 .ctz 1 (Alu.ctzOp) f s

/-- `ffs` (06 R112). -/
def execFfs (f : Fields) (s : State) : Out := scalar2 .ffs 1 (Alu.ffsOp) f s

/-- `popc` (06 R112). -/
def execPopc (f : Fields) (s : State) : Out := scalar2 .popc 1 (Alu.popcOp) f s

/-- `bswap` (06 R112). -/
def execBswap (f : Fields) (s : State) : Out := scalar2 .bswap 1 (Alu.bswapOp) f s

/-- `brev` (06 R112). -/
def execBrev (f : Fields) (s : State) : Out := scalar2 .brev 1 (Alu.brevOp) f s

/-- `cmp` (06 R113). -/
def execCmp (f : Fields) (s : State) : Out :=
  run (.cmp f) f { act := fun s => s.resultP f.d 1 (allBits (Alu.cmp f.cc f.modU (s.gval f f.a) (s.gval f f.b))) } s

/-- `cmpf` (06 R114). -/
def execCmpf (f : Fields) (s : State) : Out :=
  run (.cmpf f) f { act := fun s => s.resultP f.d 4 (allBits (Alu.cmpf f.cc f.modTop s.me.spr.fctl (s.gval f f.a) (s.gval f f.b))) } s

/-- `fadd` (06 R116). -/
def execFadd (f : Fields) (s : State) : Out :=
  run (.fadd f) f { act := fun s => s.resultG f.d 4 (Alu.fadd f.modTop s.me.spr.fctl (s.gval f f.a) (s.gval f f.b)) } s

/-- `fmul` (06 R116). -/
def execFmul (f : Fields) (s : State) : Out :=
  run (.fmul f) f { act := fun s => s.resultG f.d 4 (Alu.fmul f.modTop s.me.spr.fctl (s.gval f f.a) (s.gval f f.b)) } s

/-- `ffma` (06 R116). -/
def execFfma (f : Fields) (s : State) : Out :=
  run (.ffma f) f { act := fun s => s.resultG f.d 4 (Alu.ffma f.modTop s.me.spr.fctl (s.gval f f.a) (s.gval f f.b) (s.gval f f.c)) } s

/-- `fmin` (06 R116). -/
def execFmin (f : Fields) (s : State) : Out :=
  run (.fmin f) f { act := fun s => s.resultG f.d 4 (Alu.fminmax false f.modTop s.me.spr.fctl (s.gval f f.a) (s.gval f f.b)) } s

/-- `fmax` (06 R116). -/
def execFmax (f : Fields) (s : State) : Out :=
  run (.fmax f) f { act := fun s => s.resultG f.d 4 (Alu.fminmax true f.modTop s.me.spr.fctl (s.gval f f.a) (s.gval f f.b)) } s

/-- `fcvt` (07 R144). -/
def execFcvt (f : Fields) (s : State) : Out :=
  run (.fcvt f) f { act := fun s => s.resultG f.d 4 (Alu.fcvt f.cvtTo f.cvtFrom f.modInf s.me.spr.fctl (s.gval f f.a)) } s

/-- `pset` (06 R115). -/
def execPset (f : Fields) (s : State) : Out :=
  run (.pset f) f { act := fun s => s.resultP f.d 1 (psetOp (f.mod.toNat % 4) (s.pval f.a) (s.pval f.b)) } s

/-- A special register as `mrd` reads it: as it stood before the packet's own effects (06 R119, 05 R81). -/
def State.sprRead (s : State) (n : Nat) : W64 :=
  let t := s.pk.before.getD s.myTc
  if sprCoreScoped n then t.sprRead n
  else if n = 0x30 then s.me.pcq0.word
  else if n = 0x31 then s.me.pcq1.word
  else if n = 0x32 then s.me.pcq2.word
  else (t.ctx s.cur.ctx).spr.read n

/-- `mrd` (06 R119). -/
def execMrd (f : Fields) (s : State) : Out :=
  run (.mrd f) f { act := fun s => s.resultG f.d 1 (s.sprRead f.sprNum) } s

/-- A freeze at the boundary after the packet (05 R85). Of two in one packet (a `bkpt` or a `rep` beside a helper's `mwr`, 06
R120), the one at the lowest position is taken (log 37, DESIGN CHOICE: the spec gives no order). -/
def State.freezeAfter (s : State) (cause : Nat) (addr : W64) : State :=
  { s with pk := { s.pk with after := s.pk.after.orElse (fun _ => some ⟨cause, 0, addr⟩) } }

/-- `mwr` (06 R120): the write commits at the start of the next packet; a helper writes no core-scoped register. -/
def execMwr (f : Fields) (s : State) : Out :=
  run (.mwr f) f {
    act := fun s =>
      if sprCoreScoped f.sprNum && s.cur.ctx != 0 then s.freezeAfter cHelper s.myPc
      else s.later (.spr f.sprNum) 1 (.g (s.gval f f.a)) } s

/-- The time counter of a package (06 R117). -/
def State.time (s : State) (p : Nat) : Nat := s.now - (s.pkg p).timeBase

/-- `rdtime` (06 R117). -/
def execRdtime (f : Fields) (s : State) : Out :=
  run (.rdtime f) f { act := fun s => s.resultG f.d 1 (BitVec.ofNat 64 (s.time s.cur.core.pkg)) } s

/-- A core's own task, or a task that left it last and stands in its saved frame, has a divide in the context `c` whose cycles
are over. -/
def State.divideDue (s : State) (c : CtxId) (task : Option Nat) : Bool :=
  (task == (s.core c.core).task || (match task with
    | some id => (s.tasks.find id).any (fun t => t.frame.isSome && t.lastCore == some c.core)
    | none => false))
    && (s.ctxOf task c).divide.any (fun d => decide (d.landAt ≤ s.now))

/-- DIVIDE_LAND: the divide of a context lands when its cycles are over, that of the core's own task first, else one in the saved
frame of a task that left the core (06 R106, 05 R77, R80). The divider is free from then on, although the result may still wait
behind a fixed one to the same register (log 13, DESIGN CHOICE: the spec does not say). -/
def execDivideLand (c : CtxId) (s : State) : Out :=
  match ((s.core c.core).task :: s.tasks.map (fun e => some e.1)).find? (s.divideDue c) with
  | none => happen false id s
  | some task => happen true (fun s => match (s.ctxOf task c).divide with
      | some d => (s.setCtxOf task c (fun k => { k with divide := none })).landG task c d.tok d.val
      | none => s) s

end Sys2Proof.Machine
end

