-- ==== Sys2Proof/Machine/Space.lean ====
section
/-! DEFINITION. The address space behind the cores: memory under the tenants' keys (20 R432), writes at a home and what they
set off (12 R287, 13 R314, 20 R437, 21 R454), translation (20 R423-R428), the PLB (20 R430, R431), lines held at their homes
(12 R265, 18 R399). -/

namespace Sys2Proof.Machine

open Sys2Proof Sys2Proof.Lanes

/-! ## Physical addresses (20 R424) -/

/-- The package, the kind (0 HBM, 1-6 expander, 7 host memory) and the line of a physical address. -/
def paPkg (pa : Nat) : Nat := natBits pa 47 9
@[inherit_doc paPkg] def paKind (pa : Nat) : Nat := natBits pa 44 3
@[inherit_doc paPkg] def lineOf (a : Nat) : Nat := a / 64

/-- The stack that homes an HBM address (12 R263, 01 R11). -/
def paStack (pa : Nat) : Nat := natBits pa 12 4 ^^^ natBits pa 16 4
/-- The cluster whose slice is the home slice of an HBM address (12 R263): PA[11:8] within the quadrant of its stack. -/
def paClu (pa : Nat) : CluId :=
  let q := paStack pa % 4
  let c := natBits pa 8 4
  ⟨paPkg pa, paStack pa / 4, (q / 2 * 4 + c / 4) * 8 + (q % 2 * 4 + c % 4)⟩
/-- An HBM address lies in a firmware region: the lowest 64 MiB of the stacks 0, 4, 8 and 12, which tenant 0 holds (22 R470). -/
def inFirmware (pa : Nat) : Bool := paKind pa == 0 && paStack pa % 4 == 0 && decide (natBits pa 0 44 < 2 ^ 30)
/-- No tenant's translation maps an address of a firmware region (22 R470; log 32, DEDUCED). -/
def mayMap (dom : BitVec 16) (pa : Nat) : Bool := decide (dom.toNat < 256) || !inFirmware pa

/-- The memory behind a home of a kind: 768 GB of HBM, 2,048 GB at most on a memory port, and the host's (01 R18; 22 R467, R473). -/
def kindBytes (kind : Nat) : Nat := if kind = 0 then 768 * 2 ^ 30 else if kind ≤ 6 then 2048 * 2 ^ 30 else 2 ^ 44

/-- The I/O die that holds a Fenco port 0-17, and a memory port 0-5 (01 R12). -/
def fencoDie (port : Nat) : Nat := port / 9
@[inherit_doc fencoDie] def memoryDie (port : Nat) : Nat := port / 3
/-- The I/O die at the home of an address: the one that stages a line of HBM (18 R393), that of an expander's memory port, and die 0 for
host memory (12 R263). -/
def paIoDie (pa : Nat) : Nat := if paKind pa = 0 then paStack pa / 8 else if paKind pa = 7 then 0 else memoryDie (paKind pa - 1)

/-! ## The ends of a packet (18 R382) -/

/-- The (0,0) site of a cluster, at which its slice is taken to stand (log 23, DEDUCED). -/
def cluOrigin (l : CluId) : Nat × Nat × Nat := (l.pkg, l.die, 32 * (l.clu / 8 * 4) + l.clu % 8 * 4)
/-- The router of a core, and that of a slice. -/
def State.routerAt (s : State) (k : CoreId) : Nat × Nat := torusXY k.die (s.site k)
@[inherit_doc State.routerAt] def cluRouter (l : CluId) : Nat × Nat := torusXY l.die (cluOrigin l).2.2

/-- A packet for another router of a package waits at its source's local interface. -/
def State.board (s : State) (pkg : Nat) (a b : Nat × Nat) (cargo : Cargo) : State :=
  if a = b then s
  else s.setPkg pkg (fun p => { p with torus := p.torus ++ [(⟨a, b, none, .n, 0, s.now, cargo⟩ : TorusPacket)] })
/-- A packet of a package that carries this has not been ejected yet. -/
def State.riding (s : State) (pkg : Nat) (cargo : Cargo) : Bool := (s.pkg pkg).torus.any (fun p => p.cargo == cargo)

/-! ## Memory under keys (20 R432) -/

/-- The key under which an 8 B word of HBM stands, if it has been written (log 3, DESIGN CHOICE; log 22). -/
def State.keyOf (s : State) (pa : Nat) : Option MemKey := if paKind pa = 0 then s.keys.find (pa / 8) else none

/-- The key of a tenant in the package of an address. -/
def State.tenantKey (s : State) (tenant pa : Nat) : MemKey :=
  match (s.pkg (paPkg pa)).memKeys.find tenant with
  | some k => .value k
  | none => .slot tenant

/-- One byte as a tenant reads it: noise where its word stands under another key than the tenant has now. -/
def State.readByte (s : State) (tenant pa : Nat) : Byte :=
  let mine := s.tenantKey tenant pa
  match s.keyOf pa with
  | some k => if k = mine then s.mem.byte pa
    else BitVec.ofNat 8 (Config.noise pa mine.code k.code (leNat (s.mem.read (pa / 8 * 8) 8)))
  | none => s.mem.byte pa

/-- `n` bytes as a tenant reads them. -/
def State.readMem (s : State) (tenant pa n : Nat) : List Byte := (List.range n).map (fun i => s.readByte tenant (pa + i))

/-- A word takes a tenant's key: its bytes become what that tenant reads. -/
def State.rekey (s : State) (tenant word : Nat) : State :=
  if paKind (8 * word) ≠ 0 then s
  else
    let mine := s.tenantKey tenant (8 * word)
    match s.keys.find word with
    | none => { s with keys := s.keys.set word mine }
    | some k => if k = mine then s
      else { s with mem := s.mem.write (8 * word) (s.readMem tenant (8 * word) 8), keys := s.keys.set word mine }

/-- The words that a write to a line touches. -/
def wordsTouched (line off : Nat) (bs : List (Option Byte)) : List Nat :=
  ((List.range 8).filter (fun i => bs.zipIdx.any (fun b => b.1.isSome && (off + b.2) / 8 == i))).map (8 * line + ·)

/-! ## Writes at a home -/

/-- Who writes (20 R437): the tenant under whose key it writes, its domain, the kind of party, its core and context. -/
structure Writer where
  tenant : Nat
  dom : BitVec 16
  kind : Nat
  core : CoreId
  ctx : Nat
  deriving DecidableEq, Repr

/-- A watch report (20 R437): a context or an engine of another package is that package. -/
def watchReport (w : Writer) (n pkg part mask : Nat) (bs : List Byte) : List Byte :=
  let foreign := w.kind ≤ 2 ∧ w.core.pkg ≠ pkg
  leBytes 2 0 ++ leBytes 1 n ++ leBytes 1 2 ++ leBytes 2 (if w.kind = 5 then 0 else w.dom.toNat) ++ leBytes 2 0 ++ leBytes 8 part
    ++ leBytes 1 (if foreign then 4 else w.kind) ++ leBytes 1 0 ++ leBytes 2 (w.core.pkg + w.core.die * 512)
    ++ leBytes 2 (w.core.num + w.ctx * 1024) ++ leBytes 2 mask ++ bs ++ List.replicate 24 0

/-- The reports of one 16 B part (20 R437). -/
def State.watchPart (s : State) (w : Writer) (part : Nat) (bs : List (Option Byte)) : State :=
  let pkg := paPkg part
  (s.pkg pkg).watches.foldl (fun s e =>
    if e.2.base < part + 16 ∧ part < e.2.base + e.2.len ∧ bs.any Option.isSome then
      let mask := (bs.zipIdx.map (fun b => if b.1.isSome then (2 ^ b.2 : Nat) else 0)).foldl Nat.add 0
      s.pushEvent e.2.receiver false (watchReport w e.1 pkg part mask (s.mem.read part 16))
    else s) s

/-- The reports of a write to a line. -/
def State.watchLine (s : State) (w : Writer) (line off : Nat) (bs : List (Option Byte)) : State :=
  if (s.pkg (paPkg (64 * line))).watches.isEmpty then s
  else
    let all := List.replicate off none ++ bs ++ List.replicate 64 none
    (List.range 4).foldl (fun s i => s.watchPart w (64 * line + 16 * i) ((all.drop (16 * i)).take 16)) s

/-- The stashes hold a line. -/
def TaskCore.stashed (t : TaskCore) (line : Nat) : Bool :=
  t.stash.toList.any (fun x => match x with
    | some st => st.lines.any (fun e => e.2.line == line)
    | none => false)

/-- The tags of the stashes change. -/
def TaskCore.mapTags (t : TaskCore) (f : Map (Nat × Nat) LineTag → Map (Nat × Nat) LineTag) : TaskCore :=
  { t with stash := t.stash.map (fun o => o.map (fun st => { st with lines := f st.lines })) }

/-- The tags of every slice and stash change, on the cores and in the frames, those apart that the party keeps. -/
def State.otherTags (s : State) (l : Option CluId) (k : Option CoreId) (f : Map (Nat × Nat) LineTag → Map (Nat × Nat) LineTag) :
    State :=
  { s with
    slices := s.slices.map (fun e => if l = some e.1 then e else (e.1, { e.2 with lines := f e.2.lines }))
    cores := s.cores.map (fun e => if k = some e.1 then e else (e.1, { e.2 with tc := e.2.tc.mapTags f }))
    tasks := s.tasks.map (fun e => (e.1, { e.2 with frame := e.2.frame.map (fun t => t.mapTags f) })) }

/-- A line's copy is given up. One whose fill is outstanding is not a copy yet. -/
def dropTag (line : Nat) (m : Map (Nat × Nat) LineTag) : Map (Nat × Nat) LineTag := m.filter (fun e => e.2.line != line || e.2.filling)
/-- A line's copy is written back and shared. -/
def shareTag (line : Nat) (m : Map (Nat × Nat) LineTag) : Map (Nat × Nat) LineTag :=
  m.map (fun e => if e.2.line = line then (e.1, { e.2 with excl := false, dirty := false }) else e)

/-- A write ends every copy but those through which it goes: the slice of a context's or an engine's cluster, and a context's
stash (12 R264, R265; 09 R191). -/
def State.recall (s : State) (w : Writer) (line : Nat) : State :=
  s.otherTags (if w.kind ≤ 2 then some (s.clu w.core) else none) (if w.kind = 0 then some w.core else none) (dropTag line)

/-- An operation that is performed at a home slice leaves no copy but that slice's (12 R263, R265). -/
def State.onlyHome (s : State) (pa : Nat) : State := s.otherTags (if paKind pa = 0 then some (paClu pa) else none) none (dropTag (lineOf pa))

/-- The state of a block of a page that compresses, as it is written to HBM: 1 where every byte is zero, else 0 or 2 to 4 as it packs,
which the spec leaves open (12 R266; log 8, DESIGN CHOICE). -/
def State.pack (s : State) (pa : Nat) : State :=
  if paKind pa ≠ 0 then s
  else
    let bs := s.mem.read (pa / 256 * 256) 256
    let n := Config.sectors (leNat bs) % 4
    { s with packs := s.packs.set (pa / 256) (if bs.all (· == 0) then 1 else if n = 0 then 0 else n + 1) }
/-- The blocks of `[pa, pa + n)`, if their page compresses. -/
def State.packAll (s : State) (cmp : Bool) (pa n : Nat) : State :=
  if cmp then ((List.range ((pa + n - 1) / 256 + 1 - pa / 256)).map (fun i => 256 * (i + pa / 256))).foldl State.pack s else s

/-- A write to one line is performed: other copies end (12 R265); a block that has a state packs anew (12 R266); bytes under the writer's key; words it touches become EMPTY (12 R287); monitors of
the line are hit (13 R314); poison ends where it covers the line whole (21 R454); home watchpoints report (20 R437). -/
def State.putLine (s : State) (w : Writer) (line off : Nat) (bs : List (Option Byte)) : State :=
  if !bs.any Option.isSome then s
  else
    let s1 := (wordsTouched line off bs).foldl (fun s x => s.rekey w.tenant x) s
    let s2 : State := { s1 with
      mem := s1.mem.writeMasked (64 * line + off) bs
      full := s1.full.filter (fun x => !(wordsTouched line off bs).contains x)
      monitors := s1.monitors.map (fun m => if m.2.line = line then (m.1, { m.2 with hit := true }) else m)
      poison := if bs.length = 64 && bs.all Option.isSome then s1.poison.filter (· != line) else s1.poison
      hostHeld := s1.hostHeld.filter (· != line) }
    ((s2.packAll (s2.packs.has (line / 4)) (64 * line) 64).recall w line).watchLine w line off bs

/-- The pieces of a write by line: line, offset in it, bytes. -/
def linePieces : Nat → Nat → List (Option Byte) → List (Nat × Nat × List (Option Byte))
  | 0, _, _ => []
  | n + 1, pa, bs =>
    if bs.isEmpty then []
    else
      let r := 64 - pa % 64
      (lineOf pa, pa % 64, bs.take r) :: linePieces n (pa + r) (bs.drop r)

/-- A write is performed (13 R293). -/
def State.perform (s : State) (w : Writer) (pa : Nat) (bs : List (Option Byte)) : State :=
  (linePieces (bs.length / 64 + 2) pa bs).foldl (fun s p => s.putLine w p.1 p.2.1 p.2.2) s

/-! ## Lines held at their homes -/

/-- A line locked by a prepared group (18 R399). -/
def State.locked (s : State) (line : Nat) : Bool :=
  s.parts.any (fun p => (p.2.phase == .prepared || p.2.phase == .resolving) && p.2.lines.any (fun l => l.1 == line))

/-- No engine owns the line and no group locks it, save the copy or stream `me` (12 R265, 18 R399). -/
def State.lineOpen (s : State) (line : Nat) (me : Nat := 0) : Bool :=
  (match s.owned.find line with
    | some x => x == me
    | none => true) && !s.locked line

/-- The lines of `[pa, pa + n)`. -/
def linesOf (pa n : Nat) : List Nat :=
  if n = 0 then [] else (List.range ((pa + n - 1) / 64 + 1 - pa / 64)).map (· + pa / 64)

/-- The Fenco ports of a package train once it is READY (22 R470). -/
def State.trained (s : State) (p : Nat) : Bool := (s.pkg p).powered && (s.pkg p).st == .ready
/-- A package that answers `p`: itself, or one of the fabric domain that has not failed, as `p` sees it, where the ports of both have trained
(18 R385, 22 R470). -/
def State.alive (s : State) (p q : Nat) : Bool :=
  (s.pkg q).powered && !(s.pkg p).failed.contains q && (p == q || (s.trained p && s.trained q))

/-! ## Translation (20 R423-R427) -/

/-- Lowest address bit of a level's index, and the index's width. -/
def levelShift (level : Nat) : Nat := if level = 4 then 39 else if level = 3 then 30 else if level = 2 then 21 else 16
@[inherit_doc levelShift] def levelBits (level : Nat) : Nat := if level = 1 then 5 else 9

/-- An entry that counts as invalid (20 R424); a leaf behind whose page there is no memory counts so too (log 9, DESIGN CHOICE). -/
def entryInvalid (pkg level e : Nat) : Bool :=
  let leaf := e.testBit 1
  !e.testBit 0 || natBits e 56 8 != 0 || natBits e 5 3 != 0 || (level == 4 && leaf) || (level == 1 && !leaf)
    || (if leaf then natBits e 8 (levelShift level - 8) != 0 || decide (kindBytes (natBits e 44 3) ≤ natBits e 8 36 * 256)
        else natBits e 47 9 != pkg || natBits e 44 3 != 0 || (decide (2 < level) && natBits e 8 4 != 0))

/-- What a walk finds: the 64 KiB page's translation, or the level of the invalid entry. -/
inductive Walked where
  | leaf (t : TlbEntry)
  | missing (level : Nat)
  deriving DecidableEq, Repr

/-- The walk from a table of a level. -/
def State.walkFrom (s : State) (pkg va : Nat) : Nat → Nat → Walked
  | 0, _ => .missing 1
  | n + 1, table =>
    let level := n + 1
    let e := leNat (s.mem.read (table + 8 * natBits va (levelShift level) (levelBits level)) 8)
    let base := natBits e 8 48 * 256
    if entryInvalid pkg level e then .missing level
    else if e.testBit 1 then
      .leaf ⟨va / 65536, base + natBits va 16 (levelShift level - 16) * 65536, e.testBit 3, e.testBit 2, e.testBit 4⟩
    else s.walkFrom pkg va n base

/-- The walk of a package for an address. -/
def State.walk (s : State) (pkg va : Nat) : Walked := s.walkFrom pkg va 4 (s.pkg pkg).ttbr.toNat

/-- VA[62:48] is not zero: no translation, and no upcall (20 R423). -/
def noSpace (va : Nat) : Bool := natBits va 48 15 != 0

/-- A slice's cached translation of a page. -/
def Slice.tlbFind (l : Slice) (va : Nat) : Option TlbEntry := l.tlb.find? (fun t => t.page == va / 65536)

/-- The physical address of an address in a page. -/
def TlbEntry.at (t : TlbEntry) (va : Nat) : Nat := t.pa + va % 65536

/-- The translation of a page, as the slice or the tables give it. -/
def State.pageFor (s : State) (l : CluId) (va : Nat) : Option TlbEntry :=
  if noSpace va then none
  else match (s.slice l).tlbFind va with
    | some t => some t
    | none => match s.walk l.pkg va with
      | .leaf t => some t
      | .missing _ => none
/-- The physical address of an address. -/
def State.physOf (s : State) (l : CluId) (va : Nat) : Option Nat := (s.pageFor l va).map (fun t => t.at va)

/-- The physical address of a part of class 0x0-0x7: as it has been translated, or as its slice or the tables give it. -/
def State.partPa (s : State) (a : Access) (p : Part) : Option Nat :=
  if natBits p.ea 60 4 ≤ 7 then p.pa.orElse (fun _ => s.physOf (s.clu a.ctx.core) p.ea) else none

/-- It is a write that a release, a fence and `bar` wait for (13 R293). -/
def AccOp.isWrite : AccOp → Bool
  | .st | .amo _ _ _ | .cas _ _ _ | .famo _ _ | .fset _ | .complete _ => true
  | _ => false

/-- A record that still covers a store that is not performed (13 R296). -/
def State.recordActive (s : State) (r : RelRecord) : Bool :=
  s.accs.any (fun e => sameCtx e.2.task r.task e.2.ctx r.ctx && e.2.op.isWrite && decide (e.2.seq ≤ r.seq)
    && e.2.parts.any (fun p => !p.done))

/-- The lines of the entries that a walk reads. -/
def State.walkLines (s : State) (pkg va : Nat) : Nat → Nat → List Nat
  | 0, _ => []
  | n + 1, table =>
    let level := n + 1
    let pa := table + 8 * natBits va (levelShift level) (levelBits level)
    let e := leNat (s.mem.read pa 8)
    lineOf pa :: (if entryInvalid pkg level e || e.testBit 1 then [] else s.walkLines pkg va n (natBits e 8 48 * 256))

/-- A write stands in the way of a party of cluster `l` (13 R294): the cluster's slice has accepted it, or the party's core has issued it, or
it stood so in the way of the party's task when that left another core (13 R302; log 8, DEDUCED). -/
def State.inPath (s : State) (l : CluId) (k : Option CoreId) (task : Option Nat) (e : Nat × Access) : Bool :=
  e.2.op.isWrite && (e.2.stage == .issued || e.2.stage == .walking || e.2.stage == .placed)
    && ((e.2.stage == .placed && s.clu e.2.ctx.core == l) || k == some e.2.ctx.core
      || ((task.bind s.tasks.find).any (fun t => t.seen.contains e.1)))

/-- A read of a line is held behind a store to it that stands in its party's way and is not performed (13 R294). -/
def State.storeAhead (s : State) (l : CluId) (k : Option CoreId) (task : Option Nat) (line : Nat) : Bool :=
  s.accs.any (fun e => s.inPath l k task e && e.2.parts.any (fun p => !p.done && (s.partPa e.2 p).any (fun a => lineOf a == line)))

/-- A line may be read for a party: it is open at its home, and no store stands ahead of the read. -/
def State.lineReady (s : State) (l : CluId) (k : Option CoreId) (task : Option Nat) (line : Nat) : Bool :=
  s.lineOpen line && !s.storeAhead l k task line

/-- A slice may read a line of a table as an acquire at `.pkg` (20 R425): no release record of it keeps the slice outside its reach either
(13 R296). -/
def State.tableReady (s : State) (l : CluId) (line : Nat) : Bool :=
  s.lineReady l none none line
    && (s.rels.get line []).all (fun r => !s.recordActive r || (r.reach == 1 && s.clu r.ctx.core == l))

/-- A walk may read its tables. -/
def State.walkReady (s : State) (l : CluId) (va : Nat) : Bool :=
  (s.walkLines l.pkg va 4 (s.pkg l.pkg).ttbr.toNat).all (s.tableReady l)

/-- The pager's core of a region, if it serves the tenant (20 R426). -/
def State.served (s : State) (pkg va tenant : Nat) : Option CoreId :=
  match s.pagerEntry pkg (natBits va 30 18) with
  | some (d, k) => if tenantOf d = tenant then some k else none
  | none => none

/-- The walk of a page has failed and awaits a `pgok`, and no pager serves the region for this tenant (20 R426, R427). -/
def State.unservedWalk (s : State) (l : CluId) (va : Nat) (dom : BitVec 16) : Bool :=
  (s.slice l).walks.any (fun w => w.upcall && w.page == va / 65536) && (s.served l.pkg va (tenantOf dom)).isNone

/-- A translation enters the cache of 2,048 entries. -/
def Slice.tlbFill (l : Slice) (t : TlbEntry) : Slice :=
  { l with tlb := (t :: l.tlb.filter (fun x => x.page != t.page)).take 2048 }

/-- The token of a walk entry (20 R427). -/
def walkToken (l : CluId) (w : Walk) : W64 :=
  BitVec.ofNat 64 (l.pkg <<< 55 ||| l.die <<< 53 ||| l.clu <<< 47 ||| w.slot <<< 40 ||| w.gen <<< 32)

/-- The upcall of a failed walk sets out for ring7 of the pager's core (20 R427). -/
def State.upcall (s : State) (l : CluId) (pager : CoreId) (w : Walk) (level : Nat) : State :=
  let bytes := leBytes 8 (w.page * 65536) ++ leBytes 8 (walkToken l w).toNat ++ leBytes 1 w.kind ++ leBytes 1 level
    ++ leBytes 2 w.dom.toNat ++ List.replicate 44 0
  let msg : Message := {
    src := ⟨pager, 0⟩, task := none, incarn := 0, dst := pager, scq := false, payload := bytes, dom := w.dom, ea := 0, pc := 0, scope := 0
    share := 0, free := false, upcall := true, since := s.now, nacked := false, held := false }
  ({ s with msgs := s.msgs.set s.nextId msg, nextId := s.nextId + 1 } : State).board l.pkg (cluRouter l) (s.routerAt pager)
    (.message s.nextId)

/-- The lowest free walk entry of a slice (20 R425). -/
def Slice.freeWalk (x : Slice) : Option Nat := (List.range 64).find? (fun i => !x.walks.any (fun w => w.slot == i))

/-- A walk starts in the lowest free entry, or its page is being walked already, or it waits for an entry. `others` says that a party
without an access of its own waits on it. -/
def State.startWalk (s : State) (l : CluId) (page kind : Nat) (dom : BitVec 16) (others : Bool := false) : State :=
  s.setSlice l (fun x =>
    if x.walks.any (fun w => w.page == page) then
      { x with walks := x.walks.map (fun w => if w.page = page then { w with others := w.others || others } else w) }
    else match x.freeWalk with
      | none => x
      | some i =>
        let gen := (x.walkGen.get i 0 + 1) % 256
        { x with walks := x.walks ++ [⟨i, gen, page, kind, dom, false, others⟩], walkGen := x.walkGen.set i gen })

/-- What a page access finds. -/
inductive Found where
  | page (t : TlbEntry)
  /-- held by a walk entry, or no entry is free -/
  | wait
  /-- no translation, and no pager serves the region -/
  | none
  deriving DecidableEq, Repr

/-- A page is looked up for a party that walks at once, in a free walk entry: fetches, engines and the accesses that have no row of their
own at the slice (20 R425, R427). -/
def State.findPage (s : State) (l : CluId) (va kind : Nat) (dom : BitVec 16) : Found × State :=
  if noSpace va then (.none, s)
  else match (s.slice l).tlbFind va with
    | some t => (if mayMap dom (t.at va) then .page t else .none, s)
    | none =>
      if s.unservedWalk l va dom then (.none, s)
      else if (s.slice l).walks.any (fun w => w.page == va / 65536) then (.wait, s.startWalk l (va / 65536) kind dom true)
      else if (s.slice l).freeWalk.isNone || !s.walkReady l va then (.wait, s)
      else match s.walk l.pkg va with
        | .leaf t => (if mayMap dom (t.at va) then .page t else .none, s.setSlice l (fun x => x.tlbFill t))
        | .missing level => match s.served l.pkg va (tenantOf dom) with
          | none => (.none, s)
          | some k =>
            let s1 := s.startWalk l (va / 65536) kind dom true
            match (s1.slice l).walks.find? (fun w => w.page == va / 65536) with
            | none => (.wait, s1)
            | some w => (.wait, (s1.setSlice l (fun x => { x with
                walks := x.walks.map (fun v => if v.slot = w.slot then { v with upcall := true } else v) })).upcall l k w level)

/-- The physical address of a byte by a list of translations. -/
def paIn (ts : List TlbEntry) (va : Nat) : Nat :=
  match ts.find? (fun t => t.page == va / 65536) with
  | some t => t.at va
  | none => 0

/-- A domain may have every granule of 4 KiB of `[va, va + n)` under some translations (22 R470). -/
def mayMapAll (dom : BitVec 16) (ts : List TlbEntry) (va n : Nat) : Bool :=
  (List.range ((va + n - 1) / 4096 + 1 - va / 4096)).all (fun i => mayMap dom (paIn ts (max va ((va / 4096 + i) * 4096))))

/-- Every page of `[va, va + n)`: the first that waits or fails decides; otherwise the translations by page. -/
def State.findPages (s : State) (l : CluId) (va n kind : Nat) (dom : BitVec 16) : Found × List TlbEntry × State :=
  let r : Found × List TlbEntry × State := ((List.range ((va + n - 1) / 65536 + 1 - va / 65536)).map (fun i => max va ((va / 65536 + i) * 65536))).foldl (fun r a =>
    let q := r.2.2.findPage l a kind dom
    match r.1, q.1 with
    | .none, _ => r
    | _, .none => (.none, r.2.1, q.2)
    | .wait, _ => (.wait, r.2.1, q.2)
    | _, .wait => (.wait, r.2.1, q.2)
    | x, .page t => (x, r.2.1 ++ [t], q.2)) (.page ⟨0, 0, false, false, false⟩, [], s)
  match r.1 with
  | .page _ => if mayMapAll dom r.2.1 va n then r else (.none, r.2)
  | _ => r

/-- Bytes at virtual addresses that a list of translations covers. -/
def State.readVa (s : State) (tenant : Nat) (ts : List TlbEntry) (va n : Nat) : List Byte :=
  (List.range n).map (fun i => s.readByte tenant (paIn ts (va + i)))

/-! ## The PLB (20 R430, R431) -/

/-- The rights, by bit of word 1. -/
def rightR : Nat := 0
@[inherit_doc rightR] def rightW : Nat := 1
@[inherit_doc rightR] def rightX : Nat := 2
@[inherit_doc rightR] def rightA : Nat := 3
@[inherit_doc rightR] def rightG : Nat := 4
@[inherit_doc rightR] def rightM : Nat := 5

/-- An entry's domain matches (20 R430). -/
def plbDom (e : W64 × W64) (d : BitVec 16) : Bool :=
  bitAt e.2 6 && bitsOf e.2 63 56 == d.toNat / 256
    && (bitsOf e.2 55 48 ^^^ d.toNat % 256) &&& bitsOf e.2 47 40 == 0

/-- An entry matches a domain and an address. -/
def plbMatch (e : W64 × W64) (d : BitVec 16) (a : Nat) : Bool :=
  let lsz := bitsOf e.1 5 0
  plbDom e d && decide (16 ≤ lsz) && decide (lsz ≤ 47) && a / 2 ^ lsz == e.1.toNat / 2 ^ lsz

/-- The outcome of the PLB over `[a, a + n)`: granted, denied by a matching entry, or a byte without one. A context with
privilege is not checked (log 9, DEDUCED). -/
inductive PlbAnswer where
  | granted | denied | miss
  deriving DecidableEq, Repr

/-- The answer on one byte. -/
def plbByte (plb : Map Nat (W64 × W64)) (d : BitVec 16) (a right : Nat) : PlbAnswer :=
  let es := plb.filter (fun e => plbMatch e.2 d a)
  if es.isEmpty then .miss else if es.any (fun e => bitAt e.2.2 right) then .granted else .denied

/-- The first byte of `[a, a + n)` and every byte in it at which a region begins or ends: between them the answer is one. -/
def plbSamples (plb : Map Nat (W64 × W64)) (a n : Nat) : List Nat :=
  a :: (plb.flatMap (fun e =>
    let size := 2 ^ bitsOf e.2.1 5 0
    let base := e.2.1.toNat / size * size
    [base, base + size])).filter (fun b => decide (a < b) && decide (b < a + n))

/-- The answers at the samples of a range. -/
def State.plbAnswers (s : State) (k : CoreId) (d : BitVec 16) (a n right : Nat) : List (Nat × PlbAnswer) :=
  if isSup k || n = 0 then []
  else (plbSamples (s.core k).plb a n).map (fun b => (b, plbByte (s.core k).plb d b right))

/-- The answer on a range: a byte without a matching entry is a miss (20 R431). -/
def State.plb (s : State) (k : CoreId) (d : BitVec 16) (a n right : Nat) : PlbAnswer :=
  let rs := (s.plbAnswers k d a n right).map (·.2)
  if rs.contains .miss then .miss else if rs.contains .denied then .denied else .granted

/-- The verdict of the PLB at issue; the address field holds `ea`. -/
def State.plbOk (s : State) (a n right : Nat) (ea : W64) : Verdict :=
  match s.plb s.cur.core s.me.domain a n right with
  | .granted => .ok
  | .denied => .fault 5 ⟨cProtection, 0, ea⟩
  | .miss => .fault 5 ⟨cProtection, 2, ea⟩

/-! ## Windows of a scratchpad (09 R178, R179) -/

/-- An open window covers `[o, o + n)` and grants the right (bit 42 R, 41 W, 40 A) to the domain. -/
def windowGrants (w : W64) (d : BitVec 16) (o n bit : Nat) : Bool :=
  let sz := bitsOf w 46 43
  let len := 2 ^ (10 + sz)
  let base := (bitsOf w 18 11 * 2048) / len * len
  decide (1 ≤ sz) && decide (sz ≤ 9) && decide (base ≤ o) && decide (o + n ≤ base + len) && bitAt w bit
    && (if bitAt w 47 then bitsOf w 63 56 == d.toNat / 256 else bitsOf w 63 48 == d.toNat)

/-- The footprint of the task bound to a core; without a task no remote access is accepted (09 R181). -/
def State.footOf (s : State) (k : CoreId) : Nat :=
  match (s.core k).task.bind s.tasks.find with
  | some t => t.foot * 32768
  | none => if isSup k then 524288 else 0

/-- A remote access is accepted (09 R179). -/
def State.windowOk (s : State) (k : CoreId) (d : BitVec 16) (o n bit : Nat) : Bool :=
  let t := s.tc k
  t.win.toList.any (fun w => windowGrants w d o n bit) && !t.inStash o n && decide (o + n ≤ s.footOf k)

end Sys2Proof.Machine
end

