-- ==== Sys2Proof/Machine/Global.lean ====
section
/-! DEFINITION. Global accesses: their checks and issue (12 R260-R291), and their steps through slice, home, bank and back
(12 R263-R291, 13 R293-R297, 18 R384-R388, 20 R419). -/

namespace Sys2Proof.Machine

open Sys2Proof Sys2Proof.Lanes

/-! ## Kinds of access -/

/-- It lands a destination (12 R276, first row). -/
def AccOp.isLoad : AccOp → Bool
  | .ld _ | .vld _ _ | .vgg _ _ | .amo _ _ _ | .cas _ _ _ | .famo _ _ | .fget | .task _ _ => true
  | _ => false
@[inherit_doc AccOp.isLoad] def AccOp.isAtomic : AccOp → Bool
  | .amo _ _ _ | .cas _ _ _ | .famo _ _ => true
  | _ => false
@[inherit_doc AccOp.isLoad] def AccOp.isFuture : AccOp → Bool
  | .fset _ | .fget => true
  | _ => false
/-- It reads plainly. -/
def AccOp.isPlainLoad : AccOp → Bool
  | .ld _ | .vld _ _ | .vgg _ _ | .task _ _ => true
  | _ => false
/-- It reads a task record (15 R369). -/
def AccOp.isTask : AccOp → Bool
  | .task _ _ => true
  | _ => false
/-- It only writes. -/
def AccOp.isPlainStore : AccOp → Bool
  | .st | .complete _ => true
  | _ => false
/-- It stands in the table of 12 R276 as a store. -/
def AccOp.isStore : AccOp → Bool
  | .st | .fset _ => true
  | _ => false

/-- Its parts are the granules of a gather or scatter, each an access of its own (12 R277). -/
def Access.granular (a : Access) : Bool :=
  match a.op with
  | .vgg _ _ => true
  | .st => a.parts.any (fun p => decide (p.len < 16)) && decide (1 < a.parts.length)
  | _ => false

/-- Kind of the fault record (20 R419). -/
def Access.kind (a : Access) : Nat :=
  match a.op with
  | .vgg _ _ => 4
  | .st => if a.granular then 4 else 1
  | .amo _ _ _ | .cas _ _ _ | .famo _ _ => 2
  | .fset _ | .fget => 3
  | _ => 0

/-! ## The address class (12 R260-R262) -/

/-- Where an address leads. -/
inductive Place where
  | shared
  | bank (k : CoreId) (off : Nat)
  | window
  | device
  deriving DecidableEq, Repr

/-- The place of an address as core `k` names it; none is PROTECTION. `bank` and `control` say whether the instruction may
name scratchpads and, with privilege, classes 0xD and 0xE. -/
def placeOf (k : CoreId) (priv bank control : Bool) (ea : Nat) : Option Place :=
  let c := natBits ea 60 4
  if c ≤ 7 then some .shared
  else if c = 12 then
    if bank && natBits ea 19 20 == 0 && decide (natBits ea 39 10 ≤ 991) then
      some (.bank ⟨natBits ea 51 9, natBits ea 49 2, natBits ea 39 10⟩ (natBits ea 0 19))
    else none
  else if c = 15 then (if bank then some (.bank k (natBits ea 0 19)) else none)
  else if c = 13 then
    if control && priv && natBits ea 16 19 == 0 && natBits ea 35 4 != 11 && decide (natBits ea 39 10 ≤ 991) then some .window
    else none
  else if c = 14 then (if control && priv then some .device else none)
  else none

/-- The place of a part of an access, at its steps after issue. -/
def Access.place (a : Access) (p : Part) : Option Place := placeOf a.ctx.core true true true p.ea

/-- The part is in the scratchpad of the task that issued it (12 R262). -/
def Access.own (a : Access) (k : CoreId) : Bool := k == a.ctx.core

/-! ## Checks at issue (12 R275) -/

/-- The vector, value, latch, tile and envelope regions of a debug window, from `lo` below `hi` (20 R416, R417). -/
def wideRegions (block : Nat) : List (Nat × Nat) :=
  if block ≤ 10 then [(0x2000, 0x3800), (0x8000, 0xA000)]
  else if block = 12 then [(0, 0x6000)]
  else if block = 13 ∨ block = 14 then [(0, 0x10000)]
  else []

/-- The sizes of an access to a debug window (20 R416). -/
def windowSizeOk (ea n : Nat) : Bool :=
  let o := natBits ea 0 16
  if n = 256 then ea % 16 == 0 && (wideRegions (natBits ea 35 4)).any (fun r => decide (r.1 ≤ o) && decide (o + 256 ≤ r.2))
  else (n == 8 || n == 16) && ea % n == 0

/-- LocalOffset on an address of this core's scratchpad, by its class 0xF or its class 0xC name; the fault holds `ea` (12 R262, R275). -/
def State.ownOk (s : State) (ea : W64) (n align : Nat) : Verdict :=
  match localOffset s.myTc s.foot (BitVec.ofNat 64 (ea.toNat % 2 ^ 19)) n align with
  | .ok _ => if bitsOf ea 63 60 = 15 ∧ !isLocal ea then .fault 5 ⟨cProtection, 0, ea⟩ else .ok
  | .error c => .fault 5 ⟨c, 0, ea⟩

/-- Verdicts of R275 for granules of `n` bytes at `eas`, one check at a time over all of them. -/
def State.globalOk (s : State) (eas : List W64) (n align right : Nat) (bank control : Bool) : Verdict :=
  let own := fun (ea : W64) => placeOf s.cur.core s.privileged bank control ea.toNat
  (firstBad (eas.map (fun ea => need (own ea).isSome 5 cProtection ea))).andThen <|
  (firstBad (eas.map (fun ea => need (decide (ea.toNat % align = 0)
      && (own ea != some .window || windowSizeOk ea.toNat n)) 5 cAlign ea))).andThen <|
  (firstBad (eas.map (fun ea => match own ea with
    | some (.bank k _) => if k = s.cur.core then s.ownOk ea n align else .ok
    | _ => .ok))).andThen <|
  firstBad (eas.map (fun ea => match own ea with
    | some .shared => s.plbOk ea.toNat n right ea
    | _ => .ok))

/-- Every part is finished. -/
def Access.finished (a : Access) : Bool := a.parts.all (·.done)
/-- Every part that must be translated is. -/
def Access.translated (a : Access) : Bool := a.parts.all (fun p => p.done || p.pa.isSome || decide (7 < natBits p.ea 60 4))
/-- The cause with which an access has failed, and its address. -/
def Access.failure (a : Access) : Option (Nat × W64) :=
  match a.stage with
  | .failed c => some (c, a.ea)
  | _ => if a.finished then a.bad else none

/-- The outstanding accesses of the issuing context, and of its core. -/
def State.mine (s : State) (p : AccOp → Bool) : Nat :=
  (s.accs.filter (fun a => s.ofMine a.2.ctx a.2.task && p a.2.op)).length
@[inherit_doc State.mine] def State.coreWide (s : State) (p : AccOp → Bool) : Nat :=
  (s.accs.filter (fun a => a.2.ctx.core == s.cur.core && p a.2.op)).length

/-- An acquire of the context has not landed (13 R295). -/
def State.acquiring (s : State) : Bool :=
  s.accs.any (fun a => s.ofMine a.2.ctx a.2.task && a.2.ord && a.2.op.isLoad)
/-- Memory accesses stall behind an acquire (13 R295). -/
def State.accessStall (s : State) : Verdict := if s.acquiring then .stall else .ok

/-- The packets of a core's stream that its target has not acknowledged (18 R386): those of one access by their numbers. -/
def State.inStream (s : State) (k : CoreId) (q : Nat) : Nat :=
  ((s.accs.filter (fun e => e.2.ctx.core == k)).map (fun e =>
      ((e.2.parts.filterMap (fun p => if p.done then none else p.seqNo)).filter (fun n => n.1 == q)).eraseDups.length)).foldl Nat.add 0
    + (s.gsts.filter (fun e => e.2.ctx.core == k && e.2.stream.any (fun n => n.1 == q))).length

/-- The package that an address leads to, as far as core `k` can tell (12 R261, R263). -/
def State.packageOf (s : State) (k : CoreId) (ea : Nat) : Option Nat :=
  if natBits ea 60 4 = 12 then some (natBits ea 51 9)
  else if natBits ea 60 4 ≤ 7 then (s.physOf (s.clu k) ea).map paPkg
  else none

/-- Packets of core `k` to some packages would leave more than 4,096 in a stream that are not acknowledged (18 R386). -/
def State.overStream (s : State) (k : CoreId) (qs : List Nat) : Bool :=
  qs.any (fun q => q != k.pkg && decide (4096 < s.inStream k q + qs.count q))

/-- The packages to which the packets of a write go that are still without a number: one packet for what lies in one line, or for one
granule (12 R277, 18 R386). -/
def packetsOf (core : CoreId) (granular : Bool) (dest : Part → Option Nat) : Option Nat → List Part → List Nat
  | _, [] => []
  | last, p :: ps => match (if p.done || p.seqNo.isSome then none else dest p) with
    | none => packetsOf core granular dest last ps
    | some q =>
      if q = core.pkg then packetsOf core granular dest last ps
      else if !granular && last == some (p.ea / 64) then packetsOf core granular dest last ps
      else q :: packetsOf core granular dest (some (p.ea / 64)) ps
@[inherit_doc packetsOf] def Access.packets (a : Access) (dest : Part → Option Nat) : List Nat :=
  if a.op.isWrite then packetsOf a.ctx.core a.granular dest none a.parts else []

/-- The package that serves a part. -/
def Part.package (p : Part) : Option Nat :=
  if natBits p.ea 60 4 = 12 then some (natBits p.ea 51 9) else p.pa.map paPkg

/-- A write stalls at issue where its packets would exceed a stream (18 R386). -/
def State.sendOk (s : State) (eas : List W64) (n : Nat) : Verdict :=
  let ls := eas.flatMap (fun ea => linesOf ea.toNat n)
  if s.overStream s.cur.core (ls.filterMap (fun l => s.packageOf s.cur.core (l * 64))) then .stall else .ok

/-- A write of the context waits for room in a stream (18 R386). -/
def State.streamStall (s : State) : Bool :=
  s.accs.any (fun e => s.ofMine e.2.ctx e.2.task && e.2.stage == .issued && s.overStream e.2.ctx.core (e.2.packets Part.package))
    || s.gsts.any (fun e => s.ofMine e.2.ctx e.2.task && e.2.pa.isNone && e.2.engine.isNone
      && (s.physOf (s.clu e.2.ctx.core) e.2.ea.toNat).any (fun pa => paPkg pa != e.2.ctx.core.pkg
        && decide (4096 ≤ s.inStream e.2.ctx.core (paPkg pa))))

/-- The stalls of R276 and R295. -/
def State.loadRoom (s : State) : Verdict :=
  if s.acquiring || decide (32 ≤ s.mine AccOp.isLoad) || decide (256 ≤ s.coreWide AccOp.isLoad) then .stall else .ok
@[inherit_doc State.loadRoom] def State.storeRoom (s : State) : Verdict :=
  if s.acquiring || decide (64 ≤ s.mine AccOp.isStore) || decide (256 ≤ s.coreWide AccOp.isStore) then .stall else .ok

/-- Cores of the gang of a task. -/
def State.gangCores (s : State) (task : Option Nat) : List CoreId :=
  match task.bind s.tasks.find with
  | none => []
  | some t => match t.gang with
    | none => t.core.toList
    | some g => s.tasks.filterMap (fun e => match e.2.gang with
      | some h => if h.gang = g.gang then e.2.core else none
      | none => none)

/-- What a replay scope forbids (15 R351): atomics, futures, and stores to scratchpads outside the gang. -/
def State.replayOk (s : State) (eas : List W64) (refused : Bool) : Verdict :=
  match s.myReplay with
  | none => .ok
  | some _ =>
    firstBad (eas.map (fun ea => need (!refused && (match placeOf s.cur.core true true true ea.toNat with
      | some (.bank k _) => k == s.cur.core || (s.gangCores s.myTask).contains k
      | _ => true)) 5 cProtection ea))

/-- Watchpoints over granules (20 R436). -/
def State.watchAll (s : State) (eas : List W64) (n : Nat) (rd wr : Bool) : Verdict :=
  firstBad (eas.map (fun e => s.watch e n rd wr))

/-! ## Issue -/

/-- A part that has not been performed. -/
def newPart (ea : Nat) (bytes : List (Option Byte)) (len : Nat) : Part := ⟨ea, bytes, len, none, false, [], false, false, none⟩

/-- The 16 B parts of a read (12 R277), or the access whole. -/
def readParts (ea n : Nat) : List Part :=
  if n ≤ 16 then [newPart ea [] n] else (List.range (n / 16)).map (fun i => newPart (ea + 16 * i) [] 16)
@[inherit_doc readParts] def writeParts (ea : Nat) (bs : List Byte) : List Part :=
  if bs.length ≤ 16 then [newPart ea (bs.map some) bs.length]
  else (List.range (bs.length / 16)).map (fun i => newPart (ea + 16 * i) (((bs.drop (16 * i)).take 16).map some) 16)

/-- A global access issues: its destinations pend, and it sets out. -/
def State.issue (s : State) (f : Fields) (op : AccOp) (ea : W64) (parts : List Part) (dests : List Dest) (sel : Nat) : State :=
  let ds := dests.filter (fun d => d != Dest.none)
  let r := s.pendOn ds
  let s1 := r.2
  let c := s1.me
  let acc : Access := {
    ctx := s1.cur, incarn := c.incarn, task := s1.myTask, op := op, ea := ea, pc := s1.myPc, dom := c.domain, nud := f.nud
    cad := bitsOf c.spr.cad 15 0, reach := f.reachCode, ord := f.ord, sel := sel
    tok := if ds.isEmpty then none else some r.1, seq := c.storeSeq + (if op.isWrite then 1 else 0)
    parts := parts, stage := .issued, granted := false, since := s1.now, abandoned := false, scope := c.scope, bad := none }
  { s1 with accs := s1.accs.set s1.nextId acc, nextId := s1.nextId + 1 }.setMe
    (fun c => { c with storeSeq := acc.seq })

/-- The group of the replay scope of the issuing context. -/
def State.replayGroup (s : State) : Option W64 := s.myReplay.bind (fun h => (s.hub h).map (·.group))

/-- A store of a replay scope to class 0x0-0x7 is staged in the scope's group, as `gst` stages (15 R351): the bytes of one
line at most. -/
def State.stage (s : State) (c : CtxId) (task : Option Nat) (dom : BitVec 16) (h ea pc : W64) (bs : List Byte) (engine : Option Nat := none) :
    State :=
  let g : Gst := { ctx := c, incarn := (s.ctxOf task c).incarn, task := task, dom := dom, h := h, ea := ea
                   pc := pc, bytes := bs, pa := none, stream := none, stage := .issued, engine := engine, asked := 0, since := s.now }
  { s with gsts := s.gsts.set s.nextId g, nextId := s.nextId + 1 }

/-- A store issues, or is staged in a replay scope. -/
def State.issueStore (s : State) (f : Fields) (op : AccOp) (ea : W64) (parts : List Part) (sel : Nat) : State :=
  match s.replayGroup with
  | none => s.issue f op ea parts [] sel
  | some h =>
    let shared := parts.filter (fun p => decide (natBits p.ea 60 4 ≤ 7))
    let rest := parts.filter (fun p => !decide (natBits p.ea 60 4 ≤ 7))
    let s1 := shared.foldl (fun s p => s.stage s.cur s.myTask s.me.domain h (BitVec.ofNat 64 p.ea) s.myPc
      (p.bytes.filterMap (fun b => b))) s
    if rest.isEmpty then s1 else s1.issue f op ea rest [] sel

/-! ## The instructions (12 R279-R291) -/

/-- `ld` (12 R280). -/
def execLd (f : Fields) (s : State) : Out :=
  let n := sizeOf f.szCode
  run (.ld f) f {
    gate := fun s => s.loadRoom.andThen ((s.globalOk [s.ea f] n n rightR true true).andThen (s.watch (s.ea f) n true false))
    act := fun s => (s.tickIf f).issue f (.ld n) (s.ea f) (readParts (s.ea f).toNat n) [Dest.ofG f.d] (encodeSel f.d) } s

/-- `st` (12 R280). -/
def execSt (f : Fields) (s : State) : Out :=
  let n := sizeOf f.szCode
  run (.st f) f {
    gate := fun s => (s.storeRoom.andThen (s.sendOk [s.ea f] n)).andThen ((s.globalOk [s.ea f] n n rightW true true).andThen
      ((s.replayOk [s.ea f] false).andThen (s.watch (s.ea f) n false true)))
    act := fun s => (s.tickIf f).issueStore f .st (s.ea f)
      (writeParts (s.ea f).toNat (leBytes n (s.gval f f.b).toNat)) 0 } s

/-- `vld` (12 R281). -/
def execVld (f : Fields) (s : State) : Out :=
  let n := sizeOf f.szCode
  run (.vld f) f {
    gate := fun s => s.loadRoom.andThen ((s.globalOk [s.ea f] n 32 rightR true true).andThen (s.watch (s.ea f) n true false))
    act := fun s => (s.tickIf f).issue f (.vld f.extTag (f.szCode == 7)) (s.ea f) (readParts (s.ea f).toNat n)
      [Dest.ofV f.d] (encodeSel f.d) } s

/-- `vst` (12 R281). -/
def execVst (f : Fields) (s : State) : Out :=
  let n := sizeOf f.szCode
  run (.vst f) f {
    gate := fun s => (s.storeRoom.andThen (s.sendOk [s.ea f] n)).andThen ((s.packOk f).andThen ((s.globalOk [s.ea f] n 32 rightW true true).andThen
      ((s.replayOk [s.ea f] false).andThen (s.watch (s.ea f) n false true))))
    act := fun s => (s.tickIf f).issueStore f .st (s.ea f)
      (writeParts (s.ea f).toNat (vecBytes (f.szCode == 7) (s.vreg f.b))) 0 } s

/-- `vgg` (12 R282). -/
def execVgg (f : Fields) (s : State) : Out :=
  let g := granule f.extTag
  run (.vgg f) f {
    gate := fun s =>
      let es := granuleEas (s.ea f) (s.vreg f.b) g
      s.loadRoom.andThen ((s.globalOk es g g rightR true false).andThen (s.watchAll es g true false))
    act := fun s => (s.tickIf f).issue f (.vgg f.extTag g) (s.ea f)
      ((granuleEas (s.ea f) (s.vreg f.b) g).map (fun e => newPart e.toNat [] g)) [Dest.ofV f.d] (encodeSel f.d) } s

/-- `vsg` (12 R282). -/
def execVsg (f : Fields) (s : State) : Out :=
  run (.vsg f) f {
    gate := fun s =>
      let g := granule (s.vreg f.b).tag
      let es := granuleEas (s.ea f) (s.vreg f.c) g
      (s.storeRoom.andThen (s.sendOk es g)).andThen ((s.globalOk es g g rightW true false).andThen
        ((s.replayOk es false).andThen (s.watchAll es g false true)))
    act := fun s =>
      let g := granule (s.vreg f.b).tag
      (s.tickIf f).issueStore f .st (s.ea f) ((granuleEas (s.ea f) (s.vreg f.c) g).zipIdx.map (fun e =>
        newPart e.1.toNat ((granuleBytes (s.vreg f.b) g e.2).map some) g)) 0 } s

/-- An atomic (12 R283-R285): D pends until it lands. -/
def atomic (i : Fields → Instr) (op : State → AccOp) (n : Nat) (f : Fields) (s : State) : Out :=
  run (i f) f {
    gate := fun s => (s.loadRoom.andThen (s.sendOk [s.ea f] n)).andThen ((s.globalOk [s.ea f] n n rightA true false).andThen
      ((s.replayOk [s.ea f] true).andThen (s.watch (s.ea f) n true true)))
    act := fun s => (s.tickIf f).issue f (op s) (s.ea f) [newPart (s.ea f).toNat [] n] [Dest.ofG f.d] (encodeSel f.d) } s

/-- `amo` (12 R283). -/
def execAmo (f : Fields) (s : State) : Out :=
  atomic .amo (fun s => .amo f.extCode (sizeOf f.szCode) (s.gval f f.b)) (sizeOf f.szCode) f s
/-- `cas` (12 R284). -/
def execCas (f : Fields) (s : State) : Out :=
  atomic .cas (fun s => .cas (sizeOf f.szCode) (s.gval f f.b) (s.gval f f.c)) (sizeOf f.szCode) f s
/-- `famo` (12 R285). -/
def execFamo (f : Fields) (s : State) : Out :=
  atomic .famo (fun s => .famo f.extTag (s.gval f f.b)) (sizeOf f.szCode) f s

/-- `fset` (12 R288). -/
def execFset (f : Fields) (s : State) : Out :=
  run (.fset f) f {
    gate := fun s => (s.storeRoom.andThen (s.sendOk [s.ea f] 8)).andThen ((s.globalOk [s.ea f] 8 8 rightW false false).andThen
      ((s.replayOk [s.ea f] true).andThen (s.watch (s.ea f) 8 false true)))
    act := fun s => (s.tickIf f).issue f (.fset (s.gval f f.b)) (s.ea f) [newPart (s.ea f).toNat [] 8] [] 0 } s

/-- `fget` (12 R289). -/
def execFget (f : Fields) (s : State) : Out :=
  run (.fget f) f {
    gate := fun s => s.loadRoom.andThen ((s.globalOk [s.ea f] 8 8 rightR false false).andThen
      ((s.replayOk [s.ea f] true).andThen (s.watch (s.ea f) 8 true false)))
    act := fun s => (s.tickIf f).issue f .fget (s.ea f) [newPart (s.ea f).toNat [] 8]
      [Dest.ofG f.d, Dest.ofP f.c] (encodeSel f.d) } s

/-- `pf` (12 R290): dropped at any check, and when 64 of the core are in flight. -/
def execPf (f : Fields) (s : State) : Out :=
  run (.pf f) f {
    gate := fun s => s.accessStall
    act := fun s =>
      let s1 := s.tickIf f
      let line := (s.ea f).toNat / 64 * 64
      if decide (bitsOf (s.ea f) 63 60 ≤ 7) && s.plb s.cur.core s.me.domain line 64 rightR == .granted
          && decide (s.coreWide (· == .pf) < 64) then
        s1.issue f .pf (s.ea f) [newPart ((s.ea f).toNat / 64 * 64) [] 64] [] 0
      else s1 } s

/-! ### `wb` and `inv` (12 R291) -/

/-- This core's stashes or this cluster's slice hold the line. -/
def State.heldHere (s : State) (k : CoreId) (line : Nat) : Bool :=
  (s.tc k).stashed line || (s.slice (s.clu k)).lines.any (fun e => e.2.line == line)

/-- The line of an address that `wb` or `inv` names, where a copy is held. -/
def State.wbLine (s : State) (f : Fields) : Option Nat :=
  match s.physOf (s.clu s.cur.core) (s.ea f).toNat with
  | some pa => if s.heldHere s.cur.core (lineOf pa) then some (lineOf pa) else none
  | none => none

/-- It holds from its issue until the home's acknowledgement; a line that is not held is acknowledged at once. -/
def writeBack (i : Fields → Instr) (op : AccOp) (f : Fields) (s : State) : Out :=
  run (i f) f {
    gate := fun s => (need (decide (bitsOf (s.ea f) 63 60 ≤ 7)) 5 cProtection (s.ea f)).andThen
      (match s.me.holdC with
      | some h => if h.ids.any s.accs.has then .hold else .ok
      | none => if (s.wbLine f).isSome then .hold else .ok)
    act := fun s => (s.tickIf f).setMe (fun c => { c with holdC := none })
    wait := fun s => match s.me.holdC with
      | some _ => s
      | none =>
        let n := s.nextId + 1
        (s.issue f op (s.ea f) [newPart ((s.ea f).toNat / 64 * 64) [] 64] [] 0).setMe
          (fun c => { c with holdC := some ⟨.own, s.now, [n], none⟩ }) } s

/-- `wb` (12 R291). -/
def execWb (f : Fields) (s : State) : Out := writeBack .wb .wb f s
/-- `inv` (12 R291). -/
def execInv (f : Fields) (s : State) : Out := writeBack .inv .inv f s

/-! ## Lines of slices and stashes (12 R270-R274, 09 R190) -/

/-- DueStamp (12 R270): none is NOREUSE. -/
def dueStamp (c cad ts now : Nat) : Option Nat :=
  if c = 0 then none
  else
    let c := if c = 31 then 16 else c
    some ((now + min (((4 + c % 4) <<< (c / 4) <<< ts) * cad / 1024) 32767) % 65536)

/-- The class of a valid line. -/
inductive DueClass where
  | noReuse
  | overdue (n : Nat)
  | future (n : Nat)
  deriving DecidableEq, Repr

/-- Classify (12 R270). -/
def LineTag.classify (l : LineTag) (now : Nat) : DueClass :=
  match l.stamp with
  | none => .noReuse
  | some x =>
    if l.od then .overdue 32768
    else
      let diff := (x + 65536 - now) % 65536
      if diff = 0 ∨ 32768 ≤ diff then .overdue ((65536 - diff) % 65536) else .future diff

/-- An overdue line takes OD. -/
def LineTag.swept (l : LineTag) (now : Nat) : LineTag :=
  match l.classify now with
  | .overdue _ => { l with od := true }
  | _ => l

/-- The slice's clock. -/
def State.slack (s : State) (p : Nat) : Nat := s.time p / 64 % 65536

/-- Rank and key of a way (12 R272): the least rank first, then the greatest key, then the lowest way. -/
def victimRank (now : Nat) (above : Nat → Bool) (l : LineTag) : Nat × Nat :=
  match l.classify now with
  | .noReuse => (2, 0)
  | .overdue n => (3, n)
  | .future n => (if above l.tenant then 4 else 5, n)

/-- The better of two victims; of equals the one met first, in the order of the ways. -/
def betterVictim (a b : Nat × Nat × Nat) : Nat × Nat × Nat :=
  if b.2.1 < a.2.1 ∨ (b.2.1 = a.2.1 ∧ a.2.2 < b.2.2) then b else a

/-- The victim of a set (12 R272): its way and rank, or none while no line is eligible. `owned` are the lines that engines own. -/
def victimOf (lines : Map (Nat × Nat) LineTag) (set ways now : Nat) (above owned : Nat → Bool) : Option (Nat × Nat) :=
  let cands := (List.range ways).filterMap (fun w => match lines.find (set, w) with
    | none => some (w, 1, 0)
    | some l => if owned l.line || l.filling then none else
      let r := victimRank now above l
      some (w, r.1, r.2))
  match cands with
  | [] => none
  | c :: cs =>
    let v := cs.foldl betterVictim c
    some (v.1, v.2.1)

/-- A tenant is above quota in a set (12 R273). -/
def Slice.above (x : Slice) (set t : Nat) : Bool :=
  decide (x.quota.get t 16 < (x.lines.filter (fun e => e.1.1 == set && e.2.tenant == t)).length)

/-- Where a line stands in a table of tags. -/
def lineAt (lines : Map (Nat × Nat) LineTag) (line : Nat) : Option ((Nat × Nat) × LineTag) :=
  lines.search (fun _ l => l.line == line)

/-- A victim leaves a slice and a line enters, its fill outstanding; the eviction is counted (12 R272, R274). -/
def Slice.fill (x : Slice) (owned : Nat → Bool) (line tenant now : Nat) (stamp : Option Nat) (wr : Bool) : Option Slice :=
  let set := line % 4096
  if 65536 ≤ x.n then none
  else match victimOf x.lines set 16 now (x.above set) owned with
    | none => none
    | some (w, rank) =>
      let old := x.lines.find (set, w)
      let x1 : Slice := match old with
        | none => x
        | some l => { x with
            ev := x.ev.set l.tenant (x.ev.get l.tenant 0 + 1)
            ov := if rank = 3 then x.ov.set l.tenant (x.ov.get l.tenant 0 + 1) else x.ov
            n := x.n + 1 }
      some { x1 with lines := x1.lines.set (set, w) ⟨line, tenant, stamp, false, wr, true, wr⟩
                     codes := x1.codes.encodeSpan (64 * line) 64 }

/-- A stash fills a line, shared for a load or prefetch and exclusive for a store (09 R190). -/
def Stash.fillLine (st : Stash) (owned : Nat → Bool) (line tenant now : Nat) (stamp : Option Nat) (wr : Bool) : Option Stash :=
  let set := line % (2 ^ st.cap / 512)
  match victimOf st.lines set 8 now (fun _ => false) owned with
  | none => none
  | some (w, _) => some { st with lines := st.lines.set (set, w) ⟨line, tenant, stamp, false, wr, true, wr⟩ }

/-- A line that is hit takes its new stamp (12 R271). -/
def stampLine (lines : Map (Nat × Nat) LineTag) (line tenant : Nat) (stamp : Option Nat) (wr : Bool) : Map (Nat × Nat) LineTag :=
  lines.map (fun e => if e.2.line = line then
    (e.1, { e.2 with stamp := stamp, od := false, tenant := tenant, dirty := e.2.dirty || wr, excl := e.2.excl || wr }) else e)

/-- A line that a slice is to serve takes its new stamp; a write encodes it, in one operation of the array (12 R271; 21 R453, log 31). -/
def Slice.stamp (x : Slice) (line tenant : Nat) (stamp : Option Nat) (wr : Bool) : Slice :=
  { x with
    lines := stampLine x.lines line tenant stamp wr
    codes := if wr && (lineAt x.lines line).isSome then x.codes.encodeSpan (64 * line) 64 else x.codes }

/-- The stash of a core whose range holds an address. -/
def TaskCore.stashFor (t : TaskCore) (ea : Nat) : Option (Fin 4 × Stash) :=
  (List.finRange 4).findSome? (fun n => match t.stash[n] with
    | some st => if st.gbase.toNat ≤ ea ∧ ea < st.gbase.toNat + 2 ^ st.span then some (n, st) else none
    | none => none)

/-- A line of this package, of host memory, or of a replicable page may be cached here (12 R264). -/
def cacheable (pkg pa : Nat) (rro : Bool) : Bool := paPkg pa == pkg || rro || paKind pa == 7

/-- The part of an access's task: its stashes serve the access wherever the task stands (09 R190, R191). -/
def State.partFor (s : State) (a : Access) : TaskCore := s.partOf a.task a.ctx.core
@[inherit_doc State.partFor] def State.setPartFor (s : State) (a : Access) (f : TaskCore → TaskCore) : State := s.setPart a.task a.ctx.core f

/-- A write-back and a drop of the copies in an access's stashes and its cluster's slice (12 R291). -/
def State.cleanLine (s : State) (a : Access) (line : Nat) (drop : Bool) : State :=
  let f (m : Map (Nat × Nat) LineTag) := if drop then m.filter (fun e => e.2.line != line)
    else m.map (fun e => if e.2.line = line then (e.1, { e.2 with dirty := false }) else e)
  (s.setSlice (s.clu a.ctx.core) (fun x => { x with lines := f x.lines })).setPartFor a (fun t => t.mapTags f)

/-- An engine owns the line. -/
def State.engineOwns (s : State) (line : Nat) : Bool := s.owned.has line

/-- A slice is met for one line: hit, or fill; none where it must wait for a way (12 R264, R271, R272). -/
def State.touchSlice (s : State) (l : CluId) (pa nud cad tenant : Nat) (rro wr : Bool) : Option State :=
  if !cacheable l.pkg pa rro then some s
  else
    let x := s.slice l
    let now := s.slack l.pkg
    let stamp := dueStamp nud cad (x.ts.get tenant 0) now
    if (lineAt x.lines (lineOf pa)).isSome then
      some (s.setSlice l (fun x => x.stamp (lineOf pa) tenant stamp wr))
    else (x.fill s.engineOwns (lineOf pa) tenant now stamp wr).map (fun y => s.setSlice l (fun _ => y))

/-- A stash of a part is met for one line: a hit ends there; a miss fills it, if the line may be cached on this package, and goes on to the
slice (09 R190, 12 R264). -/
def State.touchStash (s : State) (a : Access) (n : Fin 4) (st : Stash) (pa : Nat) (rro : Bool) (slice : Option State) : Option State :=
  let line := lineOf pa
  let now := s.slack a.ctx.core.pkg
  let stamp := dueStamp a.nud a.cad 0 now
  let put (x : Stash) (s : State) : State := s.setPartFor a (fun c => { c with stash := c.stash.set n (some x) })
  if (lineAt st.lines line).isSome then
    some (put { st with lines := stampLine st.lines line (tenantOf a.dom) stamp a.op.isWrite } s)
  else if !cacheable a.ctx.core.pkg pa rro then slice
  else (st.fillLine s.engineOwns line (tenantOf a.dom) now stamp a.op.isWrite).bind (fun x => slice.map (put x))

/-- An access's stashes and its cluster's slice give up a line whose home slice is to work on it; the home slice keeps its own. -/
def State.dropNear (s : State) (a : Access) (pa : Nat) : State :=
  let l := s.clu a.ctx.core
  let f := dropTag (lineOf pa)
  let s1 := s.setPartFor a (fun t => t.mapTags f)
  if paKind pa = 0 ∧ paClu pa = l then s1 else s1.setSlice l (fun x => { x with lines := f x.lines })

/-- An access meets the stash or the slice for one line: hit, or fill; none where it must wait for a way. An atomic or a future has its
core's copies written back and dropped, and is stamped in its home slice (09 R190, 12 R263). -/
def State.touchLine (s : State) (a : Access) (ea pa : Nat) (rro : Bool) : Option State :=
  if a.op.isAtomic || a.op.isFuture then some (s.dropNear a pa)
  else if a.op == .wb || a.op == .inv then some s
  else
    let slice := s.touchSlice (s.clu a.ctx.core) pa a.nud a.cad (tenantOf a.dom) rro a.op.isWrite
    match (match a.op with
      | .ld _ | .vld _ _ | .vgg _ _ | .st | .pf => (s.partFor a).stashFor ea
      | _ => none) with
    | some (n, st) => s.touchStash a n st pa rro slice
    | none => slice

/-- A line's fill is no longer outstanding. -/
def endFill (line : Nat) (m : Map (Nat × Nat) LineTag) : Map (Nat × Nat) LineTag :=
  m.map (fun e => if e.2.line = line then (e.1, { e.2 with filling := false }) else e)

/-- The fill of a line has come back. -/
def State.filled (s : State) (a : Access) (line : Nat) : State :=
  let s1 := if (lineAt (s.slice (s.clu a.ctx.core)).lines line).isSome then
      s.setSlice (s.clu a.ctx.core) (fun x => { x with lines := endFill line x.lines }) else s
  if (s.partFor a).stashed line then s1.setPartFor a (fun t => t.mapTags (endFill line)) else s1

/-- The home slice of an HBM line stamps the copy that it holds, for an access that it serves (12 R263, R271). -/
def State.stampHome (s : State) (pa nud cad tenant : Nat) (wr : Bool) : State :=
  if paKind pa ≠ 0 then s
  else
    let l := paClu pa
    s.setSlice l (fun x => x.stamp (lineOf pa) tenant (dueStamp nud cad (x.ts.get tenant 0) (s.slack l.pkg)) wr)

/-- A destination line of an engine hits or fills its slice, and is stamped; one that is not cached on this package is served at its home
slice. None where it must wait for a way (12 R264, R271, R272; 14 R319). -/
def State.engineLine (s : State) (l : CluId) (pa nud cad tenant : Nat) : Option State :=
  if !cacheable l.pkg pa false then some (s.stampHome pa nud cad tenant true)
  else (s.touchSlice l pa nud cad tenant false true).map (fun s1 =>
    s1.setSlice l (fun x => { x with lines := endFill (lineOf pa) x.lines }))

/-- The fills that an access has asked for have come back, or are given up. -/
def State.fillsOver (s : State) (a : Access) : State :=
  a.parts.foldl (fun s p => match p.pa with
    | some pa => s.filled a (lineOf pa)
    | none => s) s

/-! ## Steps of an access -/

/-- An access in flight. -/
def State.acc (s : State) (id : Nat) : Option Access := s.accs.find id
/-- Change an access. -/
def State.setAcc (s : State) (id : Nat) (f : Access → Access) : State := { s with accs := s.accs.adjust id f }
/-- Part 0's physical address. -/
def Access.pa0 (a : Access) : Option (Part × Nat) :=
  match a.parts with
  | p :: _ => p.pa.map (fun pa => (p, pa))
  | [] => none

/-- The tenant's MSI-X vector is raised (15 R359, 01 R17). -/
def State.raiseMsix (s : State) (pkg vector : Nat) : State := s.setPkg pkg (fun p => { p with msix := p.msix ++ [vector] })

/-- An access has ended: its fills are over; a held request leaves its deferred table; after a completion word the vector is raised. -/
def State.endAcc (s : State) (id : Nat) : State :=
  let s' : State := { s with accs := s.accs.del id }
  let s0 := match s.acc id with
    | some a => s'.fillsOver a
    | none => s'
  let s1 := match (s.acc id).map (fun a => (a.op, a.ctx.core.pkg)) with
    | some (.complete t, p) => s0.raiseMsix p t
    | _ => s0
  match (s.acc id).bind (fun a => if a.op = .fget then a.pa0 else none) with
  | some (_, pa) => if (s.slice (paClu pa)).deferred.contains id then
      s1.setSlice (paClu pa) (fun x => { x with deferred := x.deferred.filter (· != id) }) else s1
  | none => s1

/-- The writer that an access is; a completion word is written under tenant 0's key (20 R432). -/
def Access.writer (a : Access) : Writer :=
  match a.op with
  | .complete _ => ⟨0, a.dom, 3, a.ctx.core, 0⟩
  | _ => ⟨tenantOf a.dom, a.dom, 0, a.ctx.core, a.ctx.ctx⟩

/-- A part fails: the rest of the access goes on (12 R277). -/
def Access.failPart (a : Access) (j cause : Nat) : Access :=
  match a.parts[j]? with
  | none => a
  | some p => { a with
      parts := a.parts.set j { p with done := true }
      bad := if a.bad.isSome then a.bad else some (cause, BitVec.ofNat 64 p.ea) }

/-- A part is finished with the data read. -/
def Access.donePart (a : Access) (j : Nat) (data : List Byte) : Access :=
  match a.parts[j]? with
  | none => a
  | some p => { a with parts := a.parts.set j { p with done := true, data := data } }

/-- A store or a future's store ends when all its parts are performed; others stay until they land. -/
def State.settle (s : State) (id : Nat) : State :=
  match s.acc id with
  | some a => if a.finished && a.bad.isNone && !a.op.isLoad then s.endAcc id else s
  | none => s

/-- The cause of a part's translation that its operation refuses (12 R264, R275). -/
def refusedPage (op : AccOp) (pa : Nat) (t : TlbEntry) : Bool :=
  (t.rro && (op.isWrite || op.isFuture)) || (op.isFuture && paKind pa != 0)

/-- Walk kind of an access (20 R427). -/
def AccOp.walkKind (op : AccOp) : Nat :=
  if op.isAtomic || op.isFuture then 2 else if op.isWrite then 1 else 0

/-- One part meets the slice: translated, refused, or left to a walk. -/
def State.slicePart (s : State) (id j : Nat) : State :=
  match s.acc id with
  | none => s
  | some a => match a.parts[j]? with
    | none => s
    | some p =>
      let l := s.clu a.ctx.core
      if p.done || p.pa.isSome || natBits p.ea 60 4 > 7 then s
      else if noSpace p.ea then s.setAcc id (fun a => a.failPart j cTranslation)
      else match (s.slice l).tlbFind p.ea with
        | some t =>
          if !mayMap a.dom (t.at p.ea) then s.setAcc id (fun a => a.failPart j cTranslation)
          else if refusedPage a.op (t.at p.ea) t then s.setAcc id (fun a => a.failPart j cProtection)
          else match s.touchLine a p.ea (t.at p.ea) t.rro with
            | none => s
            | some s1 => s1.setAcc id (fun a => { a with
                parts := a.parts.set j { p with pa := some (t.at p.ea), conf := t.conf, cmp := t.cmp } })
        | none =>
          let s1 := s.startWalk l (p.ea / 65536) a.op.walkKind a.dom
          if s.unservedWalk l p.ea a.dom then s.setAcc id (fun a => a.failPart j cTranslation)
          else if (s1.slice l).walks.any (fun w => w.page == p.ea / 65536) then s1.setAcc id (fun a => { a with stage := .walking })
          else s1

/-- The next number of a core's stream to a package (18 R386). -/
def State.takeNumber (s : State) (k : CoreId) (q : Nat) : Nat × State :=
  let n := (s.core k).streamSeq.get q 0
  (n, s.setCore k (fun c => { c with streamSeq := c.streamSeq.set q ((n + 1) % 65536) }))

/-- The package to which a part of a write goes in a packet of its core's stream. -/
def Access.streamTo (a : Access) (p : Part) : Option Nat :=
  if !a.op.isWrite || p.done then none else p.package.bind (fun q => if q = a.ctx.core.pkg then none else some q)

/-- The number that part `j` shares with an earlier part of its line (18 R386). -/
def Access.sharedNumber (a : Access) (j q : Nat) : Option (Nat × Nat) :=
  if a.granular then none
  else match a.parts[j]? with
    | none => none
    | some p => (a.parts.take j).findSome? (fun x => if x.ea / 64 = p.ea / 64 then x.seqNo.filter (fun n => n.1 == q) else none)

/-- Each write packet takes a number, in the order of the parts (18 R386). -/
def State.number (s : State) (id : Nat) : State :=
  match s.acc id with
  | none => s
  | some a => (List.range a.parts.length).foldl (fun s j => match a.parts[j]?.bind a.streamTo with
      | none => s
      | some q =>
        let r := match (s.acc id).bind (fun b => b.sharedNumber j q) with
          | some n => (n.2, s)
          | none => s.takeNumber a.ctx.core q
        r.2.setAcc id (fun a => { a with parts := a.parts.modify j (fun p => { p with seqNo := some (q, r.1) }) })) s

/-- An earlier write of a core to a package is still without its number (13 R308). -/
def State.unnumbered (s : State) (id : Nat) (k : CoreId) (q : Nat) : Bool :=
  s.accs.any (fun e => decide (e.1 < id) && e.2.op.isWrite && e.2.ctx.core == k && e.2.failure.isNone
    && e.2.parts.any (fun p => !p.done && p.seqNo.isNone && (p.package.orElse (fun _ => s.packageOf k p.ea)) == some q))

/-- A write may take its numbers: the earlier writes of its core to the same packages have theirs, its context's are translated, and no
stream of its core would hold more than 4,096 packets (13 R308, 18 R386). -/
def State.mayNumber (s : State) (id : Nat) (a : Access) : Bool :=
  let qs := a.packets Part.package
  qs.isEmpty || (!s.accs.any (fun e => decide (e.1 < id) && e.2.op.isWrite && sameCtx e.2.task a.task e.2.ctx a.ctx && !e.2.translated)
    && qs.all (fun q => !s.unnumbered id a.ctx.core q) && !s.overStream a.ctx.core qs)

/-- The slice takes the accesses of its cluster to one line in the order of their issue: an earlier one has not come to it yet (13 R294,
R300; log 8, DEDUCED). -/
def State.outOfTurn (s : State) (id : Nat) (a : Access) : Bool :=
  s.accs.any (fun e => decide (e.1 < id) && e.2.stage == .issued && e.2.failure.isNone && s.clu e.2.ctx.core == s.clu a.ctx.core
    && e.2.parts.any (fun q => !q.done && a.parts.any (fun p => !p.done && (match s.partPa a p, s.partPa e.2 q with
      | some x, some y => lineOf x == lineOf y
      | _, _ => false))))

/-- The lines of host memory that an access has still to reach: its requests of CXL.cache (12 R263, 22 R467). -/
def Access.hostLines (a : Access) : List Nat :=
  (a.parts.filterMap (fun p => if p.done then none else p.pa.bind (fun pa => if paKind pa = 7 then some (lineOf pa) else none))).eraseDups

/-- The requests outstanding at the CXL.cache agent of a package: those of accesses, and the host's lines that engines own. -/
def State.hostBusy (s : State) (pkg : Nat) : Nat :=
  ((s.accs.flatMap (fun e => if e.2.stage == .placed then e.2.hostLines else []))
    ++ (s.owned.map (·.1)).filter (fun l => paKind (64 * l) == 7)).countP (fun l => paPkg (64 * l) == pkg)

/-- The agent has room for requests to some lines of host memory: it holds at most 512 (22 R467). -/
def State.hostRoom (s : State) (lines : List Nat) : Bool :=
  lines.all (fun l => decide (s.hostBusy (paPkg (64 * l)) + lines.length ≤ 512))

/-- The routers of the two ends of a part's request, where both are sites of its core's package: a core and the core whose scratchpad it names,
or its cluster's slice and the home slice of an HBM line (12 R263, 18 R382). -/
def State.ends (s : State) (a : Access) (p : Part) : Option ((Nat × Nat) × (Nat × Nat)) :=
  match a.place p with
  | some (.bank k _) => if k.pkg = a.ctx.core.pkg then some (s.routerAt a.ctx.core, s.routerAt k) else none
  | some .shared => p.pa.bind (fun pa =>
      if paKind pa = 0 ∧ paPkg pa = a.ctx.core.pkg then some (cluRouter (s.clu a.ctx.core), cluRouter (paClu pa)) else none)
  | _ => none

/-- A part travels to its home: its slice holds no whole copy of the line, or it is worked on at the home (12 R264). -/
def State.travels (s : State) (a : Access) (p : Part) : Bool :=
  a.op.isAtomic || a.op.isFuture || (match p.pa with
    | some pa => ((lineAt (s.slice (s.clu a.ctx.core)).lines (lineOf pa)).map (·.2.filling)).getD true
    | none => true)

/-- The requests of an access to other sites of its package set out, one for each line (18 R382). -/
def State.boardAcc (s : State) (id : Nat) : State :=
  match s.acc id with
  | none => s
  | some a =>
    ((a.parts.filter (fun p => !p.done && s.travels a p)).filterMap (fun p => (s.ends a p).map (fun e => (e, p.ea / 64)))).eraseDups.foldl
      (fun s x => s.board a.ctx.core.pkg x.1.1 x.1.2 (.request id x.2)) s

/-- The reply to a part that was read sets out. -/
def State.replyTo (s : State) (id : Nat) (a : Access) (p : Part) : State :=
  match s.ends a p with
  | some e => if s.travels a p then s.board a.ctx.core.pkg e.2 e.1 (.reply id (p.ea / 64)) else s
  | none => s

/-- After its slice: placed, or dropped where a prefetch or a write-back fails. -/
def State.placeAcc (s : State) (id : Nat) : State :=
  match s.acc id with
  | none => s
  | some a =>
    if (a.op = .pf ∨ a.op = .wb ∨ a.op = .inv) ∧ a.bad.isSome then s.endAcc id
    else if a.translated && s.mayNumber id a && !s.outOfTurn id a && s.hostRoom a.hostLines then
      ((s.setAcc id (fun a => { a with stage := .placed, since := s.now })).number id).boardAcc id
    else s

/-- SLICE_ACCESS: the access reaches its slice or stash; its lines are translated and stamped, or walks begin (12
R264, R270, R271; 20 R425). -/
def execSliceAccess (id : Nat) (s : State) : Out :=
  match s.acc id with
  | none => happen false (fun s => s) s
  | some a => happen (a.stage == .issued && !a.finished) (fun s =>
      ((List.range a.parts.length).foldl (fun s j => s.slicePart id j) s).placeAcc id) s

/-- VICTIM_CHOICE: a miss chooses its victim by the rank order, and waits while no line is eligible (12 R272). -/
def execVictimChoice (l : CluId) (line : Nat) (id : Nat) (s : State) : Out :=
  match s.acc id with
  | none => happen false (fun s => s) s
  | some a =>
    let x := s.slice l
    let r := x.fill s.engineOwns line (tenantOf a.dom) (s.slack l.pkg) (dueStamp a.nud a.cad (x.ts.get (tenantOf a.dom) 0) (s.slack l.pkg))
      a.op.isWrite
    happen (s.clu a.ctx.core == l && (lineAt x.lines line).isNone && r.isSome
        && cacheable l.pkg (line * 64) (a.parts.any (fun p => p.pa.any (fun pa => lineOf pa == line) && (s.pageFor l p.ea).any (·.rro)))
        && a.parts.any (fun p => !p.done && p.pa.any (fun pa => lineOf pa == line)))
      (fun s => s.setSlice l (fun x => r.getD x)) s

/-- The new trust shifts (12 R274). -/
def Slice.adjustTrust (x : Slice) : Slice :=
  { x with
    ts := x.ev.foldl (fun ts e =>
      let o := x.ov.get e.1 0
      let old := Map.get ts e.1 0
      if e.2 = 0 then ts
      else if e.2 < 4 * o then Map.set ts e.1 (min (old + 1) 7)
      else if 16 * o < e.2 then Map.set ts e.1 (old - 1)
      else ts) x.ts
    n := 0, ev := [], ov := [] }

/-- TRUST_SHIFT_UPDATE (12 R274). -/
def execTrustShiftUpdate (l : CluId) (s : State) : Out :=
  happen (decide (65536 ≤ (s.slice l).n)) (fun s => s.setSlice l Slice.adjustTrust) s

/-! ### Order at the home (13 R293-R297, 18 R387) -/

/-- The scratchpad that a part names, its task's own wherever that stands or a core's, and the offset in it (12 R261, R262). -/
def Access.bankOf (a : Access) (p : Part) : Option ((Option Nat × Option CoreId) × Nat) :=
  match a.place p with
  | some (.bank k off) => some (if a.own k && a.task.isSome then (a.task, none) else (none, some k), off)
  | _ => none

/-- The bytes of part `p` of `a` and part `q` of `b` meet, taken in blocks of `n` bytes: by scratchpad and offset, by address, or by
physical address, under which one location has one name (13 R300). -/
def State.meets (s : State) (a : Access) (p : Part) (b : Access) (q : Part) (n : Nat) : Bool :=
  let near (x y : Nat) : Bool := decide (x / n ≤ (y + q.len - 1) / n) && decide (y / n ≤ (x + p.len - 1) / n)
  match a.bankOf p, b.bankOf q with
  | some x, some y => x.1 == y.1 && near x.2 y.2
  | none, none => near p.ea q.ea || (match s.partPa a p, s.partPa b q with
    | some x, some y => near x y
    | _, _ => false)
  | _, _ => false

/-- Two accesses of one context. -/
def Access.sameOwner (a b : Access) : Bool := sameCtx a.task b.task a.ctx b.ctx

/-- A write counts as done at a reach (13 R293): at `.clu` once its slice has accepted it, wider once it is performed, whether or not its
destination has landed. One that has failed does once it is recorded (13 R310); an ended or abandoned access does at every reach (13
R311; log 8, DESIGN CHOICE). -/
def Access.doneAt (a : Access) (reach : Nat) : Bool :=
  reach == 0 || a.abandoned || (a.stage == .placed && a.bad.isNone
    && a.parts.all (fun p => p.done || (reach == 1 && decide (natBits p.ea 60 4 ≤ 7))))

/-- The older access `b` keeps part `p` of `a` waiting, as it has a part that is not performed. A context's plain store waits for its own
older accesses to the same bytes (13 R300, R301); any other access waits for those of its context to the line, and for the writes to
the line that stand in its way (13 R294). -/
def State.holdsUp (s : State) (id : Nat) (a : Access) (p : Part) (e : Nat × Access) : Bool :=
  let b := e.2
  decide (e.1 < id) && b.op != .pf && (b.stage == .issued || b.stage == .walking || b.stage == .placed)
    && (a.sameOwner b || (!a.op.isPlainStore && s.inPath (s.clu a.ctx.core) (some a.ctx.core) a.task e))
    && b.parts.any (fun q => !q.done && s.meets a p b q (if a.op.isPlainStore then 1 else 64))

/-- Part `j` of an access waits for a lower part of the same access to the same bytes: of equal addresses in a `vsg` the highest lane's
bytes remain (12 R282). -/
def State.inTurn (s : State) (a : Access) (j : Nat) (p : Part) : Bool :=
  !a.op.isPlainStore || !(a.parts.take j).any (fun q => !q.done && s.meets a p a q 1)

/-- A packet goes before another in a stream, in a window of 4,096 packets (18 R387). -/
def beforeIn (m n : Nat × Nat) : Bool := m.1 == n.1 && m.2 != n.2 && decide ((n.2 + 65536 - m.2) % 65536 < 4096)

/-- A release waits for the earlier writes of its context at its reach (13 R295), and across packages for the packets before it in its
stream (18 R387). -/
def State.releaseReady (s : State) (id : Nat) (a : Access) (p : Part) : Bool :=
  !a.ord || !a.op.isWrite || s.accs.all (fun e =>
    !(decide (e.1 < id) && e.2.op.isWrite && e.2.sameOwner a && !e.2.doneAt a.reach)
      && !(decide (e.1 ≠ id) && e.2.ctx.core == a.ctx.core && e.2.parts.any (fun q => !q.done && (match q.seqNo, p.seqNo with
        | some m, some n => beforeIn m n
        | _, _ => false))))

/-- The active records of a line whose reach an acquire crosses. -/
def State.crossed (s : State) (a : Access) (line : Nat) : List RelRecord :=
  if a.ord && a.op.isLoad then
    (s.rels.get line []).filter (fun r => s.recordActive r && !s.within r.reach r.ctx.core a.ctx.core)
  else []

/-- A line is open to an access: nothing holds it at its home, or the engine that owns it is a copy that the access, a write, precedes in
its context's program order: the copy's own reads and writes of the line wait for that write (12 R265, 14 R319; log 8, DEDUCED). -/
def State.openTo (s : State) (id : Nat) (a : Access) (line : Nat) : Bool :=
  s.lineOpen line || (a.op.isWrite && !s.locked line && (s.owned.find line).any (fun x => decide (id < x) && (match s.copies.find x with
    | some c => sameCtx c.task a.task ⟨c.core, c.ctx⟩ a.ctx
    | none => false)))

/-- Part `j` of an access may be served at the home of its line. -/
def State.partReady (s : State) (id j : Nat) (a : Access) : Bool :=
  match a.parts[j]? with
  | none => false
  | some p => match p.pa with
    | none => false
    | some pa => a.stage == .placed && !p.done && s.openTo id a (lineOf pa) && s.alive a.ctx.core.pkg (paPkg pa)
        && !s.riding a.ctx.core.pkg (.request id (p.ea / 64))
        && !s.accs.any (s.holdsUp id a p) && s.inTurn a j p && s.releaseReady id a p && (s.crossed a (lineOf pa)).isEmpty

/-- The record that a release leaves. -/
def Access.record (a : Access) : RelRecord := ⟨a.ctx, a.task, a.reach, a.seq⟩

/-- A release at a reach narrower than `.quad` leaves its record, of which a line holds four; a release of several parts leaves one (13
R296). -/
def State.leaveRecord (s : State) (a : Access) (line : Nat) : State :=
  if a.ord && a.op.isWrite && decide (a.reach < 2) then
    let rs := ((s.rels.get line []).filter s.recordActive).filter (· != a.record)
    { s with rels := s.rels.set line (rs ++ [a.record]) }
  else s

/-- The line has no room for the record of a release: the oldest is to be published first (13 R296). -/
def State.recordsFull (s : State) (a : Access) (line : Nat) : Bool :=
  a.ord && a.op.isWrite && decide (a.reach < 2)
    && decide (4 ≤ (((s.rels.get line []).filter s.recordActive).filter (· != a.record)).length)

/-- A poisoned line (21 R454). -/
def State.rottenLine (s : State) (pa n : Nat) : Bool := !s.poison.isEmpty && (linesOf pa n).any s.poison.contains

/-- Poison is consumed by part `j` of an access (21 R455, R457). -/
def State.consumePart (s : State) (id j : Nat) : State :=
  match s.acc id with
  | none => s
  | some a => match a.parts[j]? with
    | none => s
    | some p =>
      let r := s.consume a.ctx.core a.dom a.scope (p.pa.getD (p.ea % 2 ^ 19))
      if r.1 then r.2.setAcc id (fun a => a.failPart j cUncorrectable)
      else r.2.setAcc id (fun a => a.donePart j (s.readMem (tenantOf a.dom) (p.pa.getD 0) p.len))

/-- Other copies of a line that is read are shared from then on (12 R265). -/
def State.sharedWith (s : State) (a : Access) (line : Nat) : State :=
  s.otherTags (some (s.clu a.ctx.core)) (some a.ctx.core) (shareTag line)

/-- The home slice of an HBM line keeps its copy as it works on it, and stamps it (12 R263, R271). -/
def State.atHome (s : State) (a : Access) (pa : Nat) (f : State → State) : State :=
  if paKind pa ≠ 0 then f s
  else
    let s1 := s.stampHome pa a.nud a.cad (tenantOf a.dom) a.op.isWrite
    (f s1).setSlice (paClu pa) (fun x => { x with lines := (s1.slice (paClu pa)).lines })

/-- A line that is not cached on the package of an access is served at its home slice (12 R264). -/
def State.servedHome (s : State) (a : Access) (pa : Nat) (f : State → State) : State :=
  if paPkg pa ≠ a.ctx.core.pkg && (lineAt (s.slice (s.clu a.ctx.core)).lines (lineOf pa)).isNone then s.atHome a pa f else f s

/-- The read of part `j` at its home. -/
def State.readPart (s : State) (id j : Nat) : State :=
  match s.acc id with
  | none => s
  | some a => match a.parts[j]? with
    | none => s
    | some p => match p.pa with
      | none => s
      | some pa =>
        if s.rottenLine pa p.len then s.consumePart id j
        else ((s.replyTo id a p).servedHome a pa (fun s => (s.filled a (lineOf pa)).sharedWith a (lineOf pa))).setAcc id (fun a => a.donePart j (s.readMem (tenantOf a.dom) pa p.len))

/-- HOME_ACCESS: a part of a load reads at its home; a prefetch has its line; a write-back is acknowledged (12 R265, R277, R290, R291). -/
def execHomeAccess (id part : Nat) (s : State) : Out :=
  match s.acc id with
  | none => happen false (fun s => s) s
  | some a =>
    let back := a.op == .wb || a.op == .inv
    happen (s.partReady id part a && (a.op.isPlainLoad || a.op == .pf || back)) (fun s =>
      if a.op = .pf then match (a.parts[part]?).bind (·.pa) with
        | some pa => (s.sharedWith a (lineOf pa)).endAcc id
        | none => s
      else if back then match (a.parts[part]?).bind (·.pa) with
        | some pa => (s.cleanLine a (lineOf pa) (a.op == .inv)).endAcc id
        | none => s
      else s.readPart id part) s

/-- The parts of one store have covered a block of `n` bytes whole, as part `j`, which lies in it, is performed (21 R454). -/
def Access.covers (a : Access) (j n : Nat) : Bool :=
  match a.parts[j]? with
  | none => false
  | some p => a.op.isPlainStore && !a.granular && a.bad.isNone && (List.range (n / 16)).all (fun i =>
      a.parts.any (fun q => q.done && q.len == 16 && q.ea == p.ea / n * n + 16 * i))

/-- A line that a store has covered whole is clean (21 R454). -/
def State.cleanse (s : State) (id j line : Nat) : State :=
  if s.poison.isEmpty || !(s.acc id).any (fun a => a.covers j 64) then s else { s with poison := s.poison.filter (· != line) }

/-- A part of a store is performed. -/
def State.storePart (s : State) (id j : Nat) : State :=
  match s.acc id with
  | none => s
  | some a => match a.parts[j]? with
    | none => s
    | some p => match p.pa with
      | none => s
      | some pa =>
        (((s.servedHome a pa (fun s => ((s.perform a.writer pa p.bytes).packAll p.cmp pa p.len).filled a (lineOf pa))).leaveRecord a
          (lineOf pa)).setAcc id (fun a => a.donePart j [])).cleanse id j (lineOf pa)

/-- A part of a write may be performed. -/
def State.writeReady (s : State) (id j : Nat) (a : Access) : Bool :=
  s.partReady id j a
    && (match (a.parts[j]?).bind (·.pa) with
      | some pa => !s.recordsFull a (lineOf pa)
      | none => false)
@[inherit_doc State.writeReady]
def State.storeReady (s : State) (id j : Nat) (a : Access) : Bool := (match a.op with
    | .st | .complete _ => true
    | _ => false) && s.writeReady id j a

/-- STORE_PERFORMED: a part of a store is serialised at its home (13 R293). -/
def execStorePerformed (id part : Nat) (s : State) : Out :=
  match s.acc id with
  | none => happen false (fun s => s) s
  | some a => happen (s.storeReady id part a) (fun s => (s.storePart id part).settle id) s

/-- Perform what is ready of a store. -/
def State.storeAll (s : State) (id : Nat) : State :=
  match s.acc id with
  | none => s
  | some a => ((List.range a.parts.length).foldl (fun s j => match s.acc id with
      | some b => if s.storeReady id j b then s.storePart id j else s
      | none => s) s).settle id

/-- FORCED_PUBLISH: the home of an acquire, or of a fifth release, has the stores that a record covers performed (13
R296). -/
def execForcedPublish (id : Nat) (s : State) : Out :=
  match s.acc id with
  | none => happen false (fun s => s) s
  | some a =>
    let recs := a.parts.flatMap (fun p => match p.pa with
      | some pa => if p.done && a.stage != .deferred then []
        else s.crossed a (lineOf pa) ++ (if s.recordsFull a (lineOf pa) then
          ((s.rels.get (lineOf pa) []).filter s.recordActive).take 1 else [])
      | none => [])
    happen ((a.stage == .placed || (a.stage == .deferred && a.finished)) && !recs.isEmpty) (fun s =>
      (s.accs.filter (fun e => recs.any (fun r => sameCtx e.2.task r.task e.2.ctx r.ctx && decide (e.2.seq ≤ r.seq)))).foldl
        (fun s e => s.storeAll e.1) s) s

/-! ### Atomics and futures (12 R283-R289) -/

/-- The new bytes and whether they are written, from the old value. -/
def AccOp.change (op : AccOp) (old : Nat) : Nat × Bool :=
  match op with
  | .amo o n v => (atomicOp o n old (v.toNat % 2 ^ (8 * n)), true)
  | .cas n c v => (v.toNat % 2 ^ (8 * n), old == c.toNat % 2 ^ (8 * n))
  | .famo t v => (floatAdd t old (v.toNat % 2 ^ t.width), true)
  | _ => (old, false)

/-- A float add meets a signalling NaN (12 R285). -/
def AccOp.snan (op : AccOp) (old : Nat) : Bool :=
  match op with
  | .famo t v => isSnan t old || isSnan t (v.toNat % 2 ^ t.width)
  | _ => false

/-- A write of an atomic or a future is performed: no copy stays but the home slice's (12 R263, R265). -/
def State.putAtHome (s : State) (a : Access) (p : Part) (pa : Nat) (v : Nat) : State :=
  s.atHome a pa (fun s => ((s.perform a.writer pa ((leBytes p.len v).map some)).packAll p.cmp pa p.len).onlyHome pa)

/-- The one indivisible step of an atomic at its home slice. -/
def State.atomicStep (s : State) (id : Nat) (a : Access) (p : Part) (pa : Nat) : State :=
  let bs := s.readMem (tenantOf a.dom) pa p.len
  let old := leNat bs
  let c := a.op.change old
  let s1 := if c.2 then s.putAtHome a p pa c.1 else s.atHome a pa (fun s => s)
  let s2 := if a.op.snan old then
      s1.setPkg (paPkg pa) (fun k => { k with snans := k.snans.set (tenantOf a.dom) (k.snans.get (tenantOf a.dom) 0 + 1) })
    else s1
  (s2.leaveRecord a (lineOf pa)).setAcc id (fun a => a.donePart 0 bs)

/-- ATOMIC_AT_HOME: an atomic is performed at its home slice; poison there is consumed (12 R286, 21 R455). -/
def execAtomicAtHome (id : Nat) (s : State) : Out :=
  match s.acc id with
  | none => happen false (fun s => s) s
  | some a => match a.pa0 with
    | none => happen false (fun s => s) s
    | some (p, pa) =>
      happen (a.op.isAtomic && s.writeReady id 0 a) (fun s =>
        if s.rottenLine pa p.len then
          let r := s.consume a.ctx.core a.dom a.scope pa
          if r.1 then r.2.setAcc id (fun a => a.failPart 0 cUncorrectable) else r.2.atomicStep id a p pa
        else s.atomicStep id a p pa) s

/-- A held request is answered; one that is an acquire is on its way out only once no record keeps it (13 R296). -/
def State.answerHeld (s : State) (home : CluId) (pa : Nat) (v : W64) : State :=
  let hit := (s.slice home).deferred.filter (fun i => match (s.acc i).bind Access.pa0 with
    | some (_, q) => q == pa
    | none => false)
  (hit.foldl (fun s i => s.setAcc i (fun a =>
      { a.donePart 0 (leBytes 8 v.toNat) with stage := if a.ord then .deferred else .placed })) s).setSlice home
    (fun x => { x with deferred := x.deferred.filter (fun i => !hit.contains i) })

/-- FSET_AT_HOME (12 R288). -/
def execFsetAtHome (id : Nat) (s : State) : Out :=
  match s.acc id with
  | none => happen false (fun s => s) s
  | some a => match a.op, a.pa0 with
    | .fset v, some (p, pa) =>
      happen (s.writeReady id 0 a) (fun s =>
        let s1 := s.putAtHome a p pa v.toNat
        let s2 : State := { s1 with full := s1.full ++ [pa / 8] }
        (((s2.answerHeld (paClu pa) pa v).leaveRecord a (lineOf pa)).setAcc id (fun a => a.donePart 0 [])).settle id) s
    | _, _ => happen false (fun s => s) s

/-- FGET_AT_HOME: it answers, holds or refuses (12 R289). The data of a refusal is empty. -/
def execFgetAtHome (id : Nat) (s : State) : Out :=
  match s.acc id with
  | none => happen false (fun s => s) s
  | some a => match a.op, a.pa0 with
    | .fget, some (_, pa) =>
      happen (s.partReady id 0 a) (fun s0 =>
        let s := s0.atHome a pa (fun s => s)
        if s.full.contains (pa / 8) then
          if s.rottenLine pa 8 then s.consumePart id 0
          else s.setAcc id (fun a => a.donePart 0 (s.readMem (tenantOf a.dom) pa 8))
        else if (s.slice (paClu pa)).deferred.length < 256 then
          (s.setSlice (paClu pa) (fun x => { x with deferred := x.deferred ++ [id] })).setAcc id
            (fun a => { a with stage := .deferred })
        else s.setAcc id (fun a => a.donePart 0 [])) s
    | _, _ => happen false (fun s => s) s

/-- WRITE_PACKET_ARRIVAL: the destination I/O die performs a write packet of a stream, or holds it (18 R387). -/
def execWritePacketArrival (id : Nat) (s : State) : Out :=
  match s.acc id with
  | none => happen false (fun s => s) s
  | some a => happen ((List.range a.parts.length).any (fun j => ((a.parts[j]?).bind (·.seqNo)).isSome && s.storeReady id j a))
      (fun s => s.storeAll id) s

/-! ### Scratchpads (12 R261, R262; 09 R179, R180) -/

/-- The window right of an operation. -/
def AccOp.windowBit (op : AccOp) : Nat := if op.isAtomic then 40 else if op.isWrite then 41 else 42

/-- The part of a scratchpad that an access reaches: the task's that issued it, where its core names its own, wherever that task
stands; else the bound task's. -/
def State.bankTc (s : State) (a : Access) (k : CoreId) : TaskCore := if a.own k then s.partOf a.task k else s.tc k
@[inherit_doc State.bankTc] def State.setBank (s : State) (a : Access) (k : CoreId) (f : TaskCore → TaskCore) : State :=
  if a.own k then s.setPart a.task k f else s.setTc k f

/-- The bytes that a remote access names to the windows: all of it from where its first part stands, or one granule (09 R179, 12
R277). -/
def Access.extent (a : Access) (off : Nat) (j : Nat) (p : Part) : Nat × Nat :=
  if a.granular then (off, p.len)
  else (off - ((a.parts.take j).map (·.len)).foldl Nat.add 0, (a.parts.map (·.len)).foldl Nat.add 0)

/-- A remote access is refused: a granule by itself, any other access whole (09 R179). -/
def State.nack (s : State) (id j : Nat) : State :=
  s.setAcc id (fun a => if a.granular then a.failPart j cWindow else { a with stage := .nacked })

/-- The windows' answer on part `j`: an access that they have accepted goes on under that answer (06 R121), until its target's task leaves
its core (09 R181). -/
def State.windowed (s : State) (a : Access) (k : CoreId) (off j : Nat) (p : Part) : Bool :=
  a.own k || (a.granted && !a.granular)
    || s.windowOk k a.dom (a.extent off j p).1 (a.extent off j p).2 a.op.windowBit

/-- Part `j` reaches its bank: refused by the windows, or performed; poison is consumed. -/
def State.bankPart (s0 : State) (id j : Nat) (k : CoreId) (off : Nat) : State :=
  match s0.acc id with
  | none => s0
  | some a => match a.parts[j]? with
    | none => s0
    | some p =>
      if !s0.windowed a k off j p then s0.nack id j
      else
        let s := s0.setAcc id (fun a => { a with granted := true })
        let rp := s.replayOf a.scope
        let t := s.bankTc a k
        let bs := t.spad.read off p.len
        let old := leNat bs
        let new : Option (List (Option Byte)) := match a.op with
          | .st => some p.bytes
          | op => if op.isAtomic then
              (if (op.change old).2 then some ((leBytes p.len (op.change old).1).map some) else none) else none
        let reads := a.op.isLoad
        let go (s : State) : State :=
          let s1 := match new with
            | some b => s.setBank a k (fun t => t.spadPut rp off b)
            | none => s
          let s2 := if a.op.snan old then s1.setBank a k TaskCore.countSnan else s1
          let s3 := (if reads then s2.replyTo id a p else s2).setAcc id (fun a => a.donePart j (if reads then bs else []))
          if (s3.acc id).any (fun a => a.covers j 32) then
            s3.setBank a k (fun t => { t with poisonRows := t.poisonRows.filter (· != off / 32) })
          else s3
        if new.isSome && t.logFull rp off p.len then s.setAcc id (fun a => a.failPart j cProtection)
        else if reads && t.rotten off p.len then
          let r := s.consume a.ctx.core a.dom a.scope off
          if r.1 then r.2.setAcc id (fun a => a.failPart j cUncorrectable) else go r.2
        else go s

/-- Part `j` may reach its bank: a remote one is held while a task switch is in progress there (09 R181), its context's older accesses
to the line are done, and its own release conditions hold. -/
def State.bankReady (s : State) (id j : Nat) (a : Access) : Option (CoreId × Nat) :=
  match a.parts[j]? with
  | none => none
  | some p => match a.place p with
    | some (.bank k off) =>
      if !p.done && a.stage == .placed && (a.own k || (s.core k).switch.isNone) && s.alive a.ctx.core.pkg k.pkg
          && !s.riding a.ctx.core.pkg (.request id (p.ea / 64))
          && !s.accs.any (s.holdsUp id a p) && s.inTurn a j p && s.releaseReady id a p then some (k, off) else none
    | _ => none

/-- The parts of an access that may reach their banks do, in order. -/
def State.bankAll (s : State) (id : Nat) : State :=
  match s.acc id with
  | none => s
  | some a => ((List.range a.parts.length).foldl (fun s j => match s.acc id with
      | some b => match s.bankReady id j b with
        | some (k, off) => s.bankPart id j k off
        | none => s
      | none => s) s).settle id

/-- WINDOW_NACK: the refusal returns to the sender (09 R180). -/
def execWindowNack (id : Nat) (s : State) : Out :=
  match s.acc id with
  | none => happen false (fun s => s) s
  | some a => happen (a.stage == .nacked) (fun s => s.setAcc id (fun a => { a with stage := .failed cWindow })) s

/-! ### Landing and failing -/

/-- The value of a load (12 R280-R289). -/
def Access.value (a : Access) : Dest → RVal :=
  let bs := a.parts.flatMap (·.data)
  match a.op with
  | .vld t p6 => fun _ => .v (vecOf p6 t bs).canon
  | .vgg t _ => fun _ => .v (VReg.canon ⟨BitVec.ofNat 2048 (leNat bs), t⟩)
  | .famo _ _ => fun _ => .g (BitVec.ofNat 64 (leNat bs))
  | .fget => fun d => match d with
    | .p _ => .p (allBits (!bs.isEmpty))
    | _ => .g (BitVec.ofNat 64 (leNat bs))
  | _ => fun _ => .g (signedOf bs)

/-- An access lands its destinations. -/
def State.landAcc (s : State) (id : Nat) (a : Access) : State :=
  match a.tok with
  | some t => (s.endAcc id).land a.task a.ctx t a.value
  | none => s.endAcc id

/-- ASYNC_FAULT_RECORD (20 R419). -/
def execAsyncFaultRecord (id : Nat) (s : State) : Out :=
  match s.acc id with
  | none => happen false (fun s => s) s
  | some a => match a.failure with
    | none => happen false (fun s => s) s
    | some (c, ea) => happen true (fun s =>
        match a.op with
        | .pf | .wb | .inv | .complete _ => s.endAcc id
        | op =>
          let s0 := s.endAcc id
          let s1 := s0.faultOf a.task a.ctx a.incarn a.tok ⟨ea, a.pc, c, a.sel, a.kind, 0⟩
          match op with
          | .task _ share => if share = 0 then s1 else s1.giveBack a.scope share
          | _ => s1) s

/-- Some part is still under way. -/
def Access.open_ (a : Access) (p : Part → Bool) : Bool := a.failure.isNone && a.parts.any (fun q => !q.done && p q)

/-- PEER_ACCESS_TIMEOUT: the access names a package that is absent or has failed (12 R261, R275). A store of class 0x0-0x7 stays
without an answer, until a fence abandons it (13 R311). -/
def execPeerAccessTimeout (id : Nat) (s : State) : Out :=
  match s.acc id with
  | none => happen false (fun s => s) s
  | some a => happen (a.open_ (fun p => match p.package with
        | some q => !s.alive a.ctx.core.pkg q && !(a.op.isStore && decide (natBits p.ea 60 4 ≤ 7))
        | none => false) && !(a.op == .wb || a.op == .inv))
      (fun s => s.setAcc id (fun a => { a with stage := .failed cMachineCheck })) s

/-- T_fail in cycles (13 R311, 18 R385). -/
def tFail : Nat := 130000

/-- WB_TIMEOUT: the home has not acknowledged for T_fail; the instruction completes (12 R291). -/
def execWbTimeout (c : CtxId) (s : State) : Out :=
  match (s.ctx c).holdC with
  | none => happen false (fun s => s) s
  | some h =>
    let ids := h.ids.filter (fun i => match s.acc i with
      | some a => a.op == .wb || a.op == .inv
      | none => false)
    happen (!ids.isEmpty && decide (h.since + tFail ≤ s.now)) (fun s => ids.foldl (fun s i => s.endAcc i) s) s

/-! ### Walks (20 R425, R427, R445) -/

/-- The accesses that a walk entry holds: of the slice's cluster, with an untranslated part in the page. -/
def Access.joined (a : Access) (page : Nat) : Bool :=
  a.stage == .walking && a.parts.any (fun p => !p.done && p.pa.isNone && p.ea / 65536 == page)

/-- The untranslated parts of an access in a page fail with TRANSLATION, and what is left of it meets the slice again. -/
def Access.failPage (a : Access) (page : Nat) : Access :=
  let b := (List.range a.parts.length).foldl (fun b j => match b.parts[j]? with
    | some p => if !p.done && p.pa.isNone && p.ea / 65536 == page then b.failPart j cTranslation else b
    | none => b) a
  { b with stage := .issued }

/-- A walk ends. Where it finds a leaf, the cache is filled and its accesses go on. Where it fails, each access fails for whose tenant no
pager serves the region. If the first access's tenant is served an upcall sets out and the others wait for it, else they walk again (20
R425, R426, R427). -/
def State.endWalk (s : State) (l : CluId) (w : Walk) : State :=
  let held := s.accs.filter (fun e => s.clu e.2.ctx.core == l && e.2.joined w.page)
  match s.walk l.pkg (w.page * 65536) with
  | .leaf t =>
    let s1 := s.setSlice l (fun x => { x.tlbFill t with walks := x.walks.filter (fun v => v.slot != w.slot) })
    held.foldl (fun s e => s.setAcc e.1 (fun a => { a with stage := .issued })) s1
  | .missing level =>
    let lost (d : BitVec 16) : Bool := (s.served l.pkg (w.page * 65536) (tenantOf d)).isNone
    let unserved := held.filter (fun e => lost e.2.dom)
    let s1 := match s.served l.pkg (w.page * 65536) (tenantOf w.dom) with
      | some k =>
        (s.setSlice l (fun x => { x with walks := x.walks.map (fun v => if v.slot = w.slot then { w with upcall := true } else v) })).upcall
          l k w level
      | none =>
        let s1 := s.setSlice l (fun x => { x with walks := x.walks.filter (fun v => v.slot != w.slot) })
        (held.filter (fun e => !lost e.2.dom)).foldl (fun s e => s.setAcc e.1 (fun a => { a with stage := .issued })) s1
    let s2 := unserved.foldl (fun s e => s.setAcc e.1 (fun a => a.failPage w.page)) s1
    unserved.foldl (fun s e => s.placeAcc e.1) s2

/-- TRANSLATION_WALK: a slice walk ends (20 R425). -/
def execTranslationWalk (l : CluId) (walk : Nat) (s : State) : Out :=
  match (s.slice l).walks.find? (fun w => w.slot == walk) with
  | none => happen false (fun s => s) s
  | some w => happen (!w.upcall && s.walkReady l (w.page * 65536)) (fun s => s.endWalk l w) s

/-- The slice that a token names. -/
def tokenSlice (token : W64) : CluId := ⟨bitsOf token 63 55, bitsOf token 54 53, bitsOf token 52 47⟩
/-- The entry holds something (20 R445). -/
def State.walkHolds (s : State) (l : CluId) (w : Walk) : Bool :=
  w.others || s.accs.any (fun e => s.clu e.2.ctx.core == l && e.2.joined w.page)
/-- The walk entry that a token names, if its generation stands. -/
def State.tokenWalk (s : State) (token : W64) : Option Walk :=
  (s.slice (tokenSlice token)).walks.find? (fun w => w.upcall && walkToken (tokenSlice token) w == token)

/-- PGOK_REWALK: a token reaches its slice, which walks again for what the entry holds; a stale token is ignored, and so is one whose
entry holds nothing, which is free from then on (20 R445). -/
def execPgokRewalk (token : W64) (s : State) : Out :=
  let l := tokenSlice token
  happen (s.tokens.contains token && (s.tokenWalk token).all (fun w => !s.walkHolds l w || s.walkReady l (w.page * 65536))) (fun s =>
    let s1 : State := { s with tokens := s.tokens.erase token }
    match s.tokenWalk token with
    | none => s1
    | some w =>
      if !s1.walkHolds l w then s1.setSlice l (fun x => { x with walks := x.walks.filter (fun v => v.slot != w.slot) })
      else
      let gen := ((s1.slice l).walkGen.get w.slot 0 + 1) % 256
      (s1.setSlice l (fun x => { x with walkGen := x.walkGen.set w.slot gen })).endWalk l { w with gen := gen, upcall := false }) s

end Sys2Proof.Machine
end

