-- ==== Sys2Proof/Machine/Control.lean ====
section
/-! DEFINITION. Fetch (02 R19-R25, 05 R88), the PC chain (05 R81-R84) and the control instructions (05 R89-R100). -/

namespace Sys2Proof.Machine

open Sys2Proof Sys2Proof.Lanes

/-! ## PCs and line words -/

/-- The line number and the position of a PC (02 R23). -/
def pcLine (pc : W64) : Nat := pc.toNat / 64
@[inherit_doc pcLine] def pcPos (pc : W64) : Nat := pc.toNat % 8

/-- A bad PC (02 R23). -/
def badPc (pc : W64) : Bool := decide (4 < pcPos pc) || bitsOf pc 5 3 != 0 || decide (7 < bitsOf pc 63 60)

/-- The PC of a position of a line. -/
def pcAt (line pos : Nat) : W64 := BitVec.ofNat 64 (line * 64 + pos)

/-- The line word, and the word of a position (02 R19, R20). -/
def lineWord (bits : Nat) : Nat := natBits bits 480 32
@[inherit_doc lineWord] def posWord (bits i : Nat) : Nat := natBits bits (96 * i) 96

/-- ST, EM and TM bits of a position (02 R20). -/
def stBit (bits i : Nat) : Bool := decide (i < 4) && (lineWord bits).testBit (5 + i)
@[inherit_doc stBit] def emBit (bits i : Nat) : Bool := (lineWord bits).testBit (9 + i)
@[inherit_doc stBit] def tmBit (bits i : Nat) : Bool := (lineWord bits).testBit i

/-- The XOR of the low `n` bits of a number. -/
def parity : Nat → Nat → Bool
  | 0, _ => false
  | n + 1, x => (x % 2 == 1) != parity n (x / 2)

/-- The parity bits agree (02 R20, R24). -/
def parityOk (bits : Nat) : Bool :=
  let w := lineWord bits
  (w.testBit 29 == parity 24 (w % 2 ^ 24))
    && (List.range 5).all (fun i => w.testBit (24 + i) == parity 96 (posWord bits i))

/-- The line word keeps to 02 R20 and R22. -/
def lineWordOk (bits : Nat) : Bool :=
  let w := lineWord bits
  natBits w 30 2 == 0 && natBits w 14 10 == 0
    && (List.range 5).all (fun i => !tmBit bits i || i == 0 || stBit bits (i - 1))

/-- The last position of the packet that begins at a position (02 R21). -/
def packetEnd (bits pos : Nat) : Nat := ((List.range 4).find? (fun i => decide (pos ≤ i) && stBit bits i)).getD 4

/-- The positions of a packet that hold instructions. -/
def packetPositions (bits pos : Nat) : List Nat :=
  (List.range 5).filter (fun i => decide (pos ≤ i) && decide (i ≤ packetEnd bits pos) && !emBit bits i)

/-! ## Reading a line (02 R23, R24; 05 R88, R96, R98) -/

/-- What reading a line gives. -/
inductive LineRead where
  | ok (bits : Nat)
  | wait
  | fault (cause typ : Nat)
  deriving DecidableEq, Repr

/-- A running repeat's body holds the line. -/
def RepState.inBody (r : RepState) (line : Nat) : Bool := r.run && decide (r.first ≤ line) && decide (line ≤ r.last)

/-- The copy of a line in the repeat buffer or the loop buffer. -/
def State.copyOf (s : State) (c : CtxId) (line : Nat) : Option Nat :=
  let k := s.ctx c
  match (if k.rep.inBody line then k.rep.buf.find line else none) with
  | some b => some b
  | none => ((s.tc c.core).pins.find? (fun p => p.line == line && !p.waiting)).map (·.bits)

/-- A line read for a context: rights, then what `copy` holds, or memory through the slice, behind the stores that stand in the context's
way (05 R88, 13 R310). -/
def State.lineFrom (s : State) (c : CtxId) (line : Nat) (copy : Option Nat) : LineRead × State :=
  let k := s.ctx c
  match s.plb c.core k.domain (64 * line) 64 rightX with
  | .miss => (.fault cProtection 2, s)
  | .denied => (.fault cProtection 0, s)
  | .granted => match copy with
    | some b => (.ok b, s)
    | none => match s.findPage (s.clu c.core) (64 * line) 3 k.domain with
      | (.none, s1) => (.fault cTranslation 0, s1)
      | (.wait, s1) => (.wait, s1)
      | (.page t, s1) =>
        let pa := t.at (64 * line)
        if !s1.alive c.core.pkg (paPkg pa) then (.fault cMachineCheck 0, s1)
        else if !s1.lineReady (s1.clu c.core) (some c.core) (s1.core c.core).task (lineOf pa) then (.wait, s1)
        else (.ok (leNat (s1.readMem (tenantOf k.domain) pa 64)), s1)

/-- A line read for a fetch. -/
def State.readLine (s : State) (c : CtxId) (line : Nat) : LineRead × State := s.lineFrom c line (s.copyOf c line)

/-- Parity of a line read for a fetch (02 R24): a line from memory whose parity is wrong is read once more, with the next
attempt; a copy is not. -/
def State.checkParity (s : State) (c : CtxId) (line bits : Nat) : LineRead × State :=
  let again := (s.ctx c).refetch
  let clear (s : State) : State := if again.isSome then s.setCtx c (fun k => { k with refetch := none }) else s
  if parityOk bits then (.ok bits, clear s)
  else if (s.copyOf c line).isSome || again == some line then (.fault cMachineCheck 0, clear s)
  else (.wait, s.setCtx c (fun k => { k with refetch := some line }))

/-- The line of a PC, if it can be read at once. -/
def State.peekLine (s : State) (c : CtxId) (pc : W64) : Option Nat :=
  if badPc pc then none
  else match (s.readLine c (pcLine pc)).1 with
    | .ok b => if parityOk b then some b else none
    | _ => none

/-- A body line of a running repeat is copied when it is first read (05 R96). -/
def State.copyBody (s : State) (c : CtxId) (line bits : Nat) : State :=
  let r := (s.ctx c).rep
  if r.inBody line && (r.buf.find line).isNone then
    s.setCtx c (fun k => { k with rep := { k.rep with buf := k.rep.buf.set line bits } })
  else s

/-- The line word that NextSeq reads of a body line comes from the line's one copy (05 R96). -/
def State.noteBody (s : State) (c : CtxId) (x : PcWord) : State :=
  if x.sq then s
  else match s.peekLine c x.pc with
    | some b => s.copyBody c (pcLine x.pc) b
    | none => s

/-! ## The chain (05 R82) -/

/-- A resolved entry. -/
def PcWord.at (pc : W64) : PcWord := ⟨pc, false, false, false⟩

/-- NextSeq(x) (05 R82): the successor, and the passes left. -/
def State.nextSeq (s : State) (c : CtxId) (x : PcWord) (left : Nat) : PcWord × Nat :=
  if x.sq then ({ x with tgt := false, anl := false }, left)
  else match s.peekLine c x.pc with
    | none => (⟨x.pc, true, false, false⟩, left)
    | some b =>
      let r := (s.ctx c).rep
      let e := packetEnd b (pcPos x.pc)
      let line := pcLine x.pc
      if e < 4 then (.at (pcAt line (e + 1)), left)
      else if 0 < left ∧ line = r.last then
        if 1 < left then (.at (pcAt r.first 0), left - 1) else (.at (pcAt (line + 1) 0), 0)
      else (.at (pcAt (line + 1) 0), left)

/-- An entry as it is resolved: the successor of the PC in its LINE and POS, or itself where that line cannot be read (05 R81, R82). -/
def State.resolveEntry (s : State) (c : CtxId) (e : PcWord) (left : Nat) : PcWord × Nat :=
  if e.sq then
    let r := s.nextSeq c (.at e.pc) left
    ({ r.1 with anl := e.anl }, r.2)
  else (e, left)

/-- Two unresolved entries of one PC stand for its successor and for the successor of that: the later names the earlier once that is
resolved (05 R81, R82; log 33, DEDUCED). -/
def PcWord.follows (e old new : PcWord) : PcWord := if old.sq && e.sq && e.pc == old.pc then { e with pc := new.pc } else e

/-- StepChain (05 R82), with what the packet left in `pk`. PCQ1 is resolved as the packet before it has issued. -/
def State.stepChain (s0 : State) (c : CtxId) : State :=
  let q1 := (s0.ctx c).pcq1
  let s1 := if q1.sq then s0.noteBody c (.at q1.pc) else s0
  let r1 := s1.resolveEntry c q1 (s1.ctx c).rep.left
  let q2 := (s1.ctx c).pcq2.follows q1 r1.1
  let s := s1.noteBody c q2
  let k := s.ctx c
  let n := s.nextSeq c q2 r1.2
  let last : PcWord := match s.pk.target with
    | some t => ⟨t, false, true, false⟩
    | none => n.1
  let mark (e : PcWord) : PcWord := if s.pk.annul then { e with anl := true } else e
  let link : List InFlight := match s.pk.link with
    | some d => [⟨d, if n.1.sq then .linkOf else .g n.1.pc, k.pipe + 1, none⟩]
    | none => []
  let later := k.inflight.length - s.pk.linkAt
  s.setCtx c (fun k => { k with
    pcq0 := mark r1.1, pcq1 := mark q2, pcq2 := last, rep := { k.rep with left := n.2 }
    inflight := k.inflight.take later ++ link ++ k.inflight.drop later })

/-- The chain that a `rep` sets in the place of StepChain (05 R93). -/
def State.repChain (s : State) (c : CtxId) (count lines : Nat) : State :=
  let line := pcLine (s.ctx c).pcq0.pc
  let s1 := s.setCtx c (fun k => { k with
    rep := ⟨count, line + 1, line + lines, count != 0, []⟩
    pcq0 := .at (pcAt (if count = 0 then line + lines + 1 else line + 1) 0) })
  let k := s1.ctx c
  let s2 := s1.noteBody c k.pcq0
  let q1 := s2.nextSeq c k.pcq0 k.rep.left
  let s3 := s2.noteBody c q1.1
  let q2 := s3.nextSeq c q1.1 q1.2
  s3.setCtx c (fun k => { k with pcq1 := q1.1, pcq2 := q2.1, rep := { k.rep with left := q2.2 } })

/-- The line of a PC for a fetch: the fault of a bad one (02 R23), the line with its parity checked (02 R24), and its copy
where a running repeat holds it (05 R96). -/
def State.readPc (s : State) (c : CtxId) (pc : W64) : LineRead × State :=
  if badPc pc then (.fault cBadPc 0, s)
  else match s.readLine c (pcLine pc) with
    | (.ok b, s1) => match s1.checkParity c (pcLine pc) b with
      | (.ok b, s2) => (.ok b, s2.copyBody c (pcLine pc) b)
      | r => r
    | r => r

/-- The link of an unresolved entry: the successor of PCQ1 as the chain stands at the boundary, whose lines are fetched at once (05
R82). The PC whose line is read last comes back, and the link where the line could be read; the chain stays as StepChain left it. -/
def State.resolveLink (s : State) (c : CtxId) : W64 × LineRead × State :=
  let q1 := (s.ctx c).pcq1
  match (if q1.sq then s.readPc c q1.pc else (.ok 0, s)) with
  | (.fault a b, s1) => (q1.pc, .fault a b, s1)
  | (.wait, s1) => (q1.pc, .wait, s1)
  | (.ok _, s1) =>
    let r := s1.resolveEntry c q1 (s1.ctx c).rep.left
    match s1.readPc c r.1.pc with
    | (.ok _, s2) => (r.1.pc, .ok ((s2.nextSeq c r.1 r.2).1.pc.toNat), s2)
    | x => (r.1.pc, x)

/-- A link commits at this packet and its entry is not resolved. -/
def Ctx.linkLate (k : Ctx) : Bool := k.inflight.any (fun r => r.val == .linkOf && decide (r.due ≤ k.pipe))

/-- PCQ0 is resolved from the PC that it holds, that of the packet before it. -/
def State.resolveTo (s : State) (c : CtxId) : State :=
  let k := s.ctx c
  let r := s.resolveEntry c k.pcq0 k.rep.left
  let q1 := k.pcq1.follows k.pcq0 r.1
  s.setCtx c (fun k => { k with pcq0 := r.1, pcq1 := q1, pcq2 := k.pcq2.follows k.pcq1 q1, rep := { k.rep with left := r.2 } })

/-- SEQUENTIAL_RESOLVE: an unresolved entry whose packet before it has issued is resolved, once the line word is read (05 R82). -/
def execSequentialResolve (c : CtxId) (s : State) : Out :=
  let k := s.ctx c
  happen (k.life == .running && k.pcq0.sq && (s.peekLine c k.pcq0.pc).isSome) (fun s => (s.noteBody c (.at k.pcq0.pc)).resolveTo c) s

/-! ## Branches (05 R90-R92) -/

/-- The target of a direct branch (02 R40): position IMM[2:0] of the line IMM[31:3] lines from its own. -/
def State.branchTarget (s : State) (f : Fields) : W64 :=
  let line := bitsOf s.me.pcq0.pc 63 6
  let d := (f.imm.sshiftRight 3).signExtend 58
  (BitVec.ofNat 58 line + d).setWidth 64 <<< 6 ||| BitVec.ofNat 64 f.targetPos

/-- The destination of a link. -/
def linkDest (f : Fields) : Dest := Dest.ofG f.d

/-- A branch is taken. -/
def State.branchTo (s : State) (t : W64) (link : Option Dest) : State :=
  { s with pk := { s.pk with target := some t, branch := true, link := link, linkAt := s.me.inflight.length } }

/-- A branch that is not taken still has two delay packets (05 R94). -/
def State.noBranch (s : State) : State := { s with pk := { s.pk with branch := true } }

/-- `nop` (05 R89). -/
def execNop (f : Fields) (s : State) : Out := run (.nop f) f { act := id } s
/-- `b` (05 R90). -/
def execB (f : Fields) (s : State) : Out :=
  run (.b f) f { act := fun s => s.branchTo (s.branchTarget f) none, skip := State.noBranch } s
/-- `ba` (05 R91): not taken, it annuls its delay packets. -/
def execBa (f : Fields) (s : State) : Out :=
  run (.ba f) f {
    act := fun s => s.branchTo (s.branchTarget f) none
    skip := fun s => { s with pk := { s.pk with annul := true, branch := true } } } s
/-- `bl` (05 R90). -/
def execBl (f : Fields) (s : State) : Out :=
  run (.bl f) f { act := fun s => s.branchTo (s.branchTarget f) (some (linkDest f)), skip := State.noBranch } s
/-- `br` (05 R92). -/
def execBr (f : Fields) (s : State) : Out :=
  run (.br f) f { act := fun s => s.branchTo (s.gval f f.a) none, skip := State.noBranch } s
/-- `brl` (05 R92): the target is read before the link is written. -/
def execBrl (f : Fields) (s : State) : Out :=
  run (.brl f) f { act := fun s => s.branchTo (s.gval f f.a) (some (linkDest f)), skip := State.noBranch } s

/-- The count of `rep`: IMM is read as unsigned 64 bits (05 R93). -/
def State.repCount (s : State) (f : Fields) : Nat := (s.gval f f.a).toNat

/-- `rep` (05 R93). -/
def execRep (f : Fields) (s : State) : Out :=
  run (.rep f) f {
    act := fun s =>
      if 65536 < s.repCount f then s.freezeAfter cIllegal s.myPc
      else { s with pk := { s.pk with rep := some (s.repCount f, f.lines) } } } s

/-! ## The loop buffer (05 R97, R98) -/

/-- The oldest pin of a context that is not one of some lines is the last in the list. -/
def dropOldest (ctx : Nat) (keep : List Nat) (ps : List Pin) : List Pin :=
  match (ps.reverse.find? (fun p => p.ctx == ctx && !keep.contains p.line)) with
  | some o => ps.filter (· != o)
  | none => ps

/-- One line is pinned: in this context's own entry for it, a free entry, or the place of its oldest other pin (05 R98).
Newest pins stand first. A new `lpin` of the line renews every copy of it, those of other contexts' entries too (log 33,
DEDUCED). -/
def pinLine (ctx : Nat) (keep : List Nat) (ps : List Pin) (line bits : Nat) : List Pin :=
  let own := (ps.filter (fun p => !(p.line == line && p.ctx == ctx))).map (fun p =>
    if p.line = line then { p with bits := bits, waiting := false } else p)
  if own.length < 8 then ⟨line, bits, ctx, false⟩ :: own
  else
    let room := dropOldest ctx keep own
    if room.length < 8 then ⟨line, bits, ctx, false⟩ :: room else own

/-- The lines that `lpin` or `lfree` names. -/
def State.pinLines (s : State) (f : Fields) : List Nat := (List.range f.lines).map (· + (s.ea f).toNat / 64)

/-- A line for `lpin`, read from memory and not from the loop buffer. -/
def State.pinRead (s : State) (line : Nat) : LineRead × State :=
  if 2 ^ 57 ≤ line then (.fault cBadPc 0, s)
  else s.lineFrom s.cur line none

/-- The pins of a core that a resume could not read yet are read, where they can be (05 R98). -/
def State.repinLate (s : State) (k : CoreId) : State :=
  if !(s.tc k).pins.any (·.waiting) then s
  else (s.tc k).pins.foldl (fun s p =>
    if !p.waiting then s
    else
      let r := s.lineFrom ⟨k, p.ctx⟩ p.line none
      let put (f : Pin → List Pin) : State := r.2.setTc k (fun t => { t with pins := t.pins.flatMap (fun q => if q = p then f q else [q]) })
      match r.1 with
      | .ok b => put (fun q => [{ q with bits := b, waiting := false }])
      | .wait => r.2
      | .fault _ _ => put (fun _ => [])) s

/-- Every line of `lpin` in order: the verdict and their contents. -/
def State.pinReads (s : State) : List Nat → Verdict × List (Nat × Nat)
  | [] => (.ok, [])
  | l :: ls =>
    match (s.pinRead l).1 with
    | .fault c t => (.fault 5 ⟨c, t, pcAt l 0⟩, [])
    | .wait => (.hold, [])
    | .ok b =>
      let r := s.pinReads ls
      (r.1, (l, b) :: r.2)

/-- The walks that a held `lpin` begins. -/
def State.pinWait (s : State) (ls : List Nat) : State :=
  ls.foldl (fun s l => (s.findPage (s.clu s.cur.core) (64 * l) 3 s.me.domain).2) s

/-- `lpin` (05 R97). -/
def execLpin (f : Fields) (s : State) : Out :=
  run (.lpin f) f {
    gate := fun s => (need (decide ((s.ea f).toNat % 64 = 0)) 5 cAlign (s.ea f)).andThen (s.pinReads (s.pinLines f)).1
    act := fun s =>
      let r := (s.pinReads (s.pinLines f)).2
      s.setMyTc (fun c => { c with
        pins := r.foldl (fun ps e => pinLine s.cur.ctx (s.pinLines f) ps e.1 e.2) c.pins })
    wait := fun s => s.pinWait (s.pinLines f) } s

/-- `lfree` (05 R97). -/
def execLfree (f : Fields) (s : State) : Out :=
  run (.lfree f) f {
    gate := fun s => need (decide ((s.ea f).toNat % 64 = 0)) 5 cAlign (s.ea f)
    act := fun s => s.setMyTc (fun c => { c with
      pins := c.pins.filter (fun p => !(p.ctx == s.cur.ctx && (s.pinLines f).contains p.line)) }) } s

/-- `tick` (05 R99). -/
def execTick (f : Fields) (s : State) : Out :=
  run (.tick f) f { act := fun s => s.setMe (fun c => c.tick s.now) } s

/-- `bkpt` (05 R100). -/
def execBkpt (f : Fields) (s : State) : Out :=
  run (.bkpt f) f { act := fun s => s.freezeAfter cBreakpoint s.myPc } s

end Sys2Proof.Machine
end

