-- ==== Sys2Proof/Machine/Ordering.lean ====
section
/-! DEFINITION. `fence`, `bar`, `mon` and `mwait` and the events of their waits (13 R309-R315). -/

namespace Sys2Proof.Machine

open Sys2Proof Sys2Proof.Lanes

/-! ## What a fence waits for (13 R310) -/

/-- Every earlier write of the issuing context counts as done at a reach; a staged store is accepted. -/
def State.writesDone (s : State) (reach : Nat) : Bool :=
  s.accs.all (fun e => !(s.ofMine e.2.ctx e.2.task && e.2.op.isWrite) || e.2.doneAt reach || e.2.abandoned)
    && s.gsts.all (fun e => e.2.engine.isSome || !s.ofMine e.2.ctx e.2.task)

/-- Every earlier load, atomic and `fget` of the issuing context has landed. -/
def State.loadsDone (s : State) : Bool := s.accs.all (fun e => !(s.ofMine e.2.ctx e.2.task && e.2.op.isLoad))

/-- The engine queues of the issuing context are empty, and its copies have finished. -/
def State.enginesDone (s : State) : Bool :=
  (s.cur.ctx != 0 || (s.myTc.mat.queue.isEmpty && s.myTc.env.queue.isEmpty))
    && s.copies.all (fun e => !s.ofMine ⟨e.2.core, e.2.ctx⟩ e.2.task)

/-- The condition of a fence. -/
def State.fenceDone (s : State) (rel acq eng : Bool) (reach : Nat) : Bool :=
  (!rel || s.writesDone reach) && (!acq || s.loadsDone) && (!eng || s.enginesDone)

/-- A hold of the issuing context begins, unless it has begun. -/
def State.beginHold (s : State) (kind : HoldKind) (ids : List Nat := []) : State :=
  s.setMe (fun c => if c.hold.isSome then c else { c with hold := some ⟨kind, s.now, ids, none⟩ })
/-- The hold ends. -/
def State.endHold (s : State) : State := s.setMe (fun c => { c with hold := none })

/-- `.eng` of a fence. -/
def fenceEng (f : Fields) : Bool := f.mod.toNat.testBit 2
/-- `.rel` and `.acq` of a fence. -/
def fenceRel (f : Fields) : Bool := f.mod.toNat.testBit 0
@[inherit_doc fenceRel] def fenceAcq (f : Fields) : Bool := f.mod.toNat.testBit 1

/-- The freeze of a fence by the asynchronous fault record (20 R420, 02 R28). -/
def State.fenceFreeze (s : State) : Option FaultInfo := s.me.afrFault 8

/-- `fence` (13 R310). -/
def execFence (f : Fields) (s : State) : Out :=
  run (.fence f) f {
    frozen := fun s => s.fenceFreeze.orElse (fun _ => if fenceEng f then s.engineFreeze else none)
    gate := fun s => if s.fenceDone (fenceRel f) (fenceAcq f) (fenceEng f) f.reachCode then .ok else .hold
    act := State.endHold
    wait := fun s => s.beginHold (if fenceRel f then .fence else .acquire) } s

/-- FSTAT after a store to a package is abandoned (13 R312); one that has no translation yet names none (log 8, DESIGN CHOICE). -/
def SprFile.abandon (r : SprFile) (pkg : Option Nat) : SprFile :=
  let x := r.fstat ||| 1
  let p := pkg.getD 0
  if pkg.isNone || r.lost.contains p then { r with fstat := x }
  else
    let n := bitsOf x 27 19
    let y := if n < 4 then natSet x.toNat (28 + 9 * n) 9 p else x.toNat
    { r with fstat := BitVec.ofNat 64 (natSet y 19 9 (min (n + 1) 511)), lost := r.lost ++ [p] }

/-- FENCE_ABANDON: a store of class 0x0-0x7 is still not acknowledged T_fail after its fence began to wait (13 R311). -/
def execFenceAbandon (c : CtxId) (id : Nat) (s : State) : Out :=
  match (s.ctx c).hold, s.acc id with
  | some h, some a =>
    let lost := a.parts.filter (fun p => !p.done && decide (natBits p.ea 60 4 ≤ 7))
    happen (h.kind == .fence && decide (h.since + tFail ≤ s.now) && sameCtx a.task (s.core c.core).task a.ctx c && a.op.isStore
        && !a.abandoned && !lost.isEmpty) (fun s =>
      (s.setAcc id (fun a => { a with abandoned := true })).setCtx c (fun k => { k with
        spr := lost.foldl (fun r p => r.abandon (p.pa.map paPkg)) k.spr })) s
  | _, _ => happen false (fun s => s) s

/-! ## `bar` (13 R313) -/

/-- The gang of the issuing task, where the issuer is its lead. -/
def State.myGang (s : State) : Option GangPos :=
  if s.cur.ctx = 0 then (s.myTask.bind s.tasks.find).bind (·.gang) else none

/-- The least reach that contains every core of a list. -/
def State.leastReach (s : State) (ks : List CoreId) : Nat :=
  match ks with
  | [] => 0
  | k :: rest => ((List.range 4).find? (fun r => rest.all (fun j => s.within r k j))).getD 4

/-- The reach of a `bar`'s fence. -/
def State.barReach (s : State) (f : Fields) : Nat :=
  match s.myGang with
  | some _ => max f.reachCode (s.leastReach (s.cur.core :: s.gangCores s.myTask))
  | none => f.reachCode

/-- Every member has arrived at the issuer's barrier; one that has exited is no member any more (13 R313). -/
def State.allArrived (s : State) : Bool :=
  match s.myGang with
  | none => true
  | some g =>
    let k := s.me.barCount + 1
    s.tasks.all (fun e => match e.2.gang with
      | some h => h.gang != g.gang || (
        let c := s.ctxOf (some e.1) ⟨s.cur.core, 0⟩
        decide (k ≤ c.barCount) || (c.barHere && decide (c.barCount + 1 = k)))
      | none => true)

/-- `bar` (13 R313). -/
def execBar (f : Fields) (s : State) : Out :=
  run (.bar f) f {
    frozen := fun s => s.fenceFreeze
    gate := fun s =>
      if !s.me.barHere && !s.fenceDone true true false (s.barReach f) then .hold
      else match s.myGang with
        | none => .ok
        | some _ => if s.me.barHere && (s.allArrived || s.braked) then .ok else .hold
    act := fun s => match s.myGang with
      | none => s.endHold
      | some _ => s.endHold.setMe (fun c => { c with barCount := c.barCount + 1, barHere := false })
    wait := fun s =>
      if s.me.barHere then s
      else if s.fenceDone true true false (s.barReach f) then s.endHold.setMe (fun c => { c with barHere := true })
      else s.beginHold .fence } s

/-! ## `mon` and `mwait` (13 R314, R315) -/

/-- The armed monitor of a context is gone. -/
def State.disarm (s : State) (c : CtxId) : State :=
  match (s.ctx c).monitor with
  | some n => { s with monitors := s.monitors.del n }.setCtx c (fun k => { k with monitor := none })
  | none => s

/-- `mon` (13 R314): where the page has no translation and no pager, the monitor is lost at once. -/
def execMon (f : Fields) (s : State) : Out :=
  run (.mon f) f {
    gate := fun s => s.accessStall.andThen
      ((need (decide (bitsOf (s.ea f) 63 60 ≤ 7)) 5 cProtection (s.ea f)).andThen
      ((s.plbOk ((s.ea f).toNat / 64 * 64) 64 rightR (s.ea f)).andThen
      (match (s.findPage (s.clu s.cur.core) (s.ea f).toNat 0 s.me.domain).1 with
        | .wait => .hold
        | _ => .ok)))
    act := fun s =>
      let s1 := s.disarm s.cur
      match s1.findPage (s1.clu s1.cur.core) (s1.ea f).toNat 0 s1.me.domain with
      | (.page t, s2) =>
        { s2 with monitors := s2.monitors.set s2.nextId ⟨lineOf (t.at (s2.ea f).toNat), false⟩, nextId := s2.nextId + 1 }.setMe
          (fun c => { c with monitor := some s2.nextId })
      | (_, s2) => s2
    wait := fun s => (s.findPage (s.clu s.cur.core) (s.ea f).toNat 0 s.me.domain).2 } s

/-- The armed monitor of a context has been hit. -/
def State.monitorHit (s : State) (c : CtxId) : Bool :=
  match (s.ctx c).monitor with
  | some n => ((s.monitors.find n).map (·.hit)).getD true
  | none => true

/-- `mwait` (13 R315). -/
def execMwait (f : Fields) (s : State) : Out :=
  run (.mwait f) f {
    gate := fun s => if s.monitorHit s.cur || s.braked then .ok else .hold
    act := fun s => s.endHold.disarm s.cur
    wait := fun s => s.beginHold .mwait } s

/-- MWAIT_TIMEOUT: 2^20 cycles have passed; the monitor is disarmed, and the wait ends (13 R315). -/
def execMwaitTimeout (c : CtxId) (s : State) : Out :=
  match (s.ctx c).hold with
  | some h => happen (h.kind == .mwait && decide (h.since + 2 ^ 20 ≤ s.now)) (fun s => s.disarm c) s
  | none => happen false (fun s => s) s

/-- MONITOR_LOST: a slice evicts the monitor's directory record (13 R315). -/
def execMonitorLost (c : CtxId) (s : State) : Out := happen (s.ctx c).monitor.isSome (fun s => s.disarm c) s

end Sys2Proof.Machine
end

