-- ==== Sys2Proof/Machine/Rings.lean ====
section
/-! DEFINITION. Rings (09 R193-R199). -/

namespace Sys2Proof.Machine

open Sys2Proof Sys2Proof.Lanes

/-! ## Ring state -/

/-- A slot's tag. -/
def Ring.tag (r : Ring) (i : Nat) : SlotTag := (r.slots.getD i (.empty, 0)).1
/-- Set a slot's tag and byte count. -/
def Ring.setSlot (r : Ring) (i : Nat) (t : SlotTag) (n : Nat) : Ring := { r with slots := r.slots.set i (t, n) }
/-- The address of a slot (09 R193). -/
def Ring.addr (r : Ring) (i : Nat) : W64 := r.base + BitVec.ofNat 64 (i * r.z)
/-- The count of EMPTY slots. -/
def Ring.freeCount (r : Ring) : Nat := (r.slots.filter (fun e => e.1 == .empty)).length
/-- The run of FULL slots from HEAD. -/
def runFrom (r : Ring) : Nat → Nat → Nat
  | 0, _ => 0
  | n + 1, i => if r.tag i == .full then 1 + runFrom r n ((i + 1) % r.c) else 0
@[inherit_doc runFrom]
def Ring.filled (r : Ring) : Nat := runFrom r r.c r.head

/-- Slot TAIL, EMPTY, becomes FILLING; TAIL moves on (09 R195). -/
def Ring.fill (r : Ring) : Ring := { (r.setSlot r.tail .filling 0) with tail := (r.tail + 1) % r.c }
/-- Slot HEAD, FULL, becomes DRAINING; HEAD moves on (09 R196). -/
def Ring.drain (r : Ring) : Ring :=
  { (r.setSlot r.head .draining (r.slots.getD r.head (.empty, 0)).2) with head := (r.head + 1) % r.c, taken := r.taken ++ [r.head] }
/-- A slot becomes EMPTY. -/
def Ring.free (r : Ring) (i : Nat) : Ring := { (r.setSlot i .empty 0) with taken := r.taken.filter (· != i) }

/-- Bytes that an engine or the network interface wrote into a slot: counted in a FILLING slot with room for them, which
becomes FULL when the count reaches z; else ERR (09 R198). -/
def Ring.counted (r : Ring) (i n : Nat) : Ring :=
  match r.slots.getD i (.empty, 0) with
  | (.filling, m) => if m + n ≤ r.z then r.setSlot i (if m + n = r.z then .full else .filling) (m + n) else { r with err := true }
  | _ => { r with err := true }

/-- A ring of a task part. -/
def TaskCore.ring (t : TaskCore) (n : Nat) : Ring := t.rings.toArray.getD n Ring.fresh
@[inherit_doc TaskCore.ring]
def TaskCore.setRing (t : TaskCore) (n : Nat) (f : Ring → Ring) : TaskCore :=
  { t with rings := t.rings.setIfInBounds n (f (t.ring n)) }

/-- The slots of one local ring that `[o, o + n)` touches, with the bytes in each. -/
def Ring.slotsHit (r : Ring) (o n : Nat) : List (Nat × Nat) :=
  if r.c = 0 || !isLocal r.base then []
  else (List.range r.c).filterMap (fun i =>
    let a := spadOff r.base + i * r.z
    let lo := max a o
    let hi := min (a + r.z) (o + n)
    if lo < hi then some (i, hi - lo) else none)

/-- An engine's write of `[o, o + n)` counts in every slot of the core's local rings that it touches (09 R198). -/
def TaskCore.countSlots (t : TaskCore) (o n : Nat) : TaskCore :=
  (List.range 8).foldl (fun t k => ((t.ring k).slotsHit o n).foldl (fun t e => t.setRing k (fun r => r.counted e.1 e.2)) t) t

/-- The slot of a ring in shared virtual memory in which a physical line stands, translated as cluster `l` translates (09 R193, R198). -/
def State.vaSlot (s : State) (l : CluId) (r : Ring) (line : Nat) : Option Nat :=
  let base := r.base.toNat
  if r.c = 0 || isLocal r.base || decide (2 ^ 63 ≤ base) then none
  else ((List.range ((base + r.c * r.z - 1) / 65536 + 1 - base / 65536)).map (· + base / 65536)).findSome? (fun p =>
    let va := 65536 * p + 64 * line % 65536
    if base ≤ va ∧ va < base + r.c * r.z ∧ (s.physOf l va).map lineOf = some line then some ((va - base) / r.z) else none)

/-- The task parts of the machine, with where each stands: on the cores, and in the frames. -/
def State.taskParts (s : State) : List (Option Nat × CoreId × CluId) :=
  s.cores.map (fun e => (e.2.task, e.1, s.clu e.1))
    ++ s.tasks.filterMap (fun e => if e.2.core.isNone && e.2.frame.isSome then some (some e.1, ⟨e.2.pkg, 0, 0⟩, e.2.clu) else none)

/-- An engine's write of `n` bytes of a physical line counts in every slot in shared virtual memory that stands there (09 R198). -/
def State.countLine (s : State) (line n : Nat) : State :=
  s.taskParts.foldl (fun s e => (List.range 8).foldl (fun s k => match s.vaSlot e.2.2 ((s.partOf e.1 e.2.1).ring k) line with
    | some i => s.setPart e.1 e.2.1 (fun t => t.setRing k (fun r => r.counted i n))
    | none => s) s) s

/-- The ring number of an operand. -/
def ringNo : Sel → Nat
  | .reg n => n.toNat % 8
  | _ => 0

/-- A ring that is configured and has no error (09 R198). -/
def State.ringOk (s : State) (f : Fields) : Verdict :=
  let r := s.myTc.ring (ringNo f.a)
  if r.c = 0 || r.err then s.atPc 5 cRingState else .ok

/-- A stream of the issuing context's task is attached to a ring: a subscription, or a drain (14 R334, R335). -/
def State.attachedAs (s : State) (n : Nat) (drain : Bool) : Bool :=
  s.streams.any (fun e => e.2.task == s.myTask && (s.myTask.isSome || e.2.core == s.cur.core) && e.2.ring.val == n && e.2.drain == drain)

/-- `rres` (09 R195): it queues a reservation; a subscribed ring refuses it (14 R334). -/
def execRres (f : Fields) (s : State) : Out :=
  run (.rres f) f {
    gate := fun s => (s.ringOk f).andThen (if s.attachedAs (ringNo f.a) false then s.atPc 5 cRingState else .ok)
    act := fun s =>
      let p := s.pendOn [Dest.ofG f.d]
      p.2.setMyTc (fun t => t.setRing (ringNo f.a) (fun r => { r with res := r.res ++ [⟨p.1, s.cur.ctx, none⟩] })) } s

/-- `rtake` (09 R196): it queues a take; a drained ring refuses it (14 R335). -/
def execRtake (f : Fields) (s : State) : Out :=
  run (.rtake f) f {
    gate := fun s => (s.ringOk f).andThen (if s.attachedAs (ringNo f.a) true then s.atPc 5 cRingState else .ok)
    act := fun s =>
      let p := s.pendOn [Dest.ofG f.d]
      p.2.setMyTc (fun t => t.setRing (ringNo f.a) (fun r => { r with takes := r.takes ++ [⟨p.1, s.cur.ctx, none⟩] })) } s

/-- The slot that `rrel` acts on, and its new tag; none is RING_STATE (09 R197). -/
def relSlot (r : Ring) (b : Sel) (a : W64) : Option (Nat × SlotTag) :=
  match b with
  | .zero => r.taken.head?.map (fun i => (i, .empty))
  | _ => ((List.range r.c).find? (fun i => r.addr i == a)).bind (fun i => match r.tag i with
    | .draining => some (i, .empty)
    | .filling => some (i, .full)
    | _ => none)

/-- `rrel` (09 R197). -/
def execRrel (f : Fields) (s : State) : Out :=
  run (.rrel f) f {
    gate := fun s => (s.ringOk f).andThen
      (if (relSlot (s.myTc.ring (ringNo f.a)) f.b (s.gval f f.b)).isSome then .ok else s.atPc 5 cRingState)
    act := fun s => s.setMyTc (fun t => t.setRing (ringNo f.a) (fun r =>
      match relSlot r f.b (s.gval f f.b) with
      | some (i, .empty) => r.free i
      | some (i, t) => r.setSlot i t (r.slots.getD i (.empty, 0)).2
      | none => r)) } s

/-- The checks of `rcfg` that a configuration meets (09 R194, 1-4). -/
def State.rcfgOk (s : State) (n : Nat) (base : W64) (c zu : Nat) : Verdict :=
  let z := 64 * zu
  (if base.toNat % 64 = 0 then .ok else s.atPc 5 cAlign).andThen <|
  (if c ≤ 256 ∧ 1 ≤ zu ∧ zu ≤ 4096 then .ok else s.atPc 5 cIllegal).andThen <|
  (if decide (base.toNat < 2 ^ 19) || bitsOf base 63 60 == 15 then
      match localOffset s.myTc s.foot base (c * z) 1 with
      | .ok _ => .ok
      | .error _ => s.atPc 5 cProtection
    else if bitsOf base 63 60 ≤ 7 then .ok else s.atPc 5 cProtection).andThen <|
  (if n = 7 ∧ (!isLocal base || z != 64) then s.atPc 5 cIllegal else .ok)

/-- A ring that `rcfg` may not touch (09 R194, 5). -/
def Ring.inUse (r : Ring) : Bool :=
  r.att || !r.res.isEmpty || !r.takes.isEmpty || r.slots.any (fun e => e.1 == .filling || e.1 == .draining)

/-- `rcfg` (09 R194). -/
def execRcfg (f : Fields) (s : State) : Out :=
  run (.rcfg f) f {
    gate := fun s =>
      let gc := s.gval f f.c
      let n := ringNo f.a
      (if bitsOf gc 8 0 = 0 then .ok else s.rcfgOk n (s.gval f f.b) (bitsOf gc 8 0) (bitsOf gc 28 16)).andThen
        (if (s.myTc.ring n).inUse then s.atPc 5 cRingState else .ok)
    act := fun s =>
      let gc := s.gval f f.c
      let c := bitsOf gc 8 0
      s.setMyTc (fun t => t.setRing (ringNo f.a) (fun _ =>
        if c = 0 then Ring.fresh
        else { Ring.fresh with base := s.gval f f.b, z := 64 * bitsOf gc 28 16, c := c, slots := List.replicate c (.empty, 0) })) } s

/-- The word of `rstat` (09 R199). -/
def ringWord (r : Ring) : W64 :=
  if r.c = 0 then 0
  else BitVec.ofNat 64 (r.freeCount + r.filled <<< 16 + r.head <<< 32 + r.tail <<< 40 + r.err.toNat <<< 48 + 1 <<< 49
    + r.att.toNat <<< 50)

/-- `rstat` (09 R199). -/
def execRstat (f : Fields) (s : State) : Out :=
  run (.rstat f) f { act := fun s => s.quick (Dest.ofG f.d) (.g (ringWord (s.myTc.ring (ringNo f.a)))) } s

/-- RING_RESERVATION_SERVED: slot TAIL is EMPTY and goes to the oldest reservation (09 R195). -/
def execRingReservationServed (k : CoreId) (ring : Nat) (s : State) : Out :=
  let r := (s.tc k).ring ring
  match r.res with
  | w :: rest =>
    happen (r.c != 0 && r.tag r.tail == .empty && w.copy.isNone) (fun s =>
      (s.setTc k (fun t => t.setRing ring (fun r => { r.fill with res := rest }))).landG (s.core k).task ⟨k, w.ctx⟩ w.tok
        (r.addr r.tail)) s
  | [] => happen false id s

/-- RING_TAKE_SERVED: slot HEAD is FULL and goes to the oldest take (09 R196). -/
def execRingTakeServed (k : CoreId) (ring : Nat) (s : State) : Out :=
  let r := (s.tc k).ring ring
  match r.takes with
  | w :: rest =>
    happen (r.c != 0 && r.tag r.head == .full) (fun s =>
      (s.setTc k (fun t => t.setRing ring (fun r => { r.drain with takes := rest }))).landG (s.core k).task ⟨k, w.ctx⟩ w.tok
        (r.addr r.head)) s
  | [] => happen false id s

end Sys2Proof.Machine
end

