-- ==== Sys2Proof/Machine/Copy.lean ====
section
/-! DEFINITION. The copy engine (14 R316-R330) and follow-ons (10 R217, 11 R243). -/

namespace Sys2Proof.Machine

open Sys2Proof Sys2Proof.Lanes

/-! ## Operands (14 R316) -/

/-- What a copy operand names; none is PROTECTION. -/
def spanOf (k : CoreId) (v : W64) : Option Span :=
  let c := bitsOf v 63 60
  if v.toNat < 2 ^ 19 then some (.spad v.toNat)
  else if c ≤ 7 then some (.va v.toNat)
  else if c = 15 then (if bitsOf v 59 19 = 0 then some (.spad (bitsOf v 18 0)) else none)
  else if c = 12 then
    let j : CoreId := ⟨bitsOf v 59 51, bitsOf v 50 49, bitsOf v 48 39⟩
    if bitsOf v 38 19 = 0 ∧ j.num ≤ 991 then
      some (if j = k then .spad (bitsOf v 18 0) else .peer j (bitsOf v 18 0))
    else none
  else none

/-- What `cp` or `cps` asks for: rows of bytes and their strides. -/
structure CopyJob where
  ring : Option (Fin 8)
  dst : W64
  src : W64
  rowBytes : Nat
  rows : Nat
  ds : Nat
  ss : Nat
  deriving DecidableEq, Repr

/-- The stream's length. -/
def CopyJob.len (j : CopyJob) : Nat := j.rowBytes * j.rows

/-- The ring number of a ring destination. -/
def ringDest (f : Fields) : Option (Fin 8) := if f.rg then some ⟨ringNo f.a % 8, Nat.mod_lt _ (by decide)⟩ else none

/-- The job of `cp` (14 R328) and of `cps` (14 R329). -/
def State.cpJob (s : State) (f : Fields) : CopyJob :=
  ⟨ringDest f, s.gval f f.a, s.gval f f.b, (s.gval f f.c).toNat, 1, 0, 0⟩
@[inherit_doc State.cpJob] def State.cpsJob (s : State) (f : Fields) : CopyJob :=
  let d := s.gval f f.c
  ⟨ringDest f, s.gval f f.a, s.gval f f.b, bitsOf d 19 0, bitsOf d 31 20 + 1, 16 * bitsOf d 63 48, 16 * bitsOf d 47 32⟩

/-- The first byte of `[o, o + n)` that LocalOffset refuses (09 R169). -/
def firstLocalBad (t : TaskCore) (foot o n : Nat) : Option Nat :=
  let bad := (if decide (foot < o + n) then [max o foot] else [])
    ++ t.stash.toList.filterMap (fun x => match x with
      | some st => if st.region < o + n ∧ o < st.region + 2 ^ st.cap then some (max o st.region) else none
      | none => none)
  if n = 0 then none
  else match bad with
    | [] => none
    | b :: bs => some (bs.foldl min b)

/-- Check 2 of R317 on the rows of one operand. -/
def State.localSpans (s : State) (v : W64) (rows stride n : Nat) : Verdict :=
  match spanOf s.cur.core v with
  | some (.spad o) => firstBad ((List.range rows).map (fun r => match firstLocalBad s.myTc s.foot (o + stride * r) n with
      | some b => .fault 5 ⟨cProtection, 0, v + BitVec.ofNat 64 (b - o)⟩
      | none => .ok))
  | _ => .ok

/-- The least of a list of addresses with their answers. -/
def leastBad (rs : List (Nat × PlbAnswer)) : Option (Nat × PlbAnswer) :=
  match rs.filter (fun r => r.2 != .granted) with
  | [] => none
  | b :: bs => some (bs.foldl (fun x y => if y.1 < x.1 then y else x) b)

/-- Check 3 of R317 on the rows of one operand. -/
def State.plbSpans (s : State) (v : W64) (rows stride n right : Nat) : Verdict :=
  match spanOf s.cur.core v with
  | some (.va a) => firstBad ((List.range rows).map (fun r =>
      match leastBad (s.plbAnswers s.cur.core s.me.domain (a + stride * r) n right) with
      | some (b, ans) => .fault 5 ⟨cProtection, if ans = .miss then 2 else 0, BitVec.ofNat 64 b⟩
      | none => .ok))
  | _ => .ok

/-- The ring conditions of 14 R323. -/
def State.ringDestOk (s : State) (n : Fin 8) (len : Nat) : Verdict :=
  let r := s.myTc.ring n
  if r.c = 0 || n.val == 7 || r.err || (r.att && !s.attachedAs n true) || len = 0 || len % r.z != 0 then s.atPc 5 cRingState
  else .ok

/-- The checks of 14 R317. -/
def State.copyOk (s : State) (j : CopyJob) : Verdict :=
  ((match j.ring with
    | some _ => .ok
    | none => need (spanOf s.cur.core j.dst).isSome 5 cProtection j.dst) : Verdict).andThen <|
  (need (spanOf s.cur.core j.src).isSome 5 cProtection j.src).andThen <|
  ((match j.ring with
    | some _ => .ok
    | none => s.localSpans j.dst j.rows j.ds j.rowBytes) : Verdict).andThen <|
  (s.localSpans j.src j.rows j.ss j.rowBytes).andThen <|
  (s.plbSpans j.src j.rows j.ss j.rowBytes rightR).andThen <|
  ((match j.ring with
    | some _ => .ok
    | none => s.plbSpans j.dst j.rows j.ds j.rowBytes rightW) : Verdict).andThen <|
  ((if j.rowBytes < 2 ^ 40 then .ok else s.atPc 5 cIllegal) : Verdict).andThen <|
  (match j.ring with
    | some n => s.ringDestOk n j.len
    | none => match spanOf s.cur.core j.dst with
      | some (.peer _ _) => s.replayOk [j.dst] false
      | _ => .ok)

/-! ## A copy in flight -/

/-- The stream's length. -/
def Copy.len (c : Copy) : Nat := c.rowBytes * c.rows

/-- A copy by its name. -/
def State.copy (s : State) (id : Nat) : Option Copy := s.copies.find id
@[inherit_doc State.copy] def State.setCopy (s : State) (id : Nat) (f : Copy → Copy) : State :=
  { s with copies := s.copies.adjust id f }

/-- The task part that a copy serves. -/
def State.copyTc (s : State) (c : Copy) : TaskCore := s.partOf c.task c.core
@[inherit_doc State.copyTc] def State.setCopyTc (s : State) (c : Copy) (f : TaskCore → TaskCore) : State := s.setPart c.task c.core f

/-- The pieces of stream bytes `[p, p + n)` by row: offset from the span's start, and length. -/
def rowSegs (w stride : Nat) : Nat → Nat → Nat → List (Nat × Nat)
  | 0, _, _ => []
  | fuel + 1, p, n =>
    if n = 0 || w = 0 then []
    else
      let k := min n (w - p % w)
      (stride * (p / w) + p % w, k) :: rowSegs w stride fuel (p + k) (n - k)

/-- The segments of a chunk on one side. -/
def Copy.segs (c : Copy) (stride p n : Nat) : List (Nat × Nat) := rowSegs c.rowBytes stride (n + 1) p n

/-- The slot's address of a ring destination for stream byte `p`, as a span. -/
def Copy.ringSpan (c : Copy) (r : Ring) (p : Nat) : Option Span :=
  match c.slot with
  | some i => spanOf c.core (r.addr i + BitVec.ofNat 64 (p % r.z))
  | none => none

/-- The stretches that a chunk writes, and those that it reads: spans with lengths. -/
def State.dstSpans (s : State) (c : Copy) (p n : Nat) : List (Span × Nat) :=
  match c.dst with
  | .ring i => match c.ringSpan ((s.copyTc c).ring i) p with
    | some sp => [(sp, n)]
    | none => []
  | .spad o => (c.segs c.ds p n).map (fun g => (.spad (o + g.1), g.2))
  | .peer k o => (c.segs c.ds p n).map (fun g => (.peer k (o + g.1), g.2))
  | .va a => (c.segs c.ds p n).map (fun g => (.va (a + g.1), g.2))
@[inherit_doc State.dstSpans] def Copy.srcSpans (c : Copy) (p n : Nat) : List (Span × Nat) :=
  match c.src with
  | .spad o => (c.segs c.ss p n).map (fun g => (.spad (o + g.1), g.2))
  | .peer k o => (c.segs c.ss p n).map (fun g => (.peer k (o + g.1), g.2))
  | .va a => (c.segs c.ss p n).map (fun g => (.va (a + g.1), g.2))
  | .ring _ => []

/-- The group of the replay scope to which a scope belongs. -/
def State.groupOf (s : State) (scope : W64) : Option W64 := (s.replayOf scope).bind (fun h => (s.hub h).map (·.group))

/-- What stands in the way of a chunk: nothing, a wait, or an error. -/
inductive Way where
  | clear
  | wait
  | error (cause : Nat)
  deriving DecidableEq, Repr

/-- The first that is not clear. -/
def Way.and (a b : Way) : Way :=
  match a with
  | .clear => b
  | .error c => .error c
  | .wait => match b with
    | .error c => .error c
    | _ => .wait

/-- Translate a range for an engine that serves core `k`: its translations, or what stands in the way. A miss is no error, and waits; in a
region that no pager serves it waits until a translation stands (14 R326, R337; log 23, DEDUCED). -/
def State.engineVa (s : State) (k : CoreId) (dom : BitVec 16) (a n kind : Nat) (wr : Bool) (me : Nat) :
    Way × List TlbEntry × State :=
  if n = 0 then (.clear, [], s)
  else match s.findPages (s.clu k) a n kind dom with
    | (.wait, ts, s1) => (.wait, ts, s1)
    | (.none, ts, s1) => (.wait, ts, s1)
    | (.page _, ts, s1) =>
      let lines := ((linesOf a n).map (fun l => lineOf (paIn ts (l * 64))))
      if ts.any (fun t => !s1.alive k.pkg (paPkg t.pa)) then (.error cMachineCheck, ts, s1)
      else if wr && ts.any (·.rro) then (.error cProtection, ts, s1)
      else if lines.any (fun l => !s1.lineOpen l me) then (.wait, ts, s1)
      else if !wr && !s1.poison.isEmpty && lines.any s1.poison.contains then (.error cUncorrectable, ts, s1)
      else (.clear, ts, s1)

/-- The stream of a core has room for `n` packets of an engine to package `q` (18 R386). -/
def State.streamRoom (s : State) (k : CoreId) (q n : Nat) : Bool := q == k.pkg || decide (s.inStream k q + n ≤ 4096)

/-- What stands in the way of reading, or of writing, one stretch. `me` owns what it owns. -/
def State.spanWay (s : State) (c : Copy) (me : Nat) (wr : Bool) (x : Span × Nat) : Way × State :=
  match x.1 with
  | .spad o =>
    let t := s.copyTc c
    (if !wr && t.rotten o x.2 then .error cUncorrectable else .clear, s)
  | .peer k o =>
    (if !s.alive c.core.pkg k.pkg then .error cMachineCheck
      else if (s.core k).switch.isSome then .wait
      else if !s.windowOk k c.dom o x.2 (if wr then 41 else 42) then .error cWindow
      else if !wr && (s.tc k).rotten o x.2 then .error cUncorrectable
      else if wr && !s.streamRoom c.core k.pkg (linesOf o x.2).length then .wait
      else .clear, s)
  | .va a =>
    let r := s.engineVa c.core c.dom a x.2 (if wr then 1 else 0) wr me
    (r.1.and (if wr && r.2.1.any (fun t => !s.streamRoom c.core (paPkg t.pa) (linesOf a x.2).length) then .wait else .clear), r.2.2)
  | .ring _ => (.clear, s)

/-- Where a span begins in its space. -/
def Span.addr : Span → Nat
  | .spad o => o
  | .peer _ o => o
  | .va a => a
  | .ring _ => 0

/-- The undo log of a scratchpad has no room for what stretches write there (15 R351). -/
def State.logsShort (s : State) (c : Copy) (xs : List (Span × Nat)) : Bool :=
  let rp := s.replayOf c.scope
  let ours (x : Span × Nat) : List (Nat × Nat) := match x.1 with
    | .spad o => placed c.swz o x.2
    | _ => []
  let theirs (k : CoreId) (x : Span × Nat) : List (Nat × Nat) := match x.1 with
    | .peer j o => if j = k then placed c.swz o x.2 else []
    | _ => []
  rp.isSome && ((s.copyTc c).logsFull rp (xs.flatMap ours) || xs.any (fun x => match x.1 with
    | .peer k _ => (s.tc k).logsFull rp (xs.flatMap (theirs k))
    | _ => false))

/-- The context whose transfer needs a 256th block freezes; a stream's is the lead (15 R351; log 28, DEDUCED). -/
def State.logFreeze (s : State) (c : Copy) (xs : List (Span × Nat)) : State :=
  if s.logsShort c xs && (c.handle == 0 || (s.ctx ⟨c.core, c.ctx⟩).incarn == c.incarn) then
    s.takeFault ⟨c.core, c.ctx⟩ ⟨cProtection, 0, BitVec.ofNat 64 ((xs.head?.map (·.1.addr)).getD 0)⟩
  else s

/-- The physical lines of class 0x0-0x7 that stretches touch. -/
def State.spanLines (s : State) (c : Copy) (xs : List (Span × Nat)) : List Nat :=
  xs.flatMap (fun x => match x.1 with
    | .va a => ((linesOf a x.2).filterMap (fun l => (s.physOf (s.clu c.core) (l * 64)).map lineOf))
    | _ => [])

/-- Every destination line can be brought into its slice, or is held there, and host memory's can be asked for (12 R272, 22 R467). -/
def State.linesFit (s : State) (c : Copy) (xs : List (Span × Nat)) : Bool :=
  (s.groupOf c.scope).isSome
    || s.hostRoom ((s.spanLines c xs).filter (fun l => paKind (64 * l) == 7 && !s.owned.has l))
      && ((s.spanLines c xs).foldlM (fun (s : State) l => s.engineLine (s.clu c.core) (64 * l) c.nud c.cad (tenantOf c.dom)) s).isSome

/-- The way of a list of stretches. -/
def State.spansWay (s : State) (c : Copy) (me : Nat) (wr : Bool) (xs : List (Span × Nat)) : Way × State :=
  let r := xs.foldl (fun r x =>
    let q := r.2.spanWay c me wr x
    (r.1.and q.1, q.2)) (Way.clear, s)
  let w := if wr && s.logsShort c xs then r.1.and (.error cProtection) else r.1
  (if wr && w == .clear && !r.2.linesFit c xs then .wait else w, r.2)

/-- Accesses for which a chunk waits at a stretch: the writes of the issuing context that precede the copy, to what it reads and to what it
writes; and at a line that it reads and does not own, a store that stands in its way (13 R294, 14 R319; for the lines that it writes
log 23, DEDUCED). -/
def State.behind (s : State) (id : Nat) (c : Copy) (wr : Bool) (x : Span × Nat) : Bool :=
  let lines := s.spanLines c [x]
  let near (o off len : Nat) : Bool := decide (off < o + x.2) && decide (o < off + len)
  let meets (b : Access) (q : Part) : Bool := match x.1, b.place q with
    | .va _, some .shared => (match s.partPa b q with
      | some pa => lines.contains (lineOf pa)
      | none => true)
    | .spad o, some (.bank k off) => b.own k && b.task == c.task && near o off q.len
    | .peer j o, some (.bank k off) => j == k && !b.own k && near o off q.len
    | _, _ => false
  s.accs.any (fun e =>
    let b := e.2
    !b.abandoned && b.failure.isNone && b.op.isWrite && b.parts.any (fun q => !q.done && meets b q
      && ((decide (e.1 < id) && c.handle != 0 && sameCtx b.task c.task b.ctx ⟨c.core, c.ctx⟩)
        || (!wr && (decide (e.1 < id) || b.stage == .placed) && s.inPath (s.clu c.core) (some c.core) c.task e
          && (s.partPa b q).any (fun pa => s.owned.find (lineOf pa) != some id)))))

/-- The package across Fenco of a confidential line that stretches touch (18 R388). -/
def State.cipherOf (s : State) (c : Copy) (xs : List (Span × Nat)) : Option Nat :=
  xs.findSome? (fun x => match x.1 with
    | .va a => (linesOf a x.2).findSome? (fun l => (s.pageFor (s.clu c.core) (l * 64)).bind (fun t =>
        if t.conf && paPkg t.pa != c.core.pkg then some (paPkg t.pa) else none))
    | _ => none)

/-- The stretches' bytes as the copy reads them. -/
def State.readSpan (s : State) (c : Copy) (x : Span × Nat) : List Byte :=
  match x.1 with
  | .spad o => (s.copyTc c).spad.read o x.2
  | .peer k o => (s.tc k).spad.read o x.2
  | .va a => s.readVa (tenantOf c.dom) (s.findPages (s.clu c.core) a x.2 0 c.dom).2.1 a x.2
  | .ring _ => []

/-- An engine's write into a scratchpad, counted in the slots of its rings (09 R175, R176, R198). -/
def TaskCore.engineStore (t : TaskCore) (rp : Option W64) (swz o : Nat) (bs : List Byte) : TaskCore :=
  (spanPieces o bs.length).foldl (fun t p => t.countSlots (swizzle swz p.1) p.2) (t.engineWrite rp swz o bs)

/-- The pieces of a virtual range that lie in one line each. -/
def vaPieces (a : Nat) (bs : List Byte) : List (Nat × List Byte) :=
  (linesOf a bs.length).map (fun l =>
    let lo := max a (64 * l)
    (lo, (bs.drop (lo - a)).take (min (64 * l + 64 - lo) (a + bs.length - lo))))

/-- Bytes written by an engine at virtual addresses that are translated: performed line by line. -/
def State.writeVa (s : State) (w : Writer) (l : CluId) (dom : BitVec 16) (a : Nat) (bs : List Byte) : State :=
  let ts := (s.findPages l a bs.length 1 dom).2.1
  (vaPieces a bs).foldl (fun s p =>
    let pa := paIn ts p.1
    (s.perform w pa (p.2.map some)).packAll (ts.any (fun t => t.page == p.1 / 65536 && t.cmp)) pa p.2.length) s

/-- An engine's packets take their numbers in the stream of its core (18 R386). -/
def State.numbered (s : State) (k : CoreId) (q n : Nat) : State :=
  if q = k.pkg then s else (List.range n).foldl (fun s _ => (s.takeNumber k q).2) s

/-- Bytes of an engine's stretch in class 0x0-0x7 have been written: their lines are stamped, their packets numbered, and they count in
the slots that stand there (09 R198, 12 R271, 18 R386). -/
def State.wroteVa (s : State) (c : Copy) (a : Nat) (bs : List Byte) (staged : Bool) : State :=
  let l := s.clu c.core
  (vaPieces a bs).foldl (fun s p => match s.physOf l p.1 with
    | some pa =>
      let s1 := if staged then s else ((s.engineLine l pa c.nud c.cad (tenantOf c.dom)).getD s).numbered c.core (paPkg pa) 1
      s1.countLine (lineOf pa) p.2.length
    | none => s) s

/-- One stretch is written by the engine transfer of name `id`; a stream's has no handle (20 R437). -/
def State.writeSpan (s : State) (id : Nat) (c : Copy) (x : Span × Nat) (bs : List Byte) : State :=
  let rp := s.replayOf c.scope
  match x.1 with
  | .spad o => s.setCopyTc c (fun t => t.engineStore rp c.swz o bs)
  | .peer k o => (s.setTc k (fun t => t.engineStore rp c.swz o bs)).numbered c.core k.pkg (linesOf o bs.length).length
  | .va a =>
    let s1 := match s.groupOf c.scope with
      | some h => (vaPieces a bs).foldl (fun (s : State) (p : Nat × List Byte) =>
          s.stage ⟨c.core, c.ctx⟩ c.task c.dom h (BitVec.ofNat 64 p.1) c.pc p.2 (some id)) s
      | none => s.writeVa ⟨tenantOf c.dom, c.dom, if c.handle = 0 then 2 else 1, c.core, c.ctx⟩ (s.clu c.core) c.dom a bs
    s1.wroteVa c a bs (s.groupOf c.scope).isSome
  | .ring _ => s

/-- The bytes that a transfer of a replay scope has staged are not all accepted (14 R320, 15 R351). -/
def State.stagedBy (s : State) (id : Nat) : Bool := s.gsts.any (fun e => e.2.engine == some id)

/-- Bytes split over stretches. -/
def splitOver : List (Span × Nat) → List Byte → List ((Span × Nat) × List Byte)
  | [], _ => []
  | x :: xs, bs => (x, bs.take x.2) :: splitOver xs (bs.drop x.2)

/-- The next stream byte to start, and the length of its chunk: a ring's chunk ends with its slot (14 R318, R323). -/
def State.nextChunk (s : State) (c : Copy) : Nat × Nat :=
  let p := c.started
  let rest := min (c.len - p) (4096 - p % 4096)
  match c.dst with
  | .ring i =>
    let z := ((s.copyTc c).ring i).z
    (p, min rest (z - p % z))
  | _ => (p, rest)

/-- The copy runs on its core: its task is bound there, no switch is under way, and it holds a slot. -/
def State.copyLive (s : State) (c : Copy) : Bool :=
  !c.saved && (s.core c.core).task == c.task && (s.core c.core).switch.isNone

/-- The lines of a chunk come into the copy's ownership (14 R319). -/
def State.own (s : State) (id : Nat) (lines : List Nat) : State :=
  { s with
    owned := lines.foldl (fun m l => Map.set m l id) s.owned
    hostHeld := if s.hostHeld.isEmpty then [] else s.hostHeld.filter (fun l => !lines.contains l) }
/-- Lines go free, those apart that another chunk of the same engine still holds. -/
def State.disown (s : State) (id : Nat) (lines keep : List Nat) : State :=
  { s with owned := s.owned.filter (fun e => !(e.2 == id && lines.contains e.1 && !keep.contains e.1)) }

/-- A copy ends with an error, the chunks in flight apart; the first error stands, and it stands over the brake (14 R321, R326). -/
def Copy.fail (c : Copy) (cause : Nat) : Copy := match c.ended with
  | .error _ => c
  | _ => { c with ended := .error cause }

/-- The reservation of a copy leaves its ring's queue. -/
def State.withdraw (s : State) (id : Nat) (c : Copy) : State :=
  match c.dst with
  | .ring i => (s.setCopyTc c (fun t => t.setRing i (fun r => { r with res := r.res.filter (fun w => w.copy != some id) }))).setCopy id
      (fun c => { c with waiting := false })
  | _ => s

/-- The copy observes the brake of its scope (14 R321). -/
def State.copyBraked (s : State) (c : Copy) : Bool := !c.free && s.brakeOf c.scope

/-- The ring of a copy has taken ERR (14 R326). -/
def State.copyRingErr (s : State) (c : Copy) : Bool :=
  match c.dst with
  | .ring i => ((s.copyTc c).ring i).err
  | _ => false

/-- A stretch of another core's scratchpad. -/
def Span.isPeer : Span → Bool
  | .peer _ _ => true
  | _ => false

/-- What stretches write in other scratchpads of the package goes there in packets, one for each line (18 R382): the core and the line. -/
def peerLines (c : Copy) (xs : List (Span × Nat)) : List (CoreId × Nat) :=
  (xs.flatMap (fun x => match x.1 with
    | .peer k o => if k.pkg = c.core.pkg then (linesOf o x.2).map (fun l => (k, l)) else []
    | _ => [])).eraseDups

/-- A chunk starts: it takes its destination lines. The windows of a peer answer when its bytes arrive there (06 R121). -/
def State.startChunk (s : State) (id : Nat) (c : Copy) : State :=
  let n := s.nextChunk c
  let ds := (s.dstSpans c n.1 n.2).filter (fun x => !x.1.isPeer)
  let r := s.spansWay c id true ds
  match r.1 with
  | .wait => r.2
  | .error e => (r.2.setCopy id (fun c => c.fail e)).logFreeze c ds
  | .clear =>
    let s1 := (r.2.own id (if (s.groupOf c.scope).isSome then [] else r.2.spanLines c ds)).setCopy id
      (fun c => { c with started := n.1 + n.2, flying := c.flying ++ [n], since := s.now })
    (peerLines c (s.dstSpans c n.1 n.2)).foldl (fun s x => s.board c.core.pkg (s.routerAt c.core) (s.routerAt x.1) (.chunk id x.2)) s1

/-- A copy may start its next chunk. -/
def State.chunkDue (s : State) (c : Copy) : Bool :=
  c.ended == .running && decide (c.started < c.len) && s.copyLive c
    && (match c.dst with
      | .ring _ => c.slot.isSome && c.flying.isEmpty
      | _ => decide (c.flying.length < 4))

/-- COPY_CHUNK_START: the copy observes the brake, and starts its next chunk (14 R318, R321). -/
def execCopyChunkStart (id : Nat) (s : State) : Out :=
  match s.copy id with
  | none => happen false (fun s => s) s
  | some c =>
    let ring := match c.dst with
      | .ring _ => true
      | _ => false
    happen (s.chunkDue c) (fun s =>
      if !ring && s.copyBraked c then s.setCopy id (fun c => { c with ended := .braked })
      else if s.copyRingErr c then s.setCopy id (fun c => c.fail cRingState)
      else s.startChunk id c) s

/-- The first poisoned place of a stretch: a physical address, or an offset (21 R456). -/
def State.rotAt (s : State) (c : Copy) (x : Span × Nat) : Option Nat :=
  match x.1 with
  | .spad o => ((rowsOf o x.2).find? (s.copyTc c).poisonRows.contains).map (fun r => max o (32 * r))
  | .peer k o => ((rowsOf o x.2).find? (s.tc k).poisonRows.contains).map (fun r => max o (32 * r))
  | .va _ => ((s.spanLines c [x]).find? s.poison.contains).map (· * 64)
  | .ring _ => none

/-- A transfer consumes the poison of what it reads (14 R326, R337; 21 R455-R457). Inside a replay scope the read goes on. -/
def State.chunkPoison (s : State) (c : Copy) (xs : List (Span × Nat)) : Bool × State :=
  s.consume c.core c.dom c.scope ((xs.findSome? (s.rotAt c)).getD 0)

/-- A chunk's bytes have been written: its slot is full, or the chunk is whole. -/
def State.chunkWritten (s : State) (id : Nat) (c : Copy) (p n : Nat) : State :=
  let s1 := s.setCopy id (fun c => { c with flying := c.flying.filter (· != (p, n)), written := c.written + n })
  match c.dst with
  | .ring i =>
    let r := (s1.copyTc c).ring i
    if (p + n) % r.z = 0 then
      let more := decide (p + n < c.len)
      let s2 := s1.setCopy id (fun c => { c with slot := none, waiting := more })
      if more then s2.setCopyTc c (fun t => t.setRing i (fun r => { r with res := r.res ++ [⟨0, c.ctx, some id⟩] })) else s2
    else s1
  | _ => s1

/-- The bytes of a chunk are read and written. -/
def State.moveChunk (s : State) (id : Nat) (c : Copy) (p n : Nat) : State :=
  let ds := s.dstSpans c p n
  let bs := (c.srcSpans p n).flatMap (s.readSpan c)
  let lines := s.spanLines c ds
  let s1 := (splitOver ds bs).foldl (fun s x => s.writeSpan id c x.1 x.2) s
  let keep := (c.flying.filter (· != (p, n))).flatMap (fun e => s.spanLines c (s.dstSpans c e.1 e.2))
  (s1.disown id lines keep).chunkWritten id c p n

/-- A stretch cut at the lines' boundaries: no aligned part of 16 B is split (12 R277, 14 R319). -/
def cutStretch : Nat → Span × Nat → List (Span × Nat)
  | 0, _ => []
  | fuel + 1, x =>
    let n := 64 - x.1.addr % 64
    if x.2 ≤ n then [x]
    else (x.1, n) :: cutStretch fuel (x.1.shift n, x.2 - n)

/-- A copy is stopped while a chunk is in flight: the chunk is left partly written (20 R434). Which of its pieces are is left open (log
29, DESIGN CHOICE). -/
def State.tearChunk (s : State) (id : Nat) (c : Copy) (x : Nat × Nat) : State :=
  let ds := s.dstSpans c x.1 x.2
  let ss := c.srcSpans x.1 x.2
  let r := s.spansWay c id true ds
  let q := r.2.spansWay c id false ss
  if r.1 == .clear && q.1 == .clear && !ds.any (s.behind id c true) && !ss.any (s.behind id c false) then
    let d := q.2.draw
    let pieces := splitOver (ds.flatMap (fun y => cutStretch (y.2 + 1) y)) (ss.flatMap (d.2.readSpan c))
    pieces.zipIdx.foldl (fun s y => if d.1.testBit y.2 then s.writeSpan id c y.1.1 y.1.2 else s) d.2
  else s

/-- A chunk in flight ends with an error: its lines go free. -/
def State.loseChunk (s : State) (id : Nat) (c : Copy) (p n cause : Nat) : State :=
  let rest := c.flying.filter (· != (p, n))
  (s.disown id (s.spanLines c (s.dstSpans c p n)) (rest.flatMap (fun e => s.spanLines c (s.dstSpans c e.1 e.2)))).setCopy id
    (fun c => { (c.fail cause) with flying := rest })

/-- Nothing holds a chunk in flight back, or it fails. -/
def State.chunkReady (s : State) (id : Nat) (c : Copy) (p n : Nat) : Bool :=
  !(s.dstSpans c p n).any (s.behind id c true) && !(c.srcSpans p n).any (s.behind id c false)
    && (s.spansWay c id true (s.dstSpans c p n)).1 != .wait && (s.spansWay c id false (c.srcSpans p n)).1 != .wait

/-- The packages in which stretches lie. -/
def State.spanPackages (s : State) (c : Copy) (xs : List (Span × Nat)) : List Nat :=
  xs.flatMap (fun x => match x.1 with
    | .peer k _ => [k.pkg]
    | _ => (s.spanLines c [x]).map (fun l => paPkg (64 * l)))

/-- COPY_CHUNK_END: a chunk's bytes are read, and its writes end (14 R318, R319). -/
def execCopyChunkEnd (id chunk : Nat) (s : State) : Out :=
  match s.copy id with
  | none => happen false (fun s => s) s
  | some c => match c.flying.find? (fun e => e.1 / 4096 == chunk) with
    | none => happen false (fun s => s) s
    | some (p, n) =>
      let held := (s.dstSpans c p n).any (s.behind id c true) || (c.srcSpans p n).any (s.behind id c false)
      let away := (peerLines c (s.dstSpans c p n)).any (fun x => s.riding c.core.pkg (.chunk id x.2))
      happen (!held && !away) (fun s =>
        let r := s.spansWay c id true (s.dstSpans c p n)
        let q := r.2.spansWay c id false (c.srcSpans p n)
        match r.1.and q.1 with
        | .wait => q.2
        | .clear => q.2.moveChunk id c p n
        | .error e =>
          if e = cUncorrectable then
            let u := q.2.chunkPoison c (c.srcSpans p n)
            if u.1 then u.2.loseChunk id c p n e else u.2.moveChunk id c p n
          else (q.2.loseChunk id c p n e).logFreeze c (s.dstSpans c p n)) s

/-- COPY_SLOT_RESERVE: the head reservation of a ring is a copy's: it is granted slot TAIL once that is EMPTY, or it is
withdrawn where the copy observes a brake (14 R323). -/
def execCopySlotReserve (id : Nat) (s : State) : Out :=
  match s.copy id with
  | none => happen false (fun s => s) s
  | some c => match c.dst with
    | .ring i =>
      let r := (s.copyTc c).ring i
      let braked := s.copyBraked c
      let granted := (r.res.head?.map (·.copy)) == some (some id) && r.c != 0 && r.tag r.tail == .empty
      happen (c.waiting && c.ended == .running && s.copyLive c && (braked || r.err || granted)) (fun s =>
        if braked then (s.withdraw id c).setCopy id (fun c => { c with ended := .braked })
        else if r.err then (s.withdraw id c).setCopy id (fun c => c.fail cRingState)
        else (s.setCopyTc c (fun t => t.setRing i (fun r => { r.fill with res := r.res.drop 1 }))).setCopy id
          (fun c => { c with slot := some r.tail, waiting := false })) s
    | _ => happen false (fun s => s) s

/-! ## Status, finish, follow-ons (14 R320, R324, R325; 10 R217) -/

/-- The status word (14 R325). -/
def copyWord (st cause bytes : Nat) : W64 := BitVec.ofNat 64 (bytes <<< 24 + cause <<< 16 + st)

/-- BYTES of a copy that runs or finishes: whole chunks, or for a ring that did not fail whole slots. -/
def State.copyBytes (s : State) (c : Copy) : Nat :=
  match c.dst, c.ended with
  | .ring _, .error _ => if c.written = c.len then c.written else c.written / 4096 * 4096
  | .ring _, .running => if c.written = c.len then c.written else c.written / 4096 * 4096
  | .ring i, .braked => c.written / ((s.copyTc c).ring i).z * ((s.copyTc c).ring i).z
  | _, _ => c.written

/-- The final status of a copy. -/
def State.copyFinal (s : State) (c : Copy) : W64 :=
  match c.ended with
  | .running => copyWord 1 0 (s.copyBytes c)
  | .braked => copyWord 2 0 (s.copyBytes c)
  | .error e => copyWord 3 e (s.copyBytes c)

/-- The status of a handle as it stands, for the task of the issuing context (14 R324, R325). -/
def State.copyStatus (s : State) (h : W64) : W64 :=
  match s.copies.search (fun _ c => c.task == s.myTask && (s.myTask.isSome || c.core == s.cur.core)
      && BitVec.ofNat 64 c.handle == h) with
  | some (_, c) => copyWord 0 0 (s.copyBytes c)
  | none => match s.myTc.statuses.find? (fun e => BitVec.ofNat 64 e.1 == h) with
    | some e => e.2
    | none => copyWord 4 0 0

/-- The handle names a running copy of the task. -/
def State.copyRuns (s : State) (h : W64) : Bool :=
  s.copies.any (fun e => e.2.task == s.myTask && (s.myTask.isSome || e.2.core == s.cur.core)
    && BitVec.ofNat 64 e.2.handle == h)

/-- A discarded follow-on leaves its destination as it was (10 R217). -/
def TaskCore.dropPend (t : TaskCore) (toks : List Nat) : TaskCore :=
  t.setCtx 0 (fun k => { k with pend := k.pend.filter (fun p => !toks.contains p.tok) })

/-- The follow-ons of a copy start, or are discarded: FOD after a brake, a deferred fault after an error (10 R217, 11
R243). What 10 R201 recorded at the issue of a discarded one stays (log 16, DESIGN CHOICE). -/
def TaskCore.releaseFollow (t : TaskCore) (id : Nat) (ended : CopyEnd) : TaskCore :=
  let ms := t.mat.queue.filter (fun e => e.follows == some id)
  let es := t.env.queue.filter (fun e => e.follows == some id)
  match ended with
  | .running =>
    { t with
      mat := { t.mat with queue := t.mat.queue.map (fun e => if e.follows = some id then { e with follows := none } else e) }
      env := { t.env with queue := t.env.queue.map (fun e => if e.follows = some id then { e with follows := none } else e) } }
  | e =>
    let t1 : TaskCore := { t with
      mat := { t.mat with queue := t.mat.queue.filter (fun e => e.follows != some id) }
      env := { t.env with queue := t.env.queue.filter (fun e => e.follows != some id) } }
    let t2 := t1.dropPend (ms.filterMap (·.tok) ++ es.filterMap (·.tok))
    match e with
    | .error c =>
      let t3 := ms.foldl (fun t m => { t with deferred := t.deferred ++ [⟨c, m.pc, false, m.seq⟩] }) t2
      es.foldl (fun t m => { t with deferred := t.deferred ++ [⟨c, m.pc, false, m.seq⟩] }) t3
    | _ => if ms.isEmpty && es.isEmpty then t2 else { t2 with mat := { t2.mat with fod := true } }

/-- A copy has no chunk left to start or to end. -/
def Copy.over (c : Copy) : Bool :=
  c.flying.isEmpty && (match c.ended with
    | .running => decide (c.written = c.len) && !c.waiting
    | _ => true)

/-- COPY_FINISH: the final status, the follow-on, the share (14 R320). The writes of every chunk were performed as it
ended, or in a replay scope staged, and are accepted; a ring that has taken ERR meanwhile makes it an error (14 R326). -/
def execCopyFinish (id : Nat) (s : State) : Out :=
  match (s.copy id).map (fun c => if c.ended = .running ∧ s.copyRingErr c then c.fail cRingState else c) with
  | none => happen false (fun s => s) s
  | some c => happen (c.over && s.copyLive c && !s.stagedBy id) (fun s =>
      let s1 := s.withdraw id c
      let s2 := s1.setCopyTc c (fun t =>
        ({ t with statuses := ((c.handle, s.copyFinal c) :: t.statuses).take 16 } : TaskCore).releaseFollow id c.ended)
      let s3 : State := { s2 with copies := s2.copies.del id, owned := s2.owned.filter (fun e => e.2 != id) }
      if c.share = 0 then s3 else s3.giveBack c.scope c.share) s

/-! ## The instructions (14 R327-R330) -/

/-- The slots that the copies of a core hold (14 R324). -/
def State.copySlots (s : State) (k : CoreId) : Nat := (s.copies.filter (fun e => e.2.core == k && !e.2.saved)).length

/-- The next number of a task's copies: 0 is skipped (14 R324). -/
def nextHandle (n : Nat) : Nat := if (n + 1) % 2 ^ 32 = 0 then 1 else (n + 1) % 2 ^ 32

/-- MOD[53:51] of a copy is its swizzle. -/
def copySwz (f : Fields) : Nat := f.mod.toNat % 8

/-- `.then` (X[32]). -/
def copyThen (f : Fields) : Bool := f.x.toNat.testBit 0

/-- A copy issues. -/
def State.issueCopy (s0 : State) (f : Fields) (j : CopyJob) : State :=
  let s := s0.tickIf f
  let sh := s.carve
  let s1 := sh.2
  let h := s1.myTc.nextCopy
  let id := s1.nextId
  let cp : Copy := {
    core := s.cur.core, task := s.myTask, ctx := s.cur.ctx, handle := h, pc := s.myPc, dom := s.me.domain, incarn := s.me.incarn
    dst := match j.ring with
      | some i => .ring i
      | none => (spanOf s.cur.core j.dst).getD (.spad 0)
    src := (spanOf s.cur.core j.src).getD (.spad 0), rowBytes := j.rowBytes, rows := j.rows, ds := j.ds, ss := j.ss
    swz := copySwz f, nud := f.nud, cad := bitsOf s.me.spr.cad 15 0, reach := f.reachCode, scope := s.me.scope, share := sh.1
    free := s.me.freewheel != 0, started := 0, flying := [], written := 0, ended := .running, slot := none
    waiting := j.ring.isSome, saved := false, since := s.now }
  let s2 : State := { s1 with copies := s1.copies.set id cp, nextId := id + 1 }
  let s3 := s2.setMyTc (fun t => { t with nextCopy := nextHandle h })
  let s4 := match j.ring with
    | some i => s3.setMyTc (fun t => t.setRing i (fun r => { r with res := r.res ++ [⟨0, s.cur.ctx, some id⟩] }))
    | none => if cp.len = 0 then s3 else if s3.copyBraked cp then s3.setCopy id (fun c => { c with ended := .braked }) else s3.startChunk id cp
  let s5 : State := if copyThen f then { s4 with pk := { s4.pk with follow := some id } } else s4
  s5.quick (Dest.ofG f.d) (.g (BitVec.ofNat 64 h))

/-- The carver waits while it must borrow (15 R344). -/
def State.carveHold (s : State) : Verdict := if !s.me.stack.isEmpty && s.me.mustBorrow then .hold else .ok

/-- A copy instruction. -/
def copyInstr (i : Fields → Instr) (job : State → CopyJob) (f : Fields) (s : State) : Out :=
  run (i f) f {
    gate := fun s => s.accessStall.andThen ((s.copyOk (job s)).andThen
      ((if 16 ≤ s.copySlots s.cur.core then .hold else .ok : Verdict).andThen s.carveHold))
    act := fun s => s.issueCopy f (job s) } s

/-- `cp` (14 R328). -/
def execCp (f : Fields) (s : State) : Out := copyInstr .cp (fun s => s.cpJob f) f s
/-- `cps` (14 R329). -/
def execCps (f : Fields) (s : State) : Out := copyInstr .cps (fun s => s.cpsJob f) f s

/-- `cpw` (14 R330). -/
def execCpw (f : Fields) (s : State) : Out :=
  run (.cpw f) f {
    gate := fun s => if s.copyRuns (s.gval f f.a) && !s.braked then .hold else .ok
    act := fun s => s.quick (Dest.ofG f.d) (.g (s.copyStatus (s.gval f f.a))) } s
/-- `cpq` (14 R330). -/
def execCpq (f : Fields) (s : State) : Out :=
  run (.cpq f) f { act := fun s => s.quick (Dest.ofG f.d) (.g (s.copyStatus (s.gval f f.a))) } s

end Sys2Proof.Machine
end

