-- ==== Sys2Proof/Machine/Streams.lean ====
section
/-! DEFINITION. Stack engines and streams (14 R331-R338). -/

namespace Sys2Proof.Machine

open Sys2Proof Sys2Proof.Lanes

/-! ## Records (14 R332, R333) -/

/-- A record read from its 64 bytes; none where a field breaks R332. -/
def streamRec (bs : List Byte) : Option StreamRec :=
  let rowb := field bs 8 4
  let rows := field bs 12 4
  let flags := field bs 36 4
  let base := field bs 0 8
  if base < 2 ^ 63 ∧ 1 ≤ rowb ∧ rowb ≤ 2 ^ 18 ∧ 1 ≤ rows ∧ rows ≤ 4096 ∧ natBits flags 3 5 = 0 ∧ flags < 2 ^ 13 ∧ field bs 44 4 = 0
      ∧ field bs 56 8 = 0 then
    some ⟨base, rowb, rows, (BitVec.ofNat 64 (field bs 16 8)).toInt, (BitVec.ofNat 64 (field bs 24 8)).toInt, field bs 32 4,
      natBits flags 0 3, natBits flags 8 5, field bs 40 4, (BitVec.ofNat 64 (field bs 48 8)).toInt⟩
  else none

/-- The address of row `r` of tile `t` (14 R333). -/
def StreamRec.row (x : StreamRec) (t r : Nat) : Nat :=
  let tile : Int := if x.inner = 0 then x.base + t * x.tstr
    else x.base + ((t / x.inner : Nat) : Int) * x.ostr + ((t % x.inner : Nat) : Int) * x.tstr
  ((tile + r * x.rstr) % 2 ^ 64).toNat

/-! ## `sub`, `drn`, `unsub` (14 R331, R334-R336) -/

/-- The stream attached to a ring of the issuing task. -/
def State.streamOn (s : State) (n : Nat) : Option (Nat × Stream) :=
  s.streams.search (fun _ x => x.task == s.myTask && (s.myTask.isSome || x.core == s.cur.core) && x.ring.val == n)

/-- The 64 stream contexts of the quadrant's stack engine are in use (14 R331). -/
def State.streamsFull (s : State) : Bool :=
  decide (64 ≤ (s.streams.filter (fun e => s.quad e.2.core == s.quad s.cur.core)).length)

/-- The page of an address as the issuing core's slice gives it. -/
def State.pageOf (s : State) (ea : Nat) : Found := (s.findPage (s.clu s.cur.core) ea 0 s.me.domain).1

/-- The record at gs as the issuing context reads it. -/
def State.recordAt (s : State) (gs : W64) : Option StreamRec :=
  match s.physOf (s.clu s.cur.core) gs.toNat with
  | some pa => streamRec (s.readMem s.myTenant pa 64)
  | none => none

/-- BASE is homed in this package's HBM, as far as it is translated. -/
def State.baseHome (s : State) (x : StreamRec) : Bool :=
  match s.pageOf x.base with
  | .page t => paKind (t.at x.base) == 0 && paPkg (t.at x.base) == s.cur.core.pkg
  | .wait => true
  | .none => false

/-- The record's read and its fields. -/
def State.recordOk (s : State) (gs : W64) : Verdict :=
  (need (decide (gs.toNat < 2 ^ 63) && gs.toNat % 64 == 0) 5 cRingState gs).andThen <|
  (s.plbOk gs.toNat 64 rightR gs).andThen <|
  match s.pageOf gs.toNat with
  | .wait => .hold
  | .none => .fault 5 ⟨cTranslation, 0, gs⟩
  | .page t =>
    (need (s.alive s.cur.core.pkg (paPkg (t.at gs.toNat))) 5 cMachineCheck gs).andThen <|
    (need (!s.poison.contains (lineOf (t.at gs.toNat))) 5 cUncorrectable gs).andThen <|
    if !s.lineReady (s.clu s.cur.core) (some s.cur.core) s.myTask (lineOf (t.at gs.toNat)) then .hold
    else match s.recordAt gs with
      | none => .fault 5 ⟨cRingState, 0, gs⟩
      | some x => match s.pageOf x.base with
        | .wait => .hold
        | _ => need (s.baseHome x) 5 cRingState gs

/-- The ring conditions of 14 R334. -/
def State.attachOk (s : State) (f : Fields) : Verdict :=
  let r := s.myTc.ring (ringNo f.a)
  match s.recordAt (s.gval f f.b) with
  | none => .ok
  | some x =>
    if r.c = 0 || ringNo f.a == 7 || r.att || r.err || r.z != x.rowb * x.rows then s.atPc 5 cRingState else .ok

/-- A stream attaches. -/
def State.attach (s : State) (f : Fields) (drain : Bool) (x : StreamRec) : State :=
  let sh := s.carve
  let s1 := sh.2
  let st : Stream := {
    core := s.cur.core, task := s.myTask, drain := drain, ring := ⟨ringNo f.a % 8, Nat.mod_lt _ (by decide)⟩, recd := x
    dom := s.me.domain, cad := bitsOf s.me.spr.cad 15 0, scope := s.me.scope, share := sh.1, free := s.me.freewheel != 0
    tile := 0, slot := none, wrote := false, unsub := false }
  { s1 with streams := s1.streams.set s1.nextId st, nextId := s1.nextId + 1 }.setMyTc
    (fun t => t.setRing (ringNo f.a) (fun r => { r with att := true }))

/-- `sub` and `drn` (14 R334, R335). -/
def streamInstr (i : Fields → Instr) (drain : Bool) (f : Fields) (s : State) : Out :=
  run (i f) f {
    gate := fun s =>
      s.accessStall.andThen <|
      ((if s.writesDone 3 then .ok else .hold : Verdict)).andThen <|
      (s.recordOk (s.gval f f.b)).andThen <|
      (s.attachOk f).andThen <|
      ((if s.streamsFull then (if s.braked then .ok else .hold) else s.carveHold) : Verdict)
    act := fun s =>
      if s.streamsFull then s
      else match s.recordAt (s.gval f f.b) with
        | some x => s.attach f drain x
        | none => s
    wait := fun s =>
      let s1 := (s.findPage (s.clu s.cur.core) (s.gval f f.b).toNat 0 s.me.domain).2
      match s1.recordAt (s.gval f f.b) with
      | some x => (s1.findPage (s.clu s.cur.core) x.base 0 s.me.domain).2
      | none => s1 } s

/-- `sub` (14 R334). -/
def execStreamSub (f : Fields) (s : State) : Out := streamInstr .streamSub false f s
/-- `drn` (14 R335). -/
def execDrn (f : Fields) (s : State) : Out := streamInstr .drn true f s

/-- `unsub` (14 R336): it tells the stream, and holds until the detach. -/
def execUnsub (f : Fields) (s : State) : Out :=
  run (.unsub f) f {
    gate := fun s => if (s.streamOn (ringNo f.a)).isSome then .hold else .ok
    act := fun s => s
    wait := fun s => match s.streamOn (ringNo f.a) with
      | some (id, _) => { s with streams := s.streams.adjust id (fun x => { x with unsub := true }) }
      | none => s } s

/-! ## The stack engine (14 R334-R337) -/

/-- A stream by its name. -/
def State.stream (s : State) (id : Nat) : Option Stream := s.streams.find id
@[inherit_doc State.stream] def State.setStream (s : State) (id : Nat) (f : Stream → Stream) : State :=
  { s with streams := s.streams.adjust id f }

/-- The stream as an engine transfer: what the operations of a copy need of it. -/
def Stream.transfer (x : Stream) : Copy := {
  core := x.core, task := x.task, ctx := 0, handle := 0, pc := 0, dom := x.dom, incarn := 0, dst := .ring x.ring, src := .ring x.ring
  rowBytes := 0, rows := 0, ds := 0, ss := 0, swz := x.recd.swz, nud := x.recd.nud, cad := x.cad, reach := 3, scope := x.scope
  share := x.share, free := x.free, started := 0, flying := [], written := 0, ended := .running, slot := none, waiting := false
  saved := false, since := 0 }

/-- The part of the task that a stream serves. -/
def State.streamTc (s : State) (x : Stream) : TaskCore := s.partOf x.task x.core
@[inherit_doc State.streamTc] def State.setStreamRing (s : State) (x : Stream) (f : Ring → Ring) : State :=
  s.setPart x.task x.core (fun t => t.setRing x.ring f)

/-- The stream's ring. -/
def State.streamRing (s : State) (x : Stream) : Ring := (s.streamTc x).ring x.ring

/-- The stream runs on its core: its task is bound there. At a switch it goes on to its tile boundary (14 R336, 15 R363). -/
def State.streamLive (s : State) (x : Stream) : Bool :=
  (s.core x.core).task == x.task && ((s.core x.core).switch.isNone || x.slot.isSome)

/-- The rows of the tile in progress. -/
def Stream.rows (x : Stream) : List (Span × Nat) :=
  (List.range x.recd.rows).map (fun r => (.va (x.recd.row x.tile r), x.recd.rowb))
/-- The slot of the tile in progress. -/
def State.slotSpan (s : State) (x : Stream) : List (Span × Nat) :=
  match x.slot.bind (fun i => spanOf x.core ((s.streamRing x).addr i)) with
  | some sp => [(sp, (s.streamRing x).z)]
  | none => []

/-- A row lies in class 0x0-0x7, its domain may reach it, and, once translated, in this package's HBM (14 R337). -/
def State.rowsHome (s : State) (x : Stream) : Bool :=
  x.rows.all (fun r => match r.1 with
    | .va a => decide (a + r.2 ≤ 2 ^ 63) && s.plb x.core x.dom a r.2 (if x.drain then rightW else rightR) == .granted
    | _ => false)
    && (s.spanLines x.transfer x.rows).all (fun l => paKind (64 * l) == 0 && paPkg (64 * l) == x.core.pkg)

/-- What stands in the way of the tile in progress. -/
def State.tileWay (s : State) (id : Nat) (x : Stream) : Way × State :=
  let r := s.spansWay x.transfer id x.drain x.rows
  let q := r.2.spansWay x.transfer id (!x.drain) (r.2.slotSpan x)
  let held := (if x.drain then q.2.slotSpan x else x.rows).any (q.2.behind id x.transfer false)
  if !q.2.rowsHome x then (.error cProtection, q.2)
  else if (q.2.streamRing x).err then (.error cRingState, q.2)
  else ((r.1.and q.1).and (if held then .wait else .clear), q.2)

/-- A stream that starts no further tile (14 R336): a freewheel region keeps no stream from the brake (15 R349). -/
def State.streamOver (s : State) (x : Stream) : Bool :=
  x.unsub || (x.recd.count != 0 && decide (x.recd.count ≤ x.tile)) || s.brakeOf x.scope

/-- What the tile in progress reads. -/
def State.tileSource (s : State) (x : Stream) : List (Span × Nat) := if x.drain then s.slotSpan x else x.rows

/-- The bytes of the tile in progress. -/
def State.tileBytes (s : State) (x : Stream) : List Byte :=
  if x.drain then (s.slotSpan x).flatMap (fun e => match e.1 with
    | .spad o => (s.streamTc x).engineRead x.recd.swz o e.2
    | _ => s.readSpan x.transfer e)
  else x.rows.flatMap (s.readSpan x.transfer)

/-- The tile in progress is written. -/
def State.writeTile (s : State) (id : Nat) (x : Stream) : State :=
  let into := if x.drain then x.rows else s.slotSpan x
  (splitOver into (s.tileBytes x)).foldl (fun s e => s.writeSpan id x.transfer e.1 e.2) s

/-- A tile moves, unless it must wait; poison that a stream of a replay scope reads is consumed, and the tile goes on (21
R457). -/
def State.moveTile (s : State) (id : Nat) (x : Stream) : State :=
  let w := s.tileWay id x
  let done (s : State) : State :=
    let s1 := s.writeTile id x
    if x.drain then (s1.own id (if (s1.groupOf x.scope).isSome then [] else s1.spanLines x.transfer x.rows)).setStream id
      (fun x => { x with wrote := true })
    else s1.setStream id (fun x => { x with tile := x.tile + 1, slot := none })
  match w.1 with
  | .clear => done w.2
  | .wait => w.2
  | .error e => if e = cUncorrectable && (w.2.replayOf x.scope).isSome then done (w.2.chunkPoison x.transfer (w.2.tileSource x)).2 else w.2

/-- A tile may begin: slot TAIL is EMPTY for a subscription, slot HEAD is FULL for a drain. -/
def State.tileDue (s : State) (x : Stream) : Bool :=
  let r := s.streamRing x
  r.c != 0 && !r.err && !s.streamOver x
    && (if x.drain then r.tag r.head == .full && r.takes.isEmpty else r.tag r.tail == .empty && r.res.isEmpty)

/-- The slot of the next tile is taken. -/
def State.beginTile (s : State) (id : Nat) (x : Stream) : State :=
  let r := s.streamRing x
  let i := if x.drain then r.head else r.tail
  (s.setStreamRing x (fun r => if x.drain then r.drain else r.fill)).setStream id (fun x => { x with slot := some i })

/-- A step of a stream. -/
def tileStep (id : Nat) (drain : Bool) (s : State) : Out :=
  match s.stream id with
  | none => happen false (fun s => s) s
  | some x => happen (x.drain == drain && s.streamLive x && !x.wrote && (x.slot.isSome || s.tileDue x)) (fun s =>
      let s1 := if x.slot.isSome then s else s.beginTile id x
      match s1.stream id with
      | some y => s1.moveTile id y
      | none => s1) s

/-- STREAM_TILE_WRITE (14 R334). -/
def execStreamTileWrite (id : Nat) (s : State) : Out := tileStep id false s
/-- DRAIN_TILE (14 R335). -/
def execDrainTile (id : Nat) (s : State) : Out := tileStep id true s

/-- The lines that a stream owns go free. -/
def State.disownAll (s : State) (id : Nat) : State := { s with owned := s.owned.filter (fun e => e.2 != id) }

/-- DRAIN_SLOT_EMPTY: the tile's writes have been performed, or in a replay scope accepted (14 R335, 15 R351). -/
def execDrainSlotEmpty (id : Nat) (s : State) : Out :=
  match s.stream id with
  | none => happen false (fun s => s) s
  | some x => happen (x.drain && x.wrote && !s.stagedBy id) (fun s =>
      ((s.setStreamRing x (fun r => match x.slot with
        | some i => r.free i
        | none => r)).disownAll id).setStream id (fun x => { x with tile := x.tile + 1, slot := none, wrote := false })) s

/-- A stream detaches: ATT clears, and its share returns. -/
def State.detach (s : State) (id : Nat) (x : Stream) (err : Bool) : State :=
  let s1 := (s.setStreamRing x (fun r => { r with att := false, err := r.err || err })).disownAll id
  let s2 : State := { s1 with streams := s1.streams.del id }
  if x.share = 0 then s2 else s2.giveBack x.scope x.share

/-- STREAM_DETACH (14 R336). -/
def execStreamDetach (id : Nat) (s : State) : Out :=
  match s.stream id with
  | none => happen false (fun s => s) s
  | some x => happen (s.streamLive x && x.slot.isNone && s.streamOver x) (fun s => s.detach id x false) s

/-- The error that a stream meets; a ring that takes ERR ends it between tiles too. -/
def State.streamFault (s : State) (id : Nat) (x : Stream) : Option Nat :=
  if (s.streamRing x).err then some cRingState
  else if x.slot.isNone || x.wrote then none
  else match (s.tileWay id x).1 with
    | .error e => if e = cUncorrectable && (s.replayOf x.scope).isSome then none else some e
    | _ => none

/-- STREAM_ERROR (14 R337). -/
def execStreamError (id cause : Nat) (s : State) : Out :=
  match s.stream id with
  | none => happen false (fun s => s) s
  | some x => happen (s.streamFault id x == some cause) (fun s =>
      let s1 := if cause = cUncorrectable then (s.chunkPoison x.transfer (s.tileSource x)).2
        else if x.drain then s else s.logFreeze x.transfer (s.slotSpan x)
      s1.detach id x true) s

end Sys2Proof.Machine
end

