-- ==== Sys2Proof/Machine/Messages.lean ====
section
/-! DEFINITION. Messages (14 R339-R341, 10 R212, R213) and the upcalls that travel as messages (20 R427). -/

namespace Sys2Proof.Machine

open Sys2Proof Sys2Proof.Lanes

/-! ## `msg` (14 R339) -/

/-- The core that gt names; none is PROTECTION. -/
def messageTarget (k : CoreId) (v : W64) : Option CoreId :=
  let c := bitsOf v 63 60
  if c = 12 then
    if bitsOf v 38 0 = 0 ∧ bitsOf v 48 39 ≤ 991 then some ⟨bitsOf v 59 51, bitsOf v 50 49, bitsOf v 48 39⟩ else none
  else if c = 15 then (if bitsOf v 59 0 = 0 then some k else none)
  else none

/-- `.scq`. -/
def messageScq (f : Fields) : Bool := f.mod.toNat.testBit 0

/-- A message sets out for another router of its package in a packet of the torus (18 R382). -/
def State.embark (s : State) (id : Nat) (m : Message) : State :=
  let s1 : State := { s with msgs := s.msgs.set id m }
  if m.dst.pkg = m.src.core.pkg then s1.board m.dst.pkg (s.routerAt m.src.core) (s.routerAt m.dst) (.message id) else s1

/-- A message leaves. -/
def State.sendMessage (s : State) (f : Fields) (dst : CoreId) : State :=
  let sh := s.carve
  let s1 := sh.2
  let m : Message := {
    src := s.cur, task := s.myTask, incarn := s.me.incarn, dst := dst, scq := messageScq f
    payload := s.myTc.spad.read (spadOff (s.ea f)) 64, dom := s.me.domain, ea := s.ea f, pc := s.myPc, scope := s.me.scope
    share := sh.1, free := s.me.freewheel != 0, upcall := false, since := s.now, nacked := false, held := false }
  ({ s1 with nextId := s1.nextId + 1 } : State).embark s1.nextId m

/-- `msg`: a poisoned payload is not sent (21 R455). -/
def execMsg (f : Fields) (s : State) : Out :=
  run (.msg f) f {
    gate := fun s =>
      s.accessStall.andThen <|
      (s.localOk (s.ea f) 64 64).andThen <|
      (need (messageTarget s.cur.core (s.gval f f.b)).isSome 5 cProtection (s.gval f f.b)).andThen <|
      (s.replayOk [s.gval f f.b] false).andThen s.carveHold
    act := fun s =>
      let dst := (messageTarget s.cur.core (s.gval f f.b)).getD s.cur.core
      if s.myTc.rotten (spadOff (s.ea f)) 64 then
        let r := s.consume s.cur.core s.me.domain s.me.scope (spadOff (s.ea f))
        if r.1 then r.2.setMe (fun c => c.record ⟨s.ea f, s.myPc, cUncorrectable, 0, 7, 0⟩) else r.2.sendMessage f dst
      else s.sendMessage f dst } s

/-! ## At the target (14 R340) -/

/-- A task of a tenant that was pre-empted on a core and is not bound, the latest to start among them. -/
def State.preempted (s : State) (k : CoreId) (tenant : Nat) : Option Nat :=
  ((s.tasks.filter (fun e => e.2.lastCore == some k && e.2.core.isNone && tenantOf e.2.dom == tenant)).foldl
    (fun (b : Option (Nat × Task)) e => match b with
      | some x => if x.2.started < e.2.started then some e else b
      | none => some e) none).map (·.1)

/-- What becomes of a message. -/
inductive Fate where
  | deliver | hold | refuse (cause : Nat) | discard
  deriving DecidableEq, Repr

/-- The bound task takes it (10 R212, 14 R340). -/
def TaskCore.fate (t : TaskCore) (rp : Option W64) (scq : Bool) : Fate :=
  let r := t.ring 7
  if scq then (if t.mat.scq.length + 64 ≤ 6144 then .deliver else .hold)
  else if r.c = 0 || r.err then .refuse cRingState
  else if !r.res.isEmpty || r.tag r.tail != .empty then .hold
  else if t.logFull rp (spadOff (r.addr r.tail)) 64 then .refuse cProtection
  else .deliver

/-- The table of 14 R340, the spill ring's room and the brake apart. -/
def State.rowOf (s : State) (m : Message) : Fate :=
  let c := s.core m.dst
  if c.switch.isSome then .hold
  else match c.task.bind s.tasks.find with
    | some t =>
      if tenantOf t.dom = tenantOf m.dom then c.tc.fate (s.replayOf m.scope) m.scq
      else if (s.preempted m.dst (tenantOf m.dom)).isSome then .hold else .refuse cProtection
    | none => if (s.preempted m.dst (tenantOf m.dom)).isSome then .hold else .refuse cProtection

/-- The table of 14 R340, the spill ring's room apart: a braked message that would be delivered or held is discarded. -/
def State.fate (s : State) (m : Message) : Fate :=
  match s.rowOf m with
  | .refuse c => .refuse c
  | x => if !m.free && s.brakeOf m.scope then .discard else x

/-- Two messages of one sending core to one target (14 R341). -/
def Message.sameWay (a b : Message) : Bool := a.src.core == b.src.core && a.dst == b.dst && a.upcall == b.upcall

/-- A held message `a` goes before `b`: of the same sender, or for the same queue of the same tenant's task (14 R340, R341). -/
def Message.before (a b : Message) : Bool := a.sameWay b || (tenantOf a.dom == tenantOf b.dom && a.scq == b.scq)

/-- A held message goes before this one. -/
def State.behindHeld (s : State) (ids : List Nat) (m : Message) : Bool :=
  ids.any (fun i => match s.msgs.find i with
    | some x => x.before m
    | none => false)

/-- A message is gone, and its share returns. -/
def State.endMessage (s : State) (id : Nat) (m : Message) : State :=
  let s1 : State := { s with msgs := s.msgs.del id }
  let s2 := s1.setCore m.dst (fun c => { c with spill := c.spill.filter (· != id) })
  if m.share = 0 then s2 else s2.giveBack m.scope m.share

/-- The payload enters ring7, or the scale queue. -/
def State.putMessage (s : State) (m : Message) : State :=
  s.setTc m.dst (fun t =>
    if m.scq then { t with mat := { t.mat with scq := t.mat.scq ++ m.payload } }
    else
      let o := spadOff ((t.ring 7).addr (t.ring 7).tail)
      ((t.setRing 7 Ring.fill).spadPut (s.replayOf m.scope) o (m.payload.map some)).countSlots o 64)

/-- The sender's next fence freezes its context (14 R340): an asynchronous fault of kind 7. -/
def State.failMessage (s : State) (m : Message) (cause : Nat) : State :=
  let k := s.ctxOf m.task m.src
  if m.upcall || k.incarn != m.incarn || k.life == .free then s
  else s.asyncFault m.task m.src none ⟨m.ea, m.pc, cause, 0, 7, 0⟩

/-- A fate other than a hold takes its course. -/
def State.meetFate (s : State) (id : Nat) (m : Message) : Fate → State
  | .deliver => (s.putMessage m).endMessage id m
  | .discard => s.endMessage id m
  | .refuse c => (s.endMessage id m).failMessage m c
  | .hold => s

/-- A message may arrive: it has left the torus, and no earlier one of its way is still on it. -/
def State.mayArrive (s : State) (id : Nat) (m : Message) : Bool :=
  !m.held && !m.nacked && !s.riding m.dst.pkg (.message id) && s.alive m.src.core.pkg m.dst.pkg
    && !s.msgs.any (fun e => decide (e.1 < id) && !e.2.held && e.2.sameWay m)

/-- MESSAGE_DELIVERY (14 R340). -/
def execMessageDelivery (id : Nat) (s : State) : Out :=
  match s.msgs.find id with
  | none => happen false (fun s => s) s
  | some m => happen (s.mayArrive id m) (fun s =>
      let c := s.core m.dst
      let full := decide (256 ≤ c.spill.length)
      match (if s.fate m != .discard && s.behindHeld c.spill m then .hold else if full && s.rowOf m == .hold then .hold else s.fate m) with
      | .hold =>
        if full then { s with msgs := s.msgs.adjust id (fun m => { m with nacked := true }) }
        else { s with msgs := s.msgs.adjust id (fun m => { m with held := true }) }.setCore m.dst
          (fun c => { c with spill := c.spill ++ [id] })
      | x => s.meetFate id m x) s

/-- The first held message of a core that can leave. -/
def State.replayable (s : State) (before : List Nat) : List Nat → Option (Nat × Message)
  | [] => none
  | i :: rest => match s.msgs.find i with
    | some m =>
      if s.fate m == .discard || (s.fate m != .hold && !s.behindHeld before m) then some (i, m)
      else s.replayable (before ++ [i]) rest
    | none => s.replayable before rest

/-- SPILL_REPLAY (14 R340). -/
def execSpillReplay (k : CoreId) (s : State) : Out :=
  match s.replayable [] (s.core k).spill with
  | none => happen false (fun s => s) s
  | some (id, m) => happen true (fun s => s.meetFate id m (s.fate m)) s

/-- MESSAGE_RESEND (14 R341). -/
def execMessageResend (id : Nat) (s : State) : Out :=
  match s.msgs.find id with
  | none => happen false (fun s => s) s
  | some m => happen m.nacked (fun s => s.embark id { m with nacked := false, since := s.now }) s

/-- MESSAGE_TIMEOUT (14 R340). -/
def execMessageTimeout (id : Nat) (s : State) : Out :=
  match s.msgs.find id with
  | none => happen false (fun s => s) s
  | some m => happen (!m.held && !s.alive m.src.core.pkg m.dst.pkg && decide (m.since + tFail ≤ s.now)) (fun s =>
      (s.endMessage id m).failMessage m cMachineCheck) s

/-- The messages held for a task that resumes on another core go with it, before any later one (10 R213, 14 R340). -/
def State.moveHeld (s : State) (tenant : Nat) (a b : CoreId) : State :=
  if a = b then s
  else
    let mine := (s.core a).spill.filter (fun i => match s.msgs.find i with
      | some m => tenantOf m.dom == tenant
      | none => false)
    let s1 : State := { s with msgs := s.msgs.map (fun e => if mine.contains e.1 then (e.1, { e.2 with dst := b }) else e) }
    (s1.setCore a (fun c => { c with spill := c.spill.filter (fun i => !mine.contains i) })).setCore b
      (fun c => { c with spill := mine ++ c.spill })

end Sys2Proof.Machine
end

