-- ==== Sys2Proof/Machine/Party.lean ====
section
/-! DEFINITION. How a party ends: its shares return, its work is dropped, its contexts are reset (15 R346, 20 R434). -/

namespace Sys2Proof.Machine

open Sys2Proof Sys2Proof.Lanes

/-! ## Work in flight -/

/-- Work that names a task and a context belongs to an ended party: a whole task, or one of its contexts. A context
without a task is its core's. -/
structure Owner where
  task : Option Nat
  core : CoreId
  /-- none is every context -/
  ctx : Option Nat
  /-- work with an earlier name is not meant -/
  since : Nat
  deriving DecidableEq, Repr

/-- A piece of work belongs to the party. -/
def Owner.has (o : Owner) (id : Nat) (task : Option Nat) (core : CoreId) (ctx : Nat) : Bool :=
  decide (o.since ≤ id) && task == o.task && (task.isSome || core == o.core) && (match o.ctx with
    | none => true
    | some n => n == ctx)

/-- A share returns, unless it is none and closes nothing. -/
def State.returnShare (s : State) (h : W64) (share : Nat) (fault : Option Nat) (closing : Bool := false) : State :=
  if share = 0 && !closing then s else s.giveBack h share closing fault

/-- The copies of a party stop at once. -/
def State.dropCopies (s : State) (o : Owner) (fault : Option Nat) : State :=
  (s.copies.filter (fun e => o.has e.1 e.2.task e.2.core e.2.ctx)).foldl (fun s e =>
    let s1 := s.withdraw e.1 e.2
    { s1 with copies := s1.copies.del e.1, owned := s1.owned.filter (fun l => l.2 != e.1) }.returnShare e.2.scope e.2.share fault) s

/-- The streams of an ended task detach. -/
def State.dropStreams (s : State) (o : Owner) (fault : Option Nat) : State :=
  if o.ctx.isSome then s
  else (s.streams.filter (fun e => o.has e.1 e.2.task e.2.core 0)).foldl (fun s e =>
    { s with streams := s.streams.del e.1, owned := s.owned.filter (fun l => l.2 != e.1) }.returnShare e.2.scope e.2.share fault) s

/-- The messages of a party are discarded. -/
def State.dropMessages (s : State) (o : Owner) (fault : Option Nat) : State :=
  (s.msgs.filter (fun e => !e.2.upcall && o.has e.1 e.2.task e.2.src.core e.2.src.ctx)).foldl (fun s e =>
    { s with msgs := s.msgs.del e.1 }.setCore e.2.dst (fun c => { c with spill := c.spill.filter (· != e.1) })
      |>.returnShare e.2.scope e.2.share fault) s

/-- Accesses, staged stores, multicasts, claims, node operations and waits at coordinators of a party are gone. -/
def State.dropAccesses (s : State) (o : Owner) (fault : Option Nat) : State :=
  let mineA (id : Nat) (a : Access) : Bool := o.has id a.task a.ctx.core a.ctx.ctx && (match a.op with
    | .complete _ => false
    | _ => true)
  let s1 := (s.accs.filter (fun e => mineA e.1 e.2)).foldl (fun s e => match e.2.op with
    | .task _ n => (s.endAcc e.1).returnShare e.2.scope n fault
    | _ => s.endAcc e.1) s
  let s2 := (s1.mcsts.filter (fun e => o.has e.1 e.2.task e.2.ctx.core e.2.ctx.ctx)).foldl (fun s e =>
    { s with mcsts := s.mcsts.del e.1 }.returnShare e.2.scope e.2.share fault) s1
  let s3 := (s2.nodeOps.filter (fun e => match e.2.ctx with
    | some c => o.has e.1 e.2.task c.core c.ctx
    | none => false)).foldl (fun s e => { s with nodeOps := s.nodeOps.del e.1 }.returnShare e.2.csc e.2.share fault) s2
  { s3 with
    gsts := s3.gsts.filter (fun e => !o.has e.1 e.2.task e.2.ctx.core e.2.ctx.ctx)
    claims := s3.claims.filter (fun e => !o.has e.1 e.2.task e.2.ctx.core e.2.ctx.ctx)
    gwaits := s3.gwaits.map (fun e => (e.1, e.2.filter (fun w => !o.has (w.tok.getD 0) w.task w.ctx.core w.ctx.ctx))) }

/-- Everything that a party has in flight. -/
def State.dropWork (s : State) (o : Owner) (fault : Option Nat) : State :=
  (((s.dropCopies o fault).dropStreams o fault).dropMessages o fault).dropAccesses o fault

/-! ## Contexts -/

/-- The shares of a context's scope stack return, innermost first; the scopes it opened close (15 R346). -/
def State.returnStack (s : State) (c : Ctx) (fault : Option Nat) : State :=
  c.stack.foldl (fun s e => s.returnShare e.handle e.share fault e.own) s

/-- A context is reset, and its incarnation advances (20 R434). -/
def Ctx.renew (c : Ctx) : Ctx := { Ctx.fresh with incarn := c.incarn + 1 }

/-- A part whose contexts have ended; the granules of the site keep their codes. -/
def TaskCore.renew (t : TaskCore) : TaskCore :=
  { TaskCore.fresh with ctxs := t.ctxs.map (fun e => (e.1, e.2.renew)), codes := t.codes }
/-- A scratchpad takes an image, whose bytes are written there (21 R453). -/
def TaskCore.takes (t img : TaskCore) (n : Nat) : TaskCore := { img with codes := t.codes.encodeSpan 0 n }

/-- A helper of a task ends, on its core or in its frame. -/
def State.endHelperOf (s : State) (task : Option Nat) (k : CoreId) (n : Nat) (fault : Option Nat) : State :=
  let c := s.ctxOf task ⟨k, n⟩
  if c.life = .free then s
  else
    let s0 : State := { s with monitors := s.monitors.filter (fun m => c.monitor != some m.1) }
    let s1 := (s0.returnStack c fault).dropWork ⟨task, k, some n, 0⟩ fault
    (s1.setCtxOf task ⟨k, n⟩ Ctx.renew).setPart task k (fun x => { x with pins := x.pins.filter (fun p => p.ctx != n) })

/-- A helper ends. -/
def State.endHelper (s : State) (k : CoreId) (n : Nat) (fault : Option Nat) : State := s.endHelperOf (s.core k).task k n fault

/-- A core's lead context has no task: its part is reset, and its pins are free. A gang's rectangle stays reserved until its
last member has gone (15 R356). A switch that has begun goes on (17 R380). -/
def State.freeCore (s : State) (k : CoreId) (gang : Option Nat) : State :=
  s.setCore k (fun c => { c with task := none, tc := c.tc.renew, reserved := gang })

/-- A task's memory frame takes `n` bytes of its tenant's pool (20 R422, R433). -/
def State.poolFrame (s : State) (id n : Nat) : State :=
  match s.tasks.find id with
  | none => s
  | some t => ({ s with tasks := s.tasks.set id { t with pooled := n } } : State).setTenant t.pkg (tenantOf t.dom)
      (fun x => { x with poolUsed := x.poolUsed - t.pooled + n })

/-- The rectangle of a gang is released. -/
def State.freeRectangle (s : State) (g : Nat) : State :=
  { s with cores := s.cores.map (fun e => if e.2.reserved = some g then (e.1, { e.2 with reserved := none }) else e) }

/-- The rectangle of a gang is released where no member is left. -/
def State.releaseGang (s : State) (g : Nat) : State :=
  if s.tasks.any (fun e => match e.2.gang with
    | some x => x.gang == g
    | none => false) then s
  else s.freeRectangle g

/-- A task is gone: its core, and its rectangle if it was the last of its gang. -/
def State.removeTask (s : State) (id : Nat) : State :=
  match s.tasks.find id with
  | none => s
  | some t =>
    let s0 := s.poolFrame id 0
    let s1 : State := { s0 with tasks := s0.tasks.del id }
    let s2 := match t.core with
      | some k => s1.freeCore k (t.gang.map (·.gang))
      | none => s1
    match t.gang with
    | some g => s2.releaseGang g.gang
    | none => s2

/-- A task ends: running, frozen, swapped out or queued (20 R434). -/
def State.endTask (s : State) (id : Nat) (fault : Option Nat) : State :=
  match s.tasks.find id with
  | none => s
  | some t =>
    let k := t.core.getD ⟨t.pkg, 0, 0⟩
    let part := match t.core, t.frame with
      | some k, _ => s.tc k
      | none, some f => f
      | none, none => TaskCore.fresh
    let live := part.ctxs.filter (fun e => e.2.life != .free)
    let s1 : State := { s with monitors := s.monitors.filter (fun m => !live.any (fun e => e.2.monitor == some m.1)) }
    let s2 := live.foldl (fun s e => s.returnStack e.2 fault) s1
    let s3 := if t.share = 0 then s2 else s2.returnShare t.scope t.share fault
    (s3.dropWork ⟨some id, k, none, 0⟩ fault).removeTask id

/-- Every part: on the cores, and in the frames. -/
def State.mapParts (s : State) (f : TaskCore → TaskCore) : State :=
  { s with
    cores := s.cores.map (fun e => (e.1, { e.2 with tc := f e.2.tc }))
    tasks := s.tasks.map (fun e => (e.1, { e.2 with frame := e.2.frame.map f })) }

end Sys2Proof.Machine
end

