-- ==== Sys2Proof/Machine/Scope.lean ====
section
/-! DEFINITION. Scopes: hubs, brakes, claims, replay (15 R342-R352, R365-R368, R373, R375; 21 R457). -/

namespace Sys2Proof.Machine

open Sys2Proof Sys2Proof.Lanes

/-! ## Groups as a scope uses them (18 R392, R397; 15 R351, R352) -/

/-- A group handle (18 R392). -/
def groupHandle (pkg tenant gen idx : Nat) : W64 :=
  BitVec.ofNat 64 ((pkg % 512) <<< 55 ||| (tenant % 256) <<< 16 ||| (gen % 256) <<< 8 ||| idx % 64)
/-- The coordinator's record that a handle names: package, tenant, index. -/
def groupKey (h : W64) : Nat × Nat × Nat := (bitsOf h 63 55, bitsOf h 23 16, bitsOf h 5 0)

/-- A group's record. -/
def State.group (s : State) (k : Nat × Nat × Nat) : Group := s.groups.get k Group.fresh
@[inherit_doc State.group] def State.setGroup (s : State) (k : Nat × Nat × Nat) (f : Group → Group) : State :=
  { s with groups := s.groups.set k (f (s.group k)) }

/-- The group holds the handle's generation and has not been released. -/
def State.groupLive (s : State) (h : W64) : Bool :=
  let g := s.group (groupKey h)
  g.phase != .free && g.gen == bitsOf h 15 8 && bitsOf h 54 24 == 0 && bitsOf h 7 6 == 0

/-- A free group of a tenant is opened: its handle (18 R402). -/
def State.openGroup (s : State) (pkg tenant : Nat) : Option (W64 × State) :=
  ((List.range 64).find? (fun i => (s.group (pkg, tenant, i)).phase == .free)).map (fun i =>
    let k := (pkg, tenant, i)
    let gen := (s.group k).gen
    (groupHandle pkg tenant gen i, s.setGroup k (fun _ => { Group.fresh with gen := gen, phase := .opened })))

/-- Messages of the commit protocol set out (18 R396). -/
def State.post (s : State) (ms : List GroupMsg) : State := { s with gmsgs := s.gmsgs ++ ms.map (fun m => (m, s.now)) }
/-- A message is on its way. -/
def State.posted (s : State) (m : GroupMsg) : Bool := s.gmsgs.any (fun e => e.1 == m)
/-- A message has arrived. -/
def State.unpost (s : State) (m : GroupMsg) : State := { s with gmsgs := s.gmsgs.eraseP (fun e => e.1 == m) }

/-- A group records a reason, and the package of the first (18 R395). -/
def Group.reason (g : Group) (bit pkg : Nat) : Group :=
  { g with reasons := g.reasons ||| (1 <<< bit), firstPkg := if g.reasons = 0 then pkg else g.firstPkg }

/-- A commit is asked for (18 R404). -/
def State.askCommit (s : State) (h : W64) : State :=
  if s.groupLive h then s.setGroup (groupKey h) (fun g => { g with asked := true }) else s

/-! ## The status word (15 R347) -/

/-- STATUS. -/
def Hub.status (b : Hub) : Nat := if b.fault then 3 else if b.claimed then 2 else if b.brake then 1 else 0
/-- The status word with a STATE. -/
def Hub.word (b : Hub) (state : Nat) : W64 :=
  BitVec.ofNat 64 (b.status + state <<< 3 + b.brake.toNat <<< 5 + b.rp.toNat <<< 6 + b.reach <<< 7 + b.runs <<< 10 + b.depu.toNat <<< 12
    + b.cause <<< 16)

/-! ## ScopeEmpty (15 R345, R352) -/

/-- Old bytes go back into a scratchpad (15 R352): poison of their rows ends (21 R454). -/
def TaskCore.restoreLog (t : TaskCore) (h : W64) : TaskCore :=
  (t.undo.filter (fun u => u.scope == h)).foldl (fun t u => u.blocks.foldl (fun t b => t.spadPut none (256 * b.1) (b.2.map some)) t) t
/-- The logs and the recorded frame of a scope are released. -/
def TaskCore.dropLog (t : TaskCore) (h : W64) : TaskCore :=
  { t with undo := t.undo.filter (fun u => u.scope != h), recorded := t.recorded.filter (fun e => e.1 != h) }

/-- A core of a cluster, for work that the device does there. -/
def State.coreIn (s : State) (l : CluId) : CoreId :=
  match (s.die l.pkg l.die).workers.find? (fun e => siteClu e.2 == l.clu) with
  | some e => ⟨l.pkg, l.die, e.1⟩
  | none => ⟨l.pkg, l.die, 32 * (l.clu / 8 * 4) + l.clu % 8 * 4⟩

/-- The device writes a completion word, as tenant `t`'s domain (t, 0) and under its PLB; then it raises the tenant's
vector. A denied write is dropped (15 R359). -/
def State.complete (s : State) (l : CluId) (tenant ea : Nat) (w : W64) : State :=
  let k := s.coreIn l
  let dom := BitVec.ofNat 16 (tenant * 256)
  if s.plb k dom ea 8 rightW != .granted then s.raiseMsix l.pkg tenant
  else
    let a : Access := {
      ctx := ⟨k, 16⟩, incarn := 0, task := none, op := .complete tenant, ea := BitVec.ofNat 64 ea, pc := 0, dom := dom, nud := 31, cad := 0, reach := 4
      ord := false, sel := 0, tok := none, seq := 0, parts := writeParts ea (leBytes 8 w.toNat), stage := .issued, granted := false
      since := s.now, abandoned := false, scope := 0, bad := none }
    { s with accs := s.accs.set s.nextId a, nextId := s.nextId + 1 }

/-- The `sclose` that waits gets its answer, and the names of the writes that it must still see performed (13 R305). -/
def State.answerClose (s : State) (h : W64) (b : Hub) (w : W64) : State :=
  match b.opener with
  | some (task, c) => s.setCtxOf task c (fun k => match k.hold with
    | some x => if x.ids = [h.toNat] ∧ x.answer.isNone then
        { k with hold := some { x with ids := h.toNat :: b.owes, answer := some (w, if b.status = 2 then b.claimv else 0) } } else k
    | none => k)
  | none => s

/-- The next generation skips 0 (15 R342). -/
def nextGen (g : Nat) : Nat := if (g + 1) % 256 = 0 then 1 else (g + 1) % 256

/-- Steps 2 to 4 of ScopeEmpty. -/
def State.finishScope (s : State) (h : W64) (b : Hub) : State :=
  let s1 := s.answerClose h b (b.word 0)
  let s2 := if b.parent = 0 then s1
    else (s1.setHub b.parent (fun p => { p with owes := p.owes ++ b.owes })).returnShare b.parent b.parentShare none
  let s3 := match b.root with
    | some (_, ea) => s2.complete (hubKey h).1 b.tenant ea (b.word 0)
    | none => s2
  { s3 with hubs := s3.hubs.set (hubKey h) { Hub.fresh with gen := nextGen b.gen } }

/-- A closing replay scope ends as its group has: without a commit its blocks are restored, and it ends with FAULT (15 R352). -/
def State.endReplay (s : State) (h : W64) (b : Hub) (committed : Bool) : State :=
  let s1 := if committed then s else s.mapParts (fun t => t.restoreLog h)
  let b1 : Hub := if committed then b else { b with fault := true, cause := if b.cause = 0 then cGroupState else b.cause }
  (s1.mapParts (fun t => t.dropLog h)).finishScope h b1

/-- A group of a closing replay scope has been decided, and no replay of it is under way (15 R352). -/
def State.replayDecided (s : State) (group : W64) (committed : Bool) : State :=
  match s.hubs.search (fun k b => b.state == 2 && b.group == group && b.r == b.t && !b.replaying
      && s.replayOf (handleOf k.1 k.2 b.gen) == some (handleOf k.1 k.2 b.gen)) with
  | none => s
  | some ((l, slot), b) => s.endReplay (handleOf l slot b.gen) b committed

/-! ### Groups end (18 R397, R400) -/

/-- The status word of a group (18 R400). -/
def Group.word (g : Group) (st : Nat) : W64 :=
  BitVec.ofNat 64 (st + g.reasons <<< 8 + g.parts.length <<< 16 + (if g.reasons = 0 then 0 else g.firstPkg <<< 55))

/-- A wait at a coordinator gets its word. -/
def State.landWait (s : State) (w : GroupWait) (x : W64) : State :=
  match w.tok with
  | some t => s.landG w.task w.ctx t x
  | none => s

/-- The waits of a handle end with a word. -/
def State.landWaits (s : State) (h : W64) (p : GroupWait → Bool) (x : W64) : State :=
  let k := groupKey h
  let ws := s.gwaits.get k []
  (ws.filter (fun w => w.h == h && p w)).foldl (fun s w => s.landWait w x)
    { s with gwaits := s.gwaits.set k (ws.filter (fun w => !(w.h == h && p w))) }

/-- COMMITTED carries no reason except PEER_FAILED (18 R400). -/
def Group.settled (g : Group) (committed : Bool) : Group := if committed then { g with reasons := g.reasons &&& 4 } else g

/-- The request of a wait has left: that of a `gcom` once the staged stores before it are accepted (18 R404). -/
def State.waitSent (s : State) (w : GroupWait) : Bool := w.peek || w.abort || w.waits.all (fun i => !s.gsts.has i)

/-- A group is released with its final status: GEN advances, and what waits for it goes on. -/
def State.releaseGroup (s : State) (h : W64) (committed : Bool) : State :=
  let k := groupKey h
  let g := s.group k
  let s1 := s.setGroup k (fun g => { Group.fresh with gen := nextGen g.gen })
  (s1.landWaits h s.waitSent ((g.settled committed).word (if committed then 2 else 3))).replayDecided h committed

/-- ABORT goes to every participant; with none, the group is released. -/
def State.startAbort (s : State) (h : W64) : State :=
  let k := groupKey h
  let g := s.group k
  if g.parts.isEmpty then s.releaseGroup h false
  else (s.setGroup k (fun g => { g with phase := .aborting, since := s.now, confirmed := [] })).post (g.parts.map (fun p => .abort h p))

/-- An OPEN group, or one that PREPARES, aborts with EXPLICIT, recorded for package `by_` (18 R395, R397, R405). -/
def State.abortGroup (s : State) (h : W64) (by_ : Nat) : State :=
  let g := s.group (groupKey h)
  if s.groupLive h && (g.phase == .opened || g.phase == .preparing) then
    (s.setGroup (groupKey h) (fun g => g.reason 4 by_)).startAbort h
  else s

/-- ScopeEmpty (15 R345): a replay scope asks for its commit first, or with FAULT for its abort, and ends when its group has been released.
One whose group has been released before counts as aborted (log 28, DEDUCED). A child scope of it has no group of its own to decide (15
R351). -/
def State.scopeEmpty (s : State) (h : W64) : State :=
  match s.hub h with
  | none => s
  | some b =>
    if s.replayOf h != some h then s.finishScope h b
    else
      let s1 := if b.fault then s.abortGroup b.group (groupKey b.group).1 else s.askCommit b.group
      if s1.groupLive b.group || (s1.hub h).isNone then s1 else s1.endReplay h b false

/-! ## The hub's events (15 R344, R346, R348, R350) -/

/-- SpokeReturn at the hub; a closing return with a fault is that of an opener that has been ended (15 R344, R346). -/
def State.spokeReturn (s : State) (e : SpokeBack) : State :=
  let s1 := s.setHub e.h (fun b =>
    let b1 : Hub := { b with r := b.r + e.share, state := if e.closing then 2 else b.state }
    match e.fault with
    | some c => { b1 with fault := true, cause := if b1.fault then b1.cause else c, brake := b1.brake || e.closing }
    | none => b1)
  match s1.hub e.h with
  | some b => if b.state = 2 ∧ b.r = b.t ∧ !b.replaying then s1.scopeEmpty e.h else s1
  | none => s1

/-- HUB_SPOKE_RETURN (15 R344). -/
def execHubSpokeReturn (h : W64) (share : Nat) (closing : Bool) (s : State) : Out :=
  match s.returns.find? (fun e => e.h == h && e.share == share && e.closing == closing) with
  | none => happen false (fun s => s) s
  | some e => happen true (fun s => ({ s with returns := s.returns.erase e } : State).spokeReturn e) s

/-- Set a scope's brake (15 R346). -/
def State.brakeHub (s : State) (h : W64) : State := s.setHub h (fun b => { b with brake := true })

/-- The open children of a scope that are not braked. -/
def State.unbraked (s : State) (h : W64) : List (CluId × Nat) :=
  (s.hubs.filter (fun e => e.2.state != 0 && e.2.parent == h && !e.2.brake)).map (·.1)

/-- HUB_BRAKE: the brake is pushed to the child hubs (15 R346, R348). -/
def execHubBrake (h : W64) (s : State) : Out :=
  happen (s.brakeOf h && !(s.unbraked h).isEmpty) (fun s =>
    (s.unbraked h).foldl (fun s k => { s with hubs := s.hubs.adjust k (fun b => { b with brake := true }) }) s) s

/-- CLAIM_AT_HUB (15 R350). -/
def execClaimAtHub (id : Nat) (s : State) : Out :=
  match s.claims.find id with
  | none => happen false (fun s => s) s
  | some c => happen true (fun s =>
      let won := c.held && (match s.hub c.handle with
        | some b => !b.brake && !b.claimed
        | none => false)
      let s1 := if won then s.setHub c.handle (fun b => { b with claimed := true, claimv := c.value, brake := true }) else s
      { s1 with claims := s1.claims.del id }.land c.task c.ctx c.tok (fun _ => .p (allBits won))) s

/-! ## Replay (15 R351, R352; 21 R457) -/

/-- Bytes of a scratchpad lie in a 256 B block. -/
def inBlock (block off n : Nat) : Bool := decide (off < 256 * block + 256) && decide (256 * block < off + n)

/-- A write of the replay scope `h`, of an access that the windows let pass or of a chunk that may move, is about to reach the block. -/
def State.writesBlock (s : State) (h : W64) (k : CoreId) (block : Nat) : Bool :=
  s.accs.any (fun e => e.2.op.isWrite && s.replayOf e.2.scope == some h && (List.range e.2.parts.length).any (fun j =>
      match s.bankReady e.1 j e.2, e.2.parts[j]? with
      | some (i, off), some p => i == k && inBlock block off p.len && s.windowed e.2 k off j p
      | _, _ => false))
    || s.copies.any (fun e => s.replayOf e.2.scope == some h && e.2.flying.any (fun x => s.chunkReady e.1 e.2 x.1 x.2
      && (s.dstSpans e.2 x.1 x.2).any (fun y => match y.1 with
        | .spad o => e.2.core == k && inBlock block o y.2
        | .peer j o => j == k && inBlock block o y.2
        | _ => false)))

/-- UNDO_LOG_WRITE: the block that a write of a replay scope is about to reach for the first time enters the scope's log. Every write does
the same at its own time (15 R351). -/
def execUndoLogWrite (k : CoreId) (block : Nat) (s : State) : Out :=
  let due (u : UndoLog) : Bool := !Map.has u.blocks block && decide (u.blocks.length < 255) && s.writesBlock u.scope k block
  happen (decide (block < 2048) && (s.tc k).undo.any due) (fun s =>
    s.setTc k (fun t => { t with undo := t.undo.map (fun u =>
      if due u then { u with blocks := u.blocks.set block (t.spad.read (256 * block) 256) } else u) })) s

/-- The task and the contexts of a scope other than its opener's. -/
def State.inScope (s : State) (h : W64) (c : Ctx) : Bool := c.life != .free && !c.stack.isEmpty && s.descendsFrom h c.scope

/-- Every task whose lead belongs to a scope, the opener's apart, and those of it that have not started. -/
def State.scopeTasks (s : State) (h : W64) (but : Option Nat) : List Nat :=
  (s.tasks.filter (fun e => some e.1 != but && (
    match e.2.core, e.2.frame with
    | some k, _ => s.inScope h ((s.tc k).ctx 0) || (e.2.share != 0 && s.descendsFrom h e.2.scope)
    | none, some f => s.inScope h (f.ctx 0)
    | none, none => s.descendsFrom h e.2.scope))).map (·.1)

/-- The opener gives up the shares of its entries for the scope, which counts as returned, and for the scopes that it opened inside, which
close. One that waits in the scope's `sclose` has returned it, and waits on (21 R457). -/
def State.stripOpener (s : State) (h : W64) (task : Option Nat) (c : CtxId) : State :=
  let k := s.ctxOf task c
  if !k.holds h then s
  else
    let inner := k.stack.takeWhile (fun e => e.handle != h)
    let own := ((k.stack.find? (fun e => e.handle == h)).map (·.share)).getD 0
    let s1 := inner.foldl (fun s e => s.returnShare e.handle e.share none e.own) s
    (s1.setHub h (fun b => { b with r := b.r + own })).setCtxOf task c (fun k => { k with
      stack := (k.stack.dropWhile (fun e => e.handle != h)).map (fun e => if e.handle = h then { e with share := 0 } else e)
      hold := none, holdC := none })

/-- The engine commands of a lead that were issued under a name from `mark` on leave their queues. -/
def TaskCore.clearQueues (t : TaskCore) (mark : Nat) : TaskCore :=
  { t with
    mat := { t.mat with queue := t.mat.queue.filter (fun e => decide (e.seq < mark)) }
    env := { t.env with queue := t.env.queue.filter (fun e => decide (e.seq < mark)) }
    deferred := t.deferred.filter (fun d => decide (d.seq < mark)) }

/-- The name from which on what a scope's opener has issued belongs to the scope (15 R351). -/
def State.replayMark (s : State) (h : W64) (task : Option Nat) (k : CoreId) : Nat :=
  (((s.partOf task k).recorded.find h).map (·.1)).getD 0

/-- Tasks end without a fault. -/
def State.endTasks (s : State) (ids : List Nat) : State := ids.foldl (fun s t => s.endTask t none) s

/-- What belongs to a scope at its opener ends: the helpers of its task, and what the opener has issued inside (21 R457). -/
def State.containOpener (s : State) (h : W64) (task : Option Nat) (c : CtxId) : State :=
  let helpers := ((s.partOf task c.core).ctxs.filter (fun e => e.1 != c.ctx && s.inScope h e.2)).map (·.1)
  let mark := s.replayMark h task c.core
  let s1 := helpers.foldl (fun s n => s.endHelperOf task c.core n none) s
  let s2 := s1.dropWork ⟨task, c.core, some c.ctx, mark⟩ none
  (if c.ctx = 0 then s2.setPart task c.core (fun t => t.clearQueues mark) else s2).stripOpener h task c

/-- REPLAY_CONTAIN: the parties of the scope end, and what its opener has issued inside; the opener stays frozen (21 R457). -/
def execReplayContain (h : W64) (s : State) : Out :=
  match s.hub h with
  | none => happen false (fun s => s) s
  | some b => happen (b.replaying && !b.contained) (fun s =>
      let s1 := s.abortGroup b.group (groupKey b.group).1
      let s2 := match s.openerOf h b with
        | none => s1.endTasks (s.scopeTasks h none)
        | some (task, c) => ((s1.endTasks (s.scopeTasks h task)).stopOpener h b).containOpener h task c
      s2.setHub h (fun b => { b with contained := true })) s

/-- The opener's registers, tags, predicates and chain as they were recorded, with what was in flight then and is still; it goes on at the
packet after `sopen.rp`, the whole share of the scope in hand (15 R351, R352; 21 R457). Its records of faults, barriers, monitors and stores
stay as they are (log 28, DEDUCED). -/
def State.restoreFrame (s : State) (h : W64) (task : Option Nat) (c : CtxId) : State :=
  match (s.partOf task c.core).recorded.find h with
  | none => s
  | some (_, f) => s.setCtxOf task c (fun k => { k with
      g := f.g, v := f.v, p := f.p, pcq0 := f.pcq0, pcq1 := f.pcq1, pcq2 := f.pcq2, rep := f.rep, pipe := f.pipe
      inflight := f.inflight, pend := f.pend, divide := k.divide.filter (fun d => f.pend.any (fun p => p.tok == d.tok))
      spr := { f.spr with csc := h }, poisonG := f.poisonG, poisonV := f.poisonV, poisonP := f.poisonP, freewheel := f.freewheel
      delayLeft := f.delayLeft, refetch := none, hold := none, holdC := none, resumed := false, stepOnce := false, leaving := false
      life := .running, cause := 0, elapsedFrom := s.now
      stack := ⟨h, 2 ^ 32, true⟩ :: (if k.holds h then (k.stack.dropWhile (fun e => e.handle != h)).drop 1 else k.stack) })

/-- The opener goes on where it stands, once its runs are spent: with the whole of its entry's share, or where it waits in `sclose`. -/
def State.thawOpener (s : State) (h : W64) (task : Option Nat) (c : CtxId) : State :=
  s.setCtxOf task c (fun k =>
    if !k.holds h then k.resume s.now false
    else { k.resume s.now false with
      stack := k.stack.map (fun e => if e.handle = h then { e with share := 2 ^ 32 } else e), spr := { k.spr with csc := h } })

/-- A scope that has consumed an error runs again, unless its runs are spent or what it would restore could not be read (15 R352, 21
R457). -/
def Hub.again (b : Hub) : Bool := decide (b.runs < 2) && !b.spent

/-- A restore is due: the parties have ended, every share has come back, and the group is released (15 R352). -/
def State.restoreDue (s : State) (b : Hub) : Bool := b.replaying && b.contained && b.r == b.t && !s.groupLive b.group

/-- A due restore of `h` finds an uncorrectable error in what it reads: a report, and the replay is to end (21 R454, R455, R457). -/
def State.spoilRestore (s : State) (h : W64) (k : CoreId) (addr : Nat) : State :=
  match s.hub h with
  | some b => (s.report k 3 (b.tenant * 256) addr).setHub h (fun b => { b with spent := true })
  | none => s

/-- The part that stands on a core, or was left there last: its log of `h` loses a block. -/
def State.dropBlock (s : State) (h : W64) (k : CoreId) (block : Nat) : State :=
  let f (t : TaskCore) : TaskCore := { t with undo := t.undo.map (fun u =>
    if u.scope = h then { u with blocks := u.blocks.filter (fun b => b.1 != block) } else u) }
  { s.setTc k f with tasks := (s.setTc k f).tasks.map (fun e =>
      (e.1, if e.2.core.isNone && e.2.lastCore == some k then { e.2 with frame := e.2.frame.map f } else e.2)) }

/-- A log of `h` on a core holds the block. -/
def State.logHolds (s : State) (h : W64) (k : CoreId) (block : Nat) : Bool :=
  let has (t : TaskCore) : Bool := t.undo.any (fun u => u.scope == h && Map.has u.blocks block)
  has (s.tc k) || s.tasks.any (fun e => e.2.core.isNone && e.2.lastCore == some k && e.2.frame.any has)

/-- A restore reads a log's block that cannot be read: the block is not restored, and the replay ends (21 R457). -/
def execUndoSpoiled (h : W64) (k : CoreId) (block : Nat) (s : State) : Out :=
  happen ((s.hub h).any s.restoreDue && s.logHolds h k block) (fun s => (s.spoilRestore h k (256 * block)).dropBlock h k block) s

/-- A restore reads a recorded frame that cannot be read: the replay ends (21 R457). -/
def execRecordSpoiled (h : W64) (s : State) : Out :=
  match s.hub h with
  | none => happen false (fun s => s) s
  | some b => match s.openerOf h b with
    | none => happen false (fun s => s) s
    | some (_, c) => happen (s.restoreDue b && !b.spent) (fun s => s.spoilRestore h c.core 0) s

/-- REPLAY_RESTORE: every share has come back, and the blocks are restored; the scope runs again, or ends with FAULT (15
R352, 21 R457). Where its opener has been ended meanwhile, nobody can run it again, and it ends as its FAULT says (15 R346). -/
def execReplayRestore (h : W64) (s : State) : Out :=
  match s.hub h with
  | none => happen false (fun s => s) s
  | some b => match s.openerOf h b with
    | none => happen (s.restoreDue b) (fun s =>
        let s1 := s.setHub h (fun b => { b with replaying := false, contained := false })
        if b.state = 2 then s1.scopeEmpty h else s1) s
    | some (task, c) =>
      let fresh := if b.again then s.openGroup (hubKey h).1.pkg b.tenant else some (b.group, s)
      happen (s.restoreDue b && fresh.isSome) (fun s =>
        let waits := !(s.ctxOf task c).holds h
        match fresh with
        | none => s
        | some (g, s0) =>
          let s1 := s0.mapParts (fun t => t.restoreLog h)
          let s2 := s1.setHub h (fun b => { b with
            runs := if b.spent then b.runs else b.runs + 1, replaying := false, contained := false, group := g
            state := if b.again then 1 else b.state, t := if !b.again ∧ waits then b.t else 2 ^ 32
            r := if !b.again ∧ waits then b.r else 0
            brake := !b.again, fault := b.fault || !b.again
            cause := if !b.again ∧ !b.fault then cUncorrectable else b.cause })
          if b.again then
            ((s2.mapParts (fun t => { t with undo := t.undo.map (fun u => if u.scope = h then { u with blocks := [] } else u) })).restoreFrame
              h task c).report c.core 5 (b.tenant * 256) h.toNat (b.runs + 1)
          else
            let s3 := s2.thawOpener h task c |> fun s => if b.spent then s else s.report c.core 6 (b.tenant * 256) h.toNat 3
            if waits then s3.scopeEmpty h else s3) s

/-! ## The instructions (15 R364-R368, R373, R375) -/

/-- The scope that an operand names: ZERO is CSC (15 R364). -/
def State.scopeArg (s : State) (f : Fields) : W64 :=
  match f.a with
  | .zero => s.me.scope
  | x => s.gval f x

/-- A free slot of a hub table. -/
def State.freeSlot (s : State) (l : CluId) : Option Nat :=
  (List.range 4096).find? (fun i => match s.hubs.find (l, i) with
    | some b => b.state == 0
    | none => true)

/-- The hub of a new scope (15 R344, R346). -/
def State.newHub (s : State) (l : CluId) (slot : Nat) (b : Hub) : W64 × State :=
  let gen := match s.hubs.find (l, slot) with
    | some x => x.gen
    | none => 1
  (handleOf l slot gen, { s with hubs := s.hubs.set (l, slot) { b with gen := gen, state := 1, t := 2 ^ 32, r := 0 } })

/-- What `sopen` finds: its slot, and its group, a replay scope's own or the one that a child scope uses too (15 R351); none writes 0. -/
def State.openPlace (s : State) (f : Fields) : Option (Nat × W64 × State) :=
  match s.freeSlot (s.clu s.cur.core) with
  | none => none
  | some i =>
    match s.replayGroup with
    | some g => some (i, g, s)
    | none => if f.mod0 then (s.openGroup s.cur.core.pkg s.myTenant).map (fun g => (i, g.1, g.2)) else some (i, 0, s)

/-- A scope opens. One opened by `.rp` inside a replay scope is a child of it: its group and its logs are the same, and it records no
frame (15 R351; log 28, DEDUCED). -/
def State.openScope (s0 : State) (f : Fields) (slot : Nat) (group : W64) (s : State) : State :=
  let sh := s.carve
  let s1 := sh.2
  let b : Hub := { Hub.fresh with
    parent := s0.me.scope, parentShare := sh.1, reach := f.reachCode, rp := f.mod0, group := group, brake := s0.braked
    tenant := s0.myTenant, opener := some (s0.myTask, s0.cur) }
  let r := s1.newHub (s1.clu s1.cur.core) slot b
  let s2 := r.2.setMe (fun c => { c with stack := ⟨r.1, 2 ^ 32, true⟩ :: c.stack, spr := { c.spr with csc := r.1 } })
  let s3 := if f.mod0 ∧ s0.myReplay.isNone then
      { (s2.gangCores s2.myTask).foldl (fun s k => s.setTc k (fun t => { t with undo := t.undo ++ [⟨r.1, []⟩] })) s2 with
        pk := { s2.pk with record := some r.1 } }
    else s2
  s3.quick (Dest.ofG f.d) (.g r.1)

/-- `sopen` (15 R365). -/
def execSopen (f : Fields) (s : State) : Out :=
  run (.sopen f) f {
    gate := fun s => (if 16 ≤ s.me.stack.length then s.atPc 5 cScopeDepth else .ok : Verdict).andThen
      (if (s.openPlace f).isSome then s.carveHold else .ok)
    act := fun s => match s.openPlace f with
      | some (i, g, s1) => s.openScope f i g s1
      | none => s.quick (Dest.ofG f.d) (.g 0) } s

/-- The entry below becomes the current one. -/
def Ctx.pop (c : Ctx) : Ctx :=
  let es := c.stack.drop 1
  { c with stack := es, spr := { c.spr with csc := (es.head?.map (·.handle)).getD 0 } }

/-- The `sclose` of the issuing context has begun. -/
def State.closing (s : State) : Option Hold := s.me.hold.bind (fun x => if x.kind = .own then some x else none)

/-- A write that a scope's hub was told of is seen by the issuing core: it is performed, or its own cluster has accepted it (13 R294). -/
def State.sees (s : State) (i : Nat) : Bool :=
  match s.acc i with
  | none => true
  | some a => a.doneAt 3 || (a.doneAt 1 && s.clu a.ctx.core == s.clu s.cur.core)
    || a.parts.all (fun p => p.done || p.package.any (fun q => !s.alive s.cur.core.pkg q))

/-- `sclose` (15 R366): it begins once, and holds until ScopeEmpty has answered; as an acquire it holds until it sees every write of the
scope's descendants (13 R305). -/
def execSclose (f : Fields) (s : State) : Out :=
  run (.sclose f) f {
    gate := fun s => match s.closing with
      | some x => if x.answer.isSome && (x.ids.drop 1).all s.sees then .ok else .hold
      | none =>
        if s.scopeArg f == s.me.scope && s.me.top.own && !s.me.stack.isEmpty then .hold else s.atPc 5 cScopeDepth
    act := fun s => match s.closing.bind (·.answer) with
      | some (w, v) => ((s.endHold.quick (Dest.ofG f.d) (.g w)).quick (Dest.ofG f.c) (.g v))
      | none => s
    wait := fun s =>
      if s.closing.isSome then s
      else
        let e := s.me.top
        ((s.setMe Ctx.pop).giveBack e.handle e.share true).setMe
          (fun c => { c with hold := some ⟨.own, s.now, [e.handle.toNat], none⟩ }) } s

/-- `scnl` (15 R367). -/
def execScnl (f : Fields) (s : State) : Out :=
  run (.scnl f) f {
    act := fun s =>
      let h := s.scopeArg f
      match s.hub h with
      | some b => if b.tenant = s.myTenant then s.brakeHub h else s
      | none => s } s

/-- `sshd` (15 R349, R367). -/
def execSshd (f : Fields) (s : State) : Out :=
  run (.sshd f) f {
    gate := fun s => if 15 ≤ s.me.freewheel then s.atPc 5 cScopeDepth else .ok
    act := fun s => s.setMe (fun c => { c with freewheel := c.freewheel + 1 }) } s
/-- `sunsh` (15 R349, R367). -/
def execSunsh (f : Fields) (s : State) : Out :=
  run (.sunsh f) f {
    gate := fun s => if s.me.freewheel = 0 then s.atPc 5 cScopeDepth else .ok
    act := fun s => s.setMe (fun c => { c with freewheel := c.freewheel - 1 }) } s

/-- `claim` (15 R350, R368): a context that observes a brake loses at once. -/
def execClaim (f : Fields) (s : State) : Out :=
  run (.claim f) f {
    act := fun s =>
      if s.braked then s.quick (Dest.ofP f.d) (.p (allBits false))
      else
        let h := s.scopeArg f
        let p := s.pendOn [Dest.ofP f.d]
        let c : ClaimReq := ⟨s.cur, s.myTask, h, s.gval f f.b, p.1, s.me.stack.any (fun e => e.handle == h)⟩
        { p.2 with claims := p.2.claims.set p.2.nextId c, nextId := p.2.nextId + 1 } } s

/-- `poll` (15 R373). -/
def execPoll (f : Fields) (s : State) : Out :=
  run (.poll f) f { act := fun s => s.quick (Dest.ofP f.d) (.p (allBits s.braked)) } s

/-- What `sinfo` writes (15 R375). -/
def State.scopeInfo (s : State) (h sel : W64) : W64 :=
  match s.hub h with
  | none => 0
  | some b =>
    if sel = 0 then b.word b.state else if sel = 1 then b.claimv else if sel = 2 then b.parent
    else if sel = 3 then BitVec.ofNat 64 (b.t - b.r) else 0

/-- `sinfo` (15 R375). -/
def execSinfo (f : Fields) (s : State) : Out :=
  run (.sinfo f) f { act := fun s => s.quick (Dest.ofG f.d) (.g (s.scopeInfo (s.scopeArg f) (s.gval f f.b))) } s

end Sys2Proof.Machine
end

