-- ==== Sys2Proof/Machine/TaskOps.lean ====
section
/-! DEFINITION. Tasks, helpers and task graphs (15 R353-R358, R369-R371, R374). -/

namespace Sys2Proof.Machine

open Sys2Proof Sys2Proof.Lanes

/-! ## Records (15 R353, R359) -/

/-- What a task record or a launch packet asks for. -/
structure TaskRec where
  entry : W64
  args : List W64
  prio : Nat
  reach : Nat
  foot : Nat
  w : Nat
  h : Nat
  deriving DecidableEq, Repr

/-- The widest gang of a reach. -/
def gangMax (reach : Nat) : Nat := if reach = 0 then 1 else if reach = 1 then 4 else 8

/-- A record whose bytes 56-63 are `bs`; none is refused. -/
def recordShape (entry : W64) (args : List W64) (bs : List Byte) : Option TaskRec :=
  let b0 := field bs 0 1
  let b1 := field bs 1 1
  let b2 := field bs 2 1
  let r : TaskRec := ⟨entry, args, natBits b0 0 3, natBits b0 3 3, natBits b1 0 5, natBits b2 0 3 + 1, natBits b2 3 3 + 1⟩
  if natBits b0 6 2 = 0 ∧ natBits b1 5 3 = 0 ∧ natBits b2 6 2 = 0 ∧ field bs 3 5 = 0 ∧ !badPc entry ∧ r.reach ≤ 4 ∧ r.foot ≤ 16
      ∧ r.w ≤ gangMax r.reach ∧ r.h ≤ gangMax r.reach then some r
  else none

/-- A word of a list of bytes. -/
def wordAt (bs : List Byte) (off : Nat) : W64 := BitVec.ofNat 64 (field bs off 8)

/-- A task record (15 R353). -/
def taskRec (bs : List Byte) : Option TaskRec :=
  recordShape (wordAt bs 0) ((List.range 6).map (fun i => wordAt bs (8 + 8 * i))) (bs.drop 56)

/-! ## Shares -/

/-- `n` shares out of one, the first the largest. -/
def splitShare (share n : Nat) : List Nat :=
  if n = 0 then [] else (List.range n).map (fun i => if i = 0 then share - share / n * (n - 1) else share / n)

/-- `n` shares of a scope out of one; where it does not reach, 2^16 are borrowed (15 R344). -/
def State.splitFor (s : State) (h : W64) (share n : Nat) : List Nat × State :=
  if n ≤ share then (splitShare share n, s)
  else (splitShare (share + 2 ^ 16) n, s.setHub h (fun b => { b with t := b.t + 2 ^ 16 }))

/-- SpokeSplit on the entry for `h` of a context, also below the top of its stack: the share carved, of a party born in cluster `l`. An entry
of share 1 borrows first; none where the context has gone, or has left the scope (15 R344). -/
def State.carveOf (s : State) (task : Option Nat) (c : CtxId) (incarn : Nat) (h : W64) (l : CluId) : Option (Nat × State) :=
  let k := s.ctxOf task c
  match k.stack.find? (fun e => e.handle == h) with
  | some e => if k.incarn ≠ incarn then none else
    let n := if e.share ≤ 1 then e.share + 2 ^ 16 else e.share
    let s1 := if e.share ≤ 1 then s.setHub h (fun b => { b with t := b.t + 2 ^ 16 }) else s
    some (n / 2, (s1.setCtxOf task c (fun k => { k with
      stack := k.stack.map (fun x => if x.handle = h then { x with share := n - n / 2 } else x) })).mark h l)
  | none => none

/-- The shares of the members of a gang, the first of them carved at issue: one each of the spawner's entry; once that has gone, parts of the
one (15 R344, R369; log 26, DEDUCED). -/
def State.memberShares (s : State) (a : Access) (share : Nat) : Nat → List Nat × State
  | 0 => ([], s)
  | 1 => ([share], s)
  | n + 1 => match s.carveOf a.task a.ctx a.incarn a.scope (s.clu a.ctx.core) with
    | none => s.splitFor a.scope share (n + 1)
    | some (x, s1) =>
      let r := s1.memberShares a share n
      (r.1 ++ [x], r.2)

/-! ## New tasks -/

/-- A site as an origin (15 R361). -/
def State.originOf (s : State) (k : CoreId) : Nat × Nat × Nat := (k.pkg, k.die, s.site k)

/-- The tasks of a record enter the ready queue of a cluster, one for each member (15 R360). The first one's id comes back. -/
def State.newTasks (s : State) (l : CluId) (origin : Nat × Nat × Nat) (dom : BitVec 16) (scope : W64) (shares : List Nat) (r : TaskRec)
    (node : Option (W64 × List Nat)) (waits : List Nat) (rooted : Bool := false) : Nat × State :=
  let n := r.w * r.h
  let first := s.nextId
  let member (i : Nat) : Task := {
    pkg := l.pkg, dom := dom, entry := r.entry, args := r.args, prio := r.prio, level := r.prio, reach := r.reach, foot := r.foot
    gang := if n = 1 then none else some ⟨first, i % r.w, i / r.w, r.w, r.h⟩
    scope := scope, share := shares.getD i 0, origin := origin, clu := l, order := first, since := s.now, life := .queued, core := none
    frame := none, header := none, shadow := none, spilled := false, pooled := 0, node := node, waits := waits, started := 0, starts := 0, lastCore := none, incarn := 0
    rooted := rooted, fetches := [], ousted := false, seen := [] }
  (first, { s with
    tasks := (List.range n).foldl (fun m i => Map.set m (first + i) (member i)) s.tasks
    nextId := first + n })

/-- A lead or a helper starts at a PC in the state of 15 R354. -/
def Ctx.begin (old : Ctx) (pc : W64) (dom : BitVec 16) (scope : W64) (share now : Nat) (gs : List (Nat × W64)) : Ctx :=
  { Ctx.fresh with
    g := gs.foldl (fun v e => v.setIfInBounds e.1 e.2) Ctx.fresh.g
    pcq0 := ⟨pc, false, true, false⟩, pcq1 := ⟨pc, true, false, false⟩, pcq2 := ⟨pc, true, false, false⟩
    spr := { SprFile.fresh with csc := scope }
    life := .running, elapsedFrom := now, domain := dom, incarn := old.incarn + 1, stack := [⟨scope, share, false⟩] }

/-! ## `spawn`, `spwg` (15 R369) -/

/-- The reach of a scope. -/
def State.reachOf (s : State) (h : W64) : Nat := ((s.hub h).map (·.reach)).getD 4

/-- ILLEGAL in a replay scope (15 R351). -/
def State.notReplay (s : State) : Verdict := if s.myReplay.isSome then s.atPc 5 cIllegal else .ok

/-- `spawn` and `spwg`: the read of the record sets out as an acquire at `.sys`. -/
def spawnInstr (i : Fields → Instr) (gang : Bool) (f : Fields) (s : State) : Out :=
  run (i f) f {
    gate := fun s =>
      s.notReplay.andThen <|
      s.loadRoom.andThen <|
      (s.globalOk [s.ea f] 64 64 rightR true false).andThen <|
      (s.watch (s.ea f) 64 true false).andThen (if s.braked then .ok else s.carveHold)
    act := fun s =>
      if s.braked then s.quick (Dest.ofG f.d) (.g 0)
      else
        let sh := s.carve
        let s1 := sh.2.issue f (.task gang sh.1) (s.ea f) (readParts (s.ea f).toNat 64) [Dest.ofG f.d] (encodeSel f.d)
        s1.setAcc (s1.nextId - 1) (fun a => { a with ord := true, reach := 4, nud := 31 }) } s

/-- `spawn` (15 R369). -/
def execSpawn (f : Fields) (s : State) : Out := spawnInstr .spawn false f s
/-- `spwg` (15 R369). -/
def execSpwg (f : Fields) (s : State) : Out := spawnInstr .spwg true f s

/-- The record has been read: the task or gang is queued, or the record is refused (15 R353, R369). -/
def State.landTask (s : State) (id : Nat) (a : Access) (gang : Bool) (share : Nat) : State :=
  let s1 := s.endAcc id
  let refused := (s1.faultOf a.task a.ctx a.incarn a.tok ⟨a.ea, a.pc, cIllegal, a.sel, 0, 0⟩).returnShare a.scope share none
  match taskRec (a.parts.flatMap (·.data)) with
  | none => refused
  | some r =>
    if !gang && decide (r.w * r.h ≠ 1) then refused
    else
      let waits := (s.accs.filter (fun e => decide (e.1 < id) && e.2.sameOwner a && e.2.op.isWrite)).map (·.1)
      let sp := s1.memberShares a share (r.w * r.h)
      let n := sp.2.newTasks (s.clu a.ctx.core) (s.originOf a.ctx.core) a.dom a.scope sp.1 r none waits
      match a.tok with
      | some t => n.2.landG a.task a.ctx t (BitVec.ofNat 64 n.1)
      | none => n.2

/-- A held `fget` that is an acquire is answered once no record of its line keeps it (13 R296, R303). -/
def State.answered (s : State) (a : Access) : Bool :=
  a.stage != .deferred || a.parts.all (fun p => match p.pa with
    | some pa => (s.crossed a (lineOf pa)).isEmpty
    | none => true)

/-- GLOBAL_ACCESS_LAND: an access whose replies are there lands its destinations (05 R77, 12 R276); a task record makes its task. -/
def execGlobalAccessLand (id : Nat) (s : State) : Out :=
  match s.acc id with
  | none => happen false (fun s => s) s
  | some a => happen (a.finished && a.failure.isNone && a.op.isLoad && s.answered a
      && a.parts.all (fun p => !s.riding a.ctx.core.pkg (.reply id (p.ea / 64)))) (fun s =>
      match a.op with
      | .task g n => s.landTask id a g n
      | _ => s.landAcc id a) s

/-! ## `start` (15 R370) -/

/-- The lowest-numbered free helper. -/
def State.freeHelper (s : State) : Option Nat :=
  ((List.range 10).map (· + 1)).find? (fun n => (s.myTc.ctx n).life == .free)

/-- `start` (15 R370). In a helper it is an ILLEGAL_HELPER_OP, of the first class of 02 R28, found under a true guard and once no
stall of its own is left (log 7, DESIGN CHOICE). -/
def execStart (f : Fields) (s : State) : Out :=
  run (.start f) f {
    gate := fun s =>
      (if s.cur.ctx ≠ 0 then s.atPc 1 cHelper else .ok : Verdict).andThen <|
      match s.freeHelper with
      | some _ => if s.braked then .ok else s.carveHold
      | none => if f.mod0 && !s.braked then .hold else .ok
    act := fun s => match (if s.braked then none else s.freeHelper) with
      | none => s.quick (Dest.ofP f.d) (.p (allBits false))
      | some n =>
        let sh := s.carve
        let s1 := sh.2.setMyTc (fun t => t.setCtx n (fun c =>
          Ctx.begin c (s.gval f f.a) s.me.domain s.me.scope sh.1 s.now [(1, s.gval f f.b), (2, BitVec.ofNat 64 n)]))
        s1.quick (Dest.ofP f.d) (.p (allBits true)) } s

/-! ## Borrowing (15 R344) -/

/-- The guard of an instruction that carves a share, and whether it is to carve one where that is true (15 R344, R365, R369, R370, R374). -/
def State.carver (s : State) (i : Instr) : Option (Guard × Bool) :=
  match i with
  | .cp f | .cps f => some (f.guard, decide (s.copySlots s.cur.core < 16))
  | .msg f | .mcst f | .tgdec f => some (f.guard, true)
  | .streamSub f | .drn f => some (f.guard, !s.streamsFull)
  | .sopen f => some (f.guard, (s.openPlace f).isSome)
  | .spawn f | .spwg f => some (f.guard, !s.braked)
  | .start f => some (f.guard, !s.braked && s.freeHelper.isSome)
  | _ => none

/-- The packet at PCQ0 of a running context has an instruction that is to carve a share. -/
def State.carvePends (s : State) (c : CtxId) : Bool :=
  let k := s.ctx c
  let t : State := { s with cur := c }
  k.life == .running && !k.pcq0.anl && !k.pcq0.sq && (match s.peekLine c k.pcq0.pc with
    | none => false
    | some bits => (packetPositions bits (pcPos k.pcq0.pc)).any (fun i => match decode (BitVec.ofNat 96 (posWord bits i)) with
      | .ok ins => match t.carver ins with
        | some (g, b) => bitAt (k.getP g.p) 0 != g.neg && b
        | none => false
      | .error _ => false))

/-- BORROW: an entry whose share is 1 gets 2^16 more as a share is to be carved of it (15 R344). -/
def execBorrow (h : W64) (c : CtxId) (s : State) : Out :=
  let k := s.ctx c
  happen (k.top.handle == h && k.top.share == 1 && (s.hub h).isSome && !k.stack.isEmpty && s.carvePends c) (fun s => s.borrowTop c) s

/-! ## Task graphs (15 R357, R358, R374) -/

/-- A node's fields. -/
structure Node where
  cnt : Nat
  init : Nat
  kind : Nat
  na : Nat
  nb : Nat
  inst : Bool
  arg : Nat
  limit : W64
  sa : List Int
  sb : List Int
  scope : W64
  /-- no reserved bit is set, and KIND, NA and NB are in range -/
  ok : Bool
  deriving DecidableEq, Repr

/-- Signed offsets of successors. -/
def offsetsAt (bs : List Byte) (off n : Nat) : List Int :=
  (List.range n).map (fun i => (BitVec.ofNat 16 (field bs (off + 2 * i) 2)).toInt)

/-- A node from its 64 bytes. -/
def nodeOf (bs : List Byte) : Node :=
  let kind := field bs 4 1
  let n := field bs 5 1
  { cnt := field bs 0 2, init := field bs 2 2, kind := kind, na := natBits n 0 4, nb := natBits n 4 4
    inst := (field bs 7 1).testBit 0, arg := field bs 8 8, limit := wordAt bs 16, sa := offsetsAt bs 24 (min (natBits n 0 4) 8)
    sb := offsetsAt bs 40 (min (natBits n 4 4) 8), scope := wordAt bs 56
    ok := decide (kind ≤ 4) && decide (natBits n 0 4 ≤ 8) && decide (natBits n 4 4 ≤ 8) && field bs 6 1 == 0 && field bs 7 1 / 2 == 0
      && (kind == 2 || field bs 16 8 == 0) }

/-- The handle in a node's SCOPE, and the domain in it. -/
def nodeHandle (scope : W64) : W64 := scope &&& ~~~ 0x7FFFFFF#64
@[inherit_doc nodeHandle] def nodeDomain (scope : W64) : BitVec 16 := scope.truncate 16

/-- Successor addresses. -/
def successors (ea : Nat) (offs : List Int) : List Nat := offs.map (fun o => (((ea : Int) + 64 * o) % 2 ^ 64).toNat)

/-- The scheduler records a fault in a scope (15 R358). -/
def State.scopeFault (s : State) (h : W64) (cause : Nat) : State :=
  s.setHub h (fun b => { b with fault := true, cause := if b.fault then b.cause else cause })

/-- Decrements sent by the scheduler, each with a share of `h` carved in a cluster (R343); with no successor the share returns. -/
def State.sendDecrements (s : State) (l : CluId) (h : W64) (dom : BitVec 16) (share : Nat) (eas : List Nat) : State :=
  if eas.isEmpty then s.returnShare h share none
  else
    let sp := (s.mark h l).splitFor h share eas.length
    (eas.zip sp.1).foldl (fun s e =>
      let q : NodeReq := {
        op := .dec, clu := l, ea := e.1, ctx := none, incarn := 0, task := none, tok := none, dom := dom, csc := h, share := e.2, pc := 0, waits := []
        reach := s.reachOf h, sel := 0, since := s.now }
      { s with nodeOps := s.nodeOps.set s.nextId q, nextId := s.nextId + 1 }) sp.2

/-- `tgnode` and `tgdec` (15 R374). A `tgdec` carves its share here, a `tgnode` at its step, which finds whether the counter is zero (R344). -/
def graphInstr (i : Fields → Instr) (op : NodeOp) (f : Fields) (s : State) : Out :=
  run (i f) f {
    gate := fun s =>
      (if op = .install then s.notReplay else .ok : Verdict).andThen <|
      s.accessStall.andThen <|
      (s.globalOk [s.ea f] 64 64 rightW false false).andThen (if op = .install then .ok else s.carveHold)
    act := fun s =>
      if op = .install ∧ s.braked then s.quick (Dest.ofP f.d) (.p (allBits false))
      else
        let sh := if op = .install then (0, s) else s.carve
        let p := sh.2.pendOn [Dest.ofP f.d]
        let s1 := p.2
        let waits := (s.accs.filter (fun e => s.ofMine e.2.ctx e.2.task && e.2.op.isWrite)).map (·.1)
        let q : NodeReq := {
          op := op, clu := s.clu s.cur.core, ea := (s.ea f).toNat, ctx := some s.cur, incarn := s.me.incarn, task := s.myTask, tok := some p.1, dom := s.me.domain
          csc := s.me.scope, share := sh.1, pc := s.myPc, waits := waits, reach := s.reachOf s.me.scope, sel := encodeSel f.d, since := s.now }
        { s1 with nodeOps := s1.nodeOps.set s1.nextId q, nextId := s1.nextId + 1 } } s

/-- `tgnode` (15 R374). -/
def execTgnode (f : Fields) (s : State) : Out := graphInstr .tgnode .install f s
/-- `tgdec` (15 R374). -/
def execTgdec (f : Fields) (s : State) : Out := graphInstr .tgdec .dec f s

/-- A node operation fails: its context takes an asynchronous fault, or its scope records the cause; its share returns. -/
def State.failNode (s : State) (id : Nat) (q : NodeReq) (cause : Nat) : State :=
  let s1 : State := { s with nodeOps := s.nodeOps.del id }
  let s2 := match q.ctx with
    | some c => s1.faultOf q.task c q.incarn q.tok ⟨BitVec.ofNat 64 q.ea, q.pc, cause, q.sel, 3, 0⟩
    | none => s1.scopeFault q.csc cause
  s2.returnShare q.csc q.share none

/-- The share for the firing of a node that is installed with a zero counter: of the installer's entry, or of the scope's hub once that entry
has gone (15 R344; log 26, DEDUCED). -/
def State.carveFiring (s : State) (q : NodeReq) : Nat × State :=
  match q.ctx.bind (fun c => s.carveOf q.task c q.incarn q.csc q.clu) with
  | some r => r
  | none => if (s.hub q.csc).isSome then (2 ^ 16, (s.setHub q.csc (fun b => { b with t := b.t + 2 ^ 16 })).mark q.csc q.clu) else (0, s)

/-- A node operation is done: its predicate lands, and its share goes to the firing or returns. -/
def State.endNode (s : State) (id : Nat) (q : NodeReq) (pa : Nat) (scope : W64) (res fire : Bool) : State :=
  let s1 : State := { s with nodeOps := s.nodeOps.del id }
  let s2 : State := if fire then
      { s1 with fires := s1.fires.set s1.nextId ⟨pa, q.ea, scope, q.csc, q.share⟩, nextId := s1.nextId + 1 }
    else s1.returnShare q.csc q.share none
  match q.ctx, q.tok with
  | some c, some t => s2.land q.task c t (fun _ => .p (allBits res))
  | _, _ => s2

/-- Who writes a node. -/
def NodeReq.writer (q : NodeReq) (s : State) : Writer :=
  match q.ctx with
  | some c => ⟨tenantOf q.dom, q.dom, 0, c.core, c.ctx⟩
  | none => ⟨tenantOf q.dom, q.dom, 0, s.coreIn q.clu, 0⟩

/-- The step at the node's home (15 R357, R374). -/
def State.stepNode (s : State) (id : Nat) (q : NodeReq) (pa : Nat) : State :=
  let n := nodeOf (s.readMem (tenantOf q.dom) pa 64)
  match q.op with
  | .install =>
    if !n.ok || n.inst then s.endNode id q pa 0 false false
    else
      let scope := (nodeHandle q.csc) ||| (q.dom.zeroExtend 64)
      let s1 := s.perform (q.writer s) (pa + 7) [some 1]
      let s2 := (s1.perform (q.writer s) (pa + 56) ((leBytes 8 scope.toNat).map some)).onlyHome pa
      if n.cnt ≠ 0 then s2.endNode id q pa scope true false
      else
        let sh := s2.carveFiring q
        sh.2.endNode id { q with share := sh.1 } pa scope true true
  | .dec =>
    if !n.inst then s.endNode id q pa 0 false false
    else if n.cnt = 0 then (s.setHub (nodeHandle n.scope) (fun b => { b with depu := true })).endNode id q pa 0 false false
    else
      ((s.perform (q.writer s) pa ((leBytes 2 (n.cnt - 1)).map some)).onlyHome pa).endNode id q pa n.scope true (n.cnt == 1)

/-- The earlier writes of a release count as done at a reach, or are over. -/
def State.waitsDone (s : State) (waits : List Nat) (reach : Nat) : Bool :=
  waits.all (fun i => match s.acc i with
    | some a => a.doneAt reach
    | none => true)

/-- A page is found, or a walk for it is not yet under way. -/
def State.pageDue (s : State) (l : CluId) (va : Nat) : Bool :=
  noSpace va || ((s.slice l).tlbFind va).isSome || !(s.slice l).walks.any (fun w => w.page == va / 65536)

/-- NODE_DECREMENT: a decrement, or an installation, reaches its node (15 R357, R374). -/
def execNodeDecrement (id : Nat) (s : State) : Out :=
  match s.nodeOps.find id with
  | none => happen false (fun s => s) s
  | some q =>
    happen (s.waitsDone q.waits q.reach && s.pageDue q.clu q.ea
        && (match s.physOf q.clu q.ea with
          | some pa => s.lineReady q.clu (q.ctx.map (·.core)) q.task (lineOf pa)
          | none => true)) (fun s =>
      if 2 ^ 63 ≤ q.ea then s.failNode id q cProtection
      else match s.findPage q.clu q.ea 2 q.dom with
        | (.wait, s1) => s1
        | (.none, s1) => s1.failNode id q cTranslation
        | (.page t, s1) =>
          let pa := t.at q.ea
          if paKind pa ≠ 0 || t.rro then s1.failNode id q cProtection
          else if q.ctx.isNone && s1.plb (s1.coreIn q.clu) q.dom q.ea 64 rightW != .granted then s1.failNode id q cProtection
          else if !s1.alive q.clu.pkg (paPkg pa) then s1.failNode id q cMachineCheck
          else if s1.rottenLine pa 64 then
            let r := s1.consume ((q.ctx.map (·.core)).getD (s1.coreIn q.clu)) q.dom q.csc pa
            if r.1 then r.2.failNode id q cUncorrectable else r.2.stepNode id q pa
          else s1.stepNode id q pa) s

/-- The word or record that a firing needs, in the installer's domain (15 R358): its bytes, a wait, or a cause. -/
inductive ArgRead where
  | bytes (bs : List Byte) (pa : Nat)
  | wait
  | bad (cause : Nat)
  deriving DecidableEq, Repr

/-- Read the ARG of a node. -/
def State.readArg (s : State) (l : CluId) (dom : BitVec 16) (a n right : Nat) : ArgRead :=
  if 2 ^ 63 ≤ a || a % n ≠ 0 then .bad cProtection
  else if s.plb (s.coreIn l) dom a n right != .granted then .bad cProtection
  else match s.findPage l a (if right = rightW then 1 else 0) dom with
    | (.wait, _) => .wait
    | (.none, _) => .bad cTranslation
    | (.page t, s1) =>
      let pa := t.at a
      if !s1.alive l.pkg (paPkg pa) then .bad cMachineCheck
      else if right = rightW ∧ t.rro then .bad cProtection
      else if !s1.lineReady l none none (lineOf pa) then .wait
      else if s1.rottenLine pa n then .bad cUncorrectable
      else .bytes (s1.readMem (tenantOf dom) pa n) pa

/-- The right that a kind of node needs on its ARG, and the bytes; JOIN reads none. -/
def argOf (kind : Nat) : Option (Nat × Nat) :=
  if kind = 0 then some (64, rightR) else if kind = 2 then some (8, rightW) else if kind = 1 ∨ kind = 3 then some (8, rightR) else none

/-- A node fires, its ARG read (15 R358). -/
def State.fireWith (s : State) (l : CluId) (ea : Nat) (n : Node) (h : W64) (dom : BitVec 16) (share : Nat) (bs : List Byte) (pa : Nat) : State :=
  let w := wordAt bs 0
  let send (s : State) (offs : List Int) : State := s.sendDecrements l h dom share (successors ea offs)
  if n.kind = 0 then
    match taskRec bs with
    | some r =>
      if r.w * r.h = 1 then (s.newTasks l (cluOrigin l) dom h [share] r (some (n.scope, successors ea n.sa)) []).2
      else (s.scopeFault h cIllegal).returnShare h share none
    | none => (s.scopeFault h cIllegal).returnShare h share none
  else if n.kind = 1 then send s (if w ≠ 0 then n.sa else n.sb)
  else if n.kind = 2 then
    if w.slt n.limit then
      send (s.perform ⟨tenantOf dom, dom, 0, s.coreIn l, 0⟩ pa ((leBytes 8 (w + 1).toNat).map some)) n.sa
    else send s n.sb
  else if n.kind = 3 then send s (if w.toNat < n.na then (n.sa.drop w.toNat).take 1 else [])
  else send s n.sa

/-- NODE_FIRE (15 R358). -/
def execNodeFire (id : Nat) (s : State) : Out :=
  match s.fires.find id with
  | none => happen false (fun s => s) s
  | some q =>
    let h := nodeHandle q.scope
    let dom := nodeDomain q.scope
    let l := paClu q.pa
    let n := nodeOf (s.readMem (tenantOf dom) q.pa 64)
    let dead := (s.hub h).isNone || s.brakeOf h
    let arg : ArgRead := match argOf n.kind with
      | some (k, right) => if dead then .bytes [] 0 else s.readArg l dom n.arg k right
      | none => .bytes [] 0
    happen (s.lineReady l none none (lineOf q.pa) && (arg != .wait || s.pageDue l n.arg)) (fun s =>
      if arg = .wait then (s.findPage l n.arg 0 dom).2
      else
        let s1 : State := { s with fires := s.fires.del id }
        let s2 := s1.perform ⟨tenantOf dom, dom, 0, s1.coreIn l, 0⟩ q.pa ((leBytes 2 n.init).map some)
        if dead then s2.returnShare q.holder q.share none
        else
          let own := q.holder == h
          let s3 := (if own then s2 else (s2.setHub h (fun b => { b with t := b.t + 2 ^ 16 })).returnShare q.holder q.share none).mark h l
          let share := if own then q.share else 2 ^ 16
          match arg with
          | .bytes bs pa => s3.fireWith l q.ea n h dom share bs pa
          | .bad c => (s3.scopeFault h c).returnShare h share none
          | .wait => s3) s

/-! ## `exit` (15 R371) -/

/-- The helpers of the core have exited, its copies have finished, its queues are empty and its streams have detached. -/
def State.exitQuiet (s : State) : Bool :=
  s.myTc.ctxs.all (fun e => e.1 == 0 || e.2.life == .free)
    && s.copies.all (fun e => !(e.2.task == s.myTask && (s.myTask.isSome || e.2.core == s.cur.core)))
    && s.myTc.mat.queue.isEmpty && s.myTc.env.queue.isEmpty
@[inherit_doc State.exitQuiet] def State.exitStreams (s : State) : Bool :=
  s.streams.all (fun e => !(e.2.task == s.myTask && (s.myTask.isSome || e.2.core == s.cur.core)))

/-- The placement reach of the birth scope. -/
def State.birthReach (s : State) : Nat := (s.me.stack.getLast?.map (fun e => s.reachOf e.handle)).getD 4

/-- Nothing that an `exit` waits for is left, what its own packet has begun included (10 R206, 15 R371). -/
def State.exitReady (s : State) : Bool :=
  (s.cur.ctx != 0 || (s.exitQuiet && s.exitStreams)) && s.writesDone s.birthReach

/-- Loads of a context that has exited land nowhere. A task record that is still to be read is read, and its task is queued
(15 R369). -/
def State.dropLoads (s : State) : State :=
  (s.accs.filter (fun e => s.ofMine e.2.ctx e.2.task && !e.2.op.isWrite && !e.2.op.isTask)).foldl (fun s e => s.endAcc e.1) s

/-- The writes of a context that exits and that are accepted, not performed, are told to its scope's hub (13 R296, R305). -/
def State.oweWrites (s : State) (h : W64) : State :=
  let ids := (s.accs.filter (fun e => s.ofMine e.2.ctx e.2.task && e.2.op.isWrite && !e.2.doneAt 3)).map (·.1)
  if ids.isEmpty then s else s.setHub h (fun b => { b with owes := b.owes ++ ids })

/-- The lead's task ends: the successors of the node that fired it are decremented, its share returns, its core is free. -/
def State.leaveTask (s : State) (id : Nat) : State :=
  match s.tasks.find id with
  | none => s
  | some t =>
    let e := s.me.stack.getLastD ⟨0, 0, false⟩
    let s1 := ((s.oweWrites e.handle).disarm s.cur).dropLoads
    let s2 := match t.node with
      | some (_, eas) =>
        if eas.isEmpty then s1.returnShare e.handle e.share none
        else
          let sp := s1.splitFor e.handle e.share 2
          ((sp.2.sendDecrements t.clu e.handle t.dom (sp.1.getD 0 0) eas)).returnShare e.handle (sp.1.getD 1 0) none
      | none => s1.returnShare e.handle e.share none
    s2.removeTask id

/-- A helper is free, or a context without a task. -/
def State.leaveHelper (s : State) : State :=
  let s1 := (((s.oweWrites s.me.scope).disarm s.cur).dropLoads).returnStack s.me none
  (s1.setMe Ctx.renew).setMyTc (fun x => { x with pins := x.pins.filter (fun p => p.ctx != s.cur.ctx) })

/-- `exit` (15 R371). -/
def execExit (f : Fields) (s : State) : Out :=
  run (.exit f) f {
    frozen := fun s => s.fenceFreeze.orElse (fun _ => s.engineFreeze)
    gate := fun s =>
      (if s.cur.ctx = 0 && !(s.exitQuiet && s.exitStreams) then .hold else .ok : Verdict).andThen <|
      (if 1 < s.me.stack.length then s.atPc 5 cScopeDepth else .ok : Verdict).andThen
        (if s.writesDone s.birthReach then .ok else .hold)
    act := fun s => if !s.exitReady then { s with pk := { s.pk with stay := true } } else
      let s0 := s.commitAll s.myTask s.cur
      let s1 := match (if s0.cur.ctx = 0 then s0.myTask else none) with
        | some id => s0.leaveTask id
        | none => s0.leaveHelper
      { s1 with pk := { s1.pk with leave := true } }
    wait := fun s =>
      if s.cur.ctx = 0 && s.exitQuiet && !s.exitStreams then
        { s with streams := s.streams.map (fun e => if e.2.task = s.myTask ∧ (s.myTask.isSome ∨ e.2.core = s.cur.core) then
          (e.1, { e.2 with unsub := true }) else e) }
      else s } s

end Sys2Proof.Machine
end

