-- ==== Sys2Proof/Machine/Sched.lean ====
section
/-! DEFINITION. Launches, the scheduler, pre-emption and frames (15 R354-R363, R372; 20 R421, R422, R427, R432). -/

namespace Sys2Proof.Machine

open Sys2Proof Sys2Proof.Lanes

/-! ## Launch (15 R359, 20 R432) -/

/-- Bytes of a packet, byte 0 first. -/
def packetBytes (p : BitVec 512) : List Byte := leBytes 64 p.toNat

/-- The root task that a launch packet asks for. -/
def launchRec (bs : List Byte) : Option TaskRec :=
  if field bs 48 8 = 0 then
    recordShape (wordAt bs 0) ((List.range 4).map (fun i => wordAt bs (8 + 8 * i)) ++ [0, 0]) (bs.drop 56)
  else none

/-- DONE is usable. -/
def doneUsable (a : Nat) : Bool := decide (a < 2 ^ 63) && a % 8 == 0

/-- LAUNCH_PACKET_WRITE: the port queues 16 packets; a packet that finds it full, or a write of another size, is dropped and counted
(20 R432). Before READY, and while the tenant's valid bit is clear, a packet is dropped (20 R432, 22 R470). -/
def execLaunchPacketWrite (pkg tenant : Nat) (packet : BitVec 512) (whole : Bool) (s : State) : Out :=
  happen (decide (1 ≤ tenant) && decide (tenant ≤ 255) && (s.pkg pkg).powered) (fun s =>
    if (s.pkg pkg).st ≠ .ready then s
    else s.setTenant pkg tenant (fun t =>
      if !whole || decide (16 ≤ t.queue.length) then { t with drops := t.drops + 1 }
      else if t.valid then { t with queue := t.queue ++ [packet] }
      else t)) s

/-- The completion word of a refused packet. -/
def refusedWord : W64 := BitVec.ofNat 64 (3 + cIllegal <<< 16)

/-- A root scope opens in a cluster with its task or gang: as no context will close it, it is CLOSING from the start, and
the task holds the whole share. -/
def State.launchRoot (s : State) (l : CluId) (tenant slot done : Nat) (r : TaskRec) : State :=
  let b : Hub := { Hub.fresh with reach := r.reach, tenant := tenant, root := some (l.pkg, done), pres := [l] }
  let h := s.newHub l slot b
  let s1 := h.2.setHub h.1 (fun b => { b with state := 2 })
  (s1.newTasks l (cluOrigin l) (BitVec.ofNat 16 (tenant * 256)) h.1 (splitShare (2 ^ 32) (r.w * r.h)) r none [] true).2

/-! ## Places for tasks (15 R356, R361) -/

/-- A worker core by the role map. -/
def State.isWorker (s : State) (k : CoreId) : Bool := !isSup k && (s.die k.pkg k.die).workers.has k.num

/-- The lead context of a worker core has no task, and no gang holds the core. -/
def State.coreFree (s : State) (k : CoreId) : Bool :=
  let c := s.core k
  s.isWorker k && c.task.isNone && c.reserved.isNone
    && (s.die k.pkg k.die).remap.move.all (fun m => m.1 != k.num)

/-- A placement reach, measured from a site, contains a core. -/
def State.reaches (s : State) (reach : Nat) (o : Nat × Nat × Nat) (k : CoreId) : Bool :=
  let n := s.site k
  o.1 == k.pkg && (decide (3 ≤ reach) || (o.2.1 == k.die && (
    if reach = 0 then o.2.2 == n else if reach = 1 then siteClu o.2.2 == siteClu n else siteQuad o.2.2 == siteQuad n)))

/-- The worker core at a site. -/
def State.coreAt (s : State) (pkg die site : Nat) : Option CoreId :=
  ((s.die pkg die).workers.find? (fun e => e.2 == site)).map (fun e => ⟨pkg, die, e.1⟩)

/-- The cores of a rectangle, by member, if every site is a worker's. -/
def State.rectangle (s : State) (pkg die x0 y0 w h : Nat) : Option (List CoreId) :=
  if 32 < x0 + w || 32 < y0 + h then none
  else (List.range (w * h)).mapM (fun i => s.coreAt pkg die (32 * (y0 + i / w) + x0 + i % w))

/-- The rectangles of a gang that contain a core. -/
def State.rectanglesAt (s : State) (k : CoreId) (w h : Nat) : List (List CoreId) :=
  let n := s.site k
  (List.range h).flatMap (fun dy => (List.range w).filterMap (fun dx =>
    if dx ≤ siteX n ∧ dy ≤ siteY n then s.rectangle k.pkg k.die (siteX n - dx) (siteY n - dy) w h else none))

/-- The worker cores of a package. -/
def State.workerCores (s : State) (pkg : Nat) : List CoreId :=
  (s.pkg pkg).dies.flatMap (fun d => d.2.workers.map (fun w => ⟨pkg, d.1, w.1⟩))

/-- The rectangles of a gang whose member (0,0) stands in a cluster. -/
def State.rectanglesIn (s : State) (l : CluId) (w h : Nat) : List (List CoreId) :=
  (List.range 16).filterMap (fun i => s.rectangle l.pkg l.die (l.clu % 8 * 4 + i % 4) (l.clu / 8 * 4 + i / 4) w h)

/-- A cluster that a launch may choose: it has a free hub slot, and cores, or for a gang a rectangle, within the reach of the
task that starts there (15 R356, R359). -/
def State.hosts (s : State) (ok : CoreId → Bool) (r : TaskRec) (l : CluId) : Bool :=
  let near (k : CoreId) : Bool := s.reaches r.reach (cluOrigin l) k
  (s.freeSlot l).isSome
    && (if r.w * r.h = 1 then (s.workerCores l.pkg).any near
      else (s.rectanglesIn l r.w r.h).any (fun ks => ks.all (fun k => near k && ok k)))

/-- The clusters of a package. -/
def clustersOf (pkg : Nat) : List CluId := (List.range 256).map (fun n => ⟨pkg, n / 64, n % 64⟩)

/-- LAUNCH_TAKE: the packet at the head of a port is taken for a cluster that hosts it, or refused. A gang goes to a cluster with a
free rectangle while there is one (15 R359). -/
def execLaunchTake (pkg tenant : Nat) (l : CluId) (s : State) : Out :=
  match (s.tenant pkg tenant).queue with
  | [] => happen false (fun s => s) s
  | p :: rest =>
    let bs := packetBytes p
    let done := field bs 40 8
    let here : Bool := match launchRec bs with
      | some r => !doneUsable done || s.hosts s.coreFree r l
          || (s.hosts (fun _ => true) r l && (r.w * r.h == 1 || !(clustersOf pkg).any (s.hosts s.coreFree r)))
      | none => true
    happen (l.pkg == pkg && decide (l.die < 4) && decide (l.clu < 64) && here) (fun s =>
      let s1 := s.setTenant pkg tenant (fun t => { t with queue := rest })
      match launchRec bs, s.freeSlot l with
      | some r, some slot =>
        if doneUsable done then s1.launchRoot l tenant slot done r else s1.raiseMsix pkg tenant
      | none, _ => if doneUsable done then s1.complete l tenant done refusedWord else s1.raiseMsix pkg tenant
      | _, none => s1.raiseMsix pkg tenant) s

/-- The messages held on a core for a pre-empted task bar the other tasks of its tenant (14 R340). -/
def State.barred (s : State) (k : CoreId) (id : Nat) (t : Task) : Bool :=
  (s.core k).spill.any (fun i => match s.msgs.find i with
    | some m => tenantOf m.dom == tenantOf t.dom
    | none => false)
    && (match s.preempted k (tenantOf t.dom) with
      | some p => p != id
      | none => false)

/-- The members of a gang, by position. -/
def State.gangOf (s : State) (g : GangPos) : List (Nat × Task) :=
  (List.range (g.w * g.h)).filterMap (fun i => (s.member g.gang (i % g.w) (i / g.w)).bind (fun id =>
    (s.tasks.find id).map (fun t => (id, t))))

/-- A task, or a gang by its first member (the others of it follow). -/
def State.leads (s : State) (e : Nat × Task) : Bool :=
  match e.2.gang with
  | none => true
  | some g => (s.gangOf g).head?.map (·.1) == some e.1

/-- Where a member of a gang stands in the gang's rectangle. -/
def GangPos.index (g : GangPos) : Nat := g.y * g.w + g.x

/-- A gang may stand on a rectangle: all of it is in reach, no member is barred from its core, and a launched one starts with its
member (0,0) in the cluster that was chosen (14 R340; 15 R356, R359). -/
def State.gangFits (s : State) (t : Task) (g : GangPos) (ks : List CoreId) : Bool :=
  ks.all (s.reaches t.reach t.origin)
    && (s.gangOf g).all (fun m => match (m.2.gang.map (·.index)).bind (fun i => ks[i]?) with
      | some j => !s.barred j m.1 m.2
      | none => false)
    && (!t.rooted || t.starts != 0 || (ks.head?.map s.clu) == some t.clu)

/-- Where a queued task, or a gang by its first member, could start with core `k` among its cores: the cores of its rectangle, in
the order of the members' places. -/
def State.placesFor (s : State) (free : CoreId → Bool) (k : CoreId) (id : Nat) (t : Task) : Option (List CoreId) :=
  match t.gang with
  | none => if t.life == .queued && t.pkg == k.pkg && free k && s.reaches t.reach t.origin k && !s.barred k id t then some [k] else none
  | some g =>
    if s.leads (id, t) ∧ t.pkg = k.pkg ∧ (s.gangOf g).all (fun m => m.2.life == .queued) then
      (s.rectanglesAt k g.w g.h).find? (fun ks => ks.all free && s.gangFits t g ks)
    else none

/-- The tasks that core `k` may take. -/
def State.eligible (s : State) (free : CoreId → Bool) (k : CoreId) : List (Nat × Task) :=
  s.tasks.filter (fun e => (s.placesFor free k e.1 e.2).isSome)

/-! ## The order of service (15 R361) -/

/-- Distance on a ring of 64. -/
def ringDist (a b : Nat) : Nat := min ((a + 64 - b) % 64) ((b + 64 - a) % 64)
/-- Torus hops between the (0,0) sites of two clusters. -/
def cluDist (a b : CluId) : Nat :=
  let p := torusXY a.die (cluOrigin a).2.2
  let q := torusXY b.die (cluOrigin b).2.2
  ringDist p.1 q.1 + ringDist p.2 q.2

/-- The order of clusters from one of them: distance, die, cluster. -/
def cluRank (a b : CluId) : Nat := cluDist a b * 256 + b.die * 64 + b.clu

/-- The element of a list with the least key. -/
def leastBy {α : Type} (key : α → Nat) : List α → Option α
  | [] => none
  | x :: xs => match leastBy key xs with
    | some y => if key y < key x then some y else some x
    | none => some x

/-- The next tenant of a round: the smallest above the last one served, or the smallest (15 R361). -/
def nextTenant (last : Option Nat) (ts : List Nat) : Option Nat :=
  match last with
  | some n => (leastBy (fun t => t) (ts.filter (fun t => decide (n < t)))).orElse (fun _ => leastBy (fun t => t) ts)
  | none => leastBy (fun t => t) ts

/-- Deficit round-robin at one priority: the tenant to serve, and the unit after the start; `more` says whether the tenant
has a task left there. -/
def Dispatcher.serve (u : Dispatcher) (prio : Nat) (ts : List Nat) (more : Nat → Bool) : Option (Nat × Dispatcher) :=
  let last := u.last.find prio
  let pick : Option (Nat × Nat) := match last with
    | some t =>
      if ts.contains t ∧ 0 < u.deficit.get (prio, t) 0 then some (t, u.deficit.get (prio, t) 0)
      else (nextTenant last ts).map (fun n => (n, u.deficit.get (prio, n) 0 + 64))
    | none => (nextTenant last ts).map (fun n => (n, u.deficit.get (prio, n) 0 + 64))
  pick.map (fun e => (e.1, { u with
    deficit := u.deficit.set (prio, e.1) (if more e.1 then e.2 - 1 else 0)
    last := u.last.set prio e.1 }))

/-- The smallest order among tasks. -/
def oldest (ts : List (Nat × Task)) : Option (Nat × Task) :=
  ts.foldl (fun b e => match b with
    | some x => if e.2.order < x.2.order then some e else some x
    | none => some e) none

/-- The task that a core takes next, and the dispatch units after it. -/
def State.choose (s : State) (k : CoreId) : Option ((Nat × Task) × State) :=
  let es := s.eligible s.coreFree k
  match leastBy (fun e => cluRank (s.clu k) e.2.clu) es with
  | none => none
  | some e0 =>
    let here := es.filter (fun e => e.2.clu == e0.2.clu)
    let top := here.foldl (fun m e => max m e.2.level) 0
    let tops := here.filter (fun e => e.2.level == top)
    let u := s.units.get e0.2.clu ⟨[], []⟩
    let more (t : Nat) : Bool := decide (1 < (s.tasks.filter (fun e => e.2.life == .queued && e.2.clu == e0.2.clu && e.2.level == top
      && tenantOf e.2.dom == t && s.leads e)).length)
    match u.serve top ((tops.map (fun e => tenantOf e.2.dom)).eraseDups) more with
    | none => none
    | some (t, u1) => (oldest (tops.filter (fun e => tenantOf e.2.dom == t))).map (fun e =>
        (e, { s with units := s.units.set e0.2.clu u1 }))

/-! ## Binding (15 R354, R355, R361) -/

/-- A task's part as its contexts go on: repeat bodies are read afresh (05 R96), and the first packet of each is exempt from
breakpoints and watchpoints (05 R102). -/
def TaskCore.wake (t : TaskCore) (now : Nat) : TaskCore :=
  { t with ctxs := t.ctxs.map (fun e => (e.1, { e.2 with
      elapsedFrom := if e.2.life = .running then now else e.2.elapsedFrom
      resumed := e.2.resumed || e.2.life == .running, rep := { e.2.rep with buf := [] } })) }

/-- The pins of a core are read again from memory, each once its line can be read; one whose line raises a fault is gone (05 R98; log 33,
DESIGN CHOICE). -/
def State.repin (s : State) (k : CoreId) : State :=
  (s.setTc k (fun t => { t with pins := t.pins.map (fun p => { p with waiting := true }) })).repinLate k

/-! ### Frame images (20 R421, R422) -/

/-- A section of `n` items: nothing without an item. -/
def sectionOf (head item n : Nat) : Nat := if n = 0 then 0 else head + item * n

/-- The sizes of the sections of an image in its order: header, lead, vector, scope, links, in flight, helpers, core, tiles, shadows, latches,
queues, envelopes (20 R421). A queued command takes 64 B, and the core's section its most (log 14, DESIGN CHOICE). -/
def TaskCore.sections (t : TaskCore) : List Nat :=
  let m := t.mat
  let count (ns : List Nat) : Nat := ns.foldl Nat.add 0
  [64, 1024, 8192, 256
    , sectionOf 16 264 (count (t.links.s.map (fun e => e.2.length)) + count (t.links.v.map (fun e => e.2.length)))
    , sectionOf 16 256 (count (t.ctxs.map (fun e => min 24 e.2.pend.length)))
    , 3072 * (t.ctxs.filter (fun e => e.1 != 0 && e.2.life != .free)).length
    , 8192, 32832
    , 8208 * (m.acc.toList.filter (fun x => x.shadow.isSome)).length
    , 32 * m.a.depth * m.a.tag.width / 8 + 64 * m.b.depth * m.b.tag.width / 8
    , m.scq.length + 64 * (m.queue.length + t.env.queue.length)
    , count (t.env.e.toList.map (fun x => (EnvUnit.image x).length))]

/-- The header that an image begins with. -/
def TaskCore.header (t : TaskCore) (id : Nat) (k : Task) : FrameHeader :=
  { task := id, dom := k.dom, incarn := (t.ctx 0).incarn, sizes := t.sections
    mask := t.sections.zipIdx.foldl (fun n e => if e.1 = 0 then n else n + 2 ^ e.2) 0 }

/-- The size of an image. -/
def FrameHeader.bytes (h : FrameHeader) : Nat := h.sizes.foldl Nat.add 0
@[inherit_doc FrameHeader.bytes] def frameBytes (t : Task) : Nat := (t.header.map FrameHeader.bytes).getD 0

/-- The swap area of a core: 128 KiB of shadow storage less the undo logs of the replay scopes open there, of 64 KiB each (15 R351, 20 R422). -/
def State.swapArea (s : State) (k : CoreId) : Nat := 131072 - 65536 * (s.tc k).undo.length

/-- The images in the swap area of a core. -/
def State.parkedOn (s : State) (k : CoreId) : List (Nat × Task) :=
  s.tasks.filter (fun e => e.2.shadow.any (fun x => x.1 == k))

/-- An image takes its place in the swap area of a core as far as the others leave room: those that stand in their memory frames give up
theirs. The bytes that do not fit go to its memory frame, or stay there (20 R422; log 14, DEDUCED). -/
def State.placeImage (s : State) (id : Nat) (k : CoreId) : State :=
  match s.tasks.find id with
  | none => s
  | some t =>
    let others := (s.parkedOn k).filter (fun e => e.1 != id)
    let kept := (others.filter (fun e => !e.2.spilled)).foldl (fun n e => n + (e.2.shadow.map (·.2)).getD 0) 0
    let n := min (frameBytes t) (s.swapArea k - kept)
    let left := s.tasks.map (fun e =>
      if e.1 != id && e.2.spilled && e.2.shadow.any (fun x => x.1 == k) then (e.1, { e.2 with shadow := none }) else e)
    let s1 : State := { s with tasks := Map.set left id { t with shadow := some (k, n) } }
    if t.spilled then s1 else s1.poolFrame id (frameBytes t - n)

/-- A parked image stands in its memory frame, taken from the tenant's pool (20 R422). -/
def State.writeFrame (s : State) (id : Nat) : State :=
  match s.tasks.find id with
  | none => s
  | some t =>
    if t.spilled then s
    else ({ s with tasks := s.tasks.set id { t with spilled := true } } : State).poolFrame id (frameBytes t)

/-- The scratchpad of a swapped-out task spills to its memory frame, and its stashes are invalidated (09 R191, 15 R363). -/
def State.spill (s : State) (id : Nat) : State :=
  let s1 := s.writeFrame id
  let s2 : State := { s1 with tasks := s1.tasks.adjust id (fun t => { t with ousted := true, frame := t.frame.map (fun f => f.mapTags (fun _ => [])) }) }
  match s1.tasks.find id with
  | some t => if t.ousted then s2 else s2.poolFrame id (t.pooled + t.foot * 32768)
  | none => s2

/-- The image of a parked task leaves the shadow storage of its core: it and the scratchpad stand in the memory frame (20 R422, 21 R465). -/
def State.evictImage (s : State) (id : Nat) : State :=
  let s1 := s.spill id
  { s1 with tasks := s1.tasks.adjust id (fun t => { t with shadow := none }) }

/-- The image of a task that has run stands in the shadow storage of a core, as far as it fits there (20 R422). -/
def Task.fetched (t : Task) (k : CoreId) : Bool := t.frame.isNone || t.shadow.any (fun x => x.1 == k)

/-- The swapped-out tasks whose scratchpads stand on a core still. -/
def State.residents (s : State) (k : CoreId) : List (Nat × Task) :=
  s.tasks.filter (fun e => e.2.frame.isSome && !e.2.ousted && e.2.lastCore == some k)

/-- The scratchpads on a core spill where, with the incoming task's, they exceed 16 units (15 R363; log 14, DEDUCED for more than one). -/
def State.makeRoom (s : State) (id foot : Nat) (k : CoreId) : State :=
  let rs := s.residents k
  if 16 < (rs.filter (fun e => e.1 != id)).foldl (fun n e => n + e.2.foot) foot then
    (rs.filter (fun e => e.1 != id)).foldl (fun s e => s.spill e.1) s
  else s

/-- A task is bound to a core: it starts with its fill, or goes on from its frame; its stashes are empty where its scratchpad has moved. A
switch on the core ends (17 R380). -/
def State.bindTask (s : State) (id : Nat) (k : CoreId) : State :=
  match s.tasks.find id with
  | none => s
  | some t =>
    let part := match t.frame with
      | some f => (s.tc k).takes ((if t.ousted || t.lastCore != some k then f.mapTags (fun _ => []) else f).wake s.now) t.foot
      | none => s.tc k
    let s0 := (s.makeRoom id t.foot k).poolFrame id 0
    let s1 := s0.setCore k (fun c => { c with
      task := some id, tc := part, reserved := t.gang.map (·.gang), switch := none })
    let s2 : State := { s1 with
      tasks := s1.tasks.set id { t with
        life := if t.frame.isSome then .running else .filling
        core := some k, frame := none, header := none, shadow := none, spilled := false, pooled := 0, level := t.prio, started := s.now, starts := t.starts + 1, lastCore := none
        ousted := false }
      copies := s1.copies.map (fun e => if e.2.task = some id then (e.1, { e.2 with core := k, saved := false }) else e)
      streams := s1.streams.map (fun e => if e.2.task = some id then (e.1, { e.2 with core := k }) else e) }
    let s3 := s2.repin k
    match t.lastCore with
    | some a => if s.preempted a (tenantOf t.dom) = some id then s3.moveHeld (tenantOf t.dom) a k else s3
    | none => s3

/-- A gang is bound to its rectangle, all of which it holds, each member at its place (15 R356). -/
def State.bindGang (s : State) (g : GangPos) (ks : List CoreId) : State :=
  let s1 := ks.foldl (fun s j => s.setCore j (fun c => { c with reserved := some g.gang })) s
  (s.gangOf g).foldl (fun s m => match (m.2.gang.map (·.index)).bind (fun i => ks[i]?) with
    | some j => s.bindTask m.1 j
    | none => s) s1

/-- A task, or the members of a gang, with the cores that they go to. -/
def State.seats (s : State) (e : Nat × Task) (ks : List CoreId) : List (CoreId × Nat × Task) :=
  let ms : List (Nat × Task) := match e.2.gang with
    | some g => s.gangOf g
    | none => [e]
  ms.filterMap (fun m => (ks[(m.2.gang.map (·.index)).getD 0]?).map (fun j => (j, m.1, m.2)))

/-- Their images stand in the shadow storage there (20 R422). -/
def State.imagesReady (s : State) (e : Nat × Task) (ks : List CoreId) : Bool := (s.seats e ks).all (fun x => x.2.2.fetched x.1)

/-- DISPATCH: a lead context with no bound task takes a task or a gang (15 R361), once its image has been fetched (20 R422). -/
def execDispatch (k : CoreId) (s : State) : Out :=
  match s.choose k with
  | none => happen false (fun s => s) s
  | some (e, s1) => happen ((s.placesFor s.coreFree k e.1 e.2).any (s.imagesReady e)) (fun _ =>
      match s.placesFor s.coreFree k e.1 e.2, e.2.gang with
      | some ks, some g => s1.bindGang g ks
      | some _, none => s1.bindTask e.1 k
      | none, _ => s1) s

/-! ### The fill (15 R355) -/

/-- A valid entry of the scratchpad image table: code base, code size, image address, image size. -/
def imageEntry (e : BitVec 512) : Option (Nat × Nat × Nat × Nat) :=
  let bs := leBytes 64 e.toNat
  let b := field bs 0 8
  let z := field bs 8 8
  let a := field bs 16 8
  let n := field bs 24 4
  if field bs 28 1 = 1 ∧ field bs 29 35 = 0 ∧ b % 64 = 0 ∧ b < 2 ^ 63 ∧ z % 64 = 0 ∧ z ≠ 0 ∧ a % 64 = 0 ∧ a < 2 ^ 63 ∧ n ≤ 524288 then
    some (b, z, a, n) else none

/-- The image of a task: its address and the bytes that are written. -/
def State.imageOf (s : State) (t : Task) : Nat × Nat :=
  match (List.range 64).findSome? (fun i => match imageEntry ((s.pkg t.pkg).images.get (tenantOf t.dom, i) 0) with
    | some (b, z, a, n) => if b ≤ t.entry.toNat ∧ t.entry.toNat < b + z then some (a, min n (t.foot * 32768)) else none
    | none => none) with
  | some x => x
  | none => (0, 0)

/-- What the fill finds. -/
inductive Fill where
  | ok
  | wait
  /-- the first byte that fails, and why -/
  | bad (ea cause : Nat)
  deriving DecidableEq, Repr

/-- The first failing byte of an image on a core: rights, translation, poison. -/
def State.fillCheck (s : State) (k : CoreId) (dom : BitVec 16) (a n : Nat) : Fill × State :=
  if n = 0 then (.ok, s)
  else
    let pages := (linesOf a n).filter (fun l => l == a / 64 || l % 1024 == 0)
    let r := pages.foldl (fun (q : Bool × List (Nat × Nat) × State) l =>
      let f := q.2.2.findPage (s.clu k) (l * 64) 0 dom
      match f.1 with
      | .wait => (true, q.2.1, f.2)
      | .none => (q.1, q.2.1 ++ [(max a (l * 64), cTranslation)], f.2)
      | .page t => if s.alive k.pkg (paPkg t.pa) then (q.1, q.2.1, f.2) else (q.1, q.2.1 ++ [(max a (l * 64), cMachineCheck)], f.2)) (false, [], s)
    let rights := ((s.plbAnswers k dom a n rightR).filter (fun x => x.2 != .granted)).map (fun x => (x.1, cProtection))
    let rot := (linesOf a n).filterMap (fun l => match r.2.2.physOf (s.clu k) (l * 64) with
      | some pa => if s.poison.contains (lineOf pa) then some (max a (l * 64), cUncorrectable) else none
      | none => none)
    let held := (linesOf a n).any (fun l => match r.2.2.physOf (s.clu k) (l * 64) with
      | some pa => !r.2.2.lineReady (s.clu k) (some k) none (lineOf pa)
      | none => false)
    match leastBy (fun x => x.1) (r.2.1 ++ rights ++ rot) with
    | some (ea, c) => (.bad ea c, r.2.2)
    | none => if r.1 || held then (.wait, r.2.2) else (.ok, r.2.2)

/-- The lead of a bound task starts. -/
def State.startLead (s : State) (id : Nat) (t : Task) (k : CoreId) : State :=
  let g7 := match t.gang with
    | some g => g.x + 256 * g.y
    | none => 0
  let gs := (t.args.zipIdx.map (fun e => (e.2 + 1, e.1))) ++ [(7, BitVec.ofNat 64 g7)]
  let s1 := s.setTc k (fun p => p.setCtx 0 (fun c => Ctx.begin c t.entry t.dom t.scope t.share s.now gs))
  ({ s1 with tasks := s1.tasks.adjust id (fun t => { t with share := 0, life := .running, waits := [] }) } : State).mark t.scope (s.clu k)

/-- The footprint holds the first `n` bytes of an image at `a`, and zeros, and the lead starts (15 R355). -/
def State.fillTo (s : State) (k : CoreId) (id : Nat) (t : Task) (a n : Nat) : State :=
  let bytes := if n = 0 then [] else s.readVa (tenantOf t.dom) (s.findPages (s.clu k) a n 0 t.dom).2.1 a n
  (s.setTc k (fun p => { p with
    spad := Memory.write [] 0 bytes, layout := [], poisonRows := [], codes := p.codes.encodeSpan 0 t.foot })).startLead id t k

/-- The fill fails at a byte: the lead starts frozen (15 R355). -/
def State.failFill (s : State) (k : CoreId) (id : Nat) (t : Task) (a ea cause : Nat) : State :=
  (s.fillTo k id t a (ea - a)).takeFault ⟨k, 0⟩ ⟨cause, 0, BitVec.ofNat 64 ea⟩

/-- FOOTPRINT_FILL_DONE: the footprint holds the image and zeros, and the lead starts, once the writes before its spawn count
as done; a failure starts it frozen (15 R354, R355). -/
def execFootprintFillDone (k : CoreId) (s : State) : Out :=
  match (s.core k).task.bind (fun id => (s.tasks.find id).map (fun t => (id, t))) with
  | none => happen false (fun s => s) s
  | some (id, t) =>
    let im := s.imageOf t
    let r := s.fillCheck k t.dom im.1 im.2
    happen (t.life == .filling && s.waitsDone t.waits t.reach && (r.1 != .wait || (linesOf im.1 im.2).any (fun l => s.pageDue (s.clu k) (64 * l)
        && (s.physOf (s.clu k) (64 * l)).isNone))) (fun _ =>
      let s1 := r.2
      match r.1 with
      | .wait => s1
      | .ok => s1.fillTo k id t im.1 im.2
      | .bad ea c =>
        let s2 := if c = cUncorrectable then (s1.consume k t.dom t.scope ((s1.physOf (s1.clu k) ea).getD ea)).2 else s1
        s2.failFill k id t im.1 ea c) s

/-- PRIORITY_AGING (15 R360). -/
def execPriorityAging (task : Nat) (s : State) : Out :=
  match s.tasks.find task with
  | none => happen false (fun s => s) s
  | some t => happen (t.life == .queued && decide (t.level < min 7 (t.prio + (s.now - t.since) / 2 ^ 20))) (fun s =>
      { s with tasks := s.tasks.set task { t with level := t.level + 1 } }) s

/-! ## Pre-emption (15 R362, R363) -/

/-- The command at the head of a queue that runs to its end before the unit stops: a matrix command that is neither a macro-op nor a gather,
and any envelope command, where it waits for no copy (10 R218, 11 R246). -/
def TaskCore.matrixHead (t : TaskCore) : Option Nat :=
  match t.mat.queue with
  | e :: _ => match e.cmd with
    | .mul _ _ _ _ _ | .gather _ _ => none
    | _ => if e.follows.isNone then some e.seq else none
  | [] => none
@[inherit_doc TaskCore.matrixHead] def TaskCore.envHead (t : TaskCore) : Option Nat :=
  match t.env.queue with
  | e :: _ => if e.follows.isNone then some e.seq else none
  | [] => none

/-- A switch begins on a core, and on every core of its task's gang. -/
def State.beginSwitch (s : State) (k : CoreId) (why : SwitchWhy) : State :=
  match (s.core k).task with
  | none => s
  | some id =>
    let ks := (s.gangCores (some id))
    ks.foldl (fun s j => s.setCore j (fun c => if c.switch.isSome then c else { c with
      switch := some ⟨[], why, s.now, c.tc.matrixHead, c.tc.envHead⟩ })) s

/-- A context of a task is frozen. -/
def TaskCore.anyFrozen (t : TaskCore) : Bool := t.ctxs.any (fun e => e.2.life == .frozen)

/-- A context of the task, or of its gang, is frozen: the scheduler does not pre-empt it (20 R415). -/
def State.frozenTask (s : State) (id : Nat) : Bool := (s.gangCores (some id)).any (fun k => (s.tc k).anyFrozen)

/-- A running task that may be pre-empted, with its core. -/
def State.runningOn (s : State) (k : CoreId) : Option (Nat × Task) :=
  match (s.core k).task.bind (fun id => (s.tasks.find id).map (fun t => (id, t))) with
  | some e => if e.2.life == .running && (s.core k).switch.isNone && !s.frozenTask e.1 then some e else none
  | none => none

/-- The victim of a waiting task: the running task of the lowest lower priority in its reach, the latest started among
equals. -/
def State.victim (s : State) (t : Task) : Option CoreId :=
  let runs := (s.workerCores t.pkg).filterMap (fun k =>
    if s.reaches t.reach t.origin k then (s.runningOn k).bind (fun e => if e.2.prio < t.level then some (k, e.2) else none) else none)
  (runs.foldl (fun (b : Option (CoreId × Task)) e => match b with
    | some x => if e.2.prio < x.2.prio ∨ (e.2.prio = x.2.prio ∧ x.2.started < e.2.started) then some e else some x
    | none => some e) none).map (·.1)

/-- The rectangle on which a waiting gang pre-empts: every core is free or runs a task of lower priority, and one is not
free. -/
def State.gangVictims (s : State) (t : Task) (g : GangPos) : Option (List CoreId) :=
  (s.workerCores t.pkg).findSome? (fun k =>
    ((s.rectanglesAt k g.w g.h).find? (fun ks => s.gangFits t g ks
      && ks.all (fun j => s.coreFree j || (match s.runningOn j with
        | some e => decide (e.2.prio < t.level)
        | none => false)))))

/-- PREEMPT_TRIGGER: a task has been ready for 2^16 cycles with no free lead context in its reach (15 R362). -/
def execPreemptTrigger (task : Nat) (s : State) : Out :=
  match s.tasks.find task with
  | none => happen false (fun s => s) s
  | some t =>
    let ready := t.life == .queued && decide (t.since + 2 ^ 16 ≤ s.now)
    let near := (s.workerCores t.pkg).filter (fun k => s.reaches t.reach t.origin k)
    let idle := near.any (fun k => (s.core k).switch.isSome)
    match t.gang with
    | none => match s.victim t with
      | some k => happen (ready && !idle && !near.any s.coreFree) (fun s => s.beginSwitch k .preempt) s
      | none => happen false (fun s => s) s
    | some g => match s.gangVictims t g with
      | some ks =>
        happen (ready && !idle && s.leads (task, t) && (near.all (fun k => (s.placesFor s.coreFree k task t).isNone))
            && ks.any (fun k => (s.runningOn k).isSome)) (fun s => ks.foldl (fun s k => s.beginSwitch k .preempt) s) s
      | none => happen false (fun s => s) s

/-- An engine of a core stands at its unit (15 R363): blocks, rows and packets are single steps of the model; the head commands of the
matrix engine and the envelope unit run to their ends, unless a fault has stopped the unit; copies finish their chunks in flight, streams
their tiles. -/
def State.atUnit (s : State) (k : CoreId) (e : Engine) : Bool :=
  match e with
  | .matrix => (s.tc k).matrixStopped
      || ((s.core k).switch.bind (·.matrixHead)).all (fun n => ((s.tc k).mat.queue.head?.map (·.seq)) != some n)
  | .envelope => (s.tc k).envStopped
      || ((s.core k).switch.bind (·.envHead)).all (fun n => ((s.tc k).env.queue.head?.map (·.seq)) != some n)
  | .copy => s.copies.all (fun c => c.2.core != k || c.2.task != (s.core k).task || c.2.flying.isEmpty)
  | .stack => s.streams.all (fun x => x.2.core != k || x.2.task != (s.core k).task || x.2.slot.isNone)
  | _ => true

/-- PREEMPT_ACK (15 R363). -/
def execPreemptAck (k : CoreId) (engine : Engine) (s : State) : Out :=
  match (s.core k).switch with
  | none => happen false (fun s => s) s
  | some w => happen (!w.acked.contains engine && s.atUnit k engine) (fun s =>
      s.setCore k (fun c => { c with switch := some { w with acked := w.acked ++ [engine] } })) s

/-- Every engine has stopped. -/
def Switch.done (w : Switch) : Bool :=
  [Engine.issue, .matrix, .gather, .copy, .envelope, .stack, .network].all w.acked.contains

/-- The head of a tenant's queue in a cluster comes before this order. -/
def State.headOrder (s : State) (t : Task) : Int :=
  (s.tasks.filter (fun e => e.2.clu == t.clu && tenantOf e.2.dom == tenantOf t.dom)).foldl (fun m e => min m e.2.order) t.order - 1

/-- A context in a frame: what it counted so far stands. -/
def Ctx.sleep (c : Ctx) (now : Nat) : Ctx := { c with elapsedHeld := c.elapsed now, elapsedFrom := now }

/-- A pager is asked for a page at a slice (20 R427). -/
def State.asked (s : State) (l : CluId) (page : Nat) : Bool := (s.slice l).walks.any (fun w => w.page == page && w.upcall)

/-- Accesses that a pager's page holds up (20 R427). -/
def State.heldBy (s : State) (id : Nat) : List Nat :=
  (s.accs.filter (fun e => e.2.task == some id && e.2.stage == .walking
    && e.2.parts.any (fun p => !p.done && p.pa.isNone && s.asked (s.clu e.2.ctx.core) (p.ea / 65536)))).map (·.1)

/-- The PCs whose lines the next attempt of a context reads: its packet's, and those that a link not yet resolved needs (05 R82). -/
def State.fetchPcs (s : State) (c : CtxId) : List W64 :=
  let k := s.ctx c
  k.pcq0.pc :: (if k.linkLate then
      k.pcq1.pc :: (if k.pcq1.sq then [(s.resolveEntry c k.pcq1 k.rep.left).1.pc] else [])
    else [])

/-- The pages that the fetches of a core's running contexts wait for (02 R23). -/
def State.fetchesHeld (s : State) (k : CoreId) : List Nat :=
  (s.tc k).ctxs.flatMap (fun e =>
    if e.2.life == .running then
      ((s.fetchPcs ⟨k, e.1⟩).filter (fun pc => !badPc pc && s.asked (s.clu k) (pc.toNat / 65536))).map (fun pc => pc.toNat / 65536)
    else [])

/-- The instructions of the packet at PCQ0 of a context. -/
def State.nextInstrs (s : State) (c : CtxId) : List Instr :=
  let k := s.ctx c
  match s.peekLine c k.pcq0.pc with
  | none => []
  | some bits => (packetPositions bits (pcPos k.pcq0.pc)).filterMap (fun i => (decode (BitVec.ofNat 96 (posWord bits i))).toOption)

/-- The registers that an instruction names, its guard among them. -/
def namesOf (i : Instr) : List Dest :=
  match i.fields with
  | some f => Dest.p f.guard.p :: (sources i.shape f ++ targets i.shape f)
  | none => []

/-- The hold of an instruction waits for an access of its context (13 R310, R313; 12 R290; 15 R371; 20 R444, R445). -/
def awaitsAcc (i : Instr) (a : Access) : Bool :=
  match i with
  | .fence f => (fenceRel f && a.op.isWrite) || (fenceAcq f && a.op.isLoad)
  | .bar _ => a.op.isWrite || a.op.isLoad
  | .exit _ | .xlti _ | .pgok _ => a.op.isWrite
  | .wb _ | .inv _ => a.op == .wb || a.op == .inv
  | _ => false

/-- An instruction takes a place among the outstanding loads, or among the stores, of its context (12 R276), or it is another access that
stalls behind an acquire (13 R295). -/
def takesLoad (i : Instr) : Bool :=
  match i with
  | .ld _ | .vld _ | .vgg _ | .amo _ | .cas _ | .famo _ | .fget _ | .spawn _ | .spwg _ => true
  | _ => false
@[inherit_doc takesLoad] def takesStore (i : Instr) : Bool :=
  match i with
  | .st _ | .vst _ | .vsg _ | .fset _ | .gst _ => true
  | _ => false
@[inherit_doc takesLoad] def accessesMemory (i : Instr) : Bool :=
  takesLoad i || takesStore i || (match i with
    | .pf _ | .cp _ | .cps _ | .msg _ | .mcst _ | .mon _ | .sub _ | .drn _ | .tgnode _ | .tgdec _ => true
    | _ => false)

/-- The accesses, of some that a pager's page holds up, on which a running context stalls (05 R78, 20 R427): those of a register that its
packet names, those that a hold of its packet waits for, those at whose limit it stands, and an acquire that its accesses stall behind. -/
def State.stallsOn (s : State) (c : CtxId) (held : List Nat) : List Nat :=
  let k := s.ctx c
  let t : State := { s with cur := c }
  let is := s.nextInstrs c
  let named := is.flatMap namesOf
  let holds := k.hold.isSome || k.holdC.isSome || k.leaving
  if k.life != .running then []
  else held.filter (fun i => match s.acc i with
    | none => false
    | some a =>
      let mine := a.ctx.ctx == c.ctx
      (mine && (match a.tok with
        | some n => named.any (fun d => k.pend.any (fun p => p.tok == n && p.dest == d))
        | none => false))
      || (mine && ((match k.hold with
          | some h => (h.kind == .fence && a.op.isWrite) || (h.kind == .acquire && a.op.isLoad)
          | none => false) || (holds && is.any (fun x => awaitsAcc x a))))
      || (a.op.isLoad && is.any takesLoad
        && ((mine && decide (32 ≤ t.mine AccOp.isLoad)) || decide (256 ≤ t.coreWide AccOp.isLoad)))
      || (a.op.isStore && is.any takesStore
        && ((mine && decide (64 ≤ t.mine AccOp.isStore)) || decide (256 ≤ t.coreWide AccOp.isStore)))
      || (mine && a.ord && a.op.isLoad && is.any accessesMemory))
@[inherit_doc State.stallsOn] def State.stallsOnHeld (s : State) (c : CtxId) (held : List Nat) : Bool := !(s.stallsOn c held).isEmpty

/-- Everything that the running contexts of a core stall on. -/
def State.stallsOf (s : State) (k : CoreId) (held : List Nat) : List Nat :=
  (s.tc k).ctxs.flatMap (fun e => s.stallsOn ⟨k, e.1⟩ held)

/-- The other core whose scratchpad a part of an access names. -/
def Access.landsAt (a : Access) (p : Part) : Option CoreId :=
  match a.place p with
  | some (.bank k _) => if a.own k then none else some k
  | _ => none

/-- One task leaves its core for its frame; with its scratchpad its stashes stay live (09 R191). The windows' answers on accesses that have
not ended there end with it (09 R181). The switch goes on until the incoming frame is in place (15 R362, R363; 17 R380; 20 R427, R441). -/
def State.swapOut (s : State) (k : CoreId) (why : SwitchWhy) : State :=
  match (s.core k).task.bind (fun id => (s.tasks.find id).map (fun t => (id, t))) with
  | none => s.setCore k (fun c => { c with switch := none })
  | some (id, t) =>
    let part := s.tc k
    let names := part.ctxs.filterMap (fun e => e.2.monitor)
    let img : TaskCore := { part with ctxs := part.ctxs.map (fun e => (e.1, e.2.sleep s.now)) }
    let off := (why == .prmt && part.anyFrozen) || why == .park
    let t1 : Task := { t with
      core := none, frame := if t.life = .filling then none else some img
      header := if t.life = .filling then none else some (img.header id t), life := if off then .parked else .queued, level := t.prio, since := s.now, lastCore := some k
      order := if why = .yield then s.nextId else s.headOrder t
      waits := if why = .park then s.stallsOf k (s.heldBy id) else t.waits
      fetches := if why = .park then s.fetchesHeld k else []
      seen := (s.accs.filter (s.inPath (s.clu k) (some k) (some id))).map (·.1) }
    let s0 := s.setCore k (fun c => { c with task := none, tc := c.tc.renew, reserved := none })
    let s1 := match t.gang with
      | some g => s0.freeRectangle g.gang
      | none => s0
    let s2 : State := { s1 with
      tasks := s1.tasks.set id t1
      nextId := s1.nextId + 1
      monitors := s1.monitors.map (fun m => if names.contains m.1 then (m.1, { m.2 with hit := true }) else m)
      accs := s1.accs.map (fun e => if e.2.parts.any (fun p => !p.done && e.2.landsAt p == some k) then (e.1, { e.2 with granted := false }) else e)
      copies := s1.copies.map (fun e => if e.2.task = some id then (e.1, { e.2 with saved := true }) else e) }
    if t.life = .filling then s2 else s2.placeImage id k

/-- A task comes to the core after a switch: one that may start there is queued, or a gang whose other cores are being emptied. -/
def State.nextComes (s : State) (k : CoreId) : Bool :=
  !(s.eligible s.coreFree k).isEmpty
    || (s.tasks.any (fun e => e.2.life == .queued && e.2.gang.isSome && e.2.pkg == k.pkg && s.reaches e.2.reach e.2.origin k)
      && (s.workerCores k.pkg).any (fun j => (s.core j).switch.isSome && (s.core j).task.isSome))

/-- FRAME_SWAP: every engine of every core of the task's gang has stopped, and the frames go out (15 R363); with no task to come the
switch ends (09 R181). -/
def execFrameSwap (k : CoreId) (s : State) : Out :=
  match (s.core k).switch with
  | none => happen false (fun s => s) s
  | some w =>
    let ks := (s.gangCores (s.core k).task)
    happen ((k :: ks).all (fun j => match (s.core j).switch with
      | some x => x.done
      | none => false) && ((s.core k).task.isSome || !s.nextComes k))
      (fun s => (if ks.isEmpty then [k] else ks).foldl (fun s j => s.swapOut j w.why) s) s

/-- FRAME_BACKGROUND_WRITE: an image parked on a core is written to its memory frame, taken from the tenant's pool; or that of a queued task
is fetched from there, ahead of its start on a core of its package (20 R422). An image that stands elsewhere leaves there. -/
def execFrameBackgroundWrite (k : CoreId) (task : Nat) (s : State) : Out :=
  match s.tasks.find task with
  | none => happen false (fun s => s) s
  | some t =>
    if t.shadow.any (fun x => x.1 == k) then happen (t.frame.isSome && !t.spilled) (fun s => s.writeFrame task) s
    else happen (t.frame.isSome && t.spilled && t.life == .queued && t.pkg == k.pkg) (fun s => (s.evictImage task).placeImage task k) s

/-! ## Parking (20 R427) -/

/-- A parked task, or a member of a parked gang, waits for nothing that a pager's page still holds up. -/
def State.released (s : State) (id : Nat) (t : Task) : Bool :=
  let held := s.heldBy id
  t.waits.all (fun i => !held.contains i) && t.fetches.all (fun p => !s.asked (s.clu (t.lastCore.getD ⟨t.pkg, 0, 0⟩)) p)

/-- The tasks that leave their cores, and come back, with a task: the members of its gang, or itself. -/
def State.together (s : State) (id : Nat) (t : Task) : List (Nat × Task) :=
  match t.gang with
  | some g => s.gangOf g
  | none => [(id, t)]

/-- Parked for a pager: it, or a member of its gang, left its core with something to wait for. -/
def parkedFor (ms : List (Nat × Task)) : Bool :=
  ms.all (fun m => m.2.life == .parked) && ms.any (fun m => !(m.2.waits.isEmpty && m.2.fetches.isEmpty))

/-- A parked task is queued again. -/
def State.unpark (s : State) (m : Nat × Task) : State :=
  { s with tasks := s.tasks.set m.1 { m.2 with life := .queued, waits := [], fetches := [], since := s.now } }

/-- TASK_PARK: a task one of whose contexts stalls on a held access, or on a fetch that a pager's page holds up, leaves its core with
the members of its gang; once all that they waited for is released they are queued again (02 R23, 20 R427). -/
def execTaskPark (task : Nat) (s : State) : Out :=
  match s.tasks.find task with
  | none => happen false (fun s => s) s
  | some t =>
    let held := s.heldBy task
    match t.core with
    | some k =>
      happen (t.life == .running && (s.core k).switch.isNone && !s.frozenTask task
          && ((s.tc k).ctxs.any (fun e => s.stallsOnHeld ⟨k, e.1⟩ held) || !(s.fetchesHeld k).isEmpty))
        (fun s => s.beginSwitch k .park) s
    | none =>
      let ms := s.together task t
      happen (parkedFor ms && ms.all (fun m => s.released m.1 m.2)) (fun s => ms.foldl State.unpark s) s

/-! ## `yield` (15 R372) -/

/-- A ready task of equal or higher priority could take this core, were it free. -/
def State.yieldsTo (s : State) : Bool :=
  let k := s.cur.core
  match s.runningOn k with
  | none => false
  | some (_, t) => t.gang.isNone && (s.eligible (fun j => j == k || s.coreFree j) k).any (fun e => decide (t.prio ≤ e.2.level))

/-- `yield` (15 R372). -/
def execYield (f : Fields) (s : State) : Out :=
  run (.yield f) f { act := fun s => if s.cur.ctx = 0 && s.yieldsTo then s.beginSwitch s.cur.core .yield else s } s

end Sys2Proof.Machine
end

