-- ==== Sys2Proof/Machine/Multicast.lean ====
section
/-! DEFINITION. Multicast, the package torus, Fenco ports and peers (18 R382-R391). -/

namespace Sys2Proof.Machine

open Sys2Proof Sys2Proof.Lanes

/-! ## `mcst` (18 R391) -/

/-- Fields of the descriptor gg. -/
def mcstOff (g : W64) : Nat := bitsOf g 63 16
@[inherit_doc mcstOff] def mcstBytes (g : W64) : Nat := 64 * (bitsOf g 13 12 + 1)
@[inherit_doc mcstOff] def mcstGroup (g : W64) : Nat := bitsOf g 11 0

/-- The multicasts outstanding of the issuing context. -/
def State.mcstRoom (s : State) : Verdict :=
  if 4 ≤ (s.mcsts.filter (fun e => s.ofMine e.2.ctx e.2.task)).length then .stall else .ok

/-- A multicast sets out. -/
def State.sendMcst (s : State) (f : Fields) : State :=
  let g := s.gval f f.b
  let sh := s.carve
  let p := sh.2.pendOn [Dest.ofV f.d]
  let s1 := p.2
  let m : Mcst := {
    ctx := s.cur, incarn := s.me.incarn, task := s.myTask, dom := s.me.domain, ea := s.ea f, pc := s.myPc, grp := mcstGroup g, off := mcstOff g
    payload := s.myTc.spad.read (spadOff (s.ea f)) (mcstBytes g), reach := f.reachCode
    waits := (s.accs.filter (fun e => s.ofMine e.2.ctx e.2.task && e.2.op.isWrite)).map (·.1)
    sent := false, entry := 0, answers := [], sel := encodeSel f.d, tok := if Dest.ofV f.d = .none then none else some p.1, scope := s.me.scope
    share := sh.1, free := s.me.freewheel != 0, since := s.now }
  { s1 with mcsts := s1.mcsts.set s1.nextId m, nextId := s1.nextId + 1 }

/-- `mcst`: a poisoned payload is not sent (21 R455). -/
def execMcst (f : Fields) (s : State) : Out :=
  run (.mcst f) f {
    gate := fun s =>
      let g := s.gval f f.b
      s.accessStall.andThen <|
      s.mcstRoom.andThen <|
      (if s.myReplay.isSome then .fault 5 ⟨cProtection, 0, s.ea f⟩ else .ok : Verdict).andThen <|
      (s.localOk (s.ea f) (mcstBytes g) 64).andThen <|
      (if mcstOff g % 64 = 0 then .ok else s.atPc 5 cAlign : Verdict).andThen s.carveHold
    act := fun s =>
      let o := spadOff (s.ea f)
      if s.myTc.rotten o (mcstBytes (s.gval f f.b)) then
        let r := s.consume s.cur.core s.me.domain s.me.scope o
        if r.1 then r.2.setMe (fun c => (c.poison (Dest.ofV f.d)).record ⟨s.ea f, s.myPc, cUncorrectable, encodeSel f.d, 5, 0⟩)
        else r.2.sendMcst f
      else s.sendMcst f } s

/-! ### The group table (18 R389) -/

/-- A bit field of an entry. -/
def entryBits (e : BitVec 1024) (byte bit n : Nat) : Nat := e.toNat / 2 ^ (8 * byte + bit) % 2 ^ n

/-- An entry in use by a tenant. -/
def entryUsable (e : BitVec 1024) (tenant : Nat) : Bool := entryBits e 80 0 1 == 1 && entryBits e 81 0 8 == tenant
/-- The members of an entry. -/
def entryMembers (e : BitVec 1024) : List Nat := (List.range 512).filter (fun p => e.toNat.testBit p)

/-- The target of member P (18 R389): an address, or a scratchpad offset of a core. -/
def entryTarget (e : BitVec 1024) (p off : Nat) : Nat ⊕ (CoreId × Nat) :=
  if entryBits e 80 1 1 = 0 then .inl ((entryBits e 64 0 64 + p * entryBits e 72 0 64 + off) % 2 ^ 64)
  else .inr (⟨p, entryBits e 82 0 2, entryBits e 82 2 10⟩, entryBits e 64 0 19 + off)

/-- The Fenco port at which the multicasts of a core consult the group table: that of the compute dies 0 and 1, or of 2 and 3 (log 38,
DESIGN CHOICE: the spec names none). -/
def mcstPort (k : CoreId) : Nat := k.die / 2 * 9
/-- The I/O die whose copy of the table a core's multicasts consult: that of their port (01 R12). -/
def ioDieOf (k : CoreId) : Nat := fencoDie (mcstPort k)

/-- The entry that a multicast uses: the one it was sent with, or the table's. -/
def State.mcstEntry (s : State) (m : Mcst) : BitVec 1024 :=
  if m.sent then m.entry else (s.pkg m.ctx.core.pkg).groupTable.get (ioDieOf m.ctx.core, m.grp) 0

/-- It may leave: the earlier writes of its context count as done at the reach. -/
def State.mcstMayGo (s : State) (m : Mcst) : Bool := m.sent || s.waitsDone m.waits m.reach

/-- A multicast is sent: its members are those of the entry as it stands. -/
def Mcst.send (m : Mcst) (e : BitVec 1024) (now : Nat) : Mcst :=
  if m.sent then m
  else { m with sent := true, entry := e, answers := (entryMembers e).map (fun p => (p, McstAnswer.waiting)), since := now }

/-- Some worker core of a package, by whose PLB its I/O dies check (log 9, DEDUCED). -/
def State.anyCore (s : State) (p : Nat) : CoreId := (s.workerCores p).headD ⟨p, 0, 0⟩

/-- What a member does with a packet (18 R390): it waits, refuses, or writes. -/
def State.memberWrite (s : State) (m : Mcst) (p : Nat) : Way × State :=
  let n := m.payload.length
  match entryTarget (s.mcstEntry m) p m.off with
  | .inl a =>
    let l : CluId := ⟨p, 0, 0⟩
    if 2 ^ 63 < a + n then (.error 0, s)
    else
      let pages := (linesOf a n).map (fun x => s.physOf l (64 * x))
      let ts := (linesOf a n).filterMap (fun x => s.pageFor l (64 * x))
      if pages.any (·.isNone) || ts.any (fun t => paPkg t.pa != p || t.rro) || !mayMapAll m.dom ts a n then (.error 0, s)
      else if s.plb (s.anyCore p) m.dom a n rightW != .granted || s.plb (s.anyCore p) m.dom a n rightM != .granted then (.error 0, s)
      else if pages.any (fun x => match x with
          | some pa => !s.lineOpen (lineOf pa)
          | none => false) then (.wait, s)
      else
        let w : Writer := ⟨tenantOf m.dom, m.dom, if m.ctx.core.pkg = p then 3 else 4, m.ctx.core, m.ctx.ctx⟩
        (.clear, (vaPieces a m.payload).foldl (fun s x => s.perform w (paIn ts x.1) (x.2.map some)) s)
  | .inr (k, o) =>
    if 2 ^ 19 < o + n || 991 < k.num then (.error 0, s)
    else if (s.core k).switch.isSome then (.wait, s)
    else if !s.windowOk k m.dom o n 41 then (.error 0, s)
    else (.clear, s.setTc k (fun t => (t.spadPut none o (m.payload.map some)).countSlots o n))

/-- A member answers. -/
def State.answerMcst (s : State) (id p : Nat) (a : McstAnswer) : State :=
  { s with mcsts := s.mcsts.adjust id (fun m => { m with answers := m.answers.map (fun e => if e.1 = p then (p, a) else e) }) }

/-- A member that has not answered. -/
def State.mcstOpen (s : State) (m : Mcst) (p : Nat) : Bool :=
  s.mcstMayGo m && entryUsable (s.mcstEntry m) (tenantOf m.dom) && (entryMembers (s.mcstEntry m)).contains p
    && (!m.sent || m.answers.find p == some .waiting)

/-- The lines of a multicast in a scratchpad of its own package, with the core. -/
def Mcst.nearLines (m : Mcst) : List (CoreId × Nat) :=
  match entryTarget m.entry m.ctx.core.pkg m.off with
  | .inr (k, o) => (linesOf o m.payload.length).map (fun l => (k, l))
  | .inl _ => []

/-- A multicast sets out; a member core of its own package gets its packets over the torus (18 R382). -/
def State.sendOut (s : State) (id : Nat) (m : Mcst) : State :=
  let n := m.send (s.mcstEntry m) s.now
  let p := m.ctx.core.pkg
  let s1 : State := { s with mcsts := s.mcsts.set id n }
  if (entryMembers n.entry).contains p then
    n.nearLines.foldl (fun s x => s.board p (s.routerAt m.ctx.core) (s.routerAt x.1) (.member id x.2)) s1
  else s1

/-- The packets of a member of the multicast's own package are on their way. -/
def State.memberAway (s : State) (id : Nat) (m : Mcst) (pkg : Nat) : Bool :=
  pkg == m.ctx.core.pkg && m.nearLines.any (fun x => s.riding pkg (.member id x.2))

/-- MULTICAST_MEMBER_WRITE (18 R390): the multicast sets out with the first. -/
def execMulticastMemberWrite (id pkg : Nat) (s : State) : Out :=
  match s.mcsts.find id with
  | none => happen false (fun s => s) s
  | some m => happen (s.mcstOpen m pkg && s.alive m.ctx.core.pkg pkg && !(m.sent && s.memberAway id m pkg)) (fun s =>
      if !m.sent then s.sendOut id m else
      let r := s.memberWrite m pkg
      match r.1 with
      | .wait => s
      | .error _ => s.answerMcst id pkg .nack
      | .clear => r.2.answerMcst id pkg .ok) s

/-- MULTICAST_MEMBER_TIMEOUT: a member that answers neither way within T_fail is lost (18 R390). A
multicast to a package that has failed is sent first. -/
def execMulticastMemberTimeout (id pkg : Nat) (s : State) : Out :=
  match s.mcsts.find id with
  | none => happen false (fun s => s) s
  | some m => happen (s.mcstOpen m pkg && (if m.sent then decide (m.since + tFail ≤ s.now) else !s.alive m.ctx.core.pkg pkg)) (fun s =>
      if m.sent then s.answerMcst id pkg .lost
      else s.sendOut id m) s

/-- The reply (18 R391). -/
def mcstReply (answers : Map Nat McstAnswer) : VReg :=
  let nacks := (answers.filter (fun e => e.2 == .nack || e.2 == .lost)).map (·.1)
  let lane (i : Nat) : Nat :=
    if i = 0 then (answers.filter (fun e => e.2 == .ok)).length
    else if i = 1 then nacks.length
    else if i = 2 then (answers.filter (fun e => e.2 == .lost)).length
    else if i ≤ 10 then nacks.getD (i - 3) 0xFFFFFFFF
    else 0
  ⟨ofLanes 32 ((List.range 64).map lane), .i32⟩

/-- The target of member P is a confidential line there (18 R388, R389). -/
def State.mcstCipher (s : State) (m : Mcst) (p : Nat) : Bool :=
  match entryTarget (s.mcstEntry m) p m.off with
  | .inl a => (linesOf a m.payload.length).any (fun x => (s.pageFor ⟨p, 0, 0⟩ (64 * x)).any (·.conf))
  | .inr _ => false

/-- A multicast fails with PROTECTION: its share returns, and vd is poisoned (18 R388, R391). -/
def State.failMcst (s : State) (id : Nat) (m : Mcst) : State :=
  (({ s with mcsts := s.mcsts.del id } : State).returnShare m.scope m.share none).faultOf m.task m.ctx m.incarn m.tok
    ⟨m.ea, m.pc, cProtection, m.sel, 5, 0⟩

/-- MULTICAST_REPLY: the reply lands, and the share returns; with an entry that is not the tenant's nothing was sent (18
R391). -/
def execMulticastReply (id : Nat) (s : State) : Out :=
  match s.mcsts.find id with
  | none => happen false (fun s => s) s
  | some m =>
    let e := s.mcstEntry m
    let bad := !m.sent && !entryUsable e (tenantOf m.dom)
    let whole := (m.sent && m.answers.all (fun a => a.2 != .waiting)) || (!m.sent && (entryMembers e).isEmpty)
    happen (s.mcstMayGo m && (bad || whole)) (fun s =>
      let s1 := ({ s with mcsts := s.mcsts.del id } : State).returnShare m.scope m.share none
      if bad then s.failMcst id m
      else match m.tok with
        | some t => s1.landV m.task m.ctx t (mcstReply m.answers)
        | none => s1) s

/-! ## The torus (18 R382, R383) -/

/-- The neighbour of a router; rows and columns wrap. North is +y, east is +x. -/
def routerNext (p : Nat × Nat) : Dir → Nat × Nat
  | .n => (p.1, (p.2 + 1) % 64)
  | .s => (p.1, (p.2 + 63) % 64)
  | .e => ((p.1 + 1) % 64, p.2)
  | .w => ((p.1 + 63) % 64, p.2)

/-- Hops between two routers. -/
def hops (a b : Nat × Nat) : Nat := ringDist a.1 b.1 + ringDist a.2 b.2

/-- Rank of an input port among equal ages. -/
def portRank : Dir → Nat
  | .n => 0 | .e => 1 | .s => 2 | .w => 3

/-- Insert by rank: older first, then by input port. -/
def rankIn (x : TorusPacket) : List TorusPacket → List TorusPacket
  | [] => [x]
  | y :: ys => if y.age < x.age ∨ (y.age = x.age ∧ portRank x.port < portRank y.port) then x :: y :: ys else y :: rankIn x ys

/-- The output port of a packet among those that are free: one that brings it closer, else any. -/
def outPort (here : Nat × Nat) (dst : Nat × Nat) (free : List Dir) : Option Dir :=
  match free.find? (fun d => decide (hops (routerNext here d) dst < hops here dst)) with
  | some d => some d
  | none => free.head?

/-- Packets take output ports in rank order. -/
def routeAll (here : Nat × Nat) (now : Nat) : List Dir → List TorusPacket → List TorusPacket
  | _, [] => []
  | free, p :: ps => match outPort here p.dst free with
    | some d =>
      { p with at_ := some (routerNext here d), port := d.opposite, age := min (p.age + 1) 8191, since := now } :: routeAll here now (free.erase d) ps
    | none => p :: routeAll here now free ps

/-- The ejected of the ranked arrivals: two addressed here, and every one whose age is 8,191 (18 R382, R383). -/
def ejected (here : Nat × Nat) : Nat → List TorusPacket → List TorusPacket
  | _, [] => []
  | n, p :: ps =>
    if p.dst = here ∧ (0 < n ∨ p.age = 8191) then p :: ejected here (n - 1) ps else ejected here n ps

/-- The packets that have arrived at a router, by rank. -/
def State.arrivedAt (s : State) (pkg : Nat) (here : Nat × Nat) : List TorusPacket :=
  ((s.pkg pkg).torus.filter (fun p => p.at_ == some here && decide (p.since < s.now))).foldl (fun l p => rankIn p l) []
/-- The packet that a router may inject: it injects once in a cycle. -/
def State.waitingAt (s : State) (pkg : Nat) (here : Nat × Nat) : Option TorusPacket :=
  if (s.pkg pkg).injected.find here = some s.now then none else (s.pkg pkg).torus.find? (fun p => p.at_.isNone && p.src == here)

/-- One cycle of a router: a packet that is ejected has arrived at its local interface. -/
def State.routerTurn (s : State) (pkg : Nat) (here : Nat × Nat) : State :=
  let arrived := s.arrivedAt pkg here
  let out := ejected here 2 arrived
  let inj := if arrived.length < 4 then (s.waitingAt pkg here).toList else []
  let moved := routeAll here s.now [.n, .e, .s, .w] (out.foldl List.erase arrived ++ inj)
  s.setPkg pkg (fun k => { k with
    torus := (arrived ++ inj).foldl List.erase k.torus ++ moved
    injected := if inj.isEmpty then k.injected else k.injected.set here s.now })

/-- ROUTER_CYCLE: one cycle of a router (18 R382). -/
def execRouterCycle (pkg x y : Nat) (s : State) : Out :=
  happen (!(s.arrivedAt pkg (x, y)).isEmpty || (s.waitingAt pkg (x, y)).isSome) (fun s => s.routerTurn pkg (x, y)) s

/-- A cycle of every router that has had none: no packet is stored (18 R382). -/
def State.routersTurn (s : State) : State :=
  s.pkgs.foldl (fun s e => ((e.2.torus.map (fun q => q.at_.getD q.src)).eraseDups).foldl (fun s r => s.routerTurn e.1 r) s) s

/-! ## Ports and peers (18 R384, R385) -/

/-- A Fenco port. -/
def State.port (s : State) (pkg port : Nat) : FencoPort := (s.pkg pkg).ports.get port ⟨[], false, 0⟩

/-- FLIT_CRC_REPLAY: a flit that fails its CRC is sent again (18 R384). -/
def execFlitCrcReplay (pkg port : Nat) (s : State) : Out :=
  let p := s.port pkg port
  happen (decide (port < 18) && (s.pkg pkg).powered && !p.down)
    (fun s => s.setPkg pkg (fun k => { k with ports := k.ports.set port { p with resent := p.resent + 1 } })) s

/-- LANE_RETRAIN: a lane is retired onto the spare; a port with two retired lanes is down (18 R384). -/
def execLaneRetrain (pkg port lane : Nat) (s : State) : Out :=
  let p := s.port pkg port
  happen (decide (port < 18) && decide (lane < 9) && (s.pkg pkg).powered && !p.down && !p.bad.contains lane) (fun s =>
    let q : FencoPort := { p with bad := p.bad ++ [lane], down := decide (1 ≤ p.bad.length) }
    s.setPkg pkg (fun k => { k with ports := k.ports.set port q })) s

end Sys2Proof.Machine
end

