-- ==== Sys2Proof/Machine/Groups.lean ====
section
/-! DEFINITION. Group commit (18 R392-R407) and failed peers (18 R385). -/

namespace Sys2Proof.Machine

open Sys2Proof Sys2Proof.Lanes

/-- The times of 18 R396, in cycles. -/
def tFab : Nat := 26000
@[inherit_doc tFab] def tVote : Nat := 130000
@[inherit_doc tFab] def tCommit : Nat := 260000

/-- Bits of the reason mask (18 R395). -/
def rStagingFull : Nat := 0
@[inherit_doc rStagingFull] def rProtection : Nat := 1
@[inherit_doc rStagingFull] def rPeerFailed : Nat := 2
@[inherit_doc rStagingFull] def rTimeout : Nat := 3
@[inherit_doc rStagingFull] def rLimit : Nat := 5

/-! ## The instructions (18 R401-R406) -/

/-- `gopen` (18 R402). -/
def execGopen (f : Fields) (s : State) : Out :=
  run (.gopen f) f {
    act := fun s => match s.openGroup s.cur.core.pkg s.myTenant with
      | some (h, s1) => s1.quick (Dest.ofG f.d) (.g h)
      | none => s.quick (Dest.ofG f.d) (.g 0) } s

/-- A handle that the issuer may use (18 R403). -/
def State.handleOk (s : State) (h : W64) (bits : Bool) : Verdict :=
  if bitsOf h 23 16 = s.myTenant ∧ (!bits ∨ (bitsOf h 54 24 = 0 ∧ bitsOf h 7 6 = 0)) then .ok else s.atPc 5 cProtection

/-- `gst` (18 R403). -/
def execGst (f : Fields) (s : State) : Out :=
  let n := sizeOf f.szCode
  run (.gst f) f {
    gate := fun s =>
      let ea := s.ea f
      (s.storeRoom.andThen (s.sendOk [ea] n)).andThen <|
      (s.handleOk (s.gval f f.d) true).andThen <|
      (need (decide (ea.toNat < 2 ^ 63)) 5 cProtection ea).andThen <|
      (need (decide (ea.toNat % n = 0)) 5 cAlign ea).andThen <|
      (s.plbOk ea.toNat n rightW ea).andThen (s.plbOk ea.toNat n rightG ea)
    act := fun s => s.stage s.cur s.myTask s.me.domain (s.gval f f.d) (s.ea f) s.myPc (leBytes n (s.gval f f.b).toNat) } s

/-- The word LOST (18 R400, R404). -/
def lostWord (h : W64) : W64 := BitVec.ofNat 64 (5 + (1 <<< rPeerFailed) <<< 8 + bitsOf h 63 55 <<< 55)
/-- The word STALE. -/
def staleWord : W64 := 4

/-- The status as it stands at the coordinator (18 R406). -/
def State.groupStatus (s : State) (h : W64) : W64 :=
  if !s.groupLive h then staleWord
  else
    let g := s.group (groupKey h)
    g.word (match g.phase with
      | .publishing => 1
      | .aborting => 1
      | .preparing => 1
      | _ => 0)

/-- The staged stores of the issuing context that are not accepted. -/
def State.myGsts (s : State) : List Nat := (s.gsts.filter (fun e => e.2.engine.isNone && s.ofMine e.2.ctx e.2.task)).map (·.1)

/-- A wait at a coordinator begins. -/
def State.waitGroup (s : State) (f : Fields) (h : W64) (peek abort : Bool) (waits : List Nat) : State :=
  let p := s.pendOn [Dest.ofG f.d]
  let w : GroupWait := {
    h := h, ctx := s.cur, incarn := s.me.incarn, task := s.myTask, tok := some p.1, peek := peek, abort := abort, waits := waits, since := s.now }
  { p.2 with gwaits := p.2.gwaits.set (groupKey h) (p.2.gwaits.get (groupKey h) [] ++ [w]) }

/-- The coordinator's package has failed, as the issuer sees it. -/
def State.coordDead (s : State) (pkg : Nat) (h : W64) : Bool := !s.alive pkg (bitsOf h 63 55)

/-- `gcom` (18 R404). -/
def execGcom (f : Fields) (s : State) : Out :=
  run (.gcom f) f {
    gate := fun s => s.handleOk (s.gval f f.a) false
    act := fun s => s.waitGroup f (s.gval f f.a) false false s.myGsts } s

/-- `gab` (18 R405). -/
def execGab (f : Fields) (s : State) : Out :=
  run (.gab f) f {
    gate := fun s => s.handleOk (s.gval f f.a) false
    act := fun s =>
      let h := s.gval f f.a
      if s.coordDead s.cur.core.pkg h then s.waitGroup f h false true []
      else if !s.groupLive h then s.quick (Dest.ofG f.d) (.g staleWord)
      else (s.waitGroup f h false true []).abortGroup h s.cur.core.pkg } s

/-- `gstt` (18 R406). -/
def execGstt (f : Fields) (s : State) : Out :=
  run (.gstt f) f {
    gate := fun s => s.handleOk (s.gval f f.a) false
    act := fun s =>
      let h := s.gval f f.a
      if s.coordDead s.cur.core.pkg h then s.waitGroup f h true false [] else s.quick (Dest.ofG f.d) (.g (s.groupStatus h)) } s

/-! ## Staging (18 R393, R394, R398, R403) -/

/-- A staged store has been accepted. A commit that waited for it sets out with the last of them. -/
def State.acceptGst (s : State) (id : Nat) : State :=
  { s with
    gsts := s.gsts.del id
    gwaits := s.gwaits.map (fun e => (e.1, e.2.map (fun w => if w.waits.contains id then { w with since := s.now } else w))) }

/-- A staged store fails: an asynchronous fault of kind 6. -/
def State.failGst (s : State) (id : Nat) (g : Gst) (cause : Nat) : State :=
  (s.acceptGst id).faultOf g.task g.ctx g.incarn none ⟨g.ea, g.pc, cause, 0, 6, 0⟩

/-- A staged store is dropped with a reason. -/
def State.dropGst (s : State) (id reason : Nat) : State :=
  { s with gsts := s.gsts.adjust id (fun g => { g with stage := .dropped reason, asked := s.now }) }

/-- The package that a staged store's reason names: its home, or its own where it has no translation. -/
def Gst.place (g : Gst) : Nat := (g.pa.map paPkg).getD g.ctx.core.pkg

/-- A participant. -/
def State.participant (s : State) (p : Nat) (h : W64) : Option Participant := s.parts.find (p, h)
@[inherit_doc State.participant]
def State.setParticipant (s : State) (p : Nat) (h : W64) (f : Participant → Participant) : State :=
  { s with parts := s.parts.adjust (p, h) f }

/-- Staged bytes laid over a line's. -/
def overlay : List (Option Byte) → List (Option Byte) → List (Option Byte)
  | x :: xs, y :: ys => (match y with
    | some b => some b
    | none => x) :: overlay xs ys
  | xs, [] => xs
  | [], _ => []

/-- Bytes enter the staging of a line (18 R394). -/
def Participant.put (p : Participant) (pa : Nat) (bs : List Byte) : Participant :=
  let old := p.lines.get (lineOf pa) (List.replicate 64 none)
  { p with lines := p.lines.set (lineOf pa) (overlay old (List.replicate (pa % 64) none ++ bs.map some)) }

/-- The staging lines of an I/O die in use (18 R393). -/
def State.stagingUsed (s : State) (pkg die : Nat) : Nat :=
  ((s.parts.filter (fun e => e.1.1 == pkg)).map (fun e => (e.2.lines.filter (fun l => paIoDie (64 * l.1) == die)).length)).foldl Nat.add 0

/-- No staging line is free for a byte of this address. -/
def State.stagingFull (s : State) (p : Participant) (pa : Nat) : Bool :=
  !p.lines.has (lineOf pa) && decide (262144 ≤ s.stagingUsed (paPkg pa) (paIoDie pa))

/-- A participant refuses bytes: DOOMED, with the reason reported (18 R398). -/
def State.doom (s : State) (id : Nat) (g : Gst) (reason : Nat) : State :=
  (s.setParticipant g.place g.h (fun p => { p with phase := .doomed, reason := reason })).dropGst id reason

/-- A staged store at a STAGING participant. -/
def State.stageAt (s : State) (id : Nat) (g : Gst) (pa : Nat) (p : Participant) (rro : Bool) : State :=
  if paKind pa ≠ 0 || rro then s.doom id g rProtection
  else if s.stagingFull p pa then s.doom id g rStagingFull
  else (s.setParticipant (paPkg pa) g.h (fun p => p.put pa g.bytes)).acceptGst id

/-- A staged store that is still to be staged or dropped. -/
def Gst.open_ (g : Gst) : Bool := match g.stage with
  | .dropped _ => false
  | _ => true

/-- A staged store may set out to package `q`: those that its core staged before it have, and its stream has room (18 R386, R394). -/
def State.gstMayGo (s : State) (id : Nat) (g : Gst) (q : Nat) : Bool :=
  !s.gsts.any (fun e => decide (e.1 < id) && e.2.ctx.core == g.ctx.core && e.2.pa.isNone && e.2.open_) && s.streamRoom g.ctx.core q 1

/-- A staged store is translated, and takes its number in its core's stream (18 R386, R403). -/
def State.sendGst (s : State) (id : Nat) (g : Gst) : State :=
  match s.findPage (s.clu g.ctx.core) g.ea.toNat 1 g.dom with
  | (.wait, s1) => s1
  | (.none, s1) => s1.dropGst id rProtection
  | (.page t, s1) =>
    let q := paPkg t.pa
    let n := s1.takeNumber g.ctx.core q
    if !s1.gstMayGo id g q then s1
    else if q = g.ctx.core.pkg then { s1 with gsts := s1.gsts.set id { g with pa := some (t.at g.ea.toNat), asked := s1.now } }
    else { n.2 with gsts := n.2.gsts.set id { g with pa := some (t.at g.ea.toNat), stream := some (q, n.1), asked := s1.now } }

/-- Every staged store of the same core to the same package that set out before has been staged or dropped (18 R387, R394). -/
def State.gstTurn (s : State) (id : Nat) (g : Gst) : Bool :=
  !s.gsts.any (fun e => decide (e.1 < id) && e.2.ctx.core == g.ctx.core && e.2.open_ && e.2.pa.map paPkg == g.pa.map paPkg)

/-- The page of a staged store is replicable read-only. -/
def State.gstReadOnly (s : State) (g : Gst) : Bool := ((s.pageFor (s.clu g.ctx.core) g.ea.toNat).map (·.rro)).getD false

/-- A staged store at a participant of its home, or at a home that has none yet (18 R398). A DOOMED participant drops it without a
report, and it counts as accepted (19 R409). -/
def State.arriveGst (s : State) (id : Nat) (g : Gst) (pa : Nat) : State :=
  match s.participant (paPkg pa) g.h with
  | none => { s with gsts := s.gsts.set id { g with stage := .joining, asked := s.now } }
  | some p => match p.phase with
    | .staging => s.stageAt id g pa p (s.gstReadOnly g)
    | .doomed => s.acceptGst id
    | _ => s.failGst id g cGroupState

/-- The package that asks the coordinator for a staged store, or reports its drop: its home, or the issuer's where that has failed or none is
known. -/
def Gst.reporter (g : Gst) : Nat := if g.stage = .dropped rPeerFailed then g.ctx.core.pkg else g.place

/-- The home package of a staged store has failed before it has staged the store or reported its drop (18 R403). -/
def State.gstLost (s : State) (g : Gst) : Bool :=
  g.stage != .dropped rPeerFailed && g.pa.any (fun pa => !s.alive g.ctx.core.pkg (paPkg pa))

/-- GST_STAGE: a staged store sets out, and arrives in its turn; one whose home has failed is dropped with PEER_FAILED (18 R398, R403). -/
def execGstStage (id : Nat) (s : State) : Out :=
  match s.gsts.find id with
  | none => happen false (fun s => s) s
  | some g => match g.pa with
    | none => happen (g.open_ && s.pageDue (s.clu g.ctx.core) g.ea.toNat) (fun s => s.sendGst id g) s
    | some pa => happen (s.gstLost g || (g.stage == .issued && s.gstTurn id g)) (fun s =>
        if s.gstLost g then s.dropGst id rPeerFailed else s.arriveGst id g pa) s

/-- GROUP_JOIN: the coordinator answers a JOIN (18 R397). -/
def execGroupJoin (id : Nat) (s : State) : Out :=
  match s.gsts.find id with
  | none => happen false (fun s => s) s
  | some g => match g.pa with
    | none => happen false (fun s => s) s
    | some pa =>
      let q := paPkg pa
      happen (g.stage == .joining && (s.pkg q).powered && s.alive q (groupKey g.h).1) (fun s =>
        let k := groupKey g.h
        let gr := s.group k
        if !s.groupLive g.h || gr.phase != .opened then s.failGst id g cGroupState
        else if !gr.parts.contains q && decide (64 ≤ gr.parts.length) then (s.setGroup k (fun x => x.reason rLimit q)).acceptGst id
        else
          let s1 := s.setGroup k (fun x => if x.parts.contains q then x else { x with parts := x.parts ++ [q] })
          let fresh : Participant := { phase := .staging, lines := [], reason := 0, peers := [], since := s.now, answers := [] }
          let s2 : State := if (s1.participant q g.h).isSome then s1 else { s1 with parts := s1.parts.set (q, g.h) fresh }
          s2.arriveGst id g pa) s

/-- GROUP_REASON_REPORT: a reason reaches the coordinator, which records it while the group is OPEN, and the stores dropped for it count
as accepted (18 R397, R403). -/
def execGroupReasonReport (h : W64) (pkg reason : Nat) (s : State) : Out :=
  let mine (g : Gst) : Bool := g.h == h && g.place == pkg && g.stage == .dropped reason
    && (s.pkg g.reporter).powered && s.alive g.reporter (groupKey h).1
  happen (s.gsts.any (fun e => mine e.2)) (fun s =>
    let s1 := (s.gsts.filter (fun e => mine e.2)).foldl (fun s e => s.acceptGst e.1) s
    if s1.groupLive h ∧ (s1.group (groupKey h)).phase = .opened then s1.setGroup (groupKey h) (fun g => g.reason reason pkg) else s1) s

/-! ## The coordinator (18 R397) -/

/-- The commits of a handle whose staged stores have been accepted. -/
def State.commitsReady (s : State) (h : W64) : Bool :=
  (s.gwaits.get (groupKey h) []).any (fun w => w.h == h && !w.peek && !w.abort && s.waitSent w)

/-- GROUP_PREPARE: a commit has been asked for, and the committer's staged stores are accepted; a participant that is known to have
failed before its vote ends it at once; a stale handle lands STALE (18 R395, R397, R404). -/
def execGroupPrepare (h : W64) (s : State) : Out :=
  let k := groupKey h
  let g := s.group k
  let live := s.groupLive h
  happen ((s.pkg k.1).powered && (if live then g.phase == .opened && ((g.asked && !s.gsts.any (fun e => e.2.h == h)) || s.commitsReady h)
      else s.commitsReady h)) (fun s =>
    if !live then s.landWaits h (fun w => !w.peek && !w.abort && s.waitSent w) staleWord
    else if g.parts.isEmpty then s.releaseGroup h true
    else
      let s1 := (s.setGroup k (fun g => { g with phase := .preparing, since := s.now, yes := [] })).post
        (g.parts.map (fun p => .prepare h p g.parts))
      match g.parts.find? (s.pkg k.1).failed.contains with
      | some p => (s1.setGroup k (fun g => g.reason rPeerFailed p)).startAbort h
      | none => s1) s

/-- The coordinator decides to publish, or aborts where a reason stands (18 R397). -/
def State.tryDecide (s : State) (h : W64) : State :=
  let k := groupKey h
  let g := s.group k
  if g.reasons ≠ 0 then s.startAbort h
  else (s.setGroup k (fun g => { g with phase := .publishing, since := s.now, confirmed := [] })).post (g.parts.map (fun p => .publish h p))

/-- T_vote has passed since PREPARE: TIMEOUT (18 R397). -/
def State.voteOver (s : State) (h : W64) : Bool := decide ((s.group (groupKey h)).since + tVote ≤ s.now)
@[inherit_doc State.voteOver] def State.expireVote (s : State) (h : W64) : State :=
  (s.setGroup (groupKey h) (fun g => g.reason rTimeout ((g.parts.find? (fun p => !g.yes.contains p)).getD 0))).startAbort h

/-- GROUP_VOTE: a YES counts before T_vote (18 R397). -/
def execGroupVote (h : W64) (pkg : Nat) (yes : Bool) (reason : Nat) (s : State) : Out :=
  let m := GroupMsg.vote h pkg yes reason
  happen (s.posted m && (s.pkg (groupKey h).1).powered) (fun s =>
    let s1 := s.unpost m
    let k := groupKey h
    if !s1.groupLive h || (s1.group k).phase != .preparing then s1
    else if !yes then (s1.setGroup k (fun g => g.reason reason pkg)).startAbort h
    else if s1.voteOver h then s1.expireVote h
    else
      let s2 := s1.setGroup k (fun g => if g.yes.contains pkg then g else { g with yes := g.yes ++ [pkg] })
      if (s2.group k).parts.all (s2.group k).yes.contains then s2.tryDecide h else s2) s

/-- T_VOTE_EXPIRY (18 R397). -/
def execTVoteExpiry (h : W64) (s : State) : Out :=
  happen (s.groupLive h && (s.group (groupKey h)).phase == .preparing && s.voteOver h) (fun s => s.expireVote h) s

/-- GROUP_CONFIRM (18 R397). -/
def execGroupConfirm (h : W64) (pkg : Nat) (s : State) : Out :=
  let m := GroupMsg.confirm h pkg
  happen (s.posted m && (s.pkg (groupKey h).1).powered) (fun s =>
    let s1 := s.unpost m
    let k := groupKey h
    let g := s1.group k
    if !s1.groupLive h || !(g.phase == .publishing || g.phase == .aborting) then s1
    else
      let s2 := s1.setGroup k (fun g => if g.confirmed.contains pkg then g else { g with confirmed := g.confirmed ++ [pkg] })
      if (s2.group k).parts.all (s2.group k).confirmed.contains then s2.releaseGroup h (g.phase == .publishing) else s2) s

/-- T_COMMIT_EXPIRY: PEER_FAILED stands for those that have not confirmed (18 R397). -/
def execTCommitExpiry (h : W64) (s : State) : Out :=
  let k := groupKey h
  let g := s.group k
  happen (s.groupLive h && (g.phase == .publishing || g.phase == .aborting) && decide (g.since + tCommit ≤ s.now)) (fun s =>
    (s.setGroup k (fun g => match g.parts.find? (fun p => !g.confirmed.contains p) with
      | some p => g.reason rPeerFailed p
      | none => g)).releaseGroup h (g.phase == .publishing)) s

/-! ## Participants (18 R398, R399) -/

/-- A line staged by a participant is locked by another group's. -/
def State.lockedByOther (s : State) (pkg : Nat) (h : W64) (line : Nat) : Bool :=
  s.parts.any (fun e => e.1 != (pkg, h) && (e.2.phase == .prepared || e.2.phase == .resolving) && e.2.lines.has line)

/-- PARTICIPANT_PREPARE: every staged line is locked, and the vote is YES; it is NO where the participant is doomed, or its
locks do not come before T_vote (18 R398, R399). -/
def execParticipantPrepare (pkg : Nat) (h : W64) (s : State) : Out :=
  match s.gmsgs.find? (fun m => match m.1 with
    | .prepare x p _ => x == h && p == pkg
    | _ => false), s.participant pkg h with
  | some (.prepare x p peers, _), some q =>
    let blocked := q.lines.any (fun l => s.lockedByOther pkg h l.1)
    let late := s.voteOver h
    happen ((s.pkg pkg).powered && (q.phase != .staging || !blocked || late)) (fun s =>
      let s1 := s.unpost (.prepare x p peers)
      match q.phase with
      | .staging =>
        if blocked then s1.post [.vote h pkg false rTimeout]
        else (s1.setParticipant pkg h (fun q => { q with phase := .prepared, peers := peers, since := s.now })).post [.vote h pkg true 0]
      | .doomed => s1.post [.vote h pkg false q.reason]
      | _ => s1) s
  | _, _ => happen false (fun s => s) s

/-- The staged lines of a participant are performed, under the key of the group's tenant, and unlocked all at once (18 R398). -/
def State.publish (s : State) (pkg : Nat) (h : W64) (q : Participant) : State :=
  let t := bitsOf h 23 16
  let w : Writer := ⟨t, BitVec.ofNat 16 (t * 256), 3, ⟨pkg, 0, 0⟩, 0⟩
  let s1 := q.lines.foldl (fun s l => s.putLine w l.1 0 l.2) s
  (s1.setParticipant pkg h (fun q => { q with phase := .published, lines := [], since := s.now })).post [.confirm h pkg]

/-- The staged lines of a participant are dropped (18 R398). -/
def State.dropStaged (s : State) (pkg : Nat) (h : W64) (confirm : Bool) : State :=
  let s1 := s.setParticipant pkg h (fun q => { q with phase := .aborted, lines := [], since := s.now })
  if confirm then s1.post [.confirm h pkg] else s1

/-- GROUP_PUBLISH (18 R398). -/
def execGroupPublish (pkg : Nat) (h : W64) (s : State) : Out :=
  match s.participant pkg h with
  | none => happen false (fun s => s) s
  | some q => happen (s.posted (.publish h pkg) && (s.pkg pkg).powered) (fun s =>
      let s1 := s.unpost (.publish h pkg)
      if q.phase = .prepared ∨ q.phase = .resolving then s1.publish pkg h q else s1) s

/-- GROUP_ABORT (18 R398). -/
def execGroupAbort (pkg : Nat) (h : W64) (s : State) : Out :=
  match s.participant pkg h with
  | none => happen false (fun s => s) s
  | some q => happen (s.posted (.abort h pkg) && (s.pkg pkg).powered) (fun s =>
      let s1 := s.unpost (.abort h pkg)
      if q.phase = .published ∨ q.phase = .aborted then s1.post [.confirm h pkg] else s1.dropStaged pkg h true) s

/-- PARTICIPANT_QUERY (18 R398). -/
def execParticipantQuery (pkg : Nat) (h : W64) (s : State) : Out :=
  match s.participant pkg h with
  | none => happen false (fun s => s) s
  | some q => happen (q.phase == .prepared && decide (q.since + tCommit ≤ s.now) && (s.pkg pkg).powered) (fun s =>
      (s.setParticipant pkg h (fun q => { q with phase := .resolving, since := s.now })).post
        ((q.peers.filter (· != pkg)).map (fun p => .query h pkg p))) s

/-- QUERY_ANSWER: `dst` answers the query of `src`; a STAGING or DOOMED participant that is asked aborts, and an answer
PUBLISHED has the asker publish (18 R398). -/
def execQueryAnswer (src dst : Nat) (h : W64) (s : State) : Out :=
  happen (s.posted (.query h src dst) && s.alive src dst) (fun s =>
    let s1 := s.unpost (.query h src dst)
    match s1.participant dst h with
    | none => s1
    | some q => match q.phase with
      | .staging | .doomed => s1.dropStaged dst h true
      | .published => match s1.participant src h with
        | some r => if r.phase = .resolving then s1.publish src h r else s1
        | none => s1
      | _ => s1.setParticipant src h (fun r => { r with answers := r.answers ++ [dst] })) s

/-- RESOLVE_TIMEOUT (18 R398). -/
def execResolveTimeout (pkg : Nat) (h : W64) (s : State) : Out :=
  match s.participant pkg h with
  | none => happen false (fun s => s) s
  | some q => happen (q.phase == .resolving && decide (q.since + 2 * tFab ≤ s.now) && (s.pkg pkg).powered)
      (fun s => s.dropStaged pkg h false) s

/-- JOIN_TIMEOUT: a JOIN or a report of a package has had no answer within T_fail, for the coordinator's package has failed: the
participant drops its lines, a joining store fails with GROUP_STATE, and a dropped one holds nothing any longer (18 R397, R398, R403; 19
R409). -/
def execJoinTimeout (pkg : Nat) (h : W64) (s : State) : Out :=
  let mine (g : Gst) : Bool := g.h == h && g.reporter == pkg && g.stage != .issued && decide (g.asked + tFail ≤ s.now)
  happen (!s.alive pkg (groupKey h).1 && s.gsts.any (fun e => mine e.2)) (fun s =>
    let s1 := (s.gsts.filter (fun e => mine e.2)).foldl
      (fun s e => if e.2.open_ then s.failGst e.1 e.2 cGroupState else s.acceptGst e.1) s
    match s.participant pkg h with
    | some q => if q.phase = .staging ∨ q.phase = .doomed then s1.dropStaged pkg h false else s1
    | none => s1) s

/-- FINAL_STATE_EXPIRY (18 R398). -/
def execFinalStateExpiry (pkg : Nat) (h : W64) (s : State) : Out :=
  match s.participant pkg h with
  | none => happen false (fun s => s) s
  | some q => happen ((q.phase == .published || q.phase == .aborted) && decide (q.since + 2 * tCommit ≤ s.now))
      (fun s => { s with parts := s.parts.del (pkg, h) }) s

/-! ## Failures (18 R385, R404-R407) -/

/-- GSTT_TIMEOUT: a wait at a coordinator whose package has failed lands LOST (18 R404-R406); `id` is its scoreboard entry. -/
def execGsttTimeout (id : Nat) (s : State) : Out :=
  match s.gwaits.findSome? (fun e => (e.2.find? (fun w => w.tok == some id)).map (fun w => (e.1, w))) with
  | none => happen false (fun s => s) s
  | some (k, w) =>
    happen (s.coordDead w.ctx.core.pkg w.h && s.waitSent w && decide (w.since + (if w.peek then 2 * tFab else 0) ≤ s.now)) (fun s =>
      ({ s with gwaits := s.gwaits.set k ((s.gwaits.get k []).filter (· != w)) } : State).landWait w (lostWord w.h)) s

/-- The packages between which a message of the commit protocol goes. -/
def GroupMsg.ends : GroupMsg → Nat × Nat
  | .prepare h p _ | .publish h p | .abort h p => ((groupKey h).1, p)
  | .vote h p _ _ | .confirm h p => (p, (groupKey h).1)
  | .query _ src dst => (src, dst)

/-- A package takes a peer as failed (18 R385): what it has sent there is lost, groups that prepare with it abort, and participants whose
coordinator it holds drop what they have staged. -/
def State.peerFailed (s : State) (at_ pkg : Nat) : State :=
  let s0 : State := { s with gmsgs := s.gmsgs.filter (fun m => m.1.ends != (at_, pkg)) }
  let s1 := s0.setPkg at_ (fun p => if p.failed.contains pkg then p else { p with failed := p.failed ++ [pkg] })
  let gs := s1.groups.filter (fun e => e.1.1 == at_ && e.2.phase == .preparing && e.2.parts.contains pkg)
  let s2 := gs.foldl (fun s e =>
    let h := groupHandle e.1.1 e.1.2.1 e.2.gen e.1.2.2
    (s.setGroup e.1 (fun g => g.reason rPeerFailed pkg)).startAbort h) s1
  (s2.parts.filter (fun e => e.1.1 == at_ && (groupKey e.1.2).1 == pkg && (e.2.phase == .staging || e.2.phase == .doomed))).foldl
    (fun s e => s.dropStaged at_ e.1.2 false) s2

/-- FAILURE_NOTICE (18 R385). -/
def execFailureNotice (at_ pkg : Nat) (s : State) : Out :=
  happen ((s.pkg at_).powered && at_ != pkg && !(s.pkg at_).failed.contains pkg) (fun s => s.peerFailed at_ pkg) s

/-- The steps by which a message of the commit protocol arrives. -/
def groupMsgStep : GroupMsg → List (State → Out)
  | .prepare h p _ => [execParticipantPrepare p h]
  | .vote h p y r => [execGroupVote h p y r]
  | .publish h p => [execGroupPublish p h]
  | .abort h p => [execGroupAbort p h]
  | .confirm h p => [execGroupConfirm h p]
  | .query h src dst => [execQueryAnswer src dst h]

/-- A request of package `at_` to `pkg` has had no answer for T_fail: an access, a copy, a message, a multicast, a staged store or its JOIN, a
node operation, or a request to a coordinator. A wait that the peer's own rules impose is no silence (18 R385; log 24, DEDUCED). -/
def State.unanswered (s : State) (at_ pkg id : Nat) : Bool :=
  let old (t : Nat) : Bool := decide (t + tFail ≤ s.now)
  let dark := !(s.pkg pkg).powered
  (match s.acc id with
      | some a => a.ctx.core.pkg == at_ && old a.since && a.stage != .deferred && a.open_ (fun p => p.package == some pkg)
          && (dark || (List.range a.parts.length).any (fun j => s.partReady id j a || (s.bankReady id j a).isSome))
      | none => false)
    || (match s.copy id with
      | some c => c.core.pkg == at_ && old c.since && c.flying.any (fun e =>
          (s.spanPackages c (s.dstSpans c e.1 e.2 ++ c.srcSpans e.1 e.2)).contains pkg && (dark || s.chunkReady id c e.1 e.2))
      | none => false)
    || (match s.msgs.find id with
      | some m => m.src.core.pkg == at_ && old m.since && !m.held && m.dst.pkg == pkg
      | none => false)
    || (match s.mcsts.find id with
      | some m => m.ctx.core.pkg == at_ && old m.since && s.mcstOpen m pkg
      | none => false)
    || (match s.gsts.find id with
      | some g => (g.ctx.core.pkg == at_ && old g.since && g.pa.map paPkg == some pkg && g.open_ && (dark || s.gstTurn id g))
          || (g.reporter == at_ && g.stage != .issued && old g.asked && (groupKey g.h).1 == pkg)
      | none => false)
    || (match s.nodeOps.find id with
      | some q => q.clu.pkg == at_ && old q.since && (s.physOf q.clu q.ea).any (fun pa => paPkg pa == pkg && (dark || s.lineOpen (lineOf pa)))
      | none => false)
    || s.gwaits.any (fun e => e.2.any (fun w => w.tok == some id && w.ctx.core.pkg == at_ && (groupKey w.h).1 == pkg && old w.since
        && (dark || (!w.peek && !w.abort && s.waitSent w && (!s.groupLive w.h || (s.group (groupKey w.h)).phase == .opened)))))

/-- PEER_SILENCE_TIMEOUT (18 R385). -/
def execPeerSilenceTimeout (at_ pkg id : Nat) (s : State) : Out :=
  happen ((s.pkg at_).powered && at_ != pkg && !(s.pkg at_).failed.contains pkg && s.unanswered at_ pkg id)
    (fun s => s.peerFailed at_ pkg) s

/-! ## Confidential packets (18 R388) -/

/-- A package counts a packet that has failed authentication. -/
def State.countAuth (s : State) (pkg : Nat) : State := s.setPkg pkg (fun k => { k with authFails := k.authFails + 1 })

/-- The image addresses, by line, that a fill reads: the first whose line `x` picks. -/
def State.fillPick {α : Type} (s : State) (k : CoreId) (x : TlbEntry → Nat → Option α) : Option (α × Nat × Task × Nat × Nat) :=
  match (s.core k).task.bind (fun id => (s.tasks.find id).map (fun t => (id, t))) with
  | none => none
  | some (id, t) =>
    let im := s.imageOf t
    if t.life != .filling then none
    else (linesOf im.1 im.2).findSome? (fun l => (s.pageFor (s.clu k) (64 * l)).bind (fun e =>
      (x e (e.at (64 * l))).map (fun y => (y, id, t, im.1, max im.1 (64 * l)))))

/-- The package that counts the failure of a packet of an operation, where one of its packets carries a confidential line: the home of a
request, or the requester of a reply. -/
def Access.cipher (a : Access) : Option Nat :=
  if a.failure.isSome then none
  else a.parts.findSome? (fun p => p.pa.bind (fun pa =>
    if p.conf && paPkg pa != a.ctx.core.pkg && (!p.done || a.op.isLoad) then some (if p.done then a.ctx.core.pkg else paPkg pa) else none))
@[inherit_doc Access.cipher] def State.chunkCipher (s : State) (c : Copy) : Option ((Nat × Nat) × Nat) :=
  c.flying.findSome? (fun e => ((s.cipherOf c (s.dstSpans c e.1 e.2)).orElse (fun _ =>
    (s.cipherOf c (c.srcSpans e.1 e.2)).map (fun _ => c.core.pkg))).map (fun q => (e, q)))
@[inherit_doc Access.cipher] def State.mcstCiphered (s : State) (m : Mcst) : Option Nat :=
  (entryMembers (s.mcstEntry m)).find? (fun p => p != m.ctx.core.pkg && s.mcstOpen m p && s.mcstCipher m p)
@[inherit_doc Access.cipher] def State.gstCipher (s : State) (g : Gst) : Option Nat :=
  g.pa.bind (fun pa => if g.open_ && paPkg pa != g.ctx.core.pkg && (s.pageFor (s.clu g.ctx.core) g.ea.toNat).any (·.conf) then some (paPkg pa)
    else none)
@[inherit_doc Access.cipher] def State.nodeCipher (s : State) (q : NodeReq) : Option Nat :=
  (s.pageFor q.clu q.ea).bind (fun t => if t.conf && paPkg t.pa != q.clu.pkg then some (paPkg t.pa) else none)

/-- AUTHENTICATION_FAILURE: a cipher packet is discarded, and counted by the package that receives it; what it belongs to fails with
PROTECTION: an access, a copy, a multicast, a staged store, a node operation, a fetch or a fill (18 R388; of the last two log 24, DEDUCED). -/
def execAuthenticationFailure (w : Waiter) (s : State) : Out :=
  match w with
  | .fetch c =>
    let k := s.ctx c
    let there := (s.pageFor (s.clu c.core) k.pcq0.pc.toNat).any (fun t => t.conf && paPkg t.pa != c.core.pkg)
    happen (k.life == .running && !badPc k.pcq0.pc && (s.copyOf c (pcLine k.pcq0.pc)).isNone && there) (fun s =>
      (s.takeFault c ⟨cProtection, 0, k.pcq0.pc⟩).countAuth c.core.pkg) s
  | .fill k => match s.fillPick k (fun t pa => if t.conf && paPkg pa != k.pkg then some k.pkg else none) with
    | none => happen false (fun s => s) s
    | some (q, id, t, a, ea) => happen true (fun s => (s.failFill k id t a ea cProtection).countAuth q) s
  | .op id => match (s.acc id).bind (fun a => a.cipher), (s.copy id).bind (fun c => (s.chunkCipher c).map (fun q => (c, q))),
      (s.mcsts.find id).bind (fun m => (s.mcstCiphered m).map (fun q => (m, q))), (s.gsts.find id).bind (fun g => (s.gstCipher g).map (fun q => (g, q))),
      (s.nodeOps.find id).bind (fun q => (s.nodeCipher q).map (fun p => (q, p))) with
    | some q, _, _, _, _ => happen true (fun s => (s.setAcc id (fun a => { a with stage := .failed cProtection })).countAuth q) s
    | _, some (c, e, q), _, _, _ => happen true (fun s => (s.loseChunk id c e.1 e.2 cProtection).countAuth q) s
    | _, _, some (m, q), _, _ => happen true (fun s => (s.failMcst id m).countAuth q) s
    | _, _, _, some (g, q), _ => happen true (fun s => (s.failGst id g cProtection).countAuth q) s
    | _, _, _, _, some (q, p) => happen true (fun s => (s.failNode id q cProtection).countAuth p) s
    | none, none, none, none, none => happen false (fun s => s) s

/-! ## A silent expander (22 R473) -/

/-- The memory port behind an address. -/
def portOf (pa : Nat) : Option (Nat × Nat) :=
  if 1 ≤ paKind pa ∧ paKind pa ≤ 6 then some (paPkg pa, paKind pa - 1) else none

/-- The port whose expander has a part of an access that is not done, lines of a copy's chunk in flight with that chunk, or the line of a
context's fetch. Streams and nodes lie in HBM (14 R337, 15 R357). -/
def Access.expander (a : Access) : Option (Nat × Nat) :=
  if a.failure.isSome then none else a.parts.findSome? (fun p => if p.done then none else p.pa.bind portOf)
@[inherit_doc Access.expander] def State.chunkExpander (s : State) (c : Copy) : Option ((Nat × Nat) × Nat × Nat) :=
  c.flying.findSome? (fun e =>
    ((s.spanLines c (s.dstSpans c e.1 e.2 ++ c.srcSpans e.1 e.2)).findSome? (fun l => portOf (64 * l))).map (fun q => (q, e)))
@[inherit_doc Access.expander] def State.fetchExpander (s : State) (c : CtxId) : Option (Nat × Nat) :=
  let k := s.ctx c
  if k.life != .running || badPc k.pcq0.pc || (s.copyOf c (pcLine k.pcq0.pc)).isSome then none
  else (s.physOf (s.clu c.core) k.pcq0.pc.toNat).bind portOf

/-- A memory port is reported down in the management counters. -/
def State.portDown (s : State) (q : Nat × Nat) : State :=
  s.setPkg q.1 (fun k => { k with memDown := q.2 :: k.memDown.filter (· != q.2) })

/-- EXPANDER_TIMEOUT: an expander has not answered for T_fail: what waits for it fails with MACHINE_CHECK, and its port is reported down (22
R473). A fetch is asked for as the packet before it issues, or as its context starts or resumes. -/
def execExpanderTimeout (w : Waiter) (s : State) : Out :=
  let late (since : Nat) : Bool := decide (since + tFail ≤ s.now)
  match w with
  | .fetch c => match s.fetchExpander c with
    | none => happen false (fun s => s) s
    | some q => happen (late (max (s.ctx c).issuedAt (s.ctx c).elapsedFrom)) (fun s =>
        (s.takeFault c ⟨cMachineCheck, 0, (s.ctx c).pcq0.pc⟩).portDown q) s
  | .fill k => match s.fillPick k (fun _ pa => portOf pa) with
    | none => happen false (fun s => s) s
    | some (q, id, t, a, ea) => happen (late t.started) (fun s => (s.failFill k id t a ea cMachineCheck).portDown q) s
  | .op id => match (s.acc id).bind (fun a => a.expander.map (fun q => (a, q))),
      (s.copy id).bind (fun c => (s.chunkExpander c).map (fun q => (c, q))) with
    | some (a, q), _ => happen (late a.since) (fun s => (s.setAcc id (fun a => { a with stage := .failed cMachineCheck })).portDown q) s
    | none, some (c, q, e) => happen (late c.since) (fun s => (s.loseChunk id c e.1 e.2 cMachineCheck).portDown q) s
    | none, none => happen false (fun s => s) s

/-! ## Kills (18 R407) -/

/-- A kill that takes every task of a tenant aborts its groups at this package's coordinators (18 R407). -/
def State.abortTenant (s : State) (pkg tenant : Nat) : State :=
  (s.groups.filter (fun e => e.1.1 == pkg && e.1.2.1 == tenant)).foldl (fun s e => s.abortGroup (groupHandle pkg tenant e.2.gen e.1.2.2) pkg) s

end Sys2Proof.Machine
end

