-- ==== Sys2Proof/Machine/System.lean ====
section
/-! DEFINITION. The privileged instructions (20 R434-R447), the sweep of a kill, events of a quadrant on their way to its
supervisor (20 R413). -/

namespace Sys2Proof.Machine

open Sys2Proof Sys2Proof.Lanes

/-! ## Targets (20 R438) -/

/-- The core and the block that a class 0xD address of this package names. -/
def State.target (s : State) (x : W64) : Option (CoreId × Nat) :=
  let k : CoreId := ⟨bitsOf x 59 51, bitsOf x 50 49, bitsOf x 48 39⟩
  if bitsOf x 63 60 = 13 ∧ bitsOf x 34 16 = 0 ∧ k.pkg = s.cur.core.pkg ∧ s.isWorker k = true then some (k, bitsOf x 38 35) else none

/-- The context that it names: blocks 0-10. -/
def State.ctxTarget (s : State) (x : W64) : Option CtxId :=
  match s.target x with
  | some (k, b) => if b ≤ 10 then some ⟨k, b⟩ else none
  | none => none

/-- The cores of an operand whose block is ignored; ZERO is every worker core of the issuer's quadrant. -/
def State.coreTargets (s : State) (f : Fields) : Option (List CoreId) :=
  match f.a with
  | .zero => some ((s.workerCores s.cur.core.pkg).filter (fun k => s.quad k == s.quad s.cur.core))
  | a => (s.target (s.gval f a)).map (fun t => [t.1])

/-- PROTECTION where a target is not allowed (20 R438). -/
def State.targeted {α : Type} (s : State) (t : Option α) : Verdict := if t.isSome then .ok else s.atPc 5 cProtection

/-- The task that left a core last and stands in its frame. -/
def State.leftLast (s : State) (k : CoreId) (p : Task → TaskCore → Bool) : Option (Nat × Task × TaskCore) :=
  s.tasks.foldl (fun b e => match e.2.frame with
    | some f =>
      if e.2.lastCore = some k ∧ p e.2 f = true then
        (match b with
          | some x => if x.2.1.since ≤ e.2.since then some (e.1, e.2, f) else b
          | none => some (e.1, e.2, f))
      else b
    | none => b) none

/-- The task whose contexts a core's windows and targets name: the one bound to it, or the one that left it last. -/
def State.seat (s : State) (k : CoreId) : Option Nat :=
  match (s.core k).task with
  | some t => some t
  | none => (s.leftLast k (fun _ _ => true)).map (·.1)

/-! ## `trap` and `resm` (20 R439, R442) -/

/-- The cause in IMM. -/
def causeOf (f : Fields) : Nat := f.imm.toNat % 256

/-- `trap` (20 R439): every state between two packets is a boundary of the context. -/
def execTrap (f : Fields) (s : State) : Out :=
  run (.trap f) f {
    gate := fun s => s.targeted (s.ctxTarget (s.gval f f.a))
    act := fun s => match s.ctxTarget (s.gval f f.a) with
      | some c => s.takeFault c ⟨causeOf f, 0, 0⟩
      | none => s } s

/-- A context of a part resumes; with the lead the engines go on (10 R215, 11 R244). -/
def TaskCore.resume (t : TaskCore) (n now : Nat) (once : Bool) : TaskCore :=
  let t1 := t.setCtx n (fun c => c.resume now once)
  if n = 0 then { t1 with envHeld := false, mat := { t1.mat with held := false } } else t1

/-- A task off the queue because a context of it was frozen is queued at the head once none is (20 R441, R442). -/
def State.requeue (s : State) (id : Nat) (t : Task) (f : TaskCore) : State :=
  if t.life = .parked ∧ t.waits = [] ∧ t.fetches = [] ∧ f.anyFrozen = false then
    { s with tasks := s.tasks.set id { t with life := .queued, level := t.prio, since := s.now, order := s.headOrder t } }
  else { s with tasks := s.tasks.set id t }

/-- The context's fault event waits at its core, and the context stays frozen (20 R413). -/
def State.eventWaits (s : State) (c : CtxId) : Bool :=
  (s.quadEvents (s.quad c.core)).held.any (fun b => leNat (b.take 2) == srcCode c)

/-- RETURN from a fault: a context that is FROZEN, or SWAPPED and frozen, runs again (20 R442). One whose event still waits at its core
does not (20 R413; log 30, DEDUCED). -/
def State.resumeAt (s : State) (c : CtxId) (once : Bool) : State :=
  if s.eventWaits c then s
  else if (s.ctx c).life = .frozen then s.setTc c.core (fun t => t.resume c.ctx s.now once)
  else match s.leftLast c.core (fun _ f => (f.ctx c.ctx).life == .frozen) with
    | some (id, t, f) =>
      let f1 := f.resume c.ctx s.now once
      s.requeue id { t with frame := some f1 } f1
    | none => s

/-- `resm` (20 R442). -/
def execResm (f : Fields) (s : State) : Out :=
  run (.resm f) f {
    gate := fun s => s.targeted (s.ctxTarget (s.gval f f.a))
    act := fun s => match s.ctxTarget (s.gval f f.a) with
      | some c => s.resumeAt c f.mod0
      | none => s } s

/-! ## `kill` (20 R434, R435, R440) -/

/-- The domain of a task: that of its lead where the lead is live. -/
def State.taskDomain (s : State) (id : Nat) (t : Task) : BitVec 16 :=
  let c := s.ctxOf (some id) ⟨⟨t.pkg, 0, 0⟩, 0⟩
  if c.life = .free then t.dom else c.domain

/-- gs names a domain (20 R438): the tenant exactly, the sub-domain under SMASK. -/
def selects (gs : W64) (d : BitVec 16) : Bool :=
  bitsOf gs 15 8 == d.toNat / 256 && (bitsOf gs 7 0 ^^^ d.toNat % 256) &&& bitsOf gs 23 16 == 0

/-- The task or the helper that a context-mode kill ends: none is a context that holds no party of a user's tenant. -/
def State.killCtx (s : State) (c : CtxId) (cause : Nat) : State :=
  match s.seat c.core with
  | none => s
  | some id => match s.tasks.find id with
    | none => s
    | some t =>
      if tenantOf (s.taskDomain id t) = 0 then s
      else if c.ctx = 0 then s.endTask id (some cause) else s.endHelperOf (some id) c.core c.ctx (some cause)

/-- A domain-mode kill on a package (20 R434, 18 R407). -/
def State.killDomain (s : State) (pkg : Nat) (gs : W64) (cause : Nat) : State :=
  let ids := (s.tasks.filter (fun e => e.2.pkg == pkg && selects gs (s.taskDomain e.1 e.2))).map (·.1)
  let s1 := ids.foldl (fun s id => s.endTask id (some cause)) s
  let tenant := bitsOf gs 15 8
  if s1.tasks.any (fun e => e.2.pkg == pkg && tenantOf (s1.taskDomain e.1 e.2) == tenant) then s1 else s1.abortTenant pkg tenant

/-- A store that has its translation may still be on its way when its party is killed (20 R435). -/
def Access.mayStray (a : Access) : Bool :=
  a.stage == .placed && !a.finished && (match a.op with
    | .st | .fset _ => true
    | _ => false)

/-- A kill ends parties: a copy stopped with a chunk in flight leaves it partly written (20 R434), and their stores on their way stay
there, with no one to answer to, until they are performed or swept (20 R435). -/
def State.killing (s : State) (ends : State → State) : State :=
  let gone := ends s
  let stopped := s.copies.filter (fun e => !gone.copies.has e.1)
  let torn := stopped.foldl (fun s e => e.2.flying.foldl (fun s x => s.tearChunk e.1 e.2 x) s) s
  let left := torn.accs.filter (fun e => e.2.mayStray && !gone.accs.has e.1)
  let t := ends torn
  left.foldl (fun s e => { s with accs := s.accs.set e.1 { e.2 with abandoned := true, tok := none } }) t

/-- The stores that a kill has left on their way. -/
def State.strays (before after : State) : List Nat :=
  (after.accs.filter (fun e => e.2.abandoned && (match before.acc e.1 with
    | some a => !a.abandoned
    | none => false))).map (·.1)

/-- The number of a router of a package, and the torus place of a number. -/
def routerOf (x y : Nat) : Nat := 1024 * (x / 32 + 2 * (y / 32)) + 32 * (y % 32) + x % 32
@[inherit_doc routerOf] def routerXY (n : Nat) : Nat × Nat := torusXY (n / 1024) (n % 1024)

/-- The kill message sets out from the issuer's router, and its confirmation is awaited (20 R435). -/
def State.floodKill (s : State) (strays : List Nat) : State :=
  let p := s.cur.core.pkg
  let at_ := 1024 * s.cur.core.die + s.site s.cur.core
  let sweep : KillSweep := { issuer := some s.cur, since := s.now, reached := [(at_, s.now)], swept := [], ids := [s.nextId]
                             strays := strays }
  ({ s with nextId := s.nextId + 1 }.setPkg p (fun k => { k with kills := k.kills ++ [sweep] })).beginHold .own [s.nextId]

/-- The issuer's kill is confirmed: every router's sweep has ended. -/
def State.killConfirmed (s : State) : Bool :=
  match s.me.hold with
  | some h => (s.pkg s.cur.core.pkg).kills.any (fun k => k.ids == h.ids && decide (4096 ≤ k.swept.length))
  | none => false

/-- The kill is over. -/
def State.endKill (s : State) : State :=
  match s.me.hold with
  | some h => s.endHold.setPkg s.cur.core.pkg (fun k => { k with kills := k.kills.filter (fun x => x.ids != h.ids) })
  | none => s

/-- `kill` (20 R440). -/
def execKill (f : Fields) (s : State) : Out :=
  run (.kill f) f {
    gate := fun s => (s.targeted (s.ctxTarget (s.gval f f.a))).andThen (if s.killConfirmed then .ok else .hold)
    act := fun s => s.endKill
    wait := fun s =>
      if s.me.hold.isSome then s
      else match s.ctxTarget (s.gval f f.a) with
        | some c =>
          let t := s.killing (fun s => s.killCtx c (causeOf f))
          t.floodKill (s.strays t)
        | none => s } s

/-- `kill.dom` (20 R440): tenant 0 is never killed. -/
def execKillDom (f : Fields) (s : State) : Out :=
  run (.killDom f) f {
    gate := fun s => if bitsOf (s.gval f f.b) 15 8 = 0 || s.killConfirmed then .ok else .hold
    act := fun s => s.endKill
    wait := fun s =>
      if s.me.hold.isSome then s
      else
        let t := s.killing (fun s => s.killDomain s.cur.core.pkg (s.gval f f.b) (causeOf f))
        t.floodKill (s.strays t) } s

/-- The routers next to a router on the torus. -/
def nextRouters (n : Nat) : List Nat :=
  let p := routerXY n
  [routerOf ((p.1 + 1) % 64) p.2, routerOf ((p.1 + 63) % 64) p.2, routerOf p.1 ((p.2 + 1) % 64), routerOf p.1 ((p.2 + 63) % 64)]

/-- A router next to `n` on the torus has been reached. -/
def KillSweep.near (k : KillSweep) (n : Nat) : Bool := (nextRouters n).any k.reached.has

/-- The message may reach this router now. -/
def KillSweep.due (k : KillSweep) (n : Nat) : Bool := decide (n < 4096) && !k.reached.has n && k.near n

/-- KILL_FLOOD: a router receives the kill message and begins to drop the packets of the ended parties (20 R435). -/
def execKillFlood (pkg site : Nat) (s : State) : Out :=
  happen ((s.pkg pkg).kills.any (fun k => k.due site)) (fun s => s.setPkg pkg (fun p => { p with
    kills := p.kills.map (fun k => if k.due site then { k with reached := k.reached.set site s.now } else k) })) s

/-- T_sweep (20 R435). -/
def tSweep : Nat := 8192

/-- A router's sweep is over. -/
def KillSweep.over (k : KillSweep) (n now : Nat) : Bool :=
  !k.swept.contains n && (match k.reached.find n with
    | some c => decide (c + tSweep ≤ now)
    | none => false)

/-- The sweep of every router ends with this one: the stores still on their way are gone (20 R435). -/
def KillSweep.last (k : KillSweep) (n now : Nat) : Bool := k.over n now && decide (4096 ≤ k.swept.length + 1)

/-- KILL_SWEEP_EXPIRY (20 R435). -/
def execKillSweepExpiry (pkg site : Nat) (s : State) : Out :=
  happen ((s.pkg pkg).kills.any (fun k => k.over site s.now)) (fun s =>
    let gone := ((s.pkg pkg).kills.filter (fun k => k.last site s.now)).flatMap (·.strays)
    let s1 := s.setPkg pkg (fun p => { p with
      kills := p.kills.map (fun k => if k.over site s.now then { k with swept := site :: k.swept } else k) })
    gone.foldl (fun s i => s.endAcc i) s1) s

/-! ## `prmt` (20 R441) -/

/-- The switch of a `prmt` begins, or the one under way becomes its own. -/
def State.demandSwitch (s : State) (k : CoreId) : State :=
  let s1 := s.beginSwitch k .prmt
  (s1.gangCores (s1.core k).task).foldl (fun s j => s.setCore j (fun c => { c with
    switch := c.switch.map (fun w => if w.why = .park then w else { w with why := .prmt }) })) s1

/-- The task on a core and the number of its start there, as a `prmt` notes them. -/
def State.stay (s : State) (k : CoreId) : List Nat :=
  match (s.core k).task with
  | some id => [id, ((s.tasks.find id).map (·.starts)).getD 0]
  | none => []

/-- The swap that a `prmt` waits for is done: the stay that it noted has ended, though the task may stand there again. -/
def State.swapDone (s : State) (k : CoreId) : Bool :=
  match s.me.hold with
  | some h => h.ids != s.stay k
  | none => (s.core k).task.isNone

/-- `prmt` (20 R441). -/
def execPrmt (f : Fields) (s : State) : Out :=
  run (.prmt f) f {
    gate := fun s => (s.targeted (s.target (s.gval f f.a))).andThen (match s.target (s.gval f f.a) with
      | some (k, _) => if s.swapDone k then .ok else .hold
      | none => .ok : Verdict)
    act := fun s => s.endHold
    wait := fun s => match s.target (s.gval f f.a) with
      | some (k, _) => if s.me.hold.isSome then s else (s.demandSwitch k).beginHold .own (s.stay k)
      | none => s } s

/-! ## `plbw` and `plbi` (20 R443) -/

/-- Word 0 as it is written: BASE without the bits below the size, and LSZ (20 R430). -/
def plbWord0 (x : W64) : W64 :=
  let lsz := bitsOf x 5 0
  let base := if 16 ≤ lsz ∧ lsz ≤ 47 then x.toNat / 2 ^ lsz * 2 ^ lsz else x.toNat / 65536 * 65536
  BitVec.ofNat 64 (base + lsz)
/-- Word 1 as it is written. -/
def plbWord1 (x : W64) : W64 := x &&& 0xFFFFFF000000007F

/-- V cleared. -/
def plbOff (e : W64 × W64) : W64 × W64 := (e.1, e.2 &&& ~~~ 0x40#64)

/-- Change the PLB of cores. -/
def State.onPlbs (s : State) (ks : List CoreId) (g : Map Nat (W64 × W64) → Map Nat (W64 × W64)) : State :=
  ks.foldl (fun s k => s.setCore k (fun c => { c with plb := g c.plb })) s

/-- idx of `plbw` and `plbi`. -/
def plbIndex (f : Fields) : Nat := f.imm.toNat % 64

/-- `plbw` (20 R443). -/
def execPlbw (f : Fields) (s : State) : Out :=
  run (.plbw f) f {
    gate := fun s => s.targeted (s.coreTargets f)
    act := fun s => s.onPlbs ((s.coreTargets f).getD [])
      (fun m => m.set (plbIndex f) (plbWord0 (s.gval f f.b), plbWord1 (s.gval f f.c))) } s

/-- `plbi` (20 R443). -/
def execPlbi (f : Fields) (s : State) : Out :=
  run (.plbi f) f {
    gate := fun s => s.targeted (s.coreTargets f)
    act := fun s => s.onPlbs ((s.coreTargets f).getD []) (fun m => m.adjust (plbIndex f) plbOff) } s

/-- `plbi.dom` (20 R443). -/
def execPlbiDom (f : Fields) (s : State) : Out :=
  run (.plbiDom f) f {
    gate := fun s => s.targeted (s.coreTargets f)
    act := fun s => s.onPlbs ((s.coreTargets f).getD []) (fun m => m.map (fun e =>
      if selects (s.gval f f.b) (BitVec.ofNat 16 (bitsOf e.2.2 63 48)) then (e.1, plbOff e.2) else e)) } s

/-! ## `xlti` and `pgok` (20 R444, R445) -/

/-- The first page and the count of an `xlti`. -/
def State.xltiPage (s : State) (f : Fields) : Nat := (s.gval f f.a).toNat / 65536
@[inherit_doc State.xltiPage] def State.xltiCount (s : State) (f : Fields) : Nat := (s.gval f f.b).toNat

/-- The domain of the issuer serves the region of a page. -/
def State.serves (s : State) (pkg page : Nat) : Bool :=
  page / 2 ^ 32 == 0 && (match s.pagerEntry pkg (page / 2 ^ 14 % 2 ^ 18) with
    | some e => e.1 == s.me.domain
    | none => false)

/-- Every region that the pages meet is served by the issuer's domain. -/
def State.servesAll (s : State) (page n : Nat) : Bool :=
  (List.range ((page + n - 1) / 2 ^ 14 + 1 - page / 2 ^ 14)).all (fun i =>
    s.serves s.cur.core.pkg ((page / 2 ^ 14 + i) * 2 ^ 14))

/-- A package in the reach of the instruction: this one, or every one of the fabric domain. -/
def State.inReach (s : State) (f : Fields) (pkg : Nat) : Bool := f.reachCode == 4 || pkg == s.cur.core.pkg

/-- The accesses translated through a page of the range and not yet performed. -/
def State.xltiHeld (s : State) (f : Fields) : List Nat :=
  let p := s.xltiPage f
  let n := s.xltiCount f
  (s.accs.filter (fun a => s.inReach f a.2.ctx.core.pkg && a.2.parts.any (fun q =>
    !q.done && q.pa.isSome && decide (p ≤ q.ea / 65536) && decide (q.ea / 65536 < p + n)))).map (·.1)

/-- The translations of the range are dropped. -/
def State.dropPages (s : State) (f : Fields) : State :=
  let p := s.xltiPage f
  let n := s.xltiCount f
  { s with slices := s.slices.map (fun e => if s.inReach f e.1.pkg then
      (e.1, { e.2 with tlb := e.2.tlb.filter (fun t => !(decide (p ≤ t.page) && decide (t.page < p + n))) }) else e) }

/-- The fence of an `xlti` is over, and it waits for the accesses of its pages. -/
def State.xltiStage2 (s : State) : Option Hold := s.me.hold.bind (fun h => if h.kind = .own then some h else none)

/-- `xlti` (20 R444). -/
def execXlti (f : Fields) (s : State) : Out :=
  run (.xlti f) f {
    frozen := fun s => s.fenceFreeze
    gate := fun s =>
      (need (decide (1 ≤ s.xltiCount f) && decide (s.xltiCount f ≤ 2 ^ 18)) 5 cIllegal s.myPc).andThen
      ((need (!s.pagerContext || s.servesAll (s.xltiPage f) (s.xltiCount f)) 5 cProtection s.myPc).andThen
      (match s.xltiStage2 with
        | some h => if h.ids.all (fun i => !(s.xltiHeld f).contains i) then .ok else .hold
        | none => if s.writesDone f.reachCode && (s.xltiHeld f).isEmpty then .ok else .hold : Verdict))
    act := fun s => (s.dropPages f).endHold
    wait := fun s =>
      if s.xltiStage2.isSome then s
      else if s.writesDone f.reachCode then ((s.dropPages f).endHold).beginHold .own (s.xltiHeld f)
      else s.beginHold .fence } s

/-- `pgok` (20 R445): a release at `.sys`; the token then sets out, and nothing waits for the walk. -/
def execPgok (f : Fields) (s : State) : Out :=
  run (.pgok f) f {
    frozen := fun s => s.fenceFreeze
    gate := fun s =>
      (need (!s.pagerContext || (match s.tokenWalk (s.gval f f.a) with
        | some w => s.serves (bitsOf (s.gval f f.a) 63 55) w.page
        | none => true)) 5 cProtection s.myPc).andThen
      (if s.writesDone 4 then .ok else .hold)
    act := fun s => { s.endHold with tokens := s.tokens ++ [s.gval f f.a] }
    wait := fun s => s.beginHold .fence } s

/-! ## `wpt` and `auds` (20 R446, R447) -/

/-- A home watchpoint from its operands. -/
def watchOf (gp gc : W64) (q : QuadId) : HomeWatch :=
  let len := 16 * 4 ^ bitsOf gc 1 0
  ⟨bitsOf gp 55 0 / len * len, len, q⟩

/-- `wpt` (20 R446). -/
def execWpt (f : Fields) (s : State) : Out :=
  run (.wpt f) f {
    act := fun s =>
      let gc := s.gval f f.b
      let n := f.imm.toNat % 4
      s.setPkg s.cur.core.pkg (fun p => { p with
        watches := if bitAt gc 2 then p.watches.set n (watchOf (s.gval f f.a) gc (s.quad s.cur.core)) else p.watches.del n }) } s

/-- `auds` (20 R447). -/
def execAuds (f : Fields) (s : State) : Out :=
  run (.auds f) f {
    gate := fun s => (s.targeted (s.coreTargets f)).andThen
      (need (decide (bitsOf (s.gval f f.b) 4 0 ≤ 16)) 5 cIllegal s.myPc)
    act := fun s =>
      let gc := s.gval f f.b
      ((s.coreTargets f).getD []).foldl (fun s k => s.setAudit (s.clu k) (fun a => { a with k := bitsOf gc 4 0, en := bitAt gc 8 })) s } s

/-! ## Events on their way (20 R413, R437; 21 R456) -/

/-- The event ring of a supervisor takes an event now. -/
def Ring.takesEvent (r : Ring) : Bool :=
  decide (r.c ≠ 0) && !r.err && isLocal r.base && r.res.isEmpty && r.tag r.tail == .empty

/-- FAULT_EVENT_DELIVER: the oldest event of the quadrant fills slot TAIL of ring6 of its supervisor, and a fault event that
waited at its core enters the buffer (20 R413). -/
def execFaultEventDeliver (q : QuadId) (s : State) : Out :=
  let e := s.quadEvents q
  let r := (s.tc (supOf q)).ring 6
  match e.buffer with
  | [] => happen false (fun s => s) s
  | b :: rest => happen r.takesEvent (fun s =>
      let o := spadOff (r.addr r.tail)
      let s1 := s.setTc (supOf q) (fun t => ((t.setRing 6 Ring.fill).spadPut none o (b.map some)).countSlots o 64)
      let e1 : QuadEvents := { e with buffer := rest }
      let e2 : QuadEvents := match e1.held with
        | h :: hs => { seq := (e1.seq + 1) % 65536, buffer := e1.buffer ++ [withSeq e1.seq h], held := hs }
        | [] => e1
      { s1 with quads := s1.quads.set q e2 }) s

/-! ## Writes of 1 that have a row of their own (09 R177, 13 R312) -/

/-- SCTL_SNCZ (09 R177). -/
def execSctlSncz (k : CoreId) (s : State) : Out := happen true (fun s => s.setTc k TaskCore.clearSnc) s
/-- SCTL_LTZ (09 R177). -/
def execSctlLtz (k : CoreId) (s : State) : Out := happen true (fun s => s.setTc k TaskCore.clearLayout) s
/-- FSTAT_FAILED_CLEAR (13 R312). -/
def execFstatFailedClear (c : CtxId) (s : State) : Out :=
  happen true (fun s => s.setCtx c (fun k => { k with spr := k.spr.write 7 1 })) s

end Sys2Proof.Machine
end

