-- ==== Sys2Proof/Machine/Reliab.lean ====
section
/-! DEFINITION. Sweepers, poison, the reliability registers and remaps (21 R448-R457, R463-R466). -/

namespace Sys2Proof.Machine

open Sys2Proof Sys2Proof.Lanes

/-! ## Units and their registers (21 R449-R453) -/

/-- The die and the site of a unit; a slice stands at the first site of its cluster. -/
def unitPlace : RasUnit → Nat × Nat × Nat
  | .slice l => (l.pkg, l.die, (cluOrigin l).2.2)
  | .site p d n => (p, d, n)

/-- A report of a unit to the supervisor of its quadrant (21 R456). -/
def State.unitReport (s : State) (u : RasUnit) (kind addr : Nat) : State :=
  let p := unitPlace u
  s.pushEvent ⟨p.1, p.2.1, siteQuad p.2.2⟩ false (reportBytes (siteWord p.2.1 p.2.2) kind 0 addr 0 0 0 0)

/-- ECCR as it reads (21 R451). -/
def Ras.word (r : Ras) : Nat :=
  r.ce <<< 48 + r.ue <<< 32 + r.ceth <<< 16 + r.ret.toNat <<< 4 + r.done.toNat <<< 1 + r.strong.toNat

/-- CLR: CE and UE are 0, and a report of kind 1 may follow again. -/
def Ras.cleared (r : Ras) : Ras := { r with ce := 0, ue := 0, reported := false }

/-- A write to ECCR, but for STRONG. -/
def Ras.write (r : Ras) (w : Nat) : Ras := { (if w.testBit 3 then r.cleared else r) with ceth := natBits w 16 16 }

/-- The core at a site: a worker's, or a supervisor's. -/
def State.coreOfSite (s : State) (p d n : Nat) : Option CoreId :=
  (s.coreAt p d n).orElse (fun _ => ((s.die p d).sups.find? (fun e => e.2 == n)).map (fun e => supOf ⟨p, d, e.1⟩))

/-- Change what a GOOD site holds: its core's part, or that of a spare. -/
def State.setSite (s : State) (p d n : Nat) (f : TaskCore → TaskCore) : State :=
  match s.coreOfSite p d n with
  | some k => s.setTc k f
  | none =>
    if (s.die p d).spares.contains n then s.setDie p d (fun y => { y with
      spareCores := y.spareCores.set n (f (y.spareCores.get n TaskCore.fresh)) })
    else s

/-- The codes of a unit's granules (21 R448). -/
def State.codesOf (s : State) (u : RasUnit) : Codes :=
  match u with
  | .slice l => (s.slice l).codes
  | .site p d n => match s.coreOfSite p d n with
    | some k => (s.tc k).codes
    | none => ((s.die p d).spareCores.get n TaskCore.fresh).codes
@[inherit_doc State.codesOf] def State.setCodes (s : State) (u : RasUnit) (f : Codes → Codes) : State :=
  match u with
  | .slice l => s.setSlice l (fun x => { x with codes := f x.codes })
  | .site p d n => s.setSite p d n (fun t => { t with codes := f t.codes })

/-- The granules of a unit: those of the lines that a slice holds, or all of a GOOD site's scratchpad. -/
def State.granulesOf (s : State) (u : RasUnit) : List Nat :=
  match u with
  | .slice l => (s.slice l).lines.flatMap (fun e => (List.range 4).map (· + 4 * e.2.line))
  | .site p d n => if (s.coreOfSite p d n).isSome || (s.die p d).spares.contains n then List.range 32768 else []

/-- A write to STRONG clears DONE, and names the code of the writes and visits from now on (21 R453). -/
def State.nameCode (s : State) (u : RasUnit) (strong : Bool) : State :=
  (s.setRas u (fun r => { r with strong := strong, done := false })).setCodes u (fun c => { c with strong := strong })

/-- ECCR_CLR (21 R451). -/
def execEccrClr (u : RasUnit) (s : State) : Out := happen true (fun s => s.setRas u Ras.cleared) s
/-- ECCR_STRONG (21 R453). -/
def execEccrStrong (u : RasUnit) (strong : Bool) (s : State) : Out :=
  happen true (fun s => s.nameCode u strong) s
/-- REENCODE_DONE: every granule of the unit holds the code that STRONG names (21 R453). -/
def execReencodeDone (u : RasUnit) (s : State) : Out :=
  happen (!(s.rasOf u).done && (s.granulesOf u).all (fun g => (s.codesOf u).holds g == (s.rasOf u).strong))
    (fun s => (s.setRas u (fun r => { r with done := true })).setCodes u Codes.settled) s

/-! ## Sweepers (21 R448, R449, R452, R454; 12 R271) -/

/-- The address of a granule as a report gives it: the PA of its line, or the offset of its row. -/
def unitAddr (u : RasUnit) (g : Nat) : Nat :=
  match u with
  | .slice _ => 64 * (g / 4)
  | .site _ _ _ => 32 * (g / 2)

/-- A granule that the unit's sweeper visits: one of a line that its slice holds, or of one that is homed behind it in HBM; or one of the
scratchpad. Granule `g` begins at PA or offset 16 g. -/
def State.granule (s : State) (u : RasUnit) (g : Nat) : Bool :=
  match u with
  | .slice l => (lineAt (s.slice l).lines (g / 4)).isSome || (paKind (16 * g) == 0 && paClu (16 * g) == l)
  | .site _ _ n => decide (n < 1024) && decide (g < 32768)

/-- The granule stands in HBM, not in the slice. -/
def State.inStack (s : State) (u : RasUnit) (g : Nat) : Bool :=
  match u with
  | .slice l => (lineAt (s.slice l).lines (g / 4)).isNone
  | .site _ _ _ => false

/-- The visit's own work: the granule is encoded anew, and overdue lines take OD. -/
def State.sweepLine (s : State) (u : RasUnit) (g : Nat) : State :=
  match u with
  | .slice l => s.setSlice l (fun x => { x with
      lines := x.lines.map (fun e => if e.2.line = g / 4 then (e.1, e.2.swept (s.slack l.pkg)) else e)
      codes := if (lineAt x.lines (g / 4)).isSome then x.codes.encode g else x.codes })
  | .site p d n => s.setSite p d n (fun t => { t with
      codes := t.codes.encode g
      stash := t.stash.map (fun o => o.map (fun st =>
        if st.region ≤ 16 * g ∧ 16 * g < st.region + 2 ^ st.cap then
          { st with lines := st.lines.map (fun e => (e.1, e.2.swept (s.slack p))) } else st)) })

/-- A corrected error counts; where CE passes CETH the unit reports once (21 R449). A row of the slice counts its own corrections (21 R463). -/
def State.corrected (s : State) (u : RasUnit) (g : Nat) : State :=
  let r := s.rasOf u
  let ce := min (r.ce + 1) 0xFFFF
  let row := g / 4 % 4096
  let tell := decide (r.ceth < ce) && !r.reported
  let s1 := s.setRas u (fun r => { r with
    ce := ce, reported := r.reported || tell, fixes := if s.inStack u g then r.fixes else r.fixes.set row (r.fixes.get row 0 + 1) })
  if tell then s1.unitReport u 1 (unitAddr u g) else s1

/-- An uncorrectable granule is counted and reported; a clean copy in a slice is dropped, and anything else is poisoned (21
R454). -/
def State.spoiled (s : State) (u : RasUnit) (g : Nat) : State :=
  let s1 := (s.setRas u (fun r => { r with ue := min (r.ue + 1) 0xFFFF })).unitReport u 2 (unitAddr u g)
  let line := g / 4
  match u with
  | .slice l => match lineAt (s.slice l).lines line with
    | some (_, t) =>
      if t.dirty then { s1 with poison := line :: s1.poison.filter (· != line) }
      else s1.setSlice l (fun x => { x with lines := x.lines.filter (fun e => e.2.line != line) })
    | none => { s1 with poison := line :: s1.poison.filter (· != line) }
  | .site p d n => s1.setSite p d n (fun t => { t with poisonRows := g / 2 :: t.poisonRows.filter (· != g / 2) })

/-- What a visit can make of a granule. -/
inductive Sight where
  | clean | correctable | uncorrectable
  deriving DecidableEq, Repr

/-- The finding that a free value names. -/
def freeSight (n : Nat) : Sight := if n = 0 then .clean else if n = 1 then .correctable else .uncorrectable

/-- What a code makes of the flipped bits of a granule (21 R448): SECDED corrects one bit of each 64-bit word and detects two, the strong code
corrects two of the whole and detects three; of more the manual says nothing, and the finding is a free value (log 31, DESIGN CHOICE). -/
def sightOf (x : Flips) (strong : Bool) : Sight :=
  if strong then
    (if x.lo + x.hi = 0 then .clean else if x.lo + x.hi ≤ 2 then .correctable else if x.lo + x.hi = 3 then .uncorrectable
     else freeSight (Config.beyondCode x.lo x.hi))
  else if 2 < x.lo ∨ 2 < x.hi then freeSight (Config.beyondCode x.lo x.hi)
  else if x.lo = 2 ∨ x.hi = 2 then .uncorrectable
  else if x.lo + x.hi = 0 then .clean
  else .correctable

/-- What a visit makes of a granule, read by the code that it holds; HBM has the code of its stack (21 R448, R453). -/
def State.finding (s : State) (u : RasUnit) (g : Nat) (x : Flips) : Sight :=
  if s.inStack u g then (if x.lo + x.hi = 0 then .clean else freeSight (Config.stackCode x.lo x.hi))
  else sightOf x ((s.codesOf u).holds g)

/-- SWEEP_VISIT: the granule is read, corrected and encoded anew (21 R452). A read that finds an error in a granule is the visit of that granule
(21 R449; log 31, DEDUCED). -/
def execSweepVisit (u : RasUnit) (at_ : Nat) (found : Flips) (s : State) : Out :=
  happen (s.granule u at_) (fun s =>
    let s1 := s.sweepLine u at_
    match s.finding u at_ found with
    | .clean => s1
    | .correctable => s1.corrected u at_
    | .uncorrectable => s1.spoiled u at_) s

/-- A row corrected 16 times is replaced by a spare row; RET is set where the spare rows have run out (21 R463). -/
def Ras.spare (r : Ras) (row : Nat) : Ras :=
  let sp := row :: r.spared
  if r.spared.length < Config.spareRows then
    { r with fixes := r.fixes.set row 0, spared := sp, ret := r.ret || decide (Config.spareRows ≤ sp.length) }
  else { r with ret := true }

/-- L2_ROW_SPARE (21 R463): a spare row takes the place of a row corrected 16 times, or none is left and the slice says so. -/
def execL2RowSpare (l : CluId) (row : Nat) (s : State) : Out :=
  let r := s.rasOf (.slice l)
  happen (decide (16 ≤ r.fixes.get row 0) && (decide (r.spared.length < Config.spareRows) || !r.ret)) (fun s =>
    s.setRas (.slice l) (fun r => r.spare row)) s

/-! ## Remaps (21 R464-R466) -/

/-- REMAP as it reads. -/
def Remap.word (r : Remap) : Nat := r.st <<< 62 + r.id <<< 32 + r.y <<< 22 + r.x <<< 16 + r.sup.toNat <<< 1
/-- The RW fields of REMAP. -/
def Remap.write (r : Remap) (w : Nat) : Remap :=
  { r with id := natBits w 32 10, y := natBits w 22 6, x := natBits w 16 6, sup := w.testBit 1 }
/-- The site (X,Y). -/
def Remap.site (r : Remap) : Nat := 32 * r.y + r.x
/-- A spare of the die. -/
def DieState.hasSpare (d : DieState) (r : Remap) : Bool := decide (r.y < 32) && decide (r.x < 32) && d.spares.contains r.site

/-- A move of the core `k`, or of the quadrant's role, is done or refused, with its report of the logical id (21 R456, R465). -/
def State.remapEnds (s : State) (p d : Nat) (k : CoreId) (id : Nat) (ok : Bool) : State :=
  (s.setDie p d (fun x => { x with remap := { x.remap with st := if ok then 2 else 3 } })).report k (if ok then 7 else 8) 0 id

/-- A task with a frozen context is bound to a core or parked on it. -/
def State.frozenOn (s : State) (k : CoreId) : Bool :=
  ((s.core k).task.isSome && (s.tc k).anyFrozen) || (s.leftLast k (fun _ f => f.anyFrozen)).isSome

/-- A worker's move begins, or is refused (21 R465). -/
def State.remapWorker (s : State) (p d : Nat) : State :=
  let x := s.die p d
  let r := x.remap
  let k : CoreId := ⟨p, d, r.id⟩
  if r.move.isSome || !x.hasSpare r || !x.workers.has r.id || s.frozenOn k then s.remapEnds p d k r.id false
  else (s.setDie p d (fun x => { x with remap := { x.remap with st := 1, move := some (r.id, r.site) } })).beginSwitch k .preempt

/-- The lead of a supervisor core takes over: it runs in domain 0 from PC 0 (log 15, DESIGN CHOICE). -/
def State.startSupervisor (s : State) (k : CoreId) : State :=
  s.setCtx ⟨k, 0⟩ (fun c => { (Ctx.begin c 0 0 0 0 s.now []) with stack := [] })

/-- The core behind an id is that of the site to which the id has moved: what that spare site's core holds, with no task (21 R465, R466). -/
def State.newSite (s : State) (k : CoreId) (site : Nat) : State :=
  let t := (s.die k.pkg k.die).spareCores.get site TaskCore.fresh
  (s.setCore k (fun c => { c with tc := t, spill := [], lastHelper := 10 })).setDie k.pkg k.die (fun x => { x with
    spares := x.spares.filter (· != site), spareCores := x.spareCores.del site })

/-- The old site of a role is retired (21 R465). -/
def State.retire (s : State) (p d old : Nat) : State :=
  (s.setDie p d (fun x => { x with fused := old :: x.fused })).setRas (.site p d old) (fun r => { r with ret := true })

/-- The supervisor role moves to a spare of its quadrant, or the move is refused (21 R466). The events of the quadrant go to ring6 of the new
site's core, whose lead begins as at boot; the old site is retired as a worker's is (log 31, DEDUCED). -/
def State.remapSupervisor (s : State) (p d : Nat) : State :=
  let x := s.die p d
  let r := x.remap
  let k := supOf ⟨p, d, r.id % 4⟩
  if r.move.isSome || !x.hasSpare r || decide (4 ≤ r.id) || siteQuad r.site != r.id then s.remapEnds p d k r.id false
  else
    let s1 := (s.retire p d (s.site k)).setDie p d (fun x => { x with sups := x.sups.set r.id r.site })
    ((s1.newSite k r.site).startSupervisor k).remapEnds p d k r.id true

/-- A write of GO. -/
def State.remapStart (s : State) (p d : Nat) : State :=
  if (s.die p d).remap.sup then s.remapSupervisor p d else s.remapWorker p d

/-- The core of a move has no task any more. -/
def State.remapQuiet (s : State) (p d : Nat) : Bool :=
  match (s.die p d).remap.move with
  | some (id, _) => (s.core ⟨p, d, id⟩).task.isNone && (s.core ⟨p, d, id⟩).switch.isNone
  | none => false

/-- The move is made: images parked on the core are written to their memory frames, the id names the new site, and the old
one is retired (21 R465). -/
def State.remapFinish (s : State) (p d : Nat) : State :=
  match (s.die p d).remap.move with
  | none => s
  | some (id, site) =>
    let k : CoreId := ⟨p, d, id⟩
    let old := s.site k
    let s0 := (s.residents k).foldl (fun s e => s.spill e.1) s
    let s1 := (s0.parkedOn k).foldl (fun s e => s.evictImage e.1) s0
    let s2 := (s1.retire p d old).setDie p d (fun x => { x with workers := x.workers.set id site, remap := { x.remap with move := none } })
    (s2.newSite k site).remapEnds p d k id true

/-- REMAP_GO (21 R465): a write of GO to a worker's id; while its core is being emptied the move goes on by itself. -/
def execRemapGo (pkg die : Nat) (s : State) : Out :=
  happen true (fun s => if s.remapQuiet pkg die then s.remapFinish pkg die else s.remapWorker pkg die) s
/-- REMAP_SUP (21 R466). -/
def execRemapSup (pkg die : Nat) (s : State) : Out := happen true (fun s => s.remapSupervisor pkg die) s

end Sys2Proof.Machine
end

