-- ==== Sys2Proof/Machine/Window.lean ====
section
/-! DEFINITION. Debug windows (20 R416-R418), device control (20 R433, 21 R450), and the accesses that reach a scratchpad, a
window or device control. The places inside a window or a record that the maps leave open are the model's own (log 10, DESIGN CHOICE). -/

namespace Sys2Proof.Machine

open Sys2Proof Sys2Proof.Lanes

/-! ## Words of long values -/

/-- The 8 B word `i` of a value, and the value with that word replaced. -/
def wordOf (x i : Nat) : Nat := natBits x (64 * i) 64
@[inherit_doc wordOf] def setWord (x i w : Nat) : Nat := natSet x (64 * i) 64 w

/-- A 64-bit word of two halves and so on: fields by lowest bit. -/
def packed (fs : List (Nat × Nat)) : Nat := fs.foldl (fun a e => a + e.1 <<< e.2) 0

/-! ## In-flight records (20 R417, 05 R86) -/

/-- Selector and kind of a destination as a header shows them: 0 unused, 1 g, 2 v, 3 p, 4 and 5 a scalar and a vector link, 6 a special
register. -/
def Dest.codes : Dest → Nat × Nat
  | .none => (0, 0)
  | .g n => (n.toNat, 1)
  | .v n => (n.toNat, 2)
  | .p n => (n.toNat, 3)
  | .link d vec _ => (32 + d.code, if vec then 5 else 4)
  | .spr n => (n, 6)

/-- A destination from its codes; a link keeps the entry that it reserved. -/
def destOfCodes (old : Dest) (sel kind : Nat) : Dest :=
  if old.codes = (sel, kind) then old
  else if kind = 1 then .g (BitVec.ofNat 5 sel)
  else if kind = 2 then .v (BitVec.ofNat 5 sel)
  else if kind = 3 then .p (BitVec.ofNat 3 sel)
  else if kind = 6 then .spr sel
  else .none

/-- The bits and the tag of a result. -/
def RVal.bits : RVal → Nat × Tag
  | .g x => (x.toNat, .raw)
  | .v r => (r.bits.toNat, r.tag)
  | .p x => (x.toNat, .raw)
  | .linkOf => (0, .raw)

/-- A result of a kind from its bits; an unused record keeps them all (20 R417). -/
def valOfBits (kind bits : Nat) (tag : Tag) : RVal :=
  if kind = 0 ∨ kind = 2 ∨ kind = 5 then .v ⟨BitVec.ofNat 2048 bits, tag⟩
  else if kind = 3 then .p (BitVec.ofNat 512 bits)
  else .g (BitVec.ofNat 64 bits)

/-- The records of a context, oldest first. -/
def Ctx.records (c : Ctx) : List InFlight := c.inflight.reverse

/-- The header of a record: selector, kind, tag and r, one byte each. A record without a destination is unused. -/
def InFlight.header (r : InFlight) (pipe : Nat) : Nat :=
  if r.dest = .none then 0
  else packed [(r.dest.codes.1, 0), (r.dest.codes.2, 8), (r.val.bits.2.code, 16), (r.due + 1 - pipe, 24)]

/-- A header written: r = 0 drops the record, whose slot stays unused until the next packet. -/
def InFlight.edit (r : InFlight) (pipe w : Nat) : InFlight :=
  let n := natBits w 24 8
  if n = 0 then ⟨.none, .g 0, pipe, none⟩
  else
    let d := destOfCodes r.dest (natBits w 0 8) (natBits w 8 8)
    let v := if d = r.dest ∧ r.val.bits.2.code = natBits w 16 8 then r.val
      else valOfBits (natBits w 8 8) r.val.bits.1 (tagOfCode (natBits w 16 8))
    { r with dest := d, val := v, due := pipe + n - 1 }

/-- Change record `i` of the 24, unused ones before it among them. -/
def Ctx.setRecord (c : Ctx) (i : Nat) (f : InFlight → InFlight) : Ctx :=
  let rs := c.records
  let pad := rs ++ List.replicate (i + 1 - rs.length) (⟨.none, .g 0, c.pipe, none⟩ : InFlight)
  if i < 24 then
    match pad[i]? with
    | some r => { c with inflight := (pad.set i (f r)).reverse }
    | none => c
  else c

/-! ## The window of a context (20 R417) -/

/-- A mask of pending destinations. -/
def Ctx.pendMask (c : Ctx) (f : Dest → Option Nat) : Nat :=
  c.pend.foldl (fun m p => match f p.dest with
    | some i => m ||| 2 ^ i
    | none => m) 0

/-- The number of a special register by its place from 0x370. -/
def windowSprs : List Nat := [0, 1, 2, 3, 7, 0x20, 0x21, 0x22, 0x23, 0x28, 0x29]

/-- STATE (20 R417). -/
def Ctx.stateWord (c : Ctx) (swapped : Bool) : Nat :=
  let l := match c.life with
    | .free => 0
    | .running => if swapped then 3 else 1
    | .frozen => if swapped then 3 else 2
  packed [(l, 0), (c.cause, 8), (c.freewheel % 16, 16)]

/-- The bytes of the asynchronous fault record, whether or not it holds a fault (20 R417, R419). -/
def Ctx.afrBytes (c : Ctx) : Afr := c.afr.getD c.afrHeld

/-- The record's bytes are written: CAUSE 0 empties it and clears COUNT; the other bytes stay as they were written (20 R419; log 30,
DESIGN CHOICE). -/
def Ctx.putAfr (c : Ctx) (r : Afr) : Ctx :=
  if r.cause = 0 then { c with afr := none, afrHeld := { r with count := 0 } } else { c with afr := some r }

/-- The 8 B word at an offset of a context's window. -/
def Ctx.windowWord (c : Ctx) (now : Nat) (swapped : Bool) (o : Nat) : Nat :=
  if o < 0x100 then (c.getG (BitVec.ofNat 5 (o / 8))).toNat
  else if o < 0x300 then wordOf (c.getP (BitVec.ofNat 3 ((o - 0x100) / 64))).toNat (o % 64 / 8)
  else if o < 0x320 then packed ((List.range 8).map (fun i => ((c.getV (BitVec.ofNat 5 (o - 0x300 + i))).tag.code, 8 * i)))
  else if o = 0x320 then c.pcq0.word.toNat
  else if o = 0x328 then c.pcq1.word.toNat
  else if o = 0x330 then c.pcq2.word.toNat
  else if o = 0x338 then c.rep.left
  else if o = 0x340 then c.rep.first * 64
  else if o = 0x348 then c.rep.last * 64
  else if o = 0x350 then c.stateWord swapped
  else if o = 0x358 then packed [(c.domain.toNat, 0), (c.incarn % 65536, 32)]
  else if o = 0x360 then packed [(c.poisonG.toNat, 0), (c.poisonV.toNat, 32)]
  else if o = 0x368 then c.poisonP.toNat
  else if o = 0x3C8 then c.elapsed now
  else if 0x370 ≤ o ∧ o < 0x3C8 then (c.spr.read (windowSprs.getD ((o - 0x370) / 8) 0)).toNat
  else if o = 0x400 then c.afrBytes.ea.toNat
  else if o = 0x408 then c.afrBytes.pc.toNat
  else if o = 0x410 then packed [(c.afrBytes.cause, 0), (c.afrBytes.sel, 8), (c.afrBytes.kind, 16), (c.afrBytes.count, 24)]
  else if o = 0x420 then c.pendMask (fun d => match d with
    | .g n => some n.toNat
    | _ => none)
  else if o = 0x428 then c.pendMask (fun d => match d with
    | .v n => some n.toNat
    | _ => none)
  else if o = 0x430 then c.pendMask (fun d => match d with
    | .p n => some n.toNat
    | _ => none)
  else if o = 0x438 then c.divide.isSome.toNat
  else if 0x500 ≤ o ∧ o < 0x600 then match c.stack.reverse[(o - 0x500) / 16]? with
    | some e => if o % 16 = 0 then e.handle.toNat else e.share
    | none => 0
  else if 0x600 ≤ o ∧ o < 0x780 then match c.records[(o - 0x600) / 16]? with
    | some r => if o % 16 = 0 then r.header c.pipe else 0
    | none => 0
  else if 0x2000 ≤ o ∧ o < 0x3800 then match c.records[(o - 0x2000) / 256]? with
    | some r => wordOf r.val.bits.1 (o % 256 / 8)
    | none => 0
  else if 0x8000 ≤ o ∧ o < 0xA000 then wordOf (c.getV (BitVec.ofNat 5 ((o - 0x8000) / 256))).bits.toNat (o % 256 / 8)
  else 0

/-- A v register changed in place: its poison stands. -/
def Ctx.editV (c : Ctx) (n : Nat) (f : VReg → VReg) : Ctx :=
  { c with v := c.v.setIfInBounds n (f (c.getV (BitVec.ofNat 5 n))) }

/-- The special registers of a window written as they stand, but for their reserved bits (00 R6): CSC's [26:0] (15 R342) and
FSTAT's [18:1] (13 R312) stay zero. -/
def SprFile.edit (r : SprFile) (n w : Nat) : SprFile :=
  if n = 0 then { r with csc := BitVec.ofNat 64 w &&& ~~~ 0x7FFFFFF#64 }
  else if n = 1 then { r with rclk := BitVec.ofNat 64 w }
  else if n = 7 then { r with fstat := BitVec.ofNat 64 w &&& ~~~ 0x7FFFE#64, lost := if w.testBit 0 then r.lost else [] }
  else r.write n (BitVec.ofNat 64 w)

/-- A window write to a frozen context: the word at an offset (20 R417-R419). -/
def Ctx.windowPut (c : Ctx) (now o w : Nat) : Ctx :=
  let x : W64 := BitVec.ofNat 64 w
  if o < 0x100 then { c with g := c.g.setIfInBounds (o / 8) x }
  else if o < 0x300 then
    let i := (o - 0x100) / 64
    if i = 0 then c
    else { c with p := c.p.setIfInBounds i (BitVec.ofNat 512 (setWord (c.getP (BitVec.ofNat 3 i)).toNat (o % 64 / 8) w)) }
  else if o < 0x320 then (List.range 8).foldl (fun c i => c.editV (o - 0x300 + i) (fun r => { r with
    tag := tagOfCode (natBits w (8 * i) 4) })) c
  else if o = 0x320 then { c with pcq0 := pcOfWord x }
  else if o = 0x328 then { c with pcq1 := pcOfWord x }
  else if o = 0x330 then { c with pcq2 := pcOfWord x }
  else if o = 0x338 then { c with rep := { c.rep with left := w, run := c.rep.run || decide (w ≠ 0) } }
  else if o = 0x340 then { c with rep := { c.rep with first := w / 64 } }
  else if o = 0x348 then { c with rep := { c.rep with last := w / 64 } }
  else if o = 0x358 then { c with domain := BitVec.ofNat 16 w }
  else if o = 0x360 then { c with poisonG := BitVec.ofNat 32 w, poisonV := BitVec.ofNat 32 (w / 2 ^ 32) }
  else if o = 0x368 then { c with poisonP := BitVec.ofNat 8 w }
  else if o = 0x3C8 then { c with elapsedHeld := w, elapsedFrom := now }
  else if 0x370 ≤ o ∧ o < 0x3C8 then { c with spr := c.spr.edit (windowSprs.getD ((o - 0x370) / 8) 0) w }
  else if o = 0x400 then c.putAfr { c.afrBytes with ea := x }
  else if o = 0x408 then c.putAfr { c.afrBytes with pc := x }
  else if o = 0x410 then
    c.putAfr { c.afrBytes with cause := natBits w 0 8, sel := natBits w 8 8, kind := natBits w 16 8, count := natBits w 24 8 }
  else if 0x600 ≤ o ∧ o < 0x780 then if o % 16 = 0 then c.setRecord ((o - 0x600) / 16) (fun r => r.edit c.pipe w) else c
  else if 0x2000 ≤ o ∧ o < 0x3800 then c.setRecord ((o - 0x2000) / 256) (fun r =>
    { r with val := valOfBits r.dest.codes.2 (setWord r.val.bits.1 (o % 256 / 8) w) r.val.bits.2 })
  else if 0x8000 ≤ o ∧ o < 0xA000 then c.editV ((o - 0x8000) / 256) (fun r => { r with
    bits := BitVec.ofNat 2048 (setWord r.bits.toNat (o % 256 / 8) w) })
  else c

/-! ## The engine and control blocks (20 R417) -/

/-- The records of tags and depths agree with the engine: what issues next reads them. -/
def Matrix.sync (m : Matrix) : Matrix :=
  if m.queue.isEmpty then { m with
    recd := ⟨m.acc.map (·.data.tag), m.acc.map (·.shadow.isSome), m.a.tag, m.a.depth, m.b.tag, m.b.depth⟩ }
  else m

/-- The tile of a word of block 12 from 0x7810, or of block 14. -/
def tileAt (n : Nat) : Fin 4 := ⟨n % 4, Nat.mod_lt _ (by decide)⟩

/-- The word of block 12. -/
def Matrix.latchWord (m : Matrix) (o : Nat) : Nat :=
  if o < 0x2000 then wordOf m.a.bits.toNat (o / 8)
  else if o < 0x6000 then wordOf m.b.bits.toNat ((o - 0x2000) / 8)
  else if o < 0x7800 then field m.scq (o - 0x6000) 8
  else if o = 0x7800 then packed [(m.a.tag.code, 0), (m.a.depth, 16), (m.b.tag.code, 32), (m.b.depth, 48)]
  else if o = 0x7808 then m.scq.length
  else if o < 0x7850 then
    let t := m.acc[tileAt ((o - 0x7810) / 16)]
    if o % 16 = 0 then packed [(t.data.tag.code, 0), (t.xp.toNat, 8), (t.shadow.isSome.toNat, 16), (t.counts.sat, 32), (t.counts.nan, 48)]
    else t.counts.bso
  else 0

/-- Change a tile. -/
def Matrix.editTile (m : Matrix) (i : Fin 4) (f : Tile → Tile) : Matrix := { m with acc := m.acc.set i (f m.acc[i]) }

/-- A write to block 12. -/
def Matrix.latchPut (m : Matrix) (o w : Nat) : Matrix :=
  if o < 0x2000 then { m with a := { m.a with bits := BitVec.ofNat 131072 (setWord m.a.bits.toNat (o / 8) w) } }
  else if o < 0x6000 then { m with b := { m.b with bits := BitVec.ofNat 131072 (setWord m.b.bits.toNat ((o - 0x2000) / 8) w) } }
  else if o < 0x7800 then
    let i := o - 0x6000
    { m with scq := (m.scq.take i ++ leBytes 8 w ++ m.scq.drop (i + 8)).take m.scq.length }
  else if o = 0x7800 then
    { m with
      a := { m.a with tag := tagOfCode (natBits w 0 4), depth := natBits w 16 16 }
      b := { m.b with tag := tagOfCode (natBits w 32 4), depth := natBits w 48 16 } }
  else if o = 0x7808 then { m with scq := (m.scq ++ List.replicate (min w 6144 - m.scq.length) 0).take w }
  else if o < 0x7850 then m.editTile (tileAt ((o - 0x7810) / 16)) (fun t =>
    if o % 16 = 0 then
      { t with
        data := { t.data with tag := tagOfCode (natBits w 0 4) }
        xp := w.testBit 8
        shadow := if w.testBit 16 then some (t.shadow.getD (⟨0, t.data.tag⟩, ⟨0, 0, 0⟩)) else none
        counts := { t.counts with sat := natBits w 32 16, nan := natBits w 48 16 } }
    else { t with counts := { t.counts with bso := natBits w 0 16 } })
  else m

/-- A word of block 14: the tiles, then their shadows. -/
def Matrix.tileWord (m : Matrix) (o : Nat) : Nat :=
  let t := m.acc[tileAt (o / 0x2000)]
  if o < 0x8000 then wordOf t.data.bits.toNat (o % 0x2000 / 8)
  else ((t.shadow.map (fun x => wordOf x.1.bits.toNat (o % 0x2000 / 8))).getD 0)

/-- A write to block 14. -/
def Matrix.tilePut (m : Matrix) (o w : Nat) : Matrix :=
  let put (d : TileData) : TileData := { d with bits := BitVec.ofNat 65536 (setWord d.bits.toNat (o % 0x2000 / 8) w) }
  m.editTile (tileAt (o / 0x2000)) (fun t =>
    if o < 0x8000 then { t with data := put t.data } else { t with shadow := t.shadow.map (fun x => (put x.1, x.2)) })

/-- The e register of an offset of block 13. -/
def envAt (o : Nat) : Fin 8 := ⟨o / 0x2000 % 8, Nat.mod_lt _ (by decide)⟩

/-- A register from an image as it stands, whether or not it keeps 11 R233 and R234. -/
def envOfRaw (bs : List Byte) : Env :=
  ⟨EnvUnit.imagePieces bs (min (field bs 8 4) 257), field bs 0 4, field bs 4 4, (field bs 12 4).testBit 0⟩

/-- A write to block 13. -/
def EnvState.put (e : EnvState) (o w : Nat) : EnvState :=
  let bs := EnvUnit.image e.e[envAt o]
  let i := o % 0x2000
  let whole := bs ++ List.replicate (i + 8 - bs.length) 0
  { e with e := e.e.set (envAt o) (envOfRaw (whole.take i ++ leBytes 8 w ++ whole.drop (i + 8))) }

/-- The core-scoped registers of block 15, in order. -/
def blockSprs : List Nat := [0x10, 0x11, 0x12, 0x13, 4, 5, 6]

/-- A tag's code in the ring state. -/
def SlotTag.code : SlotTag → Nat
  | .empty => 0
  | .filling => 1
  | .full => 2
  | .draining => 3

/-- The state of a ring: the word of `rstat`, the base, z and c, and from 0x100 the tags, a byte each. -/
def Ring.stateWord (r : Ring) (o : Nat) : Nat :=
  if o = 0 then (ringWord r).toNat
  else if o = 8 then r.base.toNat
  else if o = 16 then packed [(r.z, 0), (r.c, 32)]
  else if 0x100 ≤ o ∧ o < 0x200 then packed ((List.range 8).map (fun i => ((r.tag (o - 0x100 + i)).code, 8 * i)))
  else 0

/-- A word of block 15. -/
def Core.controlWord (c : Core) (o : Nat) : Nat :=
  if o < 0x38 then (c.tc.sprRead (blockSprs.getD (o / 8) 4)).toNat
  else if 0x1000 ≤ o ∧ o < 0x1400 then
    let e := c.plb.get ((o - 0x1000) / 16) (0, 0)
    (if o % 16 = 0 then e.1 else e.2).toNat
  else if 0x2000 ≤ o ∧ o < 0x4000 then (c.tc.ring ((o - 0x2000) / 0x400)).stateWord (o % 0x400)
  else 0

/-! ## A window access (20 R416, R418) -/

/-- The word at an offset of a block of a core. -/
def State.windowRead (s : State) (k : CoreId) (block o : Nat) : Nat :=
  let swapped := (s.core k).task.isNone && (s.seat k).isSome
  let t := s.partOf (s.seat k) k
  if block ≤ 10 then (t.ctx block).windowWord s.now swapped o
  else if block = 12 then t.mat.latchWord o
  else if block = 13 then field (EnvUnit.image t.env.e[envAt o]) (o % 0x2000) 8
  else if block = 14 then t.mat.tileWord o
  else if block = 15 then (s.core k).controlWord o
  else 0

/-- A window write takes effect (20 R418). -/
def State.windowOpen (s : State) (k : CoreId) (block : Nat) : Bool :=
  let t := s.tc k
  let lead := (t.ctx 0).life == .frozen
  if block ≤ 10 then (t.ctx block).life == .frozen
  else if block = 13 then lead && t.env.queue.isEmpty
  else if block = 15 then true
  else lead && (t.mat.queue.isEmpty || t.mat.refused.isSome || t.mat.held)

/-- A refused command whose tile's XP is cleared runs when the lead resumes (10 R215). -/
def Matrix.holdRefused (old new : Matrix) : Matrix := { new with held := old.held || old.refused.isSome }

/-- The word at an offset of a block is written. -/
def State.windowWrite (s : State) (k : CoreId) (block o w : Nat) : State :=
  if block ≤ 10 then s.setCtx ⟨k, block⟩ (fun c => c.windowPut s.now o w)
  else if block = 12 then s.setTc k (fun t => { t with mat := t.mat.holdRefused (t.mat.latchPut o w).sync })
  else if block = 13 then s.setTc k (fun t => { t with env := t.env.put o w })
  else if block = 14 then s.setTc k (fun t => { t with mat := t.mat.holdRefused (t.mat.tilePut o w) })
  else if block = 15 ∧ o < 0x38 then s.setTc k (fun t => t.sprWrite (blockSprs.getD (o / 8) 4) (BitVec.ofNat 64 w))
  else s

/-! ## Device control (20 R433, 21 R450) -/

/-- The cluster of an index 64 die + cluster. -/
def cluOfIndex (p n : Nat) : CluId := ⟨p, n / 64 % 4, n % 64⟩

/-- The register of device control that a byte offset names, of those that are written as they read. -/
def devReg (p o : Nat) : Option DevReg :=
  if o / 8 = 0 then some (.ttbr p)
  else if o / 8 = 1 then some (.pgtbase p)
  else if 0x10000 ≤ o ∧ o < 0x14000 then
    let t := (o - 0x10000) / 64
    if o % 64 / 8 = 0 then some (.tenantValid p t)
    else if o % 64 / 8 = 2 then some (.framePoolBase p t)
    else if o % 64 / 8 = 3 then some (.framePoolSize p t)
    else none
  else if 0x200000 ≤ o ∧ o < 0x280000 then some (.groupTableWord p ((o - 0x200000) / 128) (o % 128 / 8))
  else if 0x300000 ≤ o ∧ o < 0x400000 then
    let t := (o - 0x300000) / 4096
    let i := o % 4096 / 8
    if t = 0 then some (.memoryKey p (i % 256)) else some (.linkKey p t i)
  else if 0x600000 ≤ o ∧ o < 0x700000 then some (.imageWord p ((o - 0x600000) / 4096) (o % 4096 / 64) (o % 64 / 8))
  else if 0x500000 ≤ o ∧ o < 0x500800 then some (.ceth (.slice (cluOfIndex p ((o - 0x500000) / 8))))
  else if 0x510000 ≤ o ∧ o < 0x518000 then some (.ceth (.site p ((o - 0x510000) / 8 / 1024) ((o - 0x510000) / 8 % 1024)))
  else if 0x520000 ≤ o ∧ o < 0x520020 then some (.remap p ((o - 0x520000) / 8))
  else none

/-- What a register reads as; keys are write-only. -/
def State.regWord (s : State) : DevReg → Nat
  | .ttbr p => (s.pkg p).ttbr.toNat
  | .pgtbase p => (s.pkg p).pgtbase.toNat
  | .tenantValid p t => (s.tenant p t).valid.toNat
  | .framePoolBase p t => (s.tenant p t).poolBase
  | .framePoolSize p t => (s.tenant p t).poolSize
  | .quota l t => (s.slice l).quota.get t 16
  | .groupTableWord p e w => wordOf ((s.pkg p).groupTable.get (0, e) 0).toNat w
  | .linkKey _ _ _ | .memoryKey _ _ => 0
  | .imageWord p t e w => wordOf ((s.pkg p).images.get (t, e) 0).toNat w
  | .ceth u => (s.rasOf u).word
  | .remap p d => (s.die p d).remap.word
  | .fwaddr p => (s.pkg p).fwaddr
  | .fwsize p => (s.pkg p).fwsize
  | .attn p w => ((s.pkg p).attn.toArray.getD w 0).toNat

/-- The writable bits of a word of a group table entry (18 R389). -/
def groupMask (w : Nat) : Nat :=
  if w < 8 then 2 ^ 64 - 1
  else if w = 8 then 2 ^ 64 - 64
  else if w = 9 then 2 ^ 64 - 64
  else if w = 10 then 0x0FFFFF03
  else 0

/-- A write takes effect on the RW fields of a register (00 R5, R6). A word of the group table is written in the copy of I/O
die 0; `GROUP_TABLE_WRITE` brings it to the other (01 R12). FWADDR, which is 4 KiB aligned (22 R469), keeps no bit below [12] (log 38,
DESIGN CHOICE). A key is written by its words, one after another at its one offset (log 22, DESIGN CHOICE). A word of an entry of
the scratchpad image table is stored whole, the bits that 15 R355 calls zero too, and such an entry counts as invalid (log 39,
DEDUCED). -/
def State.regWrite (s : State) (r : DevReg) (w : Nat) : State :=
  match r with
  | .ttbr p => s.setPkg p (fun k => { k with ttbr := BitVec.ofNat 64 w })
  | .pgtbase p => s.setPkg p (fun k => { k with pgtbase := BitVec.ofNat 64 w })
  | .tenantValid p t => s.setTenant p t (fun x => { x with valid := w.testBit 0 })
  | .framePoolBase p t => s.setTenant p t (fun x => { x with poolBase := w })
  | .framePoolSize p t => s.setTenant p t (fun x => { x with poolSize := w })
  | .quota l t => s.setSlice l (fun x => { x with quota := x.quota.set t (w % 256) })
  | .groupTableWord p e i => s.setPkg p (fun k => { k with
      groupTable := k.groupTable.set (0, e) (BitVec.ofNat 1024 (setWord (k.groupTable.get (0, e) 0).toNat i (w &&& groupMask i))) })
  | .linkKey p t q => s.setPkg p (fun k => { k with linkKeys := k.linkKeys.set (t, q) (k.linkKeys.get (t, q) 0 <<< 64 ||| BitVec.ofNat 256 (w % 2 ^ 64)) })
  | .memoryKey p t => s.setPkg p (fun k => { k with memKeys := k.memKeys.set t (k.memKeys.get t 0 <<< 64 ||| BitVec.ofNat 512 (w % 2 ^ 64)) })
  | .imageWord p t e i => s.setPkg p (fun k => { k with
      images := k.images.set (t, e) (BitVec.ofNat 512 (setWord (k.images.get (t, e) 0).toNat i w)) })
  | .ceth u => (s.setRas u (fun x => x.write w)).nameCode u (w.testBit 0)
  | .remap p d =>
    let s1 := s.setDie p d (fun x => { x with remap := x.remap.write w })
    if w.testBit 0 then s1.remapStart p d else s1
  | .fwaddr p => if (s.pkg p).st = .failed then s else s.setPkg p (fun k => { k with fwaddr := w / 4096 * 4096 })
  | .fwsize p => if (s.pkg p).st = .failed then s else s.setPkg p (fun k => { k with fwsize := w })
  | .attn p i =>
    if (s.pkg p).st = .failed ∨ (s.pkg p).attst = 1 then s
    else s.setPkg p (fun k => { k with attn := k.attn.setIfInBounds i (BitVec.ofNat 64 w) })

/-- The audit counters (21 R462). -/
def Audit.words (a : Audit) : Nat × Nat :=
  (packed [(a.samp, 48), (a.skip, 32), (a.void, 16), (a.matched, 0)], a.mism <<< 48)

/-- Eight bytes of quotas or trust shifts: one byte for each tenant of a slice. -/
def byteRow (f : Nat → Nat) (t : Nat) : Nat := packed ((List.range 8).map (fun i => (f (t + i), 8 * i)))

/-- The word at an offset (a multiple of 8) of device control. -/
def State.deviceRead (s : State) (p o : Nat) : Nat :=
  match devReg p o with
  | some r => s.regWord r
  | none =>
    if 0x10000 ≤ o ∧ o < 0x14000 then
      let t := (o - 0x10000) / 64
      if o % 64 = 8 then ((s.pkg p).memKeys.has t).toNat
      else if o % 64 = 32 then (s.tenant p t).queue.length
      else if o % 64 = 40 then (s.tenant p t).drops
      else 0
    else if 0x100000 ≤ o ∧ o < 0x110000 then byteRow (fun t => (s.slice (cluOfIndex p ((o - 0x100000) / 256))).quota.get t 16) (o % 256)
    else if 0x110000 ≤ o ∧ o < 0x120000 then byteRow (fun t => (s.slice (cluOfIndex p ((o - 0x110000) / 256))).ts.get t 0) (o % 256)
    else if o = 0x400000 then (s.pkg p).authFails
    else if o = 0x400008 then (s.pkg p).watchDrops
    else if o = 0x400010 then (s.pkg p).portsDown
    else if 0x400800 ≤ o ∧ o < 0x401000 then (s.pkg p).snans.get ((o - 0x400800) / 8) 0
    else if 0x530000 ≤ o ∧ o < 0x531000 then
      let ws := (s.audit (cluOfIndex p ((o - 0x530000) / 16))).words
      if o % 16 = 0 then ws.1 else ws.2
    else 0

/-- Bytes under a mask over the word at an offset. -/
def mergeBytes (old : Nat) (bs : List (Option Byte)) : Nat :=
  leNat ((leBytes 8 old).zipIdx.map (fun b => ((bs[b.2]?).getD none).getD b.1))

/-- The quotas whose bytes a write holds. -/
def State.quotaWrite (s : State) (p o : Nat) (bs : List (Option Byte)) : State :=
  bs.zipIdx.foldl (fun s b => match b.1 with
    | some x => s.regWrite (.quota (cluOfIndex p ((o - 0x100000) / 256)) (o % 256 + b.2)) x.toNat
    | none => s) s

/-- A write of bytes within the word at an offset of device control: the other bytes stay as the word reads, and so those of a key, which is
write-only and reads as 0, become 0 (20 R433; log 38, DESIGN CHOICE). One that does not meet STRONG's byte is no write to STRONG (21 R453). -/
def State.deviceWrite (s : State) (p o : Nat) (bs : List (Option Byte)) : State :=
  match devReg p o with
  | some (.ceth u) =>
    let w := mergeBytes (s.regWord (.ceth u)) bs
    if ((bs[0]?).getD none).isSome then s.regWrite (.ceth u) w else s.setRas u (fun x => { x with ceth := natBits w 16 16 })
  | some r => s.regWrite r (mergeBytes (s.regWord r) bs)
  | none =>
    if 0x100000 ≤ o ∧ o < 0x110000 then s.quotaWrite p o bs
    else if 0x530000 ≤ o ∧ o < 0x531000 ∧ o % 16 = 8 ∧ (mergeBytes 0 bs).testBit 0 then
      s.setAudit (cluOfIndex p ((o - 0x530000) / 16)) Audit.cleared
    else s

/-- Both copies of a group table entry agree (01 R12). -/
def State.copiesAgree (s : State) (p e : Nat) : Bool :=
  (s.pkg p).groupTable.get (0, e) 0 == (s.pkg p).groupTable.get (1, e) 0

/-! ## Parts that reach a window or device control -/

/-- The words of a part: the offset of each, a multiple of 8, and its bytes. -/
def partWords (o : Nat) (bs : List (Option Byte)) (len : Nat) : List (Nat × List (Option Byte)) :=
  let whole := List.replicate (o % 8) none ++ (if bs.isEmpty then List.replicate len none else bs)
  (List.range ((o % 8 + len + 7) / 8)).map (fun i => (o / 8 * 8 + 8 * i, (whole.drop (8 * i)).take 8))

/-- A part may reach a window or device control. -/
def State.controlReady (s : State) (id : Nat) (a : Access) (p : Part) : Bool :=
  !p.done && a.stage == .placed && !s.accs.any (s.holdsUp id a p) && s.releaseReady id a p
    && (match a.place p with
      | some .window => s.alive a.ctx.core.pkg (natBits p.ea 51 9)
      | some .device => true
      | _ => false)

/-- The core that a window address names. -/
def windowCore (ea : Nat) : CoreId := ⟨natBits ea 51 9, natBits ea 49 2, natBits ea 39 10⟩

/-- Part `j` reads a window or device control. -/
def State.controlRead (s : State) (id j : Nat) (a : Access) (p : Part) : State :=
  let o := natBits p.ea 0 (if natBits p.ea 60 4 = 13 then 16 else 60)
  let word (x : Nat) : Nat := if natBits p.ea 60 4 = 13 then s.windowRead (windowCore p.ea) (natBits p.ea 35 4) x
    else s.deviceRead a.ctx.core.pkg x
  let bs := (partWords o [] p.len).flatMap (fun w => leBytes 8 (word w.1))
  s.setAcc id (fun a => a.donePart j ((bs.drop (o % 8)).take p.len))

/-- Part `j` writes a window: it takes effect, or is discarded with PROTECTION (20 R418). -/
def State.windowPart (s : State) (id j : Nat) (p : Part) : State :=
  let k := windowCore p.ea
  let b := natBits p.ea 35 4
  if s.windowOpen k b then
    ((partWords (natBits p.ea 0 16) p.bytes p.len).foldl (fun s w =>
      s.windowWrite k b w.1 (mergeBytes (s.windowRead k b w.1) w.2)) s).setAcc id (fun a => a.donePart j [])
  else s.setAcc id (fun a => a.failPart j cProtection)

/-- Part `j` writes device control. A write to the group table is done once both copies hold it: `conf` marks it as written to the
first (01 R12). -/
def State.devicePart (s : State) (id j : Nat) (a : Access) (p : Part) : State :=
  let o := natBits p.ea 0 60
  let pkg := a.ctx.core.pkg
  let table := decide (0x200000 ≤ o) && decide (o < 0x280000)
  let put (s : State) : State := (partWords o p.bytes p.len).foldl (fun s w => s.deviceWrite pkg w.1 w.2) s
  if !table then (put s).setAcc id (fun a => a.donePart j [])
  else if !p.conf then (put s).setAcc id (fun a => { a with parts := a.parts.set j { p with conf := true } })
  else if s.copiesAgree pkg ((o - 0x200000) / 128) then s.setAcc id (fun a => a.donePart j [])
  else s

/-- The parts of an access that may read a window, or read or write device control, do. -/
def State.controlAll (s : State) (id : Nat) : State :=
  match s.acc id with
  | none => s
  | some a => ((List.range a.parts.length).foldl (fun s j => match s.acc id with
      | some b => match b.parts[j]? with
        | some p =>
          if !s.controlReady id b p then s
          else if b.op.isLoad then s.controlRead id j b p
          else if natBits p.ea 60 4 = 14 then s.devicePart id j b p else s
        | none => s
      | none => s) s).settle id

/-- REMOTE_ACCESS: an access arrives at a scratchpad and is accepted or refused by the windows (09 R179, 12 R261); a load arrives at
a debug window, a load or a store at device control. -/
def execRemoteAccess (id : Nat) (s : State) : Out :=
  match s.acc id with
  | none => happen false (fun s => s) s
  | some a => happen ((List.range a.parts.length).any (fun j => (s.bankReady id j a).isSome)
      || a.parts.any (fun p => s.controlReady id a p && (a.op.isLoad || natBits p.ea 60 4 == 14)))
    (fun s => (s.bankAll id).controlAll id) s

/-- DEBUG_WINDOW_WRITE (20 R418). -/
def execDebugWindowWrite (id : Nat) (s : State) : Out :=
  match s.acc id with
  | none => happen false (fun s => s) s
  | some a => happen (!a.op.isLoad && a.parts.any (fun p => s.controlReady id a p && natBits p.ea 60 4 == 13)) (fun s =>
      ((List.range a.parts.length).foldl (fun s j => match s.acc id with
        | some b => match b.parts[j]? with
          | some p => if s.controlReady id b p && natBits p.ea 60 4 == 13 then s.windowPart id j p else s
          | none => s
        | none => s) s).settle id) s

/-- GROUP_TABLE_WRITE: the copy of an I/O die takes what was written (01 R12). -/
def execGroupTableWrite (pkg iodie entry : Nat) (s : State) : Out :=
  happen (decide (iodie < 2) && !s.copiesAgree pkg entry) (fun s => s.setPkg pkg (fun k => { k with
    groupTable := k.groupTable.set (1, entry) (k.groupTable.get (0, entry) 0) })) s

/-- REGISTER_WRITE (00 R5). -/
def execRegisterWrite (r : DevReg) (value : W64) (s : State) : Out := happen true (fun s => s.regWrite r value.toNat) s

/-! ## Consumption of poison (21 R455) -/

/-- The head command of the matrix queue is about to read poison. -/
def TaskCore.matrixRotten (t : TaskCore) : Bool :=
  match t.mat.queue with
  | e :: _ => match e.cmd with
    | .load isB x => (x.rows.filterMap (fun o => o)).any (fun o => t.engineRotten x.swz o (if isB then bRow x.tag else aRow x.tag x.depth))
    | .gather x _ => match x.rows.getD e.done none with
      | some o => t.engineRotten x.swz o (aRow x.tag x.depth)
      | none => false
    | .mul _ _ _ (some o) _ => !t.mat.integer && t.rotten (o + 96 * e.done) 96
    | _ => false
  | [] => false

/-- The head command of the envelope queue is about to read poison. -/
def TaskCore.envelopeRotten (t : TaskCore) : Bool :=
  match t.env.queue with
  | q :: _ => match q.cmd with
    | .ld _ o => t.rotten o (16 + 16 * min (field (t.spad.read o 16) 8 4) 256)
    | _ => false
  | [] => false

/-- A part of an access is about to read poison at its home. -/
def State.rottenPart (s : State) (id : Nat) (a : Access) : Option Nat :=
  (List.range a.parts.length).find? (fun j => s.partReady id j a && (match (a.parts[j]?).bind (fun p => p.pa.map (fun x => (x, p.len))) with
    | some (pa, n) => s.rottenLine pa n
    | none => false))

/-- A part of an access is about to read poison in a scratchpad. -/
def State.rottenBank (s : State) (id : Nat) (a : Access) : Bool :=
  a.op.isLoad && (List.range a.parts.length).any (fun j => match s.bankReady id j a, a.parts[j]? with
    | some (k, o), some p => (s.bankTc a k).rotten o p.len
    | _, _ => false)

/-- A task comes back from a frame whose image cannot be read: its contexts freeze with UNCORRECTABLE, and each sends its fault
packet (20 R412, 21 R455); of those inside a replay scope its hub is told (21 R457). -/
def State.frameSpoiled (s : State) (k : CoreId) : State :=
  ((s.tc k).ctxs.filter (fun e => e.2.life == .running)).foldl (fun s e =>
      let r := s.tell e.2.scope
      if r.1 then r.2.takeFault ⟨k, e.1⟩ ⟨cUncorrectable, 0, 0⟩ else r.2)
    (s.report k 3 ((s.tc k).ctx 0).domain.toNat 0)

/-- POISON_CONSUMED: the reader's next read meets poison, and has the outcome of 21 R455 or R457. -/
def execPoisonConsumed (who : Consumer) (s : State) : Out :=
  match who with
  | .access id => match s.acc id with
    | some a => match s.rottenPart id a with
      | some j => if a.op.isAtomic then execAtomicAtHome id s else if a.op = .fget then execFgetAtHome id s else execHomeAccess id j s
      | none => if s.rottenBank id a then execRemoteAccess id s else happen false (fun s => s) s
    | none => happen false (fun s => s) s
  | .matrix k =>
    if (s.tc k).matrixRotten then
      (match (s.tc k).mat.queue.head?.map (·.cmd) with
        | some (MCmd.mul _ _ _ _ _) => execMacroOpBlock k s
        | _ => execMatrixCommandRun k s)
    else happen false (fun s => s) s
  | .envelope k => if (s.tc k).envelopeRotten then execEnvelopeCommandRun k s else happen false (fun s => s) s
  | .copy id => match s.copy id with
    | some c => match c.flying.find? (fun e => (s.spansWay c id false (c.srcSpans e.1 e.2)).1 == .error cUncorrectable) with
      | some e => execCopyChunkEnd id (e.1 / 4096) s
      | none => happen false (fun s => s) s
    | none => happen false (fun s => s) s
  | .stream id => match s.stream id with
    | some x =>
      if x.slot.isSome && !x.wrote && (s.tileWay id x).1 == .error cUncorrectable then
        (if (s.replayOf x.scope).isSome then tileStep id x.drain s else execStreamError id cUncorrectable s)
      else happen false (fun s => s) s
    | none => happen false (fun s => s) s
  | .frame k => happen (match (s.core k).task.bind s.tasks.find with
      | some t => t.life == .running && decide (1 < t.starts) && t.started == s.now
      | none => false) (fun s => s.frameSpoiled k) s
  | .undo h k block => execUndoSpoiled h k block s
  | .record h => execRecordSpoiled h s

end Sys2Proof.Machine
end

