-- ==== Sys2Proof/Machine/Device.lean ====
section
/-! DEFINITION. Boot, roles, the host's accesses, power and attestation (22 R467-R475), and the loss and return of a package (18
R385, 22 R470). -/

namespace Sys2Proof.Machine

open Sys2Proof Sys2Proof.Lanes

/-! ## BOOTST (22 R469, R470) -/

/-- ST as BOOTST shows it. -/
def BootSt.code : BootSt → Nat
  | .idle => 0
  | .fetch => 1
  | .verify => 2
  | .discover => 3
  | .load => 4
  | .ready => 5
  | .failed => 6

/-- BOOTST. -/
def State.bootWord (s : State) (p : Nat) : Nat :=
  let ok := packed ((List.range 4).map (fun d => ((s.die p d).ok.toNat, d)))
  packed [((s.pkg p).st.code, 0), ((s.pkg p).code, 4), (ok, 8)]

/-- A failure of boot records its code (22 R470). -/
def State.failBoot (s : State) (p code : Nat) : State := s.setPkg p (fun k => { k with st := .failed, code := code })

/-- A BAR0 write is not ignored. -/
def State.barOpen (s : State) (p : Nat) : Bool := (s.pkg p).powered && (s.pkg p).st != .failed

/-! ## Power-up, PKGID and FWGO -/

/-- POWER_UP: a slot without power comes on: the one of the lowest number in which no package runs. Each die's fuses record its boot
core, the first good site (22 R470). -/
def execPowerUp (bootCores : List Nat) (s : State) : Out :=
  match (List.range 512).find? (fun p => !(s.pkg p).powered) with
  | none => happen false (fun s => s) s
  | some p => happen (bootCores.all (fun n => decide (n < 1024))) (fun s => s.setPkg p (fun _ => { Pkg.fresh with
      powered := true, timeBase := s.now
      dies := (List.range 4).map (fun d => (d, { DieState.fresh with
        bootCore := bootCores.getD d 0, fused := List.range (bootCores.getD d 0) })) })) s

/-- PKGID_WRITE: it takes effect only while ST is IDLE (22 R469). -/
def execPkgidWrite (pkg : Nat) (value : W64) (s : State) : Out :=
  happen (s.barOpen pkg) (fun s =>
    if (s.pkg pkg).st = .idle then s.setPkg pkg (fun k => { k with pkgid := value.toNat % 512 }) else s) s

/-- An address of package `p` as it is named once the package has the id `q`. -/
def rehome (p q pa : Nat) : Nat := if paPkg pa = p then pa - p <<< 47 + q <<< 47 else pa

/-- The package at `p` is named `q` from now on, and with it its memory, and its host's (22 R470). -/
def State.rename (s : State) (p q : Nat) : State :=
  let moved := s.mem.filter (fun c => paPkg c.1 == p)
  { s with
    pkgs := (s.pkgs.del p).set q (s.pkg p)
    mem := moved.foldl (fun m c => m.write (rehome p q c.1) [c.2]) (s.mem.filter (fun c => paPkg c.1 != p))
    keys := s.keys.map (fun e => (rehome p q (8 * e.1) / 8, e.2))
    poison := s.poison.map (fun l => rehome p q (64 * l) / 64)
    hostHeld := s.hostHeld.map (fun l => rehome p q (64 * l) / 64) }

/-- FWGO: writing 1 in IDLE starts the fetch, and the package takes the id that PKGID holds (22 R469, R470). Where a package in power has that
id, each of the two keeps the name of its own slot in the model (log 32, DEDUCED). -/
def execFwgo (pkg : Nat) (value : W64) (s : State) : Out :=
  let id := (s.pkg pkg).pkgid
  happen (s.barOpen pkg) (fun s =>
    if value = 1 ∧ (s.pkg pkg).st = .idle then
      let s1 := s.setPkg pkg (fun k => { k with st := .fetch })
      if id = pkg ∨ (s.pkg id).powered then s1 else s1.rename pkg id
    else s) s

/-! ## FETCH and VERIFY -/

/-- The header of an image (22 R470); the places of its fields are log 15's, DESIGN CHOICE. -/
structure FwHeader where
  bodySize : Nat
  core : Nat
  body : Nat
  signature : Nat
  deriving DecidableEq, Repr

/-- The length of an ML-DSA-65 signature (log 15, PRESUMED). -/
def sigBytes : Nat := 3309

/-- The header of an image that agrees with its size, which is 4,096 B to 64 MiB (22 R469, R470); none is CODE 2. -/
def fwHeader (bs : List Byte) : Option FwHeader :=
  let h : FwHeader := ⟨field bs 8 8, field bs 16 8, field bs 24 8, field bs 32 8⟩
  if 4096 ≤ bs.length ∧ bs.length ≤ 2 ^ 26 ∧ field bs 0 4 = 0x4B574731 ∧ 64 ≤ h.body ∧ h.body + h.bodySize ≤ bs.length ∧ 64 ≤ h.signature ∧ h.signature + sigBytes ≤ bs.length
      ∧ 0 < h.core ∧ h.core ≤ h.bodySize ∧ h.core ≤ 524288 then some h else none

/-- The body, and its core part. -/
def FwHeader.bodyOf (h : FwHeader) (bs : List Byte) : List Byte := (bs.drop h.body).take h.bodySize
@[inherit_doc FwHeader.bodyOf] def FwHeader.coreOf (h : FwHeader) (bs : List Byte) : List Byte := (h.bodyOf bs).take h.core

/-- The digest over header and body. -/
def FwHeader.digest (h : FwHeader) (bs : List Byte) : List Byte := shake256 (bs.take 64 ++ h.bodyOf bs) 64

/-- The image in host memory. -/
def State.hostImage (s : State) (p : Nat) : List Byte :=
  s.mem.read (p <<< 47 + 7 <<< 44 + (s.pkg p).fwaddr) (s.pkg p).fwsize

/-- The mesh neighbour of a site in a direction, without wrap (22 R471). -/
def meshNext (n : Nat) : Dir → Option Nat
  | .n => if siteY n < 31 then some (n + 32) else none
  | .e => if siteX n < 31 then some (n + 1) else none
  | .s => if 0 < siteY n then some (n - 32) else none
  | .w => if 0 < siteX n then some (n - 1) else none

/-- A router at a site sends a packet on its ports, save one. -/
def floodFrom (n hops : Nat) (but : Option Dir) : List FloodPacket :=
  [Dir.n, .e, .s, .w].filterMap (fun d => if but = some d then none
    else (meshNext n d).map (fun m => ⟨m, d.opposite, siteX n, siteY n, hops⟩))

/-- The flood of a die begins at its boot core. -/
def DieState.beginFlood (d : DieState) (now : Nat) : DieState :=
  { d with marks := [(d.bootCore, ⟨siteX d.bootCore, siteY d.bootCore, none, 0⟩)], flood := floodFrom d.bootCore 0 none, floodSince := now }

/-- Every die has verified the image: its digest stands for attestation (22 R475), and discovery begins. -/
def State.beginDiscovery (s : State) (p : Nat) (digest : List Byte) : State :=
  if (List.range 4).all (fun d => (s.die p d).verified == some true) then
    (List.range 4).foldl (fun s d => s.setDie p d (fun x => x.beginFlood s.now)) (s.setPkg p (fun k => { k with st := .discover, digest := digest }))
  else s

/-- FIRMWARE_FETCH_DONE: a die's boot core has the image, or met a bus error, and verifies it (22 R470). ST shows VERIFY once every die
has fetched; the last one's verdict comes with its fetch. -/
def execFirmwareFetchDone (pkg die : Nat) (busError : Bool) (s : State) : Out :=
  happen (((s.pkg pkg).st == .fetch || (s.pkg pkg).st == .verify) && decide (die < 4) && (s.die pkg die).verified.isNone) (fun s =>
    if busError then s.failBoot pkg 1
    else
      let bs := s.hostImage pkg
      match fwHeader bs with
      | none => s.failBoot pkg 2
      | some h =>
        if Config.signatureOk (h.digest bs ++ (bs.drop h.signature).take sigBytes) then
          let s1 := s.setDie pkg die (fun x => { x with image := some bs, verified := some true })
          (s1.setPkg pkg (fun k => { k with st := .verify })).beginDiscovery pkg (h.digest bs)
        else s.failBoot pkg 3) s

/-! ## DISCOVER (22 R471) -/

/-- Coordinates that a packet gives a router, by the port on which it arrives. -/
def FloodPacket.coords (f : FloodPacket) : Nat × Nat :=
  match f.port with
  | .w => (f.x + 1, f.y)
  | .e => (f.x - 1, f.y)
  | .s => (f.x, f.y + 1)
  | .n => (f.x, f.y - 1)

/-- DISCOVERY_PACKET: the first packet at a router gives it coordinates and a parent, and goes on; a later one is ignored. -/
def execDiscoveryPacket (pkg die site : Nat) (port : Dir) (s : State) : Out :=
  match (s.die pkg die).flood.find? (fun f => f.site == site && f.port == port) with
  | none => happen false (fun s => s) s
  | some f => happen ((s.pkg pkg).st == .discover) (fun s => s.setDie pkg die (fun x =>
      let rest := x.flood.filter (fun g => !(g.site == site && g.port == port))
      if x.marks.has site then { x with flood := rest }
      else { x with
        marks := x.marks.set site ⟨f.coords.1, f.coords.2, some port, f.hops + 1⟩
        flood := rest ++ floodFrom site (f.hops + 1) (some port) })) s

/-- The sites whose parent is this one. -/
def DieState.children (x : DieState) (site : Nat) : List Nat :=
  (x.marks.filter (fun e => (e.2.parent.bind (meshNext e.1)) == some site)).map (·.1)

/-- A site's report is due: the packets it sent have arrived, and its children have reported. -/
def DieState.reportDue (x : DieState) (site : Nat) : Bool :=
  x.marks.has site && site != x.bootCore && !x.reports.has site
    && x.flood.all (fun f => meshNext f.site f.port != some site) && (x.children site).all x.reports.has

/-- DISCOVERY_REPORT: GOOD when the core is unfused and passes its self-test. -/
def execDiscoveryReport (pkg die site : Nat) (selfTest : Bool) (s : State) : Out :=
  happen ((s.pkg pkg).st == .discover && (s.die pkg die).reportDue site) (fun s => s.setDie pkg die (fun x => { x with
    reports := x.reports.set site (selfTest && !x.fused.contains site) })) s

/-- The flood of a die has ended: every site has been reached, and has reported. -/
def DieState.floodOver (x : DieState) : Bool :=
  x.flood.isEmpty && decide (x.marks.length = 1024) && x.marks.all (fun e => e.1 == x.bootCore || x.reports.has e.1)

/-- DISCOVERY_TIMEOUT. -/
def execDiscoveryTimeout (pkg die : Nat) (s : State) : Out :=
  happen ((s.pkg pkg).st == .discover && decide (die < 4) && !(s.die pkg die).floodOver
      && decide ((s.die pkg die).floodSince + 2 ^ 16 < s.now)) (fun s => s.failBoot pkg 4) s

/-! ## Roles and LOAD (22 R472) -/

/-- The GOOD sites in raster order. -/
def DieState.goodSites (x : DieState) : List Nat :=
  (List.range 1024).filter (fun n => n == x.bootCore || x.reports.get n false)

/-- The roles of a die's good sites. -/
def DieState.assign (x : DieState) : DieState :=
  let good := x.goodSites
  let sups := (List.range 4).filterMap (fun q => (good.find? (fun n => siteQuad n == q)).map (fun n => (q, n)))
  let rest := good.filter (fun n => !(sups.map (·.2)).contains n)
  { x with
    sups := sups
    workers := ((rest.take 992).zipIdx).map (fun e => (e.2, e.1))
    spares := rest.drop 992
    fused := (List.range 1024).filter (fun n => !good.contains n) }

/-- ROLE_ASSIGNMENT: fewer than 996 GOOD sites fail the boot. ST is LOAD once every die has its roles. -/
def execRoleAssignment (pkg die : Nat) (s : State) : Out :=
  let x := s.die pkg die
  happen ((s.pkg pkg).st == .discover && decide (die < 4) && x.floodOver && x.workers.isEmpty) (fun s =>
    if x.goodSites.length < 996 then s.failBoot pkg 5
    else
      let s1 := s.setDie pkg die DieState.assign
      if (List.range 4).all (fun d => !(s1.die pkg d).workers.isEmpty) then s1.setPkg pkg (fun k => { k with st := .load }) else s1) s

/-- The core part of the die's image. -/
def DieState.corePart (x : DieState) : List Byte :=
  match x.image with
  | some bs => ((fwHeader bs).map (fun h => h.coreOf bs)).getD []
  | none => []

/-- IMAGE_MULTICAST_ACK: a site acknowledges once its whole subtree holds the core part; a GOOD site, a spare one too, has written it at
offset 0 of its scratchpad. -/
def execImageMulticastAck (pkg die site : Nat) (s : State) : Out :=
  let x := s.die pkg die
  happen ((s.pkg pkg).st == .load && x.marks.has site && !x.acks.contains site && (x.children site).all x.acks.contains) (fun s =>
    (s.setDie pkg die (fun x => { x with acks := site :: x.acks })).setSite pkg die site (fun t => { t with
      spad := t.spad.write 0 x.corePart, codes := t.codes.encodeSpan 0 x.corePart.length })) s

/-- A byte of the firmware region of a die: the lowest 64 MiB of the HBM of stack 4 die (22 R470). The stacks take turns in granules of
4 KiB (12 R263). -/
def firmwareByte (die i : Nat) : Nat := i / 4096 * 65536 + ((4 * die) ^^^ (i / 4096 % 16)) * 4096 + i % 4096

/-- The boot core writes the whole body into the region. -/
def State.writeBody (s : State) (p d : Nat) : State :=
  match (s.die p d).image with
  | none => s
  | some bs => match fwHeader bs with
    | none => s
    | some h =>
      (List.range ((h.bodySize + 4095) / 4096)).foldl (fun s i =>
        s.perform ⟨0, 0, 0, supOf ⟨p, d, 0⟩, 0⟩ (p <<< 47 + firmwareByte d (4096 * i)) ((((h.bodyOf bs).drop (4096 * i)).take 4096).map some)) s

/-- The supervisors of a die take over: each lead runs in domain 0 from PC 0 (log 15, PRESUMED). -/
def State.startSupervisors (s : State) (p d : Nat) : State :=
  (List.range 4).foldl (fun s q => s.startSupervisor (supOf ⟨p, d, q⟩)) s

/-- DIE_BOOT_DONE: the die's DIEOK bit is set; with the fourth the package is READY. -/
def execDieBootDone (pkg die : Nat) (s : State) : Out :=
  let x := s.die pkg die
  happen ((s.pkg pkg).st == .load && decide (die < 4) && !x.ok && x.acks.contains x.bootCore) (fun s =>
    let s1 := ((s.writeBody pkg die).startSupervisors pkg die).setDie pkg die (fun x => { x with ok := true })
    if (List.range 4).all (fun d => (s1.die pkg d).ok) then s1.setPkg pkg (fun k => { k with st := .ready }) else s1) s

/-! ## Power (22 R469, R474) -/

/-- PWRLIM_WRITE: clamped. -/
def execPwrlimWrite (pkg : Nat) (value : W64) (s : State) : Out :=
  happen (s.barOpen pkg) (fun s => s.setPkg pkg (fun k => { k with pwrlim := max 600000 (min 2400000 (value.toNat % 2 ^ 32)) })) s

/-- The frequency and voltage at a site: those of its island (01 R10). -/
def Pkg.clockAt (k : Pkg) (die site : Nat) : Option (Nat × Nat) := k.islands.find (siteIsland die site)

/-- POWER_THROTTLE: firmware sets an island's frequency and voltage; the power that follows is a free value (log 6, DESIGN CHOICE). -/
def execPowerThrottle (pkg island mhz mv : Nat) (s : State) : Out :=
  happen ((s.pkg pkg).powered && decide (island < 32) && decide (mhz < 65536) && decide (300 ≤ mv) && decide (mv ≤ 550)) (fun s =>
    let r := s.draw
    r.2.setPkg pkg (fun k => { k with islands := k.islands.set island (mhz, mv), pwrnow := r.1 % 2 ^ 32 })) s

/-! ## Attestation (22 R475) -/

/-- ATTGO: writing 1 while ATTST is not busy starts a report. -/
def execAttgo (pkg : Nat) (value : W64) (s : State) : Out :=
  happen (s.barOpen pkg) (fun s =>
    if value = 1 ∧ (s.pkg pkg).attst ≠ 1 then s.setPkg pkg (fun k => { k with attst := 1, attHeld := some (k.attn, s.bootWord pkg) })
    else s) s

/-- The key-slot table as the digest takes it (log 15, PRESUMED). -/
def Pkg.keyTable (k : Pkg) : List Byte := (List.range 256).flatMap (fun t => leBytes 64 (k.memKeys.get t 0).toNat)

/-- Bytes 0-135 of the report. -/
def Pkg.reportBody (k : Pkg) (attn : Vector W64 4) (boot : Nat) : List Byte :=
  leBytes 4 (136 + sigBytes) ++ leBytes 2 k.pkgid ++ leBytes 2 boot
    ++ (if k.digest.isEmpty then List.replicate 64 0 else k.digest) ++ attn.toList.flatMap (fun w => leBytes 8 w.toNat)
    ++ shake256 k.keyTable 32

/-- ATTEST_DONE. -/
def execAttestDone (pkg : Nat) (s : State) : Out :=
  match (s.pkg pkg).attHeld with
  | none => happen false (fun s => s) s
  | some h => happen ((s.pkg pkg).attst == 1) (fun s => s.setPkg pkg (fun k =>
      let body := k.reportBody h.1 h.2
      { k with attst := 2, attHeld := none
               attrep := body ++ (List.range sigBytes).map (Config.attestation (leNat body)) })) s

/-! ## The host's accesses (22 R468, 12 R264) -/

/-- HOST_CXL_MEM_ACCESS: a read leaves its lines with the host, the device's copies shared; a write is performed under tenant 0's key. The firmware region reads as
zero to the host, and its writes there are discarded. The HDM range is the 768 GB of HBM (22 R467). -/
def execHostCxlMemAccess (pkg off : Nat) (acc : HostAccess) (s : State) : Out :=
  let pa := pkg <<< 47 + off
  let n := match acc with
    | .read n => n
    | .write bs => bs.length
  happen ((s.pkg pkg).powered && decide (off + n ≤ kindBytes 0) && (linesOf pa n).all (fun l => s.lineOpen l)) (fun s =>
    match acc with
    | .read _ =>
      let ls := (linesOf pa n).filter (fun l => !inFirmware (64 * l))
      { ls.foldl (fun s l => s.otherTags none none (shareTag l)) s with
        hostHeld := s.hostHeld ++ ls.filter (fun l => !s.hostHeld.contains l) }
    | .write bs => s.perform ⟨0, 0, 5, ⟨pkg, 0, 0⟩, 0⟩ pa (bs.zipIdx.map (fun b => if inFirmware (pa + b.2) then none else some b.1))) s

/-- What the host's read gives. -/
def State.hostRead (s : State) (pkg off n : Nat) : List Byte :=
  (List.range n).map (fun i => if inFirmware (pkg <<< 47 + off + i) then 0 else s.readByte 0 (pkg <<< 47 + off + i))

/-- CXL_CACHE_HOST_SNOOP: the host's request for a line of host memory recalls or invalidates the device's copies (12 R264). -/
def execCxlCacheHostSnoop (pkg line : Nat) (inval : Bool) (s : State) : Out :=
  happen ((s.pkg pkg).powered && paKind (64 * line) == 7) (fun s =>
    if inval then { s.otherTags none none (dropTag line) with
      monitors := s.monitors.map (fun m => if m.2.line = line then (m.1, { m.2 with hit := true }) else m) }
    else s.otherTags none none (shareTag line)) s

/-! ## A package goes and comes back (18 R385, 22 R470) -/

/-- PEER_RESTORE: fabric management restores a failed peer (18 R385). -/
def execPeerRestore (at_ pkg : Nat) (s : State) : Out :=
  happen ((s.pkg at_).powered && (s.pkg at_).failed.contains pkg) (fun s =>
    s.setPkg at_ (fun k => { k with failed := k.failed.filter (· != pkg) })) s

/-- The package of a group message's sender or receiver. -/
def GroupMsg.meets (m : GroupMsg) (p : Nat) : Bool :=
  match m with
  | .vote h q _ _ | .publish h q | .abort h q | .confirm h q => (groupKey h).1 == p || q == p
  | .prepare h q _ => (groupKey h).1 == p || q == p
  | .query h a b => (groupKey h).1 == p || a == p || b == p

/-- A byte or a line of the HBM of a package. -/
def inHbm (p pa : Nat) : Bool := paPkg pa == p && paKind pa == 0

/-- Everything that a package holds is gone (22 R470). -/
def State.darken (s : State) (p : Nat) : State :=
  let lost := s.cores.filter (fun e => e.1.pkg == p)
  let names := lost.flatMap (fun e => e.2.tc.ctxs.filterMap (fun c => c.2.monitor))
  { s with
    pkgs := s.pkgs.set p Pkg.fresh
    cores := s.cores.filter (fun e => e.1.pkg != p)
    mem := s.mem.filter (fun c => !inHbm p c.1)
    keys := s.keys.filter (fun e => !inHbm p (8 * e.1))
    full := s.full.filter (fun x => !inHbm p (8 * x))
    owned := s.owned.filter (fun e => !inHbm p (64 * e.1))
    rels := s.rels.filter (fun e => !inHbm p (64 * e.1))
    poison := s.poison.filter (fun l => !inHbm p (64 * l))
    hostHeld := s.hostHeld.filter (fun l => !inHbm p (64 * l))
    monitors := s.monitors.filter (fun m => !names.contains m.1)
    tokens := s.tokens.filter (fun t => bitsOf t 63 55 != p)
    slices := s.slices.filter (fun e => e.1.pkg != p)
    accs := s.accs.filter (fun e => e.2.ctx.core.pkg != p)
    copies := s.copies.filter (fun e => e.2.core.pkg != p)
    streams := s.streams.filter (fun e => e.2.core.pkg != p)
    msgs := s.msgs.filter (fun e => e.2.src.core.pkg != p)
    mcsts := s.mcsts.filter (fun e => e.2.ctx.core.pkg != p)
    gsts := s.gsts.filter (fun e => e.2.ctx.core.pkg != p)
    nodeOps := s.nodeOps.filter (fun e => e.2.clu.pkg != p)
    fires := s.fires.filter (fun e => paPkg e.2.pa != p)
    claims := s.claims.filter (fun e => e.2.ctx.core.pkg != p)
    hubs := s.hubs.filter (fun e => e.1.1.pkg != p)
    returns := s.returns.filter (fun r => (hubKey r.h).1.pkg != p)
    tasks := s.tasks.filter (fun e => e.2.pkg != p)
    units := s.units.filter (fun e => e.1.pkg != p)
    audits := s.audits.filter (fun e => e.1.pkg != p)
    ras := s.ras.filter (fun e => (unitPlace e.1).1 != p)
    quads := s.quads.filter (fun e => e.1.pkg != p)
    groups := s.groups.filter (fun e => e.1.1 != p)
    gwaits := s.gwaits.map (fun e => (e.1, e.2.filter (fun w => w.ctx.core.pkg != p)))
    parts := s.parts.filter (fun e => e.1.1 != p)
    gmsgs := s.gmsgs.filter (fun m => !m.1.meets p) }

/-- SLOT_POWER_LOSS. -/
def execSlotPowerLoss (pkg : Nat) (s : State) : Out := happen (s.pkg pkg).powered (fun s => s.darken pkg) s

end Sys2Proof.Machine
end

