-- ==== Sys2Proof/Machine/Issue.lean ====
section
/-! DEFINITION. How a packet issues: fetch, the checks of 02 R24-R28 over the whole packet, its effects and the move of the
chain (05 R71-R85, R93-R96, R101, R102), and the issue arbiter of a core (05 R72, R73). The meaning of an instruction is
handed in (`ex`). -/

namespace Sys2Proof.Machine

open Sys2Proof Sys2Proof.Lanes

/-- What an attempt to issue came to. -/
inductive Tried where
  | issued | waits | froze
  deriving DecidableEq, Repr

/-- Go on from a next state. -/
def andNext (o : Out) (f : State → Out) : Out :=
  match o with
  | .next s => f s
  | o => o

/-- The verdict in the answer of a check. -/
def verdictOf : Out → Verdict
  | .next s => s.pk.verdict
  | _ => .idle

/-! ## Fetch (02 R23-R25, 05 R82, R96) -/

/-- What fetching the packet at PCQ0 gives. -/
inductive Fetched where
  | line (bits : Nat)
  /-- the line, while a link that commits at its packet is not resolved (05 R82) -/
  | late (bits : Nat)
  | waits
  | bad (info : FaultInfo)
  deriving DecidableEq, Repr

/-- PCQ0 is resolved before it is fetched (05 R82). -/
def State.resolveHead (s : State) (c : CtxId) : Fetched × State :=
  let q := (s.ctx c).pcq0
  if !q.sq then (.line 0, s)
  else match s.readPc c q.pc with
    | (.wait, s1) => (.waits, s1)
    | (.fault a t, s1) => (.bad ⟨a, t, q.pc⟩, s1)
    | (.ok _, s1) => (.line 0, s1.resolveTo c)

/-- A link that commits at this packet and whose entry was not resolved (05 R82); one whose destination is ZERO is resolved all the same
(log 33, DESIGN CHOICE). -/
def State.resolveDue (s : State) (c : CtxId) : Fetched × State :=
  let k := s.ctx c
  if k.linkLate then
    match s.resolveLink c with
    | (_, .wait, s1) => (.waits, s1)
    | (pc, .fault a t, s1) => (.bad ⟨a, t, pc⟩, s1)
    | (_, .ok x, s1) => (.line 0, s1.setCtx c (fun k => { k with
        inflight := k.inflight.map (fun r => if r.val = .linkOf then { r with val := .g (BitVec.ofNat 64 x) } else r) }))
  else (.line 0, s)

/-- Checks 1 to 3 of 02 R26. -/
def State.fetchHead (s : State) (c : CtxId) : Fetched × State :=
  let pc := (s.ctx c).pcq0.pc
  match s.readPc c pc with
  | (.wait, s1) => (.waits, s1)
  | (.fault a t, s1) => (.bad ⟨a, t, pc⟩, s1)
  | (.ok b, s1) =>
    if !lineWordOk b then (.bad ⟨cBadLine, 0, pc⟩, s1) else (.line b, s1)

/-- Fetch the packet at PCQ0. A link whose line cannot be read yet stalls the packet at step 3 of 02 R28; the fault of that line comes
before every check of the packet itself (log 33, DESIGN CHOICE: the spec gives no order between them). -/
def State.fetch (s : State) (c : CtxId) : Fetched × State :=
  match (s.repinLate c.core).resolveHead c with
  | (.line _, s1) => match s1.resolveDue c with
    | (.bad fi, s2) => (.bad fi, s2)
    | (.waits, s2) => match s2.fetchHead c with
      | (.line b, s3) => (.late b, s3)
      | r => r
    | (_, s2) => s2.fetchHead c
  | r => r

/-! ## Checks over the packet (02 R26, R28) -/

/-- Two non-empty positions of one class 000-100 (02 R26 check 5). -/
def classTwice (bits : Nat) (ps : List Nat) : Bool :=
  let cls := (ps.map (fun i => natBits (posWord bits i) 93 3)).filter (fun n => decide (n ≤ 4))
  (List.range 5).any (fun n => decide (1 < cls.count n))

/-- The K instructions allowed in a repeat body (05 R95). -/
def bodyAllows : Instr → Bool
  | .nop _ | .tick _ | .bkpt _ | .fence _ | .poll _ => true
  | i => (i.key.getD ⟨0, 0, 0⟩).cl != 4

/-- An instruction's place: `rep` stands in the last packet of its line and in no delay packet (05 R94), and a
repeat body holds no K instruction but those of 05 R95. -/
def placeOk (k : Ctx) (line last : Nat) (i : Instr) : Bool :=
  (match i with
    | .rep _ => last == 4 && k.delayLeft == 0
    | _ => true) && (!k.rep.inBody line || bodyAllows i)

/-- The instruction of a position, or none where its word is no instruction (02 R47). -/
def instrAt (bits i : Nat) : Option Instr :=
  match decode (BitVec.ofNat 96 (posWord bits i)) with
  | .ok x => some x
  | .error _ => none

/-- An instruction is examined on the state that the packet would find. -/
def examine (ex : Instr → State → Out) (s : State) (pos : Nat) (i : Instr) : Verdict × State :=
  let o := ex i { s with pk := { Pk.fresh with phase := .check, pos := pos } }
  (verdictOf o, match o with
    | .next t => { t with pk := Pk.fresh }
    | _ => s)

/-- The ILLEGAL of 05 R94 and R95 is the first check of the entry at step 5 of 02 R28: none of the checks of 02 R26, it needs
a true guard (02 R30) and comes after every stall (log 7, DESIGN CHOICE: the spec gives it no rank). -/
def misplaced (fi : FaultInfo) : Verdict → Verdict
  | .ok | .hold | .fault 5 _ | .fault 6 _ => .fault 5 fi
  | v => v

/-- What each position of the packet finds. -/
def examineAll (ex : Instr → State → Out) (s : State) (c : CtxId) (bits : Nat) (ps : List Nat) : List (Nat × Verdict) :=
  let k := s.ctx c
  let line := pcLine k.pcq0.pc
  let illegal (p : Nat) : FaultInfo := ⟨cIllegal, 0, pcAt line p⟩
  ps.map (fun p => (p, match instrAt bits p with
    | none => .fault 1 (illegal p)
    | some i =>
      let v := (examine ex s p i).1
      if placeOk k line (packetEnd bits (pcPos k.pcq0.pc)) i then v else misplaced (illegal p) v))

/-- An instruction breakpoint matches a position (05 R101, R102). -/
def Ctx.breaksAt (k : Ctx) (pc : W64) : Bool := k.spr.ibp.toList.any (fun w => bitAt w 5 && (w &&& ~~~ 0x38#64) == pc)

/-- The faults of a class, lowest position first. -/
def faultsOf (cls : Nat) (vs : List (Nat × Verdict)) : List FaultInfo :=
  vs.filterMap (fun e => match e.2 with
    | .fault c fi => if c = cls then some fi else none
    | _ => none)

/-- A freeze of step 2: the asynchronous record before deferred engine faults (02 R28). -/
def pendingFreeze (vs : List (Nat × Verdict)) : Option FaultInfo :=
  let fs := faultsOf 2 vs
  (fs.find? (fun fi => fi.typ != 0)).orElse (fun _ => fs.head?)

/-- The verdict on the whole packet: the order of 02 R26 and R28. -/
def packetVerdict (k : Ctx) (line : Nat) (vs : List (Nat × Verdict)) : Verdict :=
  let held (n : Nat) : Option Verdict := ((faultsOf n vs).head?).map (fun fi => .fault n fi)
  let stop : Option Verdict := if vs.any (fun e => e.2 == .stall) then some .stall else none
  let brk : Option Verdict :=
    if k.resumed then none
    else (vs.find? (fun e => k.breaksAt (pcAt line e.1))).map (fun e => .fault 3 ⟨cBreakpoint, 0, pcAt line e.1⟩)
  let rest : Verdict := if vs.any (fun e => e.2 == .hold) then .hold else .ok
  ([held 1, brk, (pendingFreeze vs).map (fun fi => .fault 2 fi), stop, held 4, held 5, held 6].findSome? id).getD rest

/-- A packet stalls whatever it holds: nothing after step 2 of 02 R28 is examined (05 R78, R82). -/
def Verdict.late (v : Verdict) (late : Bool) : Verdict :=
  if !late then v
  else match v with
    | .fault 1 _ | .fault 2 _ | .fault 3 _ => v
    | _ => .stall

/-! ## A packet that holds (05 R78, the row of a blocking instruction) -/

/-- What the waiting of a held instruction has done, the results due at the packet's start not being committed yet. -/
def keepWait (c : CtxId) (sF sW : State) : State :=
  let w := sW.ctx c
  let s1 := { sW with cores := List.map (fun (e : CoreId × Core) => (e.1, { e.2 with tc := { e.2.tc with links := (sF.tc e.1).links } })) sW.cores }
  s1.setCore c.core (fun k => { k with tc := (sF.tc c.core).setCtx c.ctx (fun k => { k with
    hold := w.hold, holdC := w.holdC, stack := w.stack, storeSeq := w.storeSeq, monitor := w.monitor, barCount := w.barCount
    barHere := w.barHere, spr := { k.spr with csc := w.spr.csc } }) })

/-- Every held instruction of the packet waits. -/
def holdAll (ex : Instr → State → Out) (bits : Nat) (vs : List (Nat × Verdict)) (s : State) : State :=
  vs.foldl (fun s e => if e.2 = .hold then
      (match instrAt bits e.1 with
        | some i => (examine ex s e.1 i).2
        | none => s)
    else s) s

/-! ## Effects (05 R71, R74-R76, R82, R85) -/

/-- `tick` and `exit` take effect after the other instructions (05 R99, 15 R371). -/
def actsLast : Instr → Bool
  | .tick _ | .exit _ => true
  | _ => false

/-- The effects of instructions in turn. -/
def actAll (ex : Instr → State → Out) : List (Nat × Instr) → State → Out
  | [], s => .next s
  | (p, i) :: is, s => andNext (ex i { s with pk := { s.pk with pos := p } }) (actAll ex is)

/-- The effects of a packet, issue order first. -/
def actPacket (ex : Instr → State → Out) (c : CtxId) (bits : Nat) (ps : List Nat) (s : State) : Out :=
  let is := ps.filterMap (fun p => (instrAt bits p).map (fun i => (p, i)))
  actAll ex (is.filter (fun e => !actsLast e.2) ++ is.filter (fun e => actsLast e.2))
    { s with pk := { Pk.fresh with phase := .effect, before := some (s.tc c.core) } }

/-- The engine commands of the packet follow its copy (10 R217). A `.then` whose packet holds no M instruction that acts, as a helper's never
does, leaves the copy without a follow-on: R69 and R328 give the device no fault for it (log 38, DESIGN CHOICE). -/
def State.markFollow (s : State) (c : CtxId) : State :=
  match s.pk.follow with
  | none => s
  | some id =>
    let cmds := s.pk.cmds
    s.setTc c.core (fun t => { t with
      mat := { t.mat with queue := t.mat.queue.map (fun e => if cmds.contains e.seq then { e with follows := some id } else e) }
      env := { t.env with queue := t.env.queue.map (fun e => if cmds.contains e.seq then { e with follows := some id } else e) } })

/-- A packet has ended: pipe time advances, and the delay packets of a branch are counted (05 R74, R94). A packet that
issues ends the exemption after a resume, an annulled one does not (05 R102). -/
def Ctx.afterPacket (k : Ctx) (branch annulled : Bool) (now : Nat) : Ctx :=
  { k with
    pipe := k.pipe + 1, issuedAt := now, resumed := k.resumed && annulled, stepOnce := false
    delayLeft := if branch then 2 else k.delayLeft - 1 }

/-- The repeat ends with the last packet of its final pass (05 R95). -/
def Ctx.endRepeat (k : Ctx) : Ctx :=
  if k.rep.run && k.rep.left == 0 && !k.pcq0.sq && !k.rep.inBody (pcLine k.pcq0.pc) then
    { k with rep := { k.rep with run := false, buf := [] } }
  else k

/-- The move of the chain after a packet (05 R82, R93). -/
def State.moveChain (s : State) (c : CtxId) : State :=
  match s.pk.rep with
  | some (n, lines) => s.repChain c n lines
  | none => s.stepChain c

/-- The boundary after a packet: the chain moves, and the context freezes where the packet says so (05 R85, 20 R442). -/
def State.finish (s : State) (c : CtxId) : State :=
  if s.pk.leave then { s with pk := Pk.fresh }
  else if s.pk.stay then { (s.markFollow c).setCtx c (fun k => { k with leaving := true }) with pk := Pk.fresh }
  else
    let pc := (s.ctx c).pcq0.pc
    let once := (s.ctx c).stepOnce
    let annulled := (s.ctx c).pcq0.anl
    let p := s.pk
    let s1 := ((s.markFollow c).moveChain c).setCtx c (fun k => (k.afterPacket p.branch annulled s.now).endRepeat)
    let s2 := match p.record with
      | some h => s1.setTc c.core (fun t => { t with recorded := t.recorded.set h (s1.nextId, s1.ctx c) })
      | none => s1
    let s3 := { s2 with pk := Pk.fresh }
    match p.after with
    | some fi => s3.takeFault c fi
    | none => if once then s3.takeFault c ⟨cBreakpoint, 0, pc⟩ else s3

/-! ## An attempt to issue (02 R26-R28, 05 R71, R83) -/

/-- The bound task of a core runs: a supervisor core has none (15 R353, 20 R413). -/
def State.coreRuns (s : State) (k : CoreId) : Bool :=
  !s.stopped k .issue && (match (s.core k).task with
    | some t => ((s.tasks.find t).map (fun t => t.life == .running)).getD false
    | none => true)

/-- The context has a packet at PCQ0 that could be tried. -/
def State.canTry (s : State) (c : CtxId) : Bool := (s.ctx c).life == .running && s.coreRuns c.core

/-- Commit, take the effects of the packet and move the chain. -/
def State.issuePacket (ex : Instr → State → Out) (c : CtxId) (bits : Nat) (ps : List Nat) (s : State) : Out :=
  andNext (actPacket ex c bits ps (s.commitDue (s.core c.core).task c)) (fun s => .next (s.finish c))

/-- The packet whose line has been read; `late` says that it stalls whatever it holds: for its link (05 R82), or as a write of its context
waits for a stream (18 R386). -/
def State.tryPacket (ex : Instr → State → Out) (c : CtxId) (bits : Nat) (late : Bool) (s : State) : Tried × Out :=
  let k := s.ctx c
  let pos := pcPos k.pcq0.pc
  let line := pcLine k.pcq0.pc
  let early (cause : Nat) : Tried × Out := (.froze, .next (s.takeFault c ⟨cause, 0, k.pcq0.pc⟩))
  if k.pcq0.anl then (if late then (.waits, .next s) else (.issued, s.issuePacket ex c bits []))
  else if k.pcq0.tgt && !tmBit bits pos then early cBadTarget
  else
    let ps := packetPositions bits pos
    if classTwice bits ps then early cBadPacket
    else
      let s1 := s.commitDue (s.core c.core).task c
      let vs := examineAll ex s1 c bits ps
      match (packetVerdict (s1.ctx c) line vs).late late with
      | .fault cls fi => (.froze, .next (s.freezeWith cls fi))
      | .stall => (.waits, .next s)
      | .hold => (.waits, .next (keepWait c s (holdAll ex bits vs s1)))
      | .ok | .idle => (.issued, s.issuePacket ex c bits ps)

/-- The `exit` of a packet, whose guard has been found true. -/
def exitOf (bits : Nat) (ps : List Nat) : Option (Nat × Instr) := ps.findSome? (fun p => match instrAt bits p with
  | some (.exit f) => some (p, .exit { f with guard := ⟨false, 0⟩ })
  | _ => none)

/-- A context whose `exit` holds after its packet tries it alone (15 R371). -/
def State.tryLeave (ex : Instr → State → Out) (c : CtxId) (bits : Nat) (s : State) : Tried × Out :=
  match exitOf bits (packetPositions bits (pcPos (s.ctx c).pcq0.pc)) with
  | none => (.waits, .next s)
  | some (p, i) =>
    let r := examine ex s p i
    match r.1 with
    | .fault cls fi => (.froze, .next (s.freezeWith cls fi))
    | .stall => (.waits, .next s)
    | .hold => (.waits, .next (keepWait c s r.2))
    | .ok | .idle =>
      (.issued, andNext (actAll ex [(p, i)] { s with pk := { Pk.fresh with phase := .effect, before := some (s.tc c.core) } })
        (fun s => .next (s.finish c)))

/-- A context tries to issue the packet at PCQ0. -/
def State.attempt (ex : Instr → State → Out) (c : CtxId) (s0 : State) : Tried × Out :=
  if !s0.canTry c then (.waits, .next s0)
  else
    match { s0 with cur := c, pk := Pk.fresh }.fetch c with
    | (.waits, s1) => (.waits, .next s1)
    | (.bad fi, s1) => (.froze, .next (s1.takeFault c fi))
    | (.late b, s1) => s1.tryPacket ex c b true
    | (.line b, s1) => if (s1.ctx c).leaving then s1.tryLeave ex c b else s1.tryPacket ex c b s1.streamStall

/-- The packet at PCQ0, where its line can be read at once. -/
def State.headPacket (s : State) (c : CtxId) : Option (List Nat) :=
  (s.peekLine c (s.ctx c).pcq0.pc).map (fun b => packetPositions b (pcPos (s.ctx c).pcq0.pc))

/-! ## The issue arbiter (05 R72, R73) -/

/-- The period of the sweep of slices and stashes, in cycles (12 R271). -/
def sweepPeriod : Nat := 524288

/-- The cycles of a span, up to eight, in which a sweep of every line ends; eight go round the clock of the stamps once. -/
def sweepsIn (now n : Nat) : List Nat :=
  ((List.range 8).map (fun i => (now / sweepPeriod + 1 + i) * sweepPeriod)).filter (fun m => decide (m ≤ now + n))

/-- The lines that were overdue at one of some sweeps have OD, by the clock of a package (12 R271). -/
def State.sweptAt (s : State) (p : Nat) (ms : List Nat) (lines : Map (Nat × Nat) LineTag) : Map (Nat × Nat) LineTag :=
  lines.map (fun e => (e.1, ms.foldl (fun l m => l.swept (({ s with now := m } : State).slack p)) e.2))

/-- The sweeps of every slice, and of every stash on a core or in a frame (12 R271, 09 R191; log 4, DESIGN CHOICE of their cycles). -/
def State.sweepAll (s : State) (ms : List Nat) : State :=
  { s with
    slices := s.slices.map (fun e => (e.1, { e.2 with lines := s.sweptAt e.1.pkg ms e.2.lines }))
    cores := s.cores.map (fun e => (e.1, { e.2 with tc := e.2.tc.mapTags (s.sweptAt e.1.pkg ms) }))
    tasks := s.tasks.map (fun e => (e.1, { e.2 with frame := e.2.frame.map (fun t => t.mapTags (s.sweptAt e.2.pkg ms)) })) }

/-- Time passes, and lines are swept as it does. -/
def State.tickBy (s : State) (n : Nat) : State :=
  let ms := sweepsIn s.now n
  let s1 := if ms.isEmpty then s else s.sweepAll ms
  { s1 with now := s.now + n }

/-- A cycle of the routers passes, and `n` cycles of time: the packets of a torus take one hop in each, so that `n` is 1 at most while there are
any (18 R382). -/
def State.pass (s : State) (n : Nat) : State := s.routersTurn.tickBy n

/-- Context numbers in round-robin order, after the helper that issued last. -/
def roundRobin (last : Nat) : List Nat := (List.range 10).map (fun i => (last + i) % 10 + 1)

/-- A helper has starved. -/
def State.starved (s : State) (k : CoreId) (n : Nat) : Bool := decide (16 ≤ (s.ctx ⟨k, n⟩).starve)

/-- The order in which contexts are tried in a cycle. -/
def State.issueOrder (s : State) (k : CoreId) : List Nat :=
  let rr := (roundRobin (s.core k).lastHelper).filter (fun n => (s.ctx ⟨k, n⟩).life == .running)
  rr.filter (s.starved k) ++ 0 :: rr.filter (fun n => !s.starved k n)

/-- Contexts are tried until one issues, which is named. A context behind that one begins no walk of its fetch and no blocking hold
in this cycle, and takes no fault of a check (log 4, DESIGN CHOICE). -/
def tryAll (ex : Instr → State → Out) (k : CoreId) : List Nat → State → Option Nat × Out
  | [], s => (none, .next s)
  | n :: ns, s =>
    match s.attempt ex ⟨k, n⟩ with
    | (.issued, o) => (some n, o)
    | (_, .next s1) => tryAll ex k ns s1
    | (_, o) => (none, o)

/-- A helper could issue in this cycle. -/
def State.couldIssue (ex : Instr → State → Out) (k : CoreId) (n : Nat) (s : State) : Bool := (s.attempt ex ⟨k, n⟩).1 == .issued

/-- The starve counts after a cycle: of the helpers that could issue while another context was chosen. -/
def State.countStarved (s : State) (k : CoreId) (chosen : Option Nat) (could : List Nat) : State :=
  (List.range 10).foldl (fun s i =>
    let n := i + 1
    if (s.ctx ⟨k, n⟩).life = .free then s
    else s.setCtx ⟨k, n⟩ (fun c => { c with starve := if could.contains n && chosen != some n then min (c.starve + 1) 16 else 0 })) s

/-- One cycle of a core's issue arbiter. -/
def State.issueCycle (ex : Instr → State → Out) (k : CoreId) (s : State) : Out :=
  let could := ((List.range 10).map (· + 1)).filter (fun n => (s.ctx ⟨k, n⟩).life == .running && s.couldIssue ex k n)
  let r := tryAll ex k (s.issueOrder k) s
  andNext r.2 (fun s1 =>
    let s2 := s1.countStarved k r.1 could
    .next (match r.1 with
      | some n => if n = 0 then s2 else s2.setCore k (fun c => { c with lastHelper := n })
      | none => s2))

/-- The context whose packet a cycle of the core issues (05 R72). -/
def State.chosen (ex : Instr → State → Out) (k : CoreId) (s : State) : Option Nat := (tryAll ex k (s.issueOrder k) s).1

/-- An event row of one context's packet: a cycle of its core in which the arbiter chooses that packet (05 R72, R73), with a
cycle of time. -/
def cycleOf (ex : Instr → State → Out) (c : CtxId) (enabled : Bool) (s : State) : Out :=
  if enabled && s.chosen ex c.core == some c.ctx then
    andNext (s.issueCycle ex c.core) (fun t => happen true (fun _ => t.pass 1) s)
  else happen false id s


end Sys2Proof.Machine
end

