-- ==== Sys2Proof/Machine/Words.lean ====
section
/-! DEFINITION. The event rows of a packet that holds no instruction: a cycle of its core in which the arbiter chooses it (02
R21; 05 R72-R74, R83). The other contexts of the core are tried with the meanings of the words. -/

namespace Sys2Proof.Machine

open Sys2Proof

/-- The meaning of a word, for the arbiter. -/
def wordExec (i : Instr) (s : State) : Out :=
  match i with
  | .add f => execAdd f s
  | .sub f => execSub f s
  | .mul f => execMul f s
  | .mulh f => execMulh f s
  | .mulhu f => execMulhu f s
  | .div f => execDiv f s
  | .divu f => execDivu f s
  | .rem f => execRem f s
  | .remu f => execRemu f s
  | .and f => execAnd f s
  | .or f => execOr f s
  | .xor f => execXor f s
  | .andn f => execAndn f s
  | .shl f => execShl f s
  | .shr f => execShr f s
  | .sra f => execSra f s
  | .rol f => execRol f s
  | .min f => execMin f s
  | .minu f => execMinu f s
  | .max f => execMax f s
  | .maxu f => execMaxu f s
  | .sel f => execSel f s
  | .mov f => execMov f s
  | .movh f => execMovh f s
  | .lea f => execLea f s
  | .ext f => execExt f s
  | .extu f => execExtu f s
  | .ins f => execIns f s
  | .sext f => execSext f s
  | .zext f => execZext f s
  | .clz f => execClz f s
  | .ctz f => execCtz f s
  | .ffs f => execFfs f s
  | .popc f => execPopc f s
  | .bswap f => execBswap f s
  | .brev f => execBrev f s
  | .cmp f => execCmp f s
  | .cmpf f => execCmpf f s
  | .fadd f => execFadd f s
  | .fmul f => execFmul f s
  | .ffma f => execFfma f s
  | .fmin f => execFmin f s
  | .fmax f => execFmax f s
  | .fcvt f => execFcvt f s
  | .pset f => execPset f s
  | .mrd f => execMrd f s
  | .mwr f => execMwr f s
  | .rdtime f => execRdtime f s
  | .vadd f => execVadd f s
  | .vsub f => execVsub f s
  | .vmul f => execVmul f s
  | .vfma f => execVfma f s
  | .vfms f => execVfms f s
  | .vfnma f => execVfnma f s
  | .vmin f => execVmin f s
  | .vmax f => execVmax f s
  | .vabs f => execVabs f s
  | .vneg f => execVneg f s
  | .vand f => execVand f s
  | .vor f => execVor f s
  | .vxor f => execVxor f s
  | .vandn f => execVandn f s
  | .vshl f => execVshl f s
  | .vshr f => execVshr f s
  | .vsra f => execVsra f s
  | .vmulh f => execVmulh f s
  | .vavg f => execVavg f s
  | .vabd f => execVabd f s
  | .vcmp f => execVcmp f s
  | .vsel f => execVsel f s
  | .vmov f => execVmov f s
  | .vbc f => execVbc f s
  | .vget f => execVget f s
  | .vset f => execVset f s
  | .vperm f => execVperm f s
  | .vcomp f => execVcomp f s
  | .vexpd f => execVexpd f s
  | .vred f => execVred f s
  | .vscan f => execVscan f s
  | .vdot4 f => execVdot4 f s
  | .vclz f => execVclz f s
  | .vpopc f => execVpopc f s
  | .vffs f => execVffs f s
  | .vexp2 f => execVexp2 f s
  | .vlog2 f => execVlog2 f s
  | .vrcp f => execVrcp f s
  | .vrsq f => execVrsq f s
  | .vsin f => execVsin f s
  | .vcos f => execVcos f s
  | .vtanh f => execVtanh f s
  | .vcvt f => execVcvt f s
  | .vtag f => execVtag f s
  | .vqnt f => execVqnt f s
  | .vdqt f => execVdqt f s
  | .vbmax f => execVbmax f s
  | .vsat f => execVsat f s
  | .mzero f => execMzero f s
  | .mlda f => execMlda f s
  | .mldb f => execMldb f s
  | .mgat f => execMgat f s
  | .mmul f => execMmul f s
  | .mmuls f => execMmuls f s
  | .mcom f => execMcom f s
  | .mdis f => execMdis f s
  | .mscq f => execMscq f s
  | .mfin f => execMfin f s
  | .mrow f => execMrow f s
  | .mst f => execMst f s
  | .mcnt f => execMcnt f s
  | .mthr f => execMthr f s
  | .mwt f => execMwt f s
  | .mstat f => execMstat f s
  | .eclr f => execEclr f s
  | .eins f => execEins f s
  | .eevl f => execEevl f s
  | .esum f => execEsum f s
  | .emax f => execEmax f s
  | .einf f => execEinf f s
  | .econj f => execEconj f s
  | .esimp f => execEsimp f s
  | .eld f => execEld f s
  | .est f => execEst f s
  | .eadd f => execEadd f s
  | .ecnt f => execEcnt f s
  | .edom f => execEdom f s
  | .edomGet f => execEdomGet f s
  | .ewt f => execEwt f s
  | .ldl f => execLdl f s
  | .stl f => execStl f s
  | .vldl f => execVldl f s
  | .vstl f => execVstl f s
  | .vgl f => execVgl f s
  | .vsl f => execVsl f s
  | .ala f => execAla f s
  | .alf f => execAlf f s
  | .stmap f => execStmap f s
  | .stfl f => execStfl f s
  | .stinv f => execStinv f s
  | .rres f => execRres f s
  | .rtake f => execRtake f s
  | .rrel f => execRrel f s
  | .rcfg f => execRcfg f s
  | .rstat f => execRstat f s
  | .ld f => execLd f s
  | .st f => execSt f s
  | .vld f => execVld f s
  | .vst f => execVst f s
  | .vgg f => execVgg f s
  | .vsg f => execVsg f s
  | .amo f => execAmo f s
  | .cas f => execCas f s
  | .famo f => execFamo f s
  | .fset f => execFset f s
  | .fget f => execFget f s
  | .pf f => execPf f s
  | .wb f => execWb f s
  | .inv f => execInv f s
  | .cp f => execCp f s
  | .cps f => execCps f s
  | .cpw f => execCpw f s
  | .streamSub f => execStreamSub f s
  | .unsub f => execUnsub f s
  | .drn f => execDrn f s
  | .cpq f => execCpq f s
  | .msg f => execMsg f s
  | .mcst f => execMcst f s
  | .gopen f => execGopen f s
  | .gst f => execGst f s
  | .gcom f => execGcom f s
  | .gab f => execGab f s
  | .gstt f => execGstt f s
  | .nop f => execNop f s
  | .b f => execB f s
  | .ba f => execBa f s
  | .bl f => execBl f s
  | .br f => execBr f s
  | .brl f => execBrl f s
  | .rep f => execRep f s
  | .lpin f => execLpin f s
  | .lfree f => execLfree f s
  | .tick f => execTick f s
  | .bkpt f => execBkpt f s
  | .fence f => execFence f s
  | .bar f => execBar f s
  | .mon f => execMon f s
  | .mwait f => execMwait f s
  | .sopen f => execSopen f s
  | .sclose f => execSclose f s
  | .scnl f => execScnl f s
  | .sshd f => execSshd f s
  | .sunsh f => execSunsh f s
  | .claim f => execClaim f s
  | .spawn f => execSpawn f s
  | .spwg f => execSpwg f s
  | .start f => execStart f s
  | .exit f => execExit f s
  | .yield f => execYield f s
  | .poll f => execPoll f s
  | .tgnode f => execTgnode f s
  | .tgdec f => execTgdec f s
  | .sinfo f => execSinfo f s
  | .trap f => execTrap f s
  | .kill f => execKill f s
  | .killDom f => execKillDom f s
  | .prmt f => execPrmt f s
  | .resm f => execResm f s
  | .plbw f => execPlbw f s
  | .plbi f => execPlbi f s
  | .plbiDom f => execPlbiDom f s
  | .xlti f => execXlti f s
  | .pgok f => execPgok f s
  | .wpt f => execWpt f s
  | .auds f => execAuds f s
  | _ => happen false id s

/-- EMPTY_PACKET: a packet all of whose positions are empty issues (02 R21, 05 R72). -/
def execEmptyPacket (c : CtxId) (s : State) : Out :=
  cycleOf wordExec c (s.canTry c && !(s.ctx c).pcq0.sq && !(s.ctx c).pcq0.anl && s.headPacket c == some []) s

/-- ANNULLED_PACKET: an annulled packet advances pipe time without effect (05 R72, R83). -/
def execAnnulledPacket (c : CtxId) (s : State) : Out := cycleOf wordExec c (s.canTry c && (s.ctx c).pcq0.anl) s

end Sys2Proof.Machine
end

