-- ==== Sys2Proof/Machine/Dispatch.lean ====
section
/-! DEFINITION. The meaning of every instruction and of every step of the device. -/

namespace Sys2Proof.Machine

open Sys2Proof

/-- The meaning of a row of the opcode table. -/
def exec (i : Instr) (s : State) : Host.Outcome State Fault Refusal :=
  match i with
  | .add f => Sys2Proof.Machine.execAdd f s
  | .sub f => Sys2Proof.Machine.execSub f s
  | .mul f => Sys2Proof.Machine.execMul f s
  | .mulh f => Sys2Proof.Machine.execMulh f s
  | .mulhu f => Sys2Proof.Machine.execMulhu f s
  | .div f => Sys2Proof.Machine.execDiv f s
  | .divu f => Sys2Proof.Machine.execDivu f s
  | .rem f => Sys2Proof.Machine.execRem f s
  | .remu f => Sys2Proof.Machine.execRemu f s
  | .and f => Sys2Proof.Machine.execAnd f s
  | .or f => Sys2Proof.Machine.execOr f s
  | .xor f => Sys2Proof.Machine.execXor f s
  | .andn f => Sys2Proof.Machine.execAndn f s
  | .shl f => Sys2Proof.Machine.execShl f s
  | .shr f => Sys2Proof.Machine.execShr f s
  | .sra f => Sys2Proof.Machine.execSra f s
  | .rol f => Sys2Proof.Machine.execRol f s
  | .min f => Sys2Proof.Machine.execMin f s
  | .minu f => Sys2Proof.Machine.execMinu f s
  | .max f => Sys2Proof.Machine.execMax f s
  | .maxu f => Sys2Proof.Machine.execMaxu f s
  | .sel f => Sys2Proof.Machine.execSel f s
  | .mov f => Sys2Proof.Machine.execMov f s
  | .movh f => Sys2Proof.Machine.execMovh f s
  | .lea f => Sys2Proof.Machine.execLea f s
  | .ext f => Sys2Proof.Machine.execExt f s
  | .extu f => Sys2Proof.Machine.execExtu f s
  | .ins f => Sys2Proof.Machine.execIns f s
  | .sext f => Sys2Proof.Machine.execSext f s
  | .zext f => Sys2Proof.Machine.execZext f s
  | .clz f => Sys2Proof.Machine.execClz f s
  | .ctz f => Sys2Proof.Machine.execCtz f s
  | .ffs f => Sys2Proof.Machine.execFfs f s
  | .popc f => Sys2Proof.Machine.execPopc f s
  | .bswap f => Sys2Proof.Machine.execBswap f s
  | .brev f => Sys2Proof.Machine.execBrev f s
  | .cmp f => Sys2Proof.Machine.execCmp f s
  | .cmpf f => Sys2Proof.Machine.execCmpf f s
  | .fadd f => Sys2Proof.Machine.execFadd f s
  | .fmul f => Sys2Proof.Machine.execFmul f s
  | .ffma f => Sys2Proof.Machine.execFfma f s
  | .fmin f => Sys2Proof.Machine.execFmin f s
  | .fmax f => Sys2Proof.Machine.execFmax f s
  | .fcvt f => Sys2Proof.Machine.execFcvt f s
  | .pset f => Sys2Proof.Machine.execPset f s
  | .mrd f => Sys2Proof.Machine.execMrd f s
  | .mwr f => Sys2Proof.Machine.execMwr f s
  | .rdtime f => Sys2Proof.Machine.execRdtime f s
  | .vadd f => Sys2Proof.Machine.execVadd f s
  | .vsub f => Sys2Proof.Machine.execVsub f s
  | .vmul f => Sys2Proof.Machine.execVmul f s
  | .vfma f => Sys2Proof.Machine.execVfma f s
  | .vfms f => Sys2Proof.Machine.execVfms f s
  | .vfnma f => Sys2Proof.Machine.execVfnma f s
  | .vmin f => Sys2Proof.Machine.execVmin f s
  | .vmax f => Sys2Proof.Machine.execVmax f s
  | .vabs f => Sys2Proof.Machine.execVabs f s
  | .vneg f => Sys2Proof.Machine.execVneg f s
  | .vand f => Sys2Proof.Machine.execVand f s
  | .vor f => Sys2Proof.Machine.execVor f s
  | .vxor f => Sys2Proof.Machine.execVxor f s
  | .vandn f => Sys2Proof.Machine.execVandn f s
  | .vshl f => Sys2Proof.Machine.execVshl f s
  | .vshr f => Sys2Proof.Machine.execVshr f s
  | .vsra f => Sys2Proof.Machine.execVsra f s
  | .vmulh f => Sys2Proof.Machine.execVmulh f s
  | .vavg f => Sys2Proof.Machine.execVavg f s
  | .vabd f => Sys2Proof.Machine.execVabd f s
  | .vcmp f => Sys2Proof.Machine.execVcmp f s
  | .vsel f => Sys2Proof.Machine.execVsel f s
  | .vmov f => Sys2Proof.Machine.execVmov f s
  | .vbc f => Sys2Proof.Machine.execVbc f s
  | .vget f => Sys2Proof.Machine.execVget f s
  | .vset f => Sys2Proof.Machine.execVset f s
  | .vperm f => Sys2Proof.Machine.execVperm f s
  | .vcomp f => Sys2Proof.Machine.execVcomp f s
  | .vexpd f => Sys2Proof.Machine.execVexpd f s
  | .vred f => Sys2Proof.Machine.execVred f s
  | .vscan f => Sys2Proof.Machine.execVscan f s
  | .vdot4 f => Sys2Proof.Machine.execVdot4 f s
  | .vclz f => Sys2Proof.Machine.execVclz f s
  | .vpopc f => Sys2Proof.Machine.execVpopc f s
  | .vffs f => Sys2Proof.Machine.execVffs f s
  | .vexp2 f => Sys2Proof.Machine.execVexp2 f s
  | .vlog2 f => Sys2Proof.Machine.execVlog2 f s
  | .vrcp f => Sys2Proof.Machine.execVrcp f s
  | .vrsq f => Sys2Proof.Machine.execVrsq f s
  | .vsin f => Sys2Proof.Machine.execVsin f s
  | .vcos f => Sys2Proof.Machine.execVcos f s
  | .vtanh f => Sys2Proof.Machine.execVtanh f s
  | .vcvt f => Sys2Proof.Machine.execVcvt f s
  | .vtag f => Sys2Proof.Machine.execVtag f s
  | .vqnt f => Sys2Proof.Machine.execVqnt f s
  | .vdqt f => Sys2Proof.Machine.execVdqt f s
  | .vbmax f => Sys2Proof.Machine.execVbmax f s
  | .vsat f => Sys2Proof.Machine.execVsat f s
  | .mzero f => Sys2Proof.Machine.execMzero f s
  | .mlda f => Sys2Proof.Machine.execMlda f s
  | .mldb f => Sys2Proof.Machine.execMldb f s
  | .mgat f => Sys2Proof.Machine.execMgat f s
  | .mmul f => Sys2Proof.Machine.execMmul f s
  | .mmuls f => Sys2Proof.Machine.execMmuls f s
  | .mcom f => Sys2Proof.Machine.execMcom f s
  | .mdis f => Sys2Proof.Machine.execMdis f s
  | .mscq f => Sys2Proof.Machine.execMscq f s
  | .mfin f => Sys2Proof.Machine.execMfin f s
  | .mrow f => Sys2Proof.Machine.execMrow f s
  | .mst f => Sys2Proof.Machine.execMst f s
  | .mcnt f => Sys2Proof.Machine.execMcnt f s
  | .mthr f => Sys2Proof.Machine.execMthr f s
  | .mwt f => Sys2Proof.Machine.execMwt f s
  | .mstat f => Sys2Proof.Machine.execMstat f s
  | .eclr f => Sys2Proof.Machine.execEclr f s
  | .eins f => Sys2Proof.Machine.execEins f s
  | .eevl f => Sys2Proof.Machine.execEevl f s
  | .esum f => Sys2Proof.Machine.execEsum f s
  | .emax f => Sys2Proof.Machine.execEmax f s
  | .einf f => Sys2Proof.Machine.execEinf f s
  | .econj f => Sys2Proof.Machine.execEconj f s
  | .esimp f => Sys2Proof.Machine.execEsimp f s
  | .eld f => Sys2Proof.Machine.execEld f s
  | .est f => Sys2Proof.Machine.execEst f s
  | .eadd f => Sys2Proof.Machine.execEadd f s
  | .ecnt f => Sys2Proof.Machine.execEcnt f s
  | .edom f => Sys2Proof.Machine.execEdom f s
  | .edomGet f => Sys2Proof.Machine.execEdomGet f s
  | .ewt f => Sys2Proof.Machine.execEwt f s
  | .ldl f => Sys2Proof.Machine.execLdl f s
  | .stl f => Sys2Proof.Machine.execStl f s
  | .vldl f => Sys2Proof.Machine.execVldl f s
  | .vstl f => Sys2Proof.Machine.execVstl f s
  | .vgl f => Sys2Proof.Machine.execVgl f s
  | .vsl f => Sys2Proof.Machine.execVsl f s
  | .ala f => Sys2Proof.Machine.execAla f s
  | .alf f => Sys2Proof.Machine.execAlf f s
  | .stmap f => Sys2Proof.Machine.execStmap f s
  | .stfl f => Sys2Proof.Machine.execStfl f s
  | .stinv f => Sys2Proof.Machine.execStinv f s
  | .rres f => Sys2Proof.Machine.execRres f s
  | .rtake f => Sys2Proof.Machine.execRtake f s
  | .rrel f => Sys2Proof.Machine.execRrel f s
  | .rcfg f => Sys2Proof.Machine.execRcfg f s
  | .rstat f => Sys2Proof.Machine.execRstat f s
  | .ld f => Sys2Proof.Machine.execLd f s
  | .st f => Sys2Proof.Machine.execSt f s
  | .vld f => Sys2Proof.Machine.execVld f s
  | .vst f => Sys2Proof.Machine.execVst f s
  | .vgg f => Sys2Proof.Machine.execVgg f s
  | .vsg f => Sys2Proof.Machine.execVsg f s
  | .amo f => Sys2Proof.Machine.execAmo f s
  | .cas f => Sys2Proof.Machine.execCas f s
  | .famo f => Sys2Proof.Machine.execFamo f s
  | .fset f => Sys2Proof.Machine.execFset f s
  | .fget f => Sys2Proof.Machine.execFget f s
  | .pf f => Sys2Proof.Machine.execPf f s
  | .wb f => Sys2Proof.Machine.execWb f s
  | .inv f => Sys2Proof.Machine.execInv f s
  | .cp f => Sys2Proof.Machine.execCp f s
  | .cps f => Sys2Proof.Machine.execCps f s
  | .cpw f => Sys2Proof.Machine.execCpw f s
  | .streamSub f => Sys2Proof.Machine.execStreamSub f s
  | .unsub f => Sys2Proof.Machine.execUnsub f s
  | .drn f => Sys2Proof.Machine.execDrn f s
  | .cpq f => Sys2Proof.Machine.execCpq f s
  | .msg f => Sys2Proof.Machine.execMsg f s
  | .mcst f => Sys2Proof.Machine.execMcst f s
  | .gopen f => Sys2Proof.Machine.execGopen f s
  | .gst f => Sys2Proof.Machine.execGst f s
  | .gcom f => Sys2Proof.Machine.execGcom f s
  | .gab f => Sys2Proof.Machine.execGab f s
  | .gstt f => Sys2Proof.Machine.execGstt f s
  | .nop f => Sys2Proof.Machine.execNop f s
  | .b f => Sys2Proof.Machine.execB f s
  | .ba f => Sys2Proof.Machine.execBa f s
  | .bl f => Sys2Proof.Machine.execBl f s
  | .br f => Sys2Proof.Machine.execBr f s
  | .brl f => Sys2Proof.Machine.execBrl f s
  | .rep f => Sys2Proof.Machine.execRep f s
  | .lpin f => Sys2Proof.Machine.execLpin f s
  | .lfree f => Sys2Proof.Machine.execLfree f s
  | .tick f => Sys2Proof.Machine.execTick f s
  | .bkpt f => Sys2Proof.Machine.execBkpt f s
  | .fence f => Sys2Proof.Machine.execFence f s
  | .bar f => Sys2Proof.Machine.execBar f s
  | .mon f => Sys2Proof.Machine.execMon f s
  | .mwait f => Sys2Proof.Machine.execMwait f s
  | .sopen f => Sys2Proof.Machine.execSopen f s
  | .sclose f => Sys2Proof.Machine.execSclose f s
  | .scnl f => Sys2Proof.Machine.execScnl f s
  | .sshd f => Sys2Proof.Machine.execSshd f s
  | .sunsh f => Sys2Proof.Machine.execSunsh f s
  | .claim f => Sys2Proof.Machine.execClaim f s
  | .spawn f => Sys2Proof.Machine.execSpawn f s
  | .spwg f => Sys2Proof.Machine.execSpwg f s
  | .start f => Sys2Proof.Machine.execStart f s
  | .exit f => Sys2Proof.Machine.execExit f s
  | .yield f => Sys2Proof.Machine.execYield f s
  | .poll f => Sys2Proof.Machine.execPoll f s
  | .tgnode f => Sys2Proof.Machine.execTgnode f s
  | .tgdec f => Sys2Proof.Machine.execTgdec f s
  | .sinfo f => Sys2Proof.Machine.execSinfo f s
  | .trap f => Sys2Proof.Machine.execTrap f s
  | .kill f => Sys2Proof.Machine.execKill f s
  | .killDom f => Sys2Proof.Machine.execKillDom f s
  | .prmt f => Sys2Proof.Machine.execPrmt f s
  | .resm f => Sys2Proof.Machine.execResm f s
  | .plbw f => Sys2Proof.Machine.execPlbw f s
  | .plbi f => Sys2Proof.Machine.execPlbi f s
  | .plbiDom f => Sys2Proof.Machine.execPlbiDom f s
  | .xlti f => Sys2Proof.Machine.execXlti f s
  | .pgok f => Sys2Proof.Machine.execPgok f s
  | .wpt f => Sys2Proof.Machine.execWpt f s
  | .auds f => Sys2Proof.Machine.execAuds f s
  | .divideLand c => Sys2Proof.Machine.execDivideLand c s
  | .matrixCommandRun k => Sys2Proof.Machine.execMatrixCommandRun k s
  | .macroOpBlock k => Sys2Proof.Machine.execMacroOpBlock k s
  | .envelopeCommandRun k => Sys2Proof.Machine.execEnvelopeCommandRun k s
  | .ringReservationServed k ring => Sys2Proof.Machine.execRingReservationServed k ring s
  | .ringTakeServed k ring => Sys2Proof.Machine.execRingTakeServed k ring s
  | .globalAccessLand id => Sys2Proof.Machine.execGlobalAccessLand id s
  | .sliceAccess id => Sys2Proof.Machine.execSliceAccess id s
  | .victimChoice l line id => Sys2Proof.Machine.execVictimChoice l line id s
  | .trustShiftUpdate l => Sys2Proof.Machine.execTrustShiftUpdate l s
  | .sweepVisit u at_ found => Sys2Proof.Machine.execSweepVisit u at_ found s
  | .homeAccess id part => Sys2Proof.Machine.execHomeAccess id part s
  | .storePerformed id part => Sys2Proof.Machine.execStorePerformed id part s
  | .forcedPublish id => Sys2Proof.Machine.execForcedPublish id s
  | .atomicAtHome id => Sys2Proof.Machine.execAtomicAtHome id s
  | .fsetAtHome id => Sys2Proof.Machine.execFsetAtHome id s
  | .fgetAtHome id => Sys2Proof.Machine.execFgetAtHome id s
  | .stashRecall k n line drop => Sys2Proof.Machine.execStashRecall k n line drop s
  | .remoteAccess id => Sys2Proof.Machine.execRemoteAccess id s
  | .windowNack id => Sys2Proof.Machine.execWindowNack id s
  | .peerAccessTimeout id => Sys2Proof.Machine.execPeerAccessTimeout id s
  | .wbTimeout c => Sys2Proof.Machine.execWbTimeout c s
  | .asyncFaultRecord id => Sys2Proof.Machine.execAsyncFaultRecord id s
  | .poisonConsumed who => Sys2Proof.Machine.execPoisonConsumed who s
  | .copyChunkStart id => Sys2Proof.Machine.execCopyChunkStart id s
  | .copyChunkEnd id chunk => Sys2Proof.Machine.execCopyChunkEnd id chunk s
  | .copySlotReserve id => Sys2Proof.Machine.execCopySlotReserve id s
  | .copyFinish id => Sys2Proof.Machine.execCopyFinish id s
  | .streamTileWrite id => Sys2Proof.Machine.execStreamTileWrite id s
  | .drainTile id => Sys2Proof.Machine.execDrainTile id s
  | .drainSlotEmpty id => Sys2Proof.Machine.execDrainSlotEmpty id s
  | .streamDetach id => Sys2Proof.Machine.execStreamDetach id s
  | .streamError id cause => Sys2Proof.Machine.execStreamError id cause s
  | .messageDelivery id => Sys2Proof.Machine.execMessageDelivery id s
  | .spillReplay k => Sys2Proof.Machine.execSpillReplay k s
  | .messageResend id => Sys2Proof.Machine.execMessageResend id s
  | .messageTimeout id => Sys2Proof.Machine.execMessageTimeout id s
  | .multicastMemberWrite id pkg => Sys2Proof.Machine.execMulticastMemberWrite id pkg s
  | .multicastReply id => Sys2Proof.Machine.execMulticastReply id s
  | .gstStage id => Sys2Proof.Machine.execGstStage id s
  | .groupJoin id => Sys2Proof.Machine.execGroupJoin id s
  | .groupReasonReport h pkg reason => Sys2Proof.Machine.execGroupReasonReport h pkg reason s
  | .groupPrepare h => Sys2Proof.Machine.execGroupPrepare h s
  | .participantPrepare pkg h => Sys2Proof.Machine.execParticipantPrepare pkg h s
  | .groupVote h pkg yes reason => Sys2Proof.Machine.execGroupVote h pkg yes reason s
  | .tVoteExpiry h => Sys2Proof.Machine.execTVoteExpiry h s
  | .groupPublish pkg h => Sys2Proof.Machine.execGroupPublish pkg h s
  | .groupAbort pkg h => Sys2Proof.Machine.execGroupAbort pkg h s
  | .groupConfirm h pkg => Sys2Proof.Machine.execGroupConfirm h pkg s
  | .tCommitExpiry h => Sys2Proof.Machine.execTCommitExpiry h s
  | .participantQuery pkg h => Sys2Proof.Machine.execParticipantQuery pkg h s
  | .queryAnswer src dst h => Sys2Proof.Machine.execQueryAnswer src dst h s
  | .resolveTimeout pkg h => Sys2Proof.Machine.execResolveTimeout pkg h s
  | .joinTimeout pkg h => Sys2Proof.Machine.execJoinTimeout pkg h s
  | .failureNotice at_ pkg => Sys2Proof.Machine.execFailureNotice at_ pkg s
  | .peerSilenceTimeout at_ pkg id => Sys2Proof.Machine.execPeerSilenceTimeout at_ pkg id s
  | .finalStateExpiry pkg h => Sys2Proof.Machine.execFinalStateExpiry pkg h s
  | .writePacketArrival id => Sys2Proof.Machine.execWritePacketArrival id s
  | .flitCrcReplay pkg port => Sys2Proof.Machine.execFlitCrcReplay pkg port s
  | .laneRetrain pkg port lane => Sys2Proof.Machine.execLaneRetrain pkg port lane s
  | .authenticationFailure w => Sys2Proof.Machine.execAuthenticationFailure w s
  | .routerCycle pkg x y => Sys2Proof.Machine.execRouterCycle pkg x y s
  | .annulledPacket c => Sys2Proof.Machine.execAnnulledPacket c s
  | .emptyPacket c => Sys2Proof.Machine.execEmptyPacket c s
  | .sequentialResolve c => Sys2Proof.Machine.execSequentialResolve c s
  | .fenceAbandon c id => Sys2Proof.Machine.execFenceAbandon c id s
  | .mwaitTimeout c => Sys2Proof.Machine.execMwaitTimeout c s
  | .monitorLost c => Sys2Proof.Machine.execMonitorLost c s
  | .hubSpokeReturn h share closing => Sys2Proof.Machine.execHubSpokeReturn h share closing s
  | .borrow h c => Sys2Proof.Machine.execBorrow h c s
  | .hubBrake h => Sys2Proof.Machine.execHubBrake h s
  | .claimAtHub id => Sys2Proof.Machine.execClaimAtHub id s
  | .replayRestore h => Sys2Proof.Machine.execReplayRestore h s
  | .replayContain h => Sys2Proof.Machine.execReplayContain h s
  | .undoLogWrite k block => Sys2Proof.Machine.execUndoLogWrite k block s
  | .nodeDecrement id => Sys2Proof.Machine.execNodeDecrement id s
  | .nodeFire id => Sys2Proof.Machine.execNodeFire id s
  | .launchPacketWrite pkg tenant packet whole => Sys2Proof.Machine.execLaunchPacketWrite pkg tenant packet whole s
  | .launchTake pkg tenant l => Sys2Proof.Machine.execLaunchTake pkg tenant l s
  | .dispatch k => Sys2Proof.Machine.execDispatch k s
  | .footprintFillDone k => Sys2Proof.Machine.execFootprintFillDone k s
  | .priorityAging task => Sys2Proof.Machine.execPriorityAging task s
  | .preemptTrigger task => Sys2Proof.Machine.execPreemptTrigger task s
  | .preemptAck k engine => Sys2Proof.Machine.execPreemptAck k engine s
  | .frameSwap k => Sys2Proof.Machine.execFrameSwap k s
  | .frameBackgroundWrite k task => Sys2Proof.Machine.execFrameBackgroundWrite k task s
  | .taskPark task => Sys2Proof.Machine.execTaskPark task s
  | .translationWalk l walk => Sys2Proof.Machine.execTranslationWalk l walk s
  | .pgokRewalk token => Sys2Proof.Machine.execPgokRewalk token s
  | .killFlood pkg site => Sys2Proof.Machine.execKillFlood pkg site s
  | .killSweepExpiry pkg site => Sys2Proof.Machine.execKillSweepExpiry pkg site s
  | .faultEventDeliver q => Sys2Proof.Machine.execFaultEventDeliver q s
  | .debugWindowWrite id => Sys2Proof.Machine.execDebugWindowWrite id s
  | .auditReplay l => Sys2Proof.Machine.execAuditReplay l s
  | .auditClr l => Sys2Proof.Machine.execAuditClr l s
  | .eccrClr u => Sys2Proof.Machine.execEccrClr u s
  | .eccrStrong u strong => Sys2Proof.Machine.execEccrStrong u strong s
  | .reencodeDone u => Sys2Proof.Machine.execReencodeDone u s
  | .l2RowSpare l row => Sys2Proof.Machine.execL2RowSpare l row s
  | .remapGo pkg die => Sys2Proof.Machine.execRemapGo pkg die s
  | .remapSup pkg die => Sys2Proof.Machine.execRemapSup pkg die s
  | .sctlSncz k => Sys2Proof.Machine.execSctlSncz k s
  | .sctlLtz k => Sys2Proof.Machine.execSctlLtz k s
  | .fstatFailedClear c => Sys2Proof.Machine.execFstatFailedClear c s
  | .groupTableWrite pkg iodie entry => Sys2Proof.Machine.execGroupTableWrite pkg iodie entry s
  | .registerWrite r value => Sys2Proof.Machine.execRegisterWrite r value s
  | .hostCxlMemAccess pkg off acc => Sys2Proof.Machine.execHostCxlMemAccess pkg off acc s
  | .powerUp bootCores => Sys2Proof.Machine.execPowerUp bootCores s
  | .pkgidWrite pkg value => Sys2Proof.Machine.execPkgidWrite pkg value s
  | .fwgo pkg value => Sys2Proof.Machine.execFwgo pkg value s
  | .firmwareFetchDone pkg die busError => Sys2Proof.Machine.execFirmwareFetchDone pkg die busError s
  | .discoveryPacket pkg die site port => Sys2Proof.Machine.execDiscoveryPacket pkg die site port s
  | .discoveryReport pkg die site selfTest => Sys2Proof.Machine.execDiscoveryReport pkg die site selfTest s
  | .discoveryTimeout pkg die => Sys2Proof.Machine.execDiscoveryTimeout pkg die s
  | .roleAssignment pkg die => Sys2Proof.Machine.execRoleAssignment pkg die s
  | .imageMulticastAck pkg die site => Sys2Proof.Machine.execImageMulticastAck pkg die site s
  | .dieBootDone pkg die => Sys2Proof.Machine.execDieBootDone pkg die s
  | .pwrlimWrite pkg value => Sys2Proof.Machine.execPwrlimWrite pkg value s
  | .powerThrottle pkg island mhz mv => Sys2Proof.Machine.execPowerThrottle pkg island mhz mv s
  | .attgo pkg value => Sys2Proof.Machine.execAttgo pkg value s
  | .attestDone pkg => Sys2Proof.Machine.execAttestDone pkg s
  | .peerRestore at_ pkg => Sys2Proof.Machine.execPeerRestore at_ pkg s
  | .slotPowerLoss pkg => Sys2Proof.Machine.execSlotPowerLoss pkg s
  | .expanderTimeout w => Sys2Proof.Machine.execExpanderTimeout w s
  | .gsttTimeout id => Sys2Proof.Machine.execGsttTimeout id s
  | .multicastMemberTimeout id pkg => Sys2Proof.Machine.execMulticastMemberTimeout id pkg s
  | .cxlCacheHostSnoop pkg line inval => Sys2Proof.Machine.execCxlCacheHostSnoop pkg line inval s

end Sys2Proof.Machine
end

