-- ==== Sys2Proof/Machine/Progress.lean ====
section
/-! DEFINITION. What moves when nothing is named: the steps of the device that are due, and the cycle of every core (log 4, DESIGN CHOICE);
what the step does with an agenda; and how a program's word comes to stand where the next fetch reads (log 15, PRESUMED). -/

namespace Sys2Proof.Machine

open Sys2Proof Sys2Proof.Lanes

/-! ## The steps that may be due -/

/-- A context of a task by the core on which the task stands now. -/
def State.standing (s : State) (task : Option Nat) (c : CtxId) : CtxId :=
  match (task.bind s.tasks.find).bind (·.core) with
  | some k => ⟨k, c.ctx⟩
  | none => c

/-- The steps of a global access. -/
def State.accSteps (s : State) (id : Nat) (a : Access) : List (State → Out) :=
  let ps := List.range a.parts.length
  [execSliceAccess id, execRemoteAccess id, execWindowNack id, execWritePacketArrival id, execForcedPublish id, execDebugWindowWrite id, execFenceAbandon (s.standing a.task a.ctx) id] ++ ps.map (execHomeAccess id)
    ++ ps.map (execStorePerformed id)
    ++ [execAtomicAtHome id, execFsetAtHome id, execFgetAtHome id, execGlobalAccessLand id, execAsyncFaultRecord id, execPeerAccessTimeout id
        , execExpanderTimeout (.op id)]

/-- The steps of copies, streams and messages. -/
def copySteps (id : Nat) (c : Copy) : List (State → Out) :=
  [execCopySlotReserve id, execCopyChunkStart id] ++ c.flying.map (fun f => execCopyChunkEnd id (f.1 / 4096)) ++ [execCopyFinish id]
@[inherit_doc copySteps] def streamSteps (id : Nat) (t : Stream) : List (State → Out) :=
  (if t.drain then [execDrainSlotEmpty id, execDrainTile id] else [execStreamTileWrite id]) ++ [execStreamDetach id]
@[inherit_doc copySteps] def msgSteps (id : Nat) : List (State → Out) := [execMessageDelivery id, execMessageResend id, execMessageTimeout id]

/-- The steps of multicasts and staged stores. -/
def State.mcstSteps (s : State) (id : Nat) (m : Mcst) : List (State → Out) :=
  (entryMembers (s.mcstEntry m)).flatMap (fun p => [execMulticastMemberWrite id p, execMulticastMemberTimeout id p]) ++ [execMulticastReply id]
@[inherit_doc State.mcstSteps] def gstSteps (id : Nat) (g : Gst) : List (State → Out) :=
  [execGstStage id, execGroupJoin id] ++ (match g.stage with
    | .dropped r => [execGroupReasonReport g.h g.place r]
    | _ => []) ++ (if g.stage = .issued then [] else [execJoinTimeout g.reporter g.h])

/-- The steps of groups. -/
def State.groupSteps (s : State) : List (State → Out) :=
  s.gmsgs.flatMap (fun m => groupMsgStep m.1)
    ++ s.gwaits.flatMap (fun e => e.2.flatMap (fun w =>
      [execGroupPrepare w.h, execTVoteExpiry w.h, execTCommitExpiry w.h] ++ (match w.tok with
        | some t => [execGsttTimeout t]
        | none => [])))
    ++ s.groups.flatMap (fun e =>
      let h := groupHandle e.1.1 e.1.2.1 e.2.gen e.1.2.2
      [execGroupPrepare h, execTVoteExpiry h, execTCommitExpiry h])
    ++ s.parts.flatMap (fun e => [execParticipantQuery e.1.1 e.1.2, execResolveTimeout e.1.1 e.1.2, execFinalStateExpiry e.1.1 e.1.2])

/-- The divide of a context, wherever its task stands. -/
def divideSteps (c : CtxId) (k : Ctx) : List (State → Out) :=
  if k.divide.isSome then [execDivideLand c] else []

/-- The steps of a context and of a core's engines. -/
def ctxSteps (c : CtxId) (k : Ctx) : List (State → Out) :=
  divideSteps c k ++ (if k.life == .running then [execSequentialResolve c] else [])
    ++ (if k.hold.isSome then [execMwaitTimeout c] else []) ++ (if k.holdC.isSome then [execWbTimeout c] else [])
    ++ (if k.mustBorrow && !k.stack.isEmpty then [execBorrow k.top.handle c] else [])
@[inherit_doc ctxSteps] def coreSteps (k : CoreId) (c : Core) : List (State → Out) :=
  (if c.tc.mat.queue.isEmpty then [] else [execMatrixCommandRun k, execMacroOpBlock k])
    ++ (if c.tc.env.queue.isEmpty then [] else [execEnvelopeCommandRun k])
    ++ (List.range 8).flatMap (fun r => [execRingReservationServed k r, execRingTakeServed k r])
    ++ (if c.spill.isEmpty then [] else [execSpillReplay k])
    ++ (if c.switch.isSome then
        [Engine.issue, .matrix, .gather, .copy, .envelope, .stack, .network].map (execPreemptAck k) ++ [execFrameSwap k] else [])
    ++ (match c.task with
      | some _ => [execFootprintFillDone k]
      | none => [])
    ++ c.tc.ctxs.flatMap (fun e => ctxSteps ⟨k, e.1⟩ e.2)

/-- The image of a task that a core chooses, and that does not stand there, is written to its memory frame and fetched from it (20 R422). -/
def State.fetchSteps (s : State) (k : CoreId) : List (State → Out) :=
  match s.choose k with
  | none => []
  | some (e, _) => match s.placesFor s.coreFree k e.1 e.2 with
    | none => []
    | some ks => (s.seats e ks).flatMap (fun x =>
        if x.2.2.fetched x.1 then []
        else (x.2.2.shadow.map (fun y => execFrameBackgroundWrite y.1 x.2.1)).toList ++ [execFrameBackgroundWrite x.1 x.2.1])

/-- The steps of scopes, tasks and launches. -/
def State.taskSteps (s : State) : List (State → Out) :=
  s.returns.map (fun r => execHubSpokeReturn r.h r.share r.closing) ++ s.claims.map (fun e => execClaimAtHub e.1)
    ++ s.hubs.flatMap (fun e =>
      let h := handleOf e.1.1 e.1.2 e.2.gen
      [execHubBrake h, execReplayContain h, execReplayRestore h])
    ++ s.nodeOps.map (fun e => execNodeDecrement e.1) ++ s.fires.map (fun e => execNodeFire e.1)
    ++ (if s.tasks.any (fun e => e.2.life == .queued) then
        s.tasks.flatMap (fun e => [execPriorityAging e.1, execPreemptTrigger e.1])
          ++ s.pkgs.flatMap (fun e => (s.workerCores e.1).map execDispatch)
          ++ (if s.tasks.any (fun e => e.2.life == .queued && e.2.frame.isSome) then
              s.pkgs.flatMap (fun e => (s.workerCores e.1).flatMap s.fetchSteps) else [])
      else [])
    ++ s.tasks.map (fun e => execTaskPark e.1)
    ++ s.tasks.flatMap (fun e => match e.2.frame with
      | some f => f.ctxs.flatMap (fun x => divideSteps ⟨e.2.lastCore.getD ⟨e.2.pkg, 0, 0⟩, x.1⟩ x.2)
      | none => [])
    ++ s.pkgs.flatMap (fun e => e.2.tenants.flatMap (fun t =>
      if t.2.queue.isEmpty then [] else (List.range 256).map (fun n => execLaunchTake e.1 t.1 ⟨e.1, n / 64, n % 64⟩)))

/-- The steps of slices, events and kills. -/
def State.unitSteps (s : State) : List (State → Out) :=
  s.tokens.map execPgokRewalk
    ++ s.slices.flatMap (fun e => e.2.walks.map (fun w => execTranslationWalk e.1 w.slot)
      ++ (if 65536 ≤ e.2.n then [execTrustShiftUpdate e.1] else []))
    ++ s.quads.map (fun e => execFaultEventDeliver e.1)
    ++ s.pkgs.flatMap (fun e => e.2.kills.flatMap (fun k => k.reached.flatMap (fun r =>
      (nextRouters r.1).map (execKillFlood e.1) ++ [execKillSweepExpiry e.1 r.1])))

/-- A stash gives up the lines that an access of another core waits for (09 R191). -/
def State.stashSteps (s : State) : List (State → Out) :=
  s.cores.flatMap (fun e => e.2.tc.stash.toList.zipIdx.flatMap (fun x => match x.1 with
    | some st => st.lines.filterMap (fun y =>
        if s.accs.any (fun a => a.2.ctx.core != e.1 && a.2.parts.any (fun p => !p.done && p.pa.map lineOf == some y.2.line)) then
          some (execStashRecall e.1 x.2 y.2.line true)
        else none)
    | none => []))

/-- What awaits an answer of a package that has gone dark (18 R385). -/
def State.silenceSteps (s : State) : List (State → Out) :=
  if s.pkgs.all (fun e => e.2.powered) then []
  else
    let dark := (s.pkgs.filter (fun e => !e.2.powered)).map (·.1)
    let ids := s.accs.map (·.1) ++ s.copies.map (·.1) ++ s.msgs.map (·.1) ++ s.mcsts.map (·.1) ++ s.gsts.map (·.1) ++ s.nodeOps.map (·.1)
      ++ s.gwaits.flatMap (fun e => e.2.filterMap (·.tok))
    (s.pkgs.filter (fun e => e.2.powered)).flatMap (fun p => dark.flatMap (fun q => ids.map (execPeerSilenceTimeout p.1 q)))

/-- The steps of a boot under way, of the routers, and of device control (22 R470-R472, R475; 18 R382; 01 R12). -/
def Pkg.steps (p : Nat) (k : Pkg) : List (State → Out) :=
  (if k.st == .fetch || k.st == .verify then (List.range 4).map (fun d => execFirmwareFetchDone p d false) else [])
    ++ (if k.st == .discover then k.dies.flatMap (fun d =>
        d.2.flood.map (fun f => execDiscoveryPacket p d.1 f.site f.port)
          ++ d.2.marks.map (fun m => execDiscoveryReport p d.1 m.1 true) ++ [execDiscoveryTimeout p d.1, execRoleAssignment p d.1])
      else [])
    ++ (if k.st == .load then k.dies.flatMap (fun d =>
        d.2.marks.map (fun m => execImageMulticastAck p d.1 m.1) ++ [execDieBootDone p d.1])
      else [])
    ++ (if k.attst == 1 then [execAttestDone p] else [])
    ++ k.torus.map (fun q => execRouterCycle p (q.at_.getD q.src).1 (q.at_.getD q.src).2)
    ++ (k.groupTable.map (fun e => e.1.2)).eraseDups.map (fun e => execGroupTableWrite p 1 e)

/-- Every step that may be due. -/
def State.mayMove (s : State) : List (State → Out) :=
  s.accs.flatMap (fun e => s.accSteps e.1 e.2) ++ s.copies.flatMap (fun e => copySteps e.1 e.2)
    ++ s.streams.flatMap (fun e => streamSteps e.1 e.2 ++ (s.streamFault e.1 e.2).toList.map (execStreamError e.1)) ++ s.msgs.flatMap (fun e => msgSteps e.1)
    ++ s.mcsts.flatMap (fun e => s.mcstSteps e.1 e.2) ++ s.gsts.flatMap (fun e => gstSteps e.1 e.2)
    ++ s.groupSteps ++ s.cores.flatMap (fun e => coreSteps e.1 e.2) ++ s.taskSteps ++ s.unitSteps
    ++ s.stashSteps ++ s.silenceSteps ++ s.audits.map (fun e => execAuditReplay e.1) ++ s.ras.map (fun e => execReencodeDone e.1)
    ++ s.pkgs.flatMap (fun e => e.2.steps e.1)

/-- What a step of the device leads to, where it changes anything. -/
def moveOf (s : State) (f : State → Out) : Option Out :=
  match f { s with pk := Pk.fresh } with
  | .next t => if { t with pk := Pk.fresh } = { s with pk := Pk.fresh } then none else some (.next { t with pk := Pk.fresh })
  | o => some o

/-! ## A step (log 4, DESIGN CHOICE) -/

/-- The steps by which the packets of an access arrive at their homes. -/
def arrivalSteps (id : Nat) (a : Access) : List (State → Out) :=
  let ps := List.range a.parts.length
  [execRemoteAccess id, execWritePacketArrival id, execForcedPublish id] ++ ps.map (execHomeAccess id) ++ ps.map (execStorePerformed id)
    ++ [execAtomicAtHome id, execFsetAtHome id, execFgetAtHome id, execDebugWindowWrite id]

/-- What goes from package to package, each with the cycle in which it was sent, and the steps by which it arrives (18 R385). -/
def State.sentThings (s : State) : List (Nat × List (State → Out)) :=
  s.gmsgs.map (fun m => (m.2, groupMsgStep m.1
      ++ (if (s.pkg m.1.ends.2).powered then [] else [execFailureNotice m.1.ends.1 m.1.ends.2])))
    ++ s.gsts.map (fun e => match e.2.stage with
      | .issued => (e.2.asked, if e.2.pa.isSome then [execGstStage e.1] else [])
      | .joining => (e.2.asked + tFab, [execGroupJoin e.1])
      | .dropped r => (e.2.asked, [execGroupReasonReport e.2.h e.2.place r]))
    ++ s.gwaits.flatMap (fun e => e.2.filterMap (fun w =>
      if w.peek || w.abort || !s.waitSent w then none else some (w.since, [execGroupPrepare w.h])))
    ++ s.accs.filterMap (fun e =>
      if e.2.parts.any (fun p => !p.done && p.package.any (· != e.2.ctx.core.pkg)) then some (e.2.since, arrivalSteps e.1 e.2) else none)
    ++ s.copies.filterMap (fun e =>
      let far := e.2.flying.filter (fun x => (s.spanPackages e.2 (s.dstSpans e.2 x.1 x.2 ++ e.2.srcSpans x.1 x.2)).any (· != e.2.core.pkg))
      if far.isEmpty then none else some (e.2.since, far.map (fun x => execCopyChunkEnd e.1 (x.1 / 4096))))
    ++ s.msgs.filterMap (fun e => if e.2.held || e.2.dst.pkg == e.2.src.core.pkg then none else some (e.2.since, [execMessageDelivery e.1]))
    ++ s.mcsts.filterMap (fun e => if e.2.sent then some (e.2.since, (entryMembers (s.mcstEntry e.2)).map (execMulticastMemberWrite e.1)) else none)
    ++ s.nodeOps.filterMap (fun e => if (s.physOf e.2.clu e.2.ea).any (fun pa => paPkg pa != e.2.clu.pkg) then
        some (e.2.since, [execNodeDecrement e.1]) else none)

/-- The step of what T_fab leaves no more time: it arrives, or of the commit protocol a failure notice names its target (18 R385, R396). A
wait that a rule imposes at the target goes on. -/
def State.overdue (s : State) : Option Out :=
  s.sentThings.findSome? (fun m => if m.1 + tFab ≤ s.now then m.2.findSome? (moveOf s) else none)

/-- The most cycles, of `n`, that may pass before something sent must arrive. -/
def State.untilDue (s : State) (n : Nat) : Nat :=
  s.sentThings.foldl (fun n m => if s.now < m.1 + tFab then min n (m.1 + tFab - s.now) else n)
    (if s.pkgs.all (fun e => e.2.torus.isEmpty) then n else min n 1)

/-- The model names such a core: a powered package's die 0-3, worker 0-991 or supervisor 992-995 (log 1, DESIGN CHOICE). -/
def State.hasCore (s : State) (k : CoreId) : Bool := (s.pkg k.pkg).powered && decide (k.die < 4) && decide (k.num < 996)

/-- Every core has a cycle. -/
def allCores (ex : Instr → State → Out) : List CoreId → State → Out
  | [], s => .next s
  | k :: ks, s => andNext (s.issueCycle ex k) (allCores ex ks)

/-- A named move. -/
def State.doMove (ex : Instr → State → Out) (m : Move) (s : State) : Out :=
  match m with
  | .event i => ex i { s with pk := Pk.fresh }
  | .core k => if s.hasCore k then andNext (s.issueCycle ex k) (fun t => .next (t.pass 1)) else .fault .noSuchCore
  | .wait n => .next (s.pass (s.untilDue n))

/-- With no agenda: a step that is due; else a cycle of every core. -/
def State.proceed (ex : Instr → State → Out) (s : State) : Out :=
  match s.mayMove.findSome? (moveOf s) with
  | some o => o
  | none => andNext (allCores ex (s.cores.map (·.1)) s) (fun t => .next (t.pass 1))

/-- The next step: what may wait no longer, the first entry of the agenda, or what is due. -/
def State.advance (ex : Instr → State → Out) (s : State) : Out :=
  match s.overdue, s.agenda with
  | some o, _ => o
  | none, m :: ms => { s with agenda := ms }.doMove ex m
  | none, [] => s.proceed ex

/-! ## A program's word in the place of the next fetch (22 R474, log 15, PRESUMED) -/

/-- The line whose position 0 holds a word, its other positions empty, its TM bit 0 set (02 R19-R22). -/
def oneWordLine (w : Nat) : Nat :=
  let low := 0b11110 <<< 9 + 1
  let lw := low + (parity 24 low).toNat <<< 29 + (parity 96 w).toNat <<< 24
  w + lw <<< 480

/-- The supervisor of quadrant 0 of die 0, whose lead starts at PC 0. -/
def bootSup : CtxId := ⟨⟨0, 0, 992⟩, 0⟩

/-- The page that PC 0 is mapped to. -/
def bootPage : TlbEntry := ⟨0, 2 ^ 30, false, false, false⟩

/-- The lead of the boot supervisor stands at PC 0, running. -/
def Ctx.atBoot (c : Ctx) (now : Nat) : Ctx :=
  { c with
    pcq0 := .at 0, pcq1 := ⟨0, true, false, false⟩, pcq2 := ⟨0, true, false, false⟩
    rep := ⟨0, 0, 0, false, []⟩, hold := none, holdC := none, delayLeft := 0, afr := none, afrHeld := Ctx.fresh.afrHeld, life := .running, cause := 0
    elapsedFrom := now, stepOnce := false }

/-- The package is READY, the boot supervisor runs at PC 0, its page is mapped, its line holds the word, and it issues next. -/
def State.withWord (s : State) (w : Nat) : State :=
  let line := bootPage.pa / 64
  let s1 := s.setPkg 0 (fun p => { p with powered := true, st := .ready })
  let s2 := s1.setCore bootSup.core (fun c => { c with
    task := none, switch := none, tc := { c.tc with pins := [] }.setCtx 0 (fun k => k.atBoot s.now) })
  let s3 := s2.setSlice (s2.clu bootSup.core) (fun x => { x with tlb := bootPage :: x.tlb })
  { s3 with
    mem := s3.mem.write bootPage.pa (leBytes 64 (oneWordLine w)), keys := s3.keys.filter (fun e => decide (e.1 / 8 ≠ line)), owned := s3.owned.del line
    poison := s3.poison.filter (fun n => decide (n ≠ line)), cur := bootSup, pk := Pk.fresh, agenda := [.core bootSup.core]
    gmsgs := s3.gmsgs.map (fun m => (m.1, s3.now)), gsts := s3.gsts.map (fun e => (e.1, { e.2 with asked := s3.now }))
    gwaits := s3.gwaits.map (fun e => (e.1, e.2.map (fun w => { w with since := s3.now })))
    accs := s3.accs.map (fun e => (e.1, { e.2 with since := s3.now })), copies := s3.copies.map (fun e => (e.1, { e.2 with since := s3.now }))
    msgs := s3.msgs.map (fun e => (e.1, { e.2 with since := s3.now })), mcsts := s3.mcsts.map (fun e => (e.1, { e.2 with since := s3.now }))
    nodeOps := s3.nodeOps.map (fun e => (e.1, { e.2 with since := s3.now })) }

end Sys2Proof.Machine
end

