-- ==== Sys2Proof/Machine/Step.lean ====
section
/-! DEFINITION. One step of the machine (log 4, DESIGN CHOICE), and an instruction's word placed where the next step fetches (log 15, PRESUMED). -/

namespace Sys2Proof.Machine

open Sys2Proof

/-- One step. -/
def step (s : State) : Host.Outcome State Fault Refusal := s.advance exec

/-- `s` with the instruction whose bits are `w` stored where the next step fetches. Every bit above `nbits` is 0. -/
def State.withFetchWord (s : State) (nbits w : Nat) : State := s.withWord (w % 2 ^ min nbits 96)

end Sys2Proof.Machine
end

