-- ==== Sys2Proof/Safety.lean ====
section
/-! DEFINITION. The terms that claims about the machine use: when a word may issue, what a completed instruction answers and
leaves, what it leaves alone, and the invariants of a step. -/

namespace Sys2Proof.Machine

open Sys2Proof Sys2Proof.Lanes

/-! ## Answers -/

/-- `exec` answers a next state: by itself, the instruction or the event takes place; in a packet, it passes its check, and
then takes place. `P` holds of the state in which it has taken place. -/
def Completes (i : Instr) (s : State) (P : State → Prop) : Prop :=
  ∃ t, exec i s = .next t ∧ (s.pk.phase ≠ .effect → t.pk.verdict = .ok) ∧ (s.pk.phase ≠ .check → P t)

/-- `exec` answers a next state: by itself, the instruction freezes its context by the fault `fi` and has no effect of its
own (02 R27); in a packet, its check names the fault. -/
def Faults (i : Instr) (s : State) (cls : Nat) (fi : FaultInfo) : Prop :=
  ∃ t, exec i s = .next t ∧ (s.pk.phase ≠ .effect → t.pk.verdict = .fault cls fi)
    ∧ (s.pk.phase = .alone → t = (s.freezeWith cls fi).say (.fault cls fi))

/-- `exec` answers a next state: the instruction waits with the verdict `v`, and its check has changed nothing else. -/
def Stays (i : Instr) (s : State) (v : Verdict) : Prop := s.pk.phase ≠ .effect → exec i s = .next (s.say v)

/-! ## When a word may issue (02 R26-R30, 05 R77-R80) -/

/-- Checks 7 to 9 of 02 R26 pass: no helper restriction, no missing privilege, no link without a neighbour. -/
def rankOk (i : Instr) (f : Fields) (s : State) : Bool := (rankChecks i f s).isNone

/-- Nothing that the word reads is poisoned (20 R420), its guard included. -/
def cleanSources (i : Instr) (f : Fields) (s : State) : Bool :=
  !(Dest.p f.guard.p :: sources i.shape f).any s.me.poisoned

/-- Nothing that the word reads or writes waits for an operation, every link it reads has an entry and every link it writes
has room (05 R77, R78, R80). -/
def settled (i : Instr) (f : Fields) (s : State) : Bool :=
  !(f.guard.p != 0 && s.me.pending (Dest.p f.guard.p)) && !wordStalls i.shape f s

/-- The word may issue as far as its operands go, with a true guard: what its entry adds is apart. A class M word
also finds no deferred engine fault (02 R28). -/
def ready (i : Instr) (f : Fields) (s : State) : Bool :=
  rankOk i f s && cleanSources i f s && settled i f s && s.guardTrue f
    && ((i.key.getD ⟨0, 0, 0⟩).cl != 2 || s.engineFreeze.isNone)

/-! ## What an instruction leaves -/

/-- The issuing context is as before, but for one more in-flight record: the value commits at the start of the packet `lat`
packets later (05 R75, R86). -/
def Flies (s t : State) (d : Dest) (lat : Nat) (v : RVal) : Prop :=
  t.me = { s.me with inflight := ⟨d, v, s.me.pipe + lat, none⟩ :: s.me.inflight }

/-- A g result of latency `lat`: to a register or a link it is in flight; to ZERO it is discarded (05 R75, R76, R80). -/
def ResultG (s t : State) (d : Sel) (lat : Nat) (x : W64) : Prop :=
  match d with
  | .reg n => Flies s t (.g n) lat (.g x)
  | .link dir => ∃ key, Flies s t (.link dir false key) lat (.g x)
  | _ => t.me = s.me

/-- A v result of latency `lat`. -/
def ResultV (s t : State) (d : Sel) (lat : Nat) (x : VReg) : Prop :=
  match d with
  | .reg n => Flies s t (.v n) lat (.v x)
  | .link dir => ∃ key, Flies s t (.link dir true key) lat (.v x)
  | _ => t.me = s.me

/-- A predicate result: a write to p0 is discarded (05 R76). -/
def ResultP (s t : State) (d : Sel) (lat : Nat) (x : PBits) : Prop :=
  match d with
  | .reg n => if n.toNat % 8 = 0 then t.me = s.me else Flies s t (.p (n.truncate 3)) lat (.p x)
  | _ => t.me = s.me

/-- The issuing context is as before, but that one destination waits for a new scoreboarded operation named `tok`; ZERO waits
for nothing (05 R77). -/
def Waits (s t : State) (d : Dest) (tok : Nat) : Prop :=
  t.me = { s.me with pend := (if d = .none then [] else [⟨d, tok⟩]) ++ s.me.pend }

/-- The context with one more in-flight record, or as it is where the result has no destination. -/
def flying (c : Ctx) (d : Dest) (lat : Nat) (v : RVal) : Ctx :=
  if d = .none then c else { c with inflight := ⟨d, v, c.pipe + lat, none⟩ :: c.inflight }

/-- The tick of `.tk` (02 R36). -/
def tickedBy (f : Fields) (now : Nat) (c : Ctx) : Ctx := if f.tk then c.tick now else c

/-- A scoreboarded result that its unit answers at once: in flight behind every result in flight to the same destination,
with the scoreboard entry that its commit clears (05 R77). -/
def Quick (s t : State) (d : Dest) (v : RVal) : Prop :=
  if d = .none then t.me = s.me
  else ∃ tok due, s.me.pipe + 1 ≤ due ∧ (∀ r ∈ s.me.inflight, r.dest = d → r.due ≤ due)
    ∧ ((∀ r ∈ s.me.inflight, r.dest ≠ d) → due = s.me.pipe + 1)
    ∧ t.me = { s.me with inflight := ⟨d, v, due, some tok⟩ :: s.me.inflight, pend := ⟨d, tok⟩ :: s.me.pend }

/-- The operation `tok` lands `x` in a context: a g register that waits for it alone and has no result in flight holds `x` and
waits no more (05 R77). -/
def LandsG (s t : State) (c : CtxId) (tok : Nat) (x : W64) : Prop :=
  ∀ n, (s.ctx c).pend.filter (fun p => p.tok == tok) = [⟨.g n, tok⟩] → (∀ r ∈ (s.ctx c).inflight, r.dest ≠ .g n) →
    (t.ctx c).getG n = x ∧ (t.ctx c).pend = (s.ctx c).pend.filter (fun p => !(p.tok == tok))

/-- The same of a v register. -/
def LandsV (s t : State) (c : CtxId) (tok : Nat) (x : VReg) : Prop :=
  ∀ n, (s.ctx c).pend.filter (fun p => p.tok == tok) = [⟨.v n, tok⟩] → (∀ r ∈ (s.ctx c).inflight, r.dest ≠ .v n) →
    (t.ctx c).getV n = x ∧ (t.ctx c).pend = (s.ctx c).pend.filter (fun p => !(p.tok == tok))

/-- The part of a core's bound task stands on that core. -/
def partHere (s : State) (k : CoreId) : Bool :=
  match (s.core k).task with
  | none => true
  | some n => match s.tasks.find n with
    | some tk => tk.core == some k
    | none => false

/-! ## What an instruction leaves alone -/

/-- Only cores, tasks (a neighbour's channels) and the model's own bookkeeping may differ: memory, its keys, tags and poison
and every unit outside the cores are as before. -/
def CoresOnly (s t : State) : Prop := t = { s with cores := t.cores, tasks := t.tasks, nextId := t.nextId, pk := t.pk }

/-- The committed registers of a context: g, v, p, the special registers, the PC chain, the repeat, poison and the record. -/
def SameRegisters (a b : Ctx) : Prop :=
  b = { a with inflight := b.inflight, pend := b.pend, divide := b.divide }

/-- Apart from its links, a core's part is as before: scratchpad, rings, stashes, windows, engines. -/
def SamePart (a b : TaskCore) : Prop := b = { a with ctxs := b.ctxs, links := b.links }

/-- The frame of an instruction whose only effect is a result: everything in memory and in every core is as before, but for
the in-flight records and the scoreboard of the issuing context and the entries of links. -/
def ResultFrame (s t : State) : Prop :=
  CoresOnly s t ∧ SameRegisters s.me t.me ∧ SamePart s.myTc t.myTc ∧ (∀ c, c ≠ s.cur → t.ctx c = s.ctx c)
    ∧ (∀ a, t.mem.byte a = s.mem.byte a)

/-- Nothing but the issuing core's part and the model's bookkeeping differs: every byte of memory, every task, every other
core and every other context is as before. -/
def OnlyMyCore (s t : State) : Prop :=
  CoresOnly s t ∧ t.tasks = s.tasks ∧ (∀ k, k ≠ s.cur.core → t.core k = s.core k) ∧ (∀ c, c ≠ s.cur → t.ctx c = s.ctx c)
    ∧ (∀ a, t.mem.byte a = s.mem.byte a)

/-! ## Invariants -/

/-- Memory keeps its canonical form (log 3, DESIGN CHOICE). -/
def MemoryCanonical (s : State) : Prop := s.mem.wf = true

end Sys2Proof.Machine
end

