-- ==== Sys2Proof/Certificates/Slice0/Obligations.lean ====
section
/-! DEFINITION. The statements for the provers. Each is named for what it states and cites the rules it comes from. -/

set_option linter.unusedVariables false

open Sys2Proof Sys2Proof.Machine Sys2Proof.Lanes

/-- Decoding the encoding of any well-formed instruction gives it back: For every well-formed instruction i, with every
field at every value its entry admits, and the word w that encode writes for it, decode w is i: no bit of an encoding is
dropped and no two well-formed instructions share a word. (02_instruction_word.md Encoding of instructions, R29, R47) -/
def Obligations.DecodeEncodeAgree : Prop :=
  ∀ i w, i.wellFormed = true → encode i = some w → decode w = .ok i

/-- A word that decodes is exactly the encoding of a well-formed instruction: Whenever decode reads an instruction i from a
96-bit word w, i is well formed and w is the word that encode writes for i. So a word with a non-zero bit in a field
that its entry does not assign is never read as an instruction. (R29, R47) -/
def Obligations.WordHasOneMeaning : Prop :=
  ∀ w i, decode w = .ok i → i.wellFormed = true ∧ encode i = some w

/-- Worked words of the spec decode to the instructions they stand for: Fifteen words that the spec's tables write out
decode to the instruction beside them: add, add with IMM, vadd with a link and a lane pattern, nop, cmp.ne, ld, mmul.ls,
mfin, einf, edom.get, rres, cp with a ring, fence.ar.sys, start.w and a guarded branch. (R29, R30, R31, R36, R37) -/
def Obligations.WorkedWordsDecode : Prop :=
  let g (n : BitVec 5) : Sel := .reg n
  let z := Fields.zero
  decode 0x000008418000000000000000#96 = .ok (.add { z with d := g 1, a := g 2, b := g 3 })
  ∧ decode 0x000020928000000000000001#96 = .ok (.add { z with d := g 4, a := g 4, b := .imm, imm := 1 })
  ∧ decode 0x20003C638001200000000000#96 = .ok (.vadd { z with d := g 7, a := .link .w, b := g 7, la := 0b001001 })
  ∧ decode 0x800000000000000000000000#96 = .ok (.nop z)
  ∧ decode 0x048008520008000000000000#96 = .ok (.cmp { z with d := g 1, a := g 2, b := .zero, mod := 0b000001 })
  ∧ decode 0x6200190000D8003000000000#96 = .ok (.ld { z with d := g 3, a := g 8, mod := 0b011011, x := 0b0110000 })
  ∧ decode 0x408004A18080000000000040#96 = .ok (.mmul { z with a := .imm, b := g 3, mod := 0b010000, imm := 64 })
  ∧ decode 0x412008800000000800000000#96 = .ok (.mfin { z with d := g 1, a := g 4, x := 8 })
  ∧ decode 0x44A020008000000000000000#96 = .ok (.einf { z with d := g 4, a := g 0, b := g 1 })
  ∧ decode 0x458038600008000000000000#96 = .ok (.edomGet { z with d := g 7, a := g 3, mod := 1 })
  ∧ decode 0x616008400000000000000000#96 = .ok (.rres { z with d := g 1, a := g 2 })
  ∧ decode 0x640048624A4000FC00000800#96
      = .ok (.cp { z with d := g 9, a := g 3, b := g 4, c := .imm, mod := 0b001000, lb := 1, x := 0x7C, imm := 0x800 })
  ∧ decode 0x820000000118000000000000#96 = .ok (.fence { z with mod := 0b100011 })
  ∧ decode 0x850009008008000000000000#96 = .ok (.start { z with d := g 1, a := g 8, b := g 1, mod := 1 })
  ∧ decode 0x8022000000000000FFFFFFF8#96 = .ok (.b { z with guard := ⟨false, 1⟩, imm := 0xFFFFFFF8 })

/-- The patterns of R47 that a word shows by itself are refused: No word decodes whose class is 101, 110 or 111, whose guard
field is 0b1000, one of whose selectors is 38 to 63, whose OP is missing from the map of its class, or whose destination
selects IMM. The other fates of R47 follow from WordHasOneMeaning and well-formedness. (R30, R31, R47) -/
def Obligations.IllegalPatternsRefused : Prop :=
  ∀ w : W96,
    (5 ≤ bitsOf w 95 93 ∨ bitsOf w 84 81 = 8
      ∨ 38 ≤ bitsOf w 80 75 ∨ 38 ≤ bitsOf w 74 69 ∨ 38 ≤ bitsOf w 68 63 ∨ 38 ≤ bitsOf w 62 57
      ∨ bitsOf w 80 75 = 37
      ∨ (bitsOf w 95 93 ≤ 1 ∧ 48 ≤ bitsOf w 92 85)
      ∨ (bitsOf w 95 93 = 2 ∧ ((16 ≤ bitsOf w 92 85 ∧ bitsOf w 92 85 < 32) ∨ 46 ≤ bitsOf w 92 85))
      ∨ (bitsOf w 95 93 = 3 ∧ ((30 ≤ bitsOf w 92 85 ∧ bitsOf w 92 85 < 32) ∨ (40 ≤ bitsOf w 92 85 ∧ bitsOf w 92 85 < 48)
          ∨ 54 ≤ bitsOf w 92 85))
      ∨ (bitsOf w 95 93 = 4 ∧ ((11 ≤ bitsOf w 92 85 ∧ bitsOf w 92 85 < 16) ∨ (20 ≤ bitsOf w 92 85 ∧ bitsOf w 92 85 < 32)
          ∨ bitsOf w 92 85 = 47 ∨ 58 ≤ bitsOf w 92 85)))
    → ∀ i, decode w ≠ .ok i

/-- A step runs the instruction that the line at PCQ0 decodes to, or exactly the event row that the agenda names: Nothing
that was sent is overdue (18 R385, R396), and the next move is a cycle of core k, whose helpers do not run and whose
lead can be tried, its exit not held over from a packet. If fetching the packet at PCQ0 gives a line whose only non-
empty position of the packet is p, the word there decodes to i, i may stand there, no breakpoint matches and i passes
its check on the state with the due commits made, then the step answers what exec gives for i in the effect phase on
that state, followed by the packet's boundary (the move of the chain, pipe time) and one cycle of time, in which each
router of a torus has its cycle (18 R382). When the agenda, the model's own list of who moves next (log 4), begins with
an event row, the step is exec of that row with a fresh packet record; when it begins with a wait, only time passes, and
no further than the next such message allows. (R21, R26, R28, R72, R74, 05_control.md, 95_what_each_step_holds.md,
01_machine.md) -/
def Obligations.StepRunsDecodedInstruction : Prop :=
  (∀ (s s1 u t : State) (ms : List Move) (k : CoreId) (bits p : Nat) (i : Instr),
      s.overdue = none → s.agenda = .core k :: ms → s.hasCore k = true →
      (∀ n, 1 ≤ n → n ≤ 10 → (s.ctx ⟨k, n⟩).life ≠ .running) →
      let c : CtxId := ⟨k, 0⟩
      let s0 : State := { s with agenda := ms }
      s0.canTry c = true →
      ({ s0 with cur := c, pk := Pk.fresh } : State).fetch c = (.line bits, s1) →
      (s1.ctx c).leaving = false →
      (s1.ctx c).pcq0.anl = false →
      ((s1.ctx c).pcq0.tgt = true → tmBit bits (pcPos (s1.ctx c).pcq0.pc) = true) →
      packetPositions bits (pcPos (s1.ctx c).pcq0.pc) = [p] →
      instrAt bits p = some i →
      let s2 := s1.commitDue (s1.core k).task c
      placeOk (s2.ctx c) (pcLine (s2.ctx c).pcq0.pc) (packetEnd bits (pcPos (s2.ctx c).pcq0.pc)) i = true →
      (s2.ctx c).breaksAt (pcAt (pcLine (s1.ctx c).pcq0.pc) p) = false →
      exec i { s2 with pk := { Pk.fresh with phase := .check, pos := p } } = .next u →
      (u.pk.verdict = .ok ∨ u.pk.verdict = .idle) →
      exec i { s2 with pk := { Pk.fresh with phase := .effect, pos := p, before := some (s2.tc k) } } = .next t →
      step s = .next (((t.finish c).countStarved k (some 0) []).pass 1))
  ∧ ((∀ (s : State) (ms : List Move) (i : Instr), s.overdue = none → s.agenda = .event i :: ms →
      step s = exec i { s with agenda := ms, pk := Pk.fresh })
    ∧ (∀ (s : State) (ms : List Move) (n : Nat), s.overdue = none → s.agenda = .wait n :: ms →
      step s = .next ({ s with agenda := ms }.pass (s.untilDue n))))

namespace Sys2Proof.Machine

/-- The rows of the table of 06 R104: the instruction, its latency, F(a, b). -/
def twoSourceRows : List ((Fields → Instr) × Nat × (W64 → W64 → W64)) := [
  (.add, 1, fun a b => BitVec.ofNat 64 (a.toNat + b.toNat)),
  (.sub, 1, fun a b => BitVec.ofInt 64 ((a.toNat : Int) - b.toNat)),
  (.mul, 3, fun a b => BitVec.ofNat 64 (a.toNat * b.toNat)),
  (.mulh, 3, fun a b => BitVec.ofInt 64 (a.toInt * b.toInt / 2 ^ 64)),
  (.mulhu, 3, fun a b => BitVec.ofNat 64 (a.toNat * b.toNat / 2 ^ 64)),
  (.and, 1, fun a b => BitVec.ofNat 64 (a.toNat &&& b.toNat)),
  (.or, 1, fun a b => BitVec.ofNat 64 (a.toNat ||| b.toNat)),
  (.xor, 1, fun a b => BitVec.ofNat 64 (a.toNat ^^^ b.toNat)),
  (.andn, 1, fun a b => a &&& ~~~ b),
  (.shl, 1, fun a b => BitVec.ofNat 64 (a.toNat * 2 ^ (b.toNat % 64))),
  (.shr, 1, fun a b => BitVec.ofNat 64 (a.toNat / 2 ^ (b.toNat % 64))),
  (.sra, 1, fun a b => BitVec.ofInt 64 (a.toInt / 2 ^ (b.toNat % 64))),
  (.rol, 1, fun a b => a.rotateLeft (b.toNat % 64)),
  (.min, 1, fun a b => if a.toInt ≤ b.toInt then a else b),
  (.minu, 1, fun a b => if a.toNat ≤ b.toNat then a else b),
  (.max, 1, fun a b => if a.toInt ≤ b.toInt then b else a),
  (.maxu, 1, fun a b => if a.toNat ≤ b.toNat then b else a)]

/-- Quotient and remainder of 06 R105: the instruction, whether it is signed, its value. -/
def divideRows : List ((Fields → Instr) × Bool × (W64 → W64 → W64)) := [
  (.div, true, fun a b =>
    if b.toInt = 0 then BitVec.ofInt 64 (-1)
    else if a.toInt = -2 ^ 63 ∧ b.toInt = -1 then BitVec.ofInt 64 (-2 ^ 63)
    else BitVec.ofInt 64 (a.toInt.tdiv b.toInt)),
  (.rem, true, fun a b =>
    if b.toInt = 0 then a
    else if a.toInt = -2 ^ 63 ∧ b.toInt = -1 then 0
    else BitVec.ofInt 64 (a.toInt - b.toInt * a.toInt.tdiv b.toInt)),
  (.divu, false, fun a b => if b.toNat = 0 then BitVec.ofNat 64 (2 ^ 64 - 1) else BitVec.ofNat 64 (a.toNat / b.toNat)),
  (.remu, false, fun a b => if b.toNat = 0 then a else BitVec.ofNat 64 (a.toNat % b.toNat))]

/-- The cycles of a divide (06 R106): n is the least number of bits that holds the magnitude of the dividend. -/
def DivideCycles (isSigned : Bool) (a b : W64) (c : Nat) : Prop :=
  let m := if isSigned then a.toInt.natAbs else a.toNat
  ∃ n, m < 2 ^ n ∧ (∀ k, m < 2 ^ k → n ≤ k)
    ∧ c = if b.toNat = 0 then 12 else min 40 (max 12 (8 + (n + 1) / 2))

/-- The width of six bits, 0 meaning 64 (06 R110-R112). -/
def sixBitWidth (n : Nat) : Nat := if n % 64 = 0 then 64 else n % 64

end Sys2Proof.Machine

/-- The seventeen two-source integer instructions complete with F(a, b): For each row of the table of R104 (add, sub, mul,
mulh, mulhu, and, or, xor, andn, shl, shr, sra, rol, min, minu, max, maxu) and every operand form, in a state in which
the word may issue, exec answers a next state in which the issuing context is as before but for one more in-flight
record: F(a, b) for gd, due the row's latency later. A link destination names the reserved entry; a ZERO destination
leaves the context as it was. (R104) -/
def Obligations.ScalarTwoSourceResults : Prop :=
  ∀ r ∈ twoSourceRows, ∀ (f : Fields) (s : State), ready (r.1 f) f s = true →
    Completes (r.1 f) s (fun t => ResultG s t f.d r.2.1 (r.2.2 (s.gval f f.a) (s.gval f f.b)))

/-- div, divu, rem and remu start the divider and land; a due result is what its register holds from the packet on: For each
of the four and every operand form: where the word may issue and the divider is free, exec answers a next state in which
the context holds a divide that lands c cycles after issue with the quotient or remainder of R105 (c by R106), its
destination pending (ZERO pending on nothing); while an earlier divide is pending the check finds a stall and changes
nothing. When the landing cycle has come, DIVIDE_LAND completes, for the core's own task, else in the saved frame of a
task that left the core: the divider is free, and a g register that waits for the divide alone and has no result in
flight holds the value and is no longer pending. Take a context whose newest in-flight record is a value for a g, v or p
register (p0 apart). If the record is due by pipe time, then after the commits of the packet's start the register holds
exactly that value. If no record is due, the commits change no register. That the divider is free once its cycles are
over, even while its result waits behind a fixed one, is the model's choice (log 13). (R105, R106, R77, R80, R75, R76,
R86) -/
def Obligations.DivideAndDueResults : Prop :=
  ((∀ r ∈ divideRows, ∀ (f : Fields) (s : State), ready (r.1 f) f s = true →
      (s.me.divide = none → ∀ c, DivideCycles r.2.1 (s.gval f f.a) (s.gval f f.b) c →
        Completes (r.1 f) s (fun t => ∃ tok pend, t.me = { s.me with
            divide := some ⟨tok, r.2.2 (s.gval f f.a) (s.gval f f.b), s.now + c⟩, pend := pend ++ s.me.pend }
          ∧ (match f.d with
            | .reg n => pend = [⟨.g n, tok⟩]
            | .link dir => ∃ key, pend = [⟨.link dir false key, tok⟩]
            | _ => pend = [])))
      ∧ (s.me.divide ≠ none → Stays (r.1 f) s .stall))
    ∧ (∀ (c : CtxId) (s : State),
      let left (u : Option Nat) : Prop := ∃ id tk, u = some id ∧ s.tasks.find id = some tk ∧ tk.frame.isSome = true
        ∧ tk.lastCore = some c.core
      let due (u : Option Nat) (d : Divide) : Prop := (s.ctxOf u c).divide = some d ∧ d.landAt ≤ s.now
      ∀ task d, due task d → task = (s.core c.core).task
          ∨ (left task ∧ ∀ u e, u = (s.core c.core).task ∨ left u → due u e → u = task) →
        Completes (.divideLand c) s (fun t => (t.ctxOf task c).divide = none
          ∧ ∀ n, (s.ctxOf task c).pend = [⟨.g n, d.tok⟩] → (∀ r ∈ (s.ctxOf task c).inflight, r.dest ≠ .g n) →
            (t.ctxOf task c).getG n = d.val ∧ (t.ctxOf task c).pend = [])))
  ∧ (∀ (s : State) (task : Option Nat) (c : CtxId) (r : InFlight) (rest : List InFlight),
      (s.ctxOf task c).inflight = r :: rest →
      (r.due ≤ (s.ctxOf task c).pipe →
        let k := (s.commitDue task c).ctxOf task c
        (∀ n x, r.dest = .g n → r.val = .g x → k.getG n = x)
        ∧ (∀ n x, r.dest = .v n → r.val = .v x → k.getV n = x)
        ∧ (∀ n x, r.dest = .p n → n ≠ 0 → r.val = .p x → k.getP n = x))
      ∧ ((∀ q ∈ r :: rest, (s.ctxOf task c).pipe < q.due) → (s.commitDue task c).ctxOf task c = s.ctxOf task c))

/-- sel, mov, movh and lea complete with their values: In a state in which the word may issue, sel gives ga where bit 0 of
pc is set and gb otherwise, mov gives a, movh gives b[31:0] above a[31:0], and lea gives ga + off + gb mod 2^64, each
one packet later, for every operand form. (R107, R108, R109) -/
def Obligations.ScalarMovesComplete : Prop :=
  ∀ (f : Fields) (s : State),
    (ready (.sel f) f s = true → Completes (.sel f) s (fun t =>
      ResultG s t f.d 1 (if (s.pval f.c).getLsbD 0 then s.gval f f.a else s.gval f f.b)))
    ∧ (ready (.mov f) f s = true → Completes (.mov f) s (fun t => ResultG s t f.d 1 (s.gval f f.a)))
    ∧ (ready (.movh f) f s = true → Completes (.movh f) s (fun t => ResultG s t f.d 1
        (BitVec.ofNat 64 ((s.gval f f.b).toNat % 2 ^ 32 * 2 ^ 32 + (s.gval f f.a).toNat % 2 ^ 32))))
    ∧ (ready (.lea f) f s = true → Completes (.lea f) s (fun t => ResultG s t f.d 1
        (BitVec.ofInt 64 ((s.gval f f.a).toInt + f.imm.toInt + (s.gval f f.b).toInt))))

/-- ext, extu, ins, sext and zext complete with the fields R111 gives: With w = WD (0 meaning 64) and PS taken from the
descriptor, where the word may issue: ext sign-extends and extu zero-extends the w bits of a from PS on, bits beyond 63
reading as copies of bit 63 or as zero; ins gives the number whose bits from PS to PS+w-1 (those up to 63) are the low
bits of b and whose others are a's; sext and zext extend the low w bits of a, w being b[5:0]. (R110, R111) -/
def Obligations.BitfieldResults : Prop :=
  ∀ (f : Fields) (s : State),
    let a := s.gval f f.a
    let b := s.gval f f.b
    let c := s.gval f f.c
    let wb := sixBitWidth (b.toNat / 256)
    let sext (w x : Nat) : W64 := BitVec.ofInt 64 (if x < 2 ^ (w - 1) then (x : Int) else x - 2 ^ w)
    (ready (.ext f) f s = true → Completes (.ext f) s (fun t => ResultG s t f.d 1
      (sext wb ((a.toInt / 2 ^ (b.toNat % 64) % 2 ^ wb).toNat))))
    ∧ (ready (.extu f) f s = true → Completes (.extu f) s (fun t => ResultG s t f.d 1
      (BitVec.ofNat 64 (a.toNat / 2 ^ (b.toNat % 64) % 2 ^ wb))))
    ∧ (ready (.ins f) f s = true → ∀ r : W64,
        (∀ i, i < 64 → r.getLsbD i =
          if c.toNat % 64 ≤ i ∧ i < c.toNat % 64 + sixBitWidth (c.toNat / 256) then b.getLsbD (i - c.toNat % 64)
          else a.getLsbD i) →
        Completes (.ins f) s (fun t => ResultG s t f.d 1 r))
    ∧ (ready (.sext f) f s = true → Completes (.sext f) s (fun t => ResultG s t f.d 1
      (sext (sixBitWidth b.toNat) (a.toNat % 2 ^ sixBitWidth b.toNat))))
    ∧ (ready (.zext f) f s = true → Completes (.zext f) s (fun t => ResultG s t f.d 1
      (BitVec.ofNat 64 (a.toNat % 2 ^ sixBitWidth b.toNat))))

/-- clz, ctz, ffs, popc, bswap and brev complete with what R112 counts or reverses: On the field x = a[w-1:0], w = b[5:0]
with 0 meaning 64, where the word may issue: clz gives the n with n leading zeros within w bits, ctz the index of the
lowest set bit (w for x = 0), ffs one more than it (0 for x = 0), popc the number of set bits, bswap the number whose
byte k is byte w/8-1-k of x, and brev the number whose bit i is bit w-1-i of x, each zero-extended, one packet later.
(R112) -/
def Obligations.BitCountResults : Prop :=
  ∀ (f : Fields) (s : State),
    let w := sixBitWidth (s.gval f f.b).toNat
    let x := (s.gval f f.a).toNat % 2 ^ w
    (ready (.clz f) f s = true → ∀ n, n ≤ w → x < 2 ^ (w - n) → (n < w → 2 ^ (w - n - 1) ≤ x) →
      Completes (.clz f) s (fun t => ResultG s t f.d 1 (BitVec.ofNat 64 n)))
    ∧ (ready (.ctz f) f s = true → ∀ n, (x = 0 → n = w) → (x ≠ 0 → x.testBit n = true ∧ ∀ m, m < n → x.testBit m = false) →
      Completes (.ctz f) s (fun t => ResultG s t f.d 1 (BitVec.ofNat 64 n)))
    ∧ (ready (.ffs f) f s = true → ∀ n, (x = 0 → n = 0) →
        (x ≠ 0 → 0 < n ∧ x.testBit (n - 1) = true ∧ ∀ m, m < n - 1 → x.testBit m = false) →
      Completes (.ffs f) s (fun t => ResultG s t f.d 1 (BitVec.ofNat 64 n)))
    ∧ (ready (.popc f) f s = true → Completes (.popc f) s (fun t => ResultG s t f.d 1
        (BitVec.ofNat 64 ((List.range w).filter (fun i => x.testBit i)).length)))
    ∧ (ready (.bswap f) f s = true → ∀ r : W64, r.toNat < 256 ^ (w / 8) →
        (∀ k, k < w / 8 → r.toNat / 256 ^ k % 256 = x / 256 ^ (w / 8 - 1 - k) % 256) →
      Completes (.bswap f) s (fun t => ResultG s t f.d 1 r))
    ∧ (ready (.brev f) f s = true → ∀ r : W64, (∀ i, i < 64 → r.getLsbD i = (decide (i < w) && x.testBit (w - 1 - i))) →
      Completes (.brev f) s (fun t => ResultG s t f.d 1 r))

/-- cmp writes its condition to all 512 bits, and pset combines predicates bit by bit: Where the word may issue: cmp with
condition 0 to 5 writes, one packet later, all ones where a cc b holds as signed values, or as unsigned values under .u,
and all zeros otherwise; pset writes the AND, OR, XOR or AND NOT of its two predicates. A write to p0 is discarded.
(R113, R115) -/
def Obligations.CompareResults : Prop :=
  ∀ (f : Fields) (s : State),
    let a := s.gval f f.a
    let b := s.gval f f.b
    let x : Int := if f.modU then a.toNat else a.toInt
    let y : Int := if f.modU then b.toNat else b.toInt
    (ready (.cmp f) f s = true → ∀ holds : Bool,
      ((f.cc = 0 ∧ holds = decide (a = b)) ∨ (f.cc = 1 ∧ holds = decide (a ≠ b)) ∨ (f.cc = 2 ∧ holds = decide (x < y))
        ∨ (f.cc = 3 ∧ holds = decide (x ≤ y)) ∨ (f.cc = 4 ∧ holds = decide (y < x)) ∨ (f.cc = 5 ∧ holds = decide (y ≤ x))) →
      Completes (.cmp f) s (fun t => ResultP s t f.d 1 (if holds then BitVec.allOnes 512 else 0)))
    ∧ (ready (.pset f) f s = true → ∀ r : PBits,
      (∀ i, i < 512 → r.getLsbD i = match f.mod.toNat % 4 with
        | 0 => (s.pval f.a).getLsbD i && (s.pval f.b).getLsbD i
        | 1 => (s.pval f.a).getLsbD i || (s.pval f.b).getLsbD i
        | 2 => (s.pval f.a).getLsbD i != (s.pval f.b).getLsbD i
        | _ => (s.pval f.a).getLsbD i && !(s.pval f.b).getLsbD i) →
      Completes (.pset f) s (fun t => ResultP s t f.d 1 r))

/-- fadd, fmul, ffma, fmin, fmax, fcvt and cmpf complete four packets later; NaN operands give what R114 and R116 say: Where
the word may issue, each scalar float instruction and fcvt answers a next state whose one new record, due four packets
later, holds the value that the model's arithmetic of R116 and R144 gives. Where an operand is NaN, fadd, fmul and ffma
give the canonical quiet NaN and cmpf is true for .ne and .un alone; where both are NaN, fmin and fmax give the
canonical NaN, and where one is, the other operand, a subnormal of which is zero of its sign under FCTL.fz. (R114, R116,
R144) -/
def Obligations.ScalarFloatResults : Prop :=
  (∀ (f : Fields) (s : State),
    let a := s.gval f f.a
    let b := s.gval f f.b
    let m := s.me.spr.fctl
    (ready (.fadd f) f s = true → Completes (.fadd f) s (fun t => ResultG s t f.d 4 (Alu.fadd f.modTop m a b)))
    ∧ (ready (.fmul f) f s = true → Completes (.fmul f) s (fun t => ResultG s t f.d 4 (Alu.fmul f.modTop m a b)))
    ∧ (ready (.ffma f) f s = true → Completes (.ffma f) s (fun t =>
        ResultG s t f.d 4 (Alu.ffma f.modTop m a b (s.gval f f.c))))
    ∧ (ready (.fmin f) f s = true → Completes (.fmin f) s (fun t => ResultG s t f.d 4 (Alu.fminmax false f.modTop m a b)))
    ∧ (ready (.fmax f) f s = true → Completes (.fmax f) s (fun t => ResultG s t f.d 4 (Alu.fminmax true f.modTop m a b)))
    ∧ (ready (.fcvt f) f s = true → Completes (.fcvt f) s (fun t =>
        ResultG s t f.d 4 (Alu.fcvt f.cvtTo f.cvtFrom f.modInf m a)))
    ∧ (ready (.cmpf f) f s = true → Completes (.cmpf f) s (fun t =>
        ResultP s t f.d 4 (if Alu.cmpf f.cc f.modTop m a b then BitVec.allOnes 512 else 0))))
  ∧ (∀ (dbl : Bool) (m a b c : W64),
    let nan : W64 := if dbl then 0x7FF8000000000000 else 0x7FC00000
    let isNan (x : W64) : Prop := if dbl then 0x7FF0000000000000 < x.toNat % 2 ^ 63 else 0x7F800000 < x.toNat % 2 ^ 31
    (isNan a ∨ isNan b →
      Alu.fadd dbl m a b = nan ∧ Alu.fmul dbl m a b = nan ∧ Alu.ffma dbl m a b c = nan
      ∧ ∀ cc, Alu.cmpf cc dbl m a b = (cc == 1 || cc == 6))
    ∧ (isNan c → Alu.ffma dbl m a b c = nan)
    ∧ (∀ isMax, isNan a → isNan b → Alu.fminmax isMax dbl m a b = nan)
    ∧ (∀ isMax, isNan a → ¬isNan b →
      let x : W64 := if dbl then b else b &&& 0xFFFFFFFF
      let sign : W64 := if dbl then 0x8000000000000000 else 0x80000000
      let exponent : W64 := if dbl then 0x7FF0000000000000 else 0x7F800000
      let y : W64 := if bitAt m 2 = true ∧ x &&& exponent = 0 then x &&& sign else x
      Alu.fminmax isMax dbl m a b = y ∧ Alu.fminmax isMax dbl m b a = y))

/-- mrd, mwr and rdtime complete; an mwr by a helper to a core-scoped register freezes it after the packet: Where the word
may issue: mrd gives, one packet later, the register as it stood before the packet (one of the core where R118 gives it
core scope, one of the context otherwise); mwr puts a write of ga to the register in flight, due at the start of the
next packet, except that a helper's write to a core-scoped register has no effect and a freeze with ILLEGAL_HELPER_OP at
the boundary is set, unless a lower position has set one (log 37, the model's choice); rdtime gives the package time
counter of its cycle. (R117, R119, R120, R118) -/
def Obligations.SpecialRegisterMoves : Prop :=
  ∀ (f : Fields) (s : State),
    (ready (.mrd f) f s = true → Completes (.mrd f) s (fun t => ResultG s t f.d 1
      (let n := f.sprNum
       let before := s.pk.before.getD s.myTc
       if n = 4 then before.sctl else if n = 5 then before.etol else if n = 6 then before.mthr
       else if h : 0x10 ≤ n ∧ n ≤ 0x13 then before.win[n - 0x10]
       else if n = 0x30 then s.me.pcq0.word else if n = 0x31 then s.me.pcq1.word else if n = 0x32 then s.me.pcq2.word
       else (before.ctx s.cur.ctx).spr.read n)))
    ∧ (ready (.mwr f) f s = true →
        (s.cur.ctx = 0 ∨ ¬(f.sprNum = 4 ∨ f.sprNum = 5 ∨ f.sprNum = 6 ∨ (0x10 ≤ f.sprNum ∧ f.sprNum ≤ 0x13)) →
          Completes (.mwr f) s (fun t => Flies s t (.spr f.sprNum) 1 (.g (s.gval f f.a))))
        ∧ (s.cur.ctx ≠ 0 → (f.sprNum = 4 ∨ f.sprNum = 5 ∨ f.sprNum = 6 ∨ (0x10 ≤ f.sprNum ∧ f.sprNum ≤ 0x13)) →
          Completes (.mwr f) s (fun t => t.me = s.me ∧ t.myTc.sctl = s.myTc.sctl ∧ t.myTc.etol = s.myTc.etol
            ∧ t.myTc.mthr = s.myTc.mthr ∧ t.myTc.win = s.myTc.win ∧ t.pk.after = some (s.pk.after.getD ⟨0x06, 0, s.myPc⟩))))
    ∧ (ready (.rdtime f) f s = true → Completes (.rdtime f) s (fun t => ResultG s t f.d 1
        (BitVec.ofNat 64 (s.now - (s.pkg s.cur.core.pkg).timeBase))))

namespace Sys2Proof.Machine

/-- Lane `i` of width `w` (07 R123). -/
def laneAt (w : Nat) (x : VBits) (i : Nat) : Nat := x.toNat / 2 ^ (w * i) % 2 ^ w

/-- A lane read as an integer: unsigned under `.u`, two's complement otherwise (07 R131). -/
def laneInt (w : Nat) (u : Bool) (x : VBits) (i : Nat) : Int :=
  let z := laneAt w x i
  if u || decide (z < 2 ^ (w - 1)) then z else (z : Int) - 2 ^ w

/-- The two-source rows of 08 R151: instruction, operation, whether it takes floating and tapered tags, latency on integer
and on other tags. -/
def vectorRows : List ((Fields → Instr) × Op2 × Bool × Nat × Nat) := [
  (.vadd, .add, true, 2, 4), (.vsub, .sub, true, 2, 4), (.vmul, .mul, true, 4, 4), (.vmin, .min, true, 2, 2),
  (.vmax, .max, true, 2, 2), (.vmulh, .mulh, false, 4, 4), (.vavg, .avg, true, 2, 4), (.vabd, .abd, true, 2, 4)]

/-- F on integer tags (08 R151) of the same rows: the instruction, its latency, F at lane width w. -/
def vectorIntRows : List ((Fields → Instr) × Nat × (Nat → Int → Int → Int)) := [
  (.vadd, 2, fun _ a b => a + b), (.vsub, 2, fun _ a b => a - b), (.vmul, 4, fun _ a b => a * b),
  (.vmin, 2, fun _ a b => min a b), (.vmax, 2, fun _ a b => max a b), (.vmulh, 4, fun w a b => a * b / 2 ^ w),
  (.vavg, 2, fun _ a b => (a + b + 1) / 2), (.vabd, 2, fun _ a b => ((a - b).natAbs : Int))]

/-- The fused rows of 08 R152. -/
def fusedRows : List ((Fields → Instr) × Op3) := [(.vfma, .fma), (.vfms, .fms), (.vfnma, .fnma)]

/-- The bitwise rows of 08 R154. -/
def bitwiseRows : List ((Fields → Instr) × (Bool → Bool → Bool)) := [
  (.vand, fun a b => a && b), (.vor, fun a b => a || b), (.vxor, fun a b => a != b), (.vandn, fun a b => a && !b)]

/-- The shifts of 08 R155: what a lane of width w gives, shifted by n. -/
def shiftRows : List ((Fields → Instr) × (Nat → Nat → Nat → Nat)) := [
  (.vshl, fun w x n => x * 2 ^ n % 2 ^ w), (.vshr, fun _ x n => x / 2 ^ n),
  (.vsra, fun w x n => ((if x < 2 ^ (w - 1) then (x : Int) else (x : Int) - 2 ^ w) / 2 ^ n % 2 ^ w).toNat)]

/-- The bit counts of 08 R166. -/
def countRows : List ((Fields → Instr) × Count) := [(.vclz, .clz), (.vpopc, .popc), (.vffs, .ffs)]

/-- The functions of 08 R167. -/
def fnRows : List ((Fields → Instr) × Transcend.Fn) := [
  (.vexp2, .exp2), (.vlog2, .log2), (.vrcp, .rcp), (.vrsq, .rsq), (.vsin, .sin), (.vcos, .cos), (.vtanh, .tanh)]

/-- The register that a narrowing conversion also reads is neither poisoned nor pending (07 R137, 05 R78). -/
def oldReadable (s : State) (d : Sel) : Bool :=
  match d with
  | .reg n => !s.me.poisoned (.v n) && !s.me.pending (.v n)
  | _ => true

/-- The packed source of a conversion. -/
def convertSource (s : State) (f : Fields) : VReg :=
  match s.va f with
  | .val r => r
  | _ => ⟨0, .raw⟩

/-- The old bits of a destination register (07 R137). -/
def oldBits (s : State) (d : Sel) : VBits :=
  match d with
  | .reg n => (s.me.getV n).bits
  | _ => 0

end Sys2Proof.Machine

/-- Integer lanes: two-source operations give F(a, b) mod 2^w; bitwise operations take all 2,048 bits; shifts each lane:
Take vadd, vsub, vmul, vmin, vmax, vmulh, vavg or vabd whose two sources are registers or link entries of one integer
tag of lane width w. In a state in which the word may issue, exec answers a next state in which the issuing context has
one more in-flight record at the row's latency for integer tags: the register value of that tag whose lane i is F of
lanes i of the two sources (under their lane patterns, read as unsigned under .u) mod 2^w. A bitwise instruction gives,
two packets later, the value whose every bit is the combination of the two sources' bits and whose tag is va's, else
vb's, else vd's committed one (canonical for T6 and F6); ZERO has zero bits and IMM repeats at the tag's lane width. A
shift on two sources of one integer tag gives, two packets later, in lane i the shift of lane i of va by lane i of vb
mod w; on a floating or tapered operand tag it raises FORMAT. (R151, R123, R131, R154, R155) -/
def Obligations.VectorIntegerLanes : Prop :=
  (∀ r ∈ vectorIntRows, ∀ (f : Fields) (s : State) (a b x : VReg),
      s.va f = .val a → s.vb f = .val b → a.tag.isInt = true → b.tag = a.tag → x.tag = a.tag →
      (∀ i, i < a.tag.lanes → (laneAt a.tag.width x.bits i : Int)
        = r.2.2 a.tag.width (laneInt a.tag.width f.modU a.bits i) (laneInt a.tag.width f.modU b.bits i) % 2 ^ a.tag.width) →
      ready (r.1 f) f s = true → Completes (r.1 f) s (fun t => ResultV s t f.d r.2.1 x))
  ∧ ((∀ r ∈ bitwiseRows, ∀ (f : Fields) (s : State) (x : VReg), x.tag = s.tag2 f →
      (∀ i, i < 2048 → x.bits.getLsbD i
        = r.2 (((s.va f).bitsAt x.tag.width).getLsbD i) (((s.vb f).bitsAt x.tag.width).getLsbD i)) →
      ready (r.1 f) f s = true → Completes (r.1 f) s (fun t => ResultV s t f.d 2 x.canon))
    ∧ (∀ r ∈ shiftRows, ∀ (f : Fields) (s : State) (a b x : VReg), s.va f = .val a → s.vb f = .val b → b.tag = a.tag →
      ready (r.1 f) f s = true →
      (a.tag.isInt = true → x.tag = a.tag →
        (∀ i, i < a.tag.lanes → laneAt a.tag.width x.bits i
          = r.2 a.tag.width (laneAt a.tag.width a.bits i) (laneAt a.tag.width b.bits i % a.tag.width)) →
        Completes (r.1 f) s (fun t => ResultV s t f.d 2 x))
      ∧ (a.tag.isInt = false → Faults (r.1 f) s 4 ⟨0x07, 0, s.myPc⟩)))

/-- The tagged lane arithmetic completes on every operand form that has an operand tag and raises FORMAT on the others: For
the two-source rows of R151, the fused rows of R152, vabs and vneg and every operand form (registers, links, ZERO, IMM,
with or without .cv): where the word may issue and the operand tag of R126 and R127 exists and is one the row takes,
exec answers a next state whose one new record holds the row's operation at that tag, at the row's latency for an
integer or another tag, in the canonical form of R123. Where there is no such tag, or .u stands on a floating or tapered
tag, the check names FORMAT at the instruction's PC and by itself the context freezes with it. (R126, R127, R150, R151,
R152, R153) -/
def Obligations.VectorArithmeticCompletes : Prop :=
  (∀ r ∈ vectorRows, ∀ (f : Fields) (s : State), ready (r.1 f) f s = true →
    let tag := operandTag f.modTop [s.va f, s.vb f] (s.dTag f.d)
    (∀ t, tag = some t → (t.isInt = true ∨ (r.2.2.1 = true ∧ f.modU = false)) →
      Completes (r.1 f) s (fun u => ResultV s u f.d (if t.isInt then r.2.2.2.1 else r.2.2.2.2)
        (op2 r.2.1 t f.modU s.fp (s.va f) (s.vb f)).canon))
    ∧ ((tag = none ∨ ∃ t, tag = some t ∧ t.isInt = false ∧ (r.2.2.1 = false ∨ f.modU = true)) →
      Faults (r.1 f) s 4 ⟨0x07, 0, s.myPc⟩))
  ∧ (∀ r ∈ fusedRows, ∀ (f : Fields) (s : State), ready (r.1 f) f s = true →
    let tag := operandTag f.modTop [s.va f, s.vb f, s.vc f] (s.dTag f.d)
    (∀ t, tag = some t →
      Completes (r.1 f) s (fun u => ResultV s u f.d 4 (op3 r.2 t s.fp (s.va f) (s.vb f) (s.vc f)).canon))
    ∧ (tag = none → Faults (r.1 f) s 4 ⟨0x07, 0, s.myPc⟩))
  ∧ (∀ r ∈ [((.vabs : Fields → Instr), false), (.vneg, true)], ∀ (f : Fields) (s : State), ready (r.1 f) f s = true →
    let tag := operandTag f.modTop [s.va f] (s.dTag f.d)
    (∀ t, tag = some t → Completes (r.1 f) s (fun u => ResultV s u f.d 2 (absNeg r.2 t s.fp (s.va f)).canon))
    ∧ (tag = none → Faults (r.1 f) s 4 ⟨0x07, 0, s.myPc⟩))

/-- vsel, vmov, vbc, vget and vset complete with the lanes that their entries give: Where the word may issue: vsel gives the
tag of R157 and in lane i the lane of va where bit i·w/4 of pc is set, of vb otherwise (both read at that tag's width);
vmov gives the bits and the tag of va, or with ZERO or IMM zero bits or the IMM repeated under vd's kept tag; vbc gives
the named tag and ga[w-1:0] in every lane; vget gives lane ix mod L, sign-extended on an integer tag and zero-extended
on others (bits [5:0] of a T6 or F6 lane); vset keeps vd but for lane ix mod L, which takes ga[w-1:0]. Each has latency
2. (R148, R157, R158, R159, R160) -/
def Obligations.VectorSelectAndMove : Prop :=
  ∀ (f : Fields) (s : State) (a x : VReg),
    let w := a.tag.width
    let wx := x.tag.width
    (x.tag = s.tag2 f →
      (∀ i, i < 2048 / wx → laneAt wx x.bits i
        = if (s.pval f.c).getLsbD (i * (wx / 4)) then laneAt wx ((s.va f).bitsAt wx) i else laneAt wx ((s.vb f).bitsAt wx) i) →
      ready (.vsel f) f s = true → Completes (.vsel f) s (fun t => ResultV s t f.d 2 x.canon))
    ∧ (s.va f = .val a → ready (.vmov f) f s = true → Completes (.vmov f) s (fun t => ResultV s t f.d 2 a.canon))
    ∧ (x.tag = s.dTag f.d → oldReadable s f.d = true → ready (.vmov f) f s = true →
        (s.va f = .zero ∧ x.bits = 0 ∨ ∃ m, s.va f = .imm m ∧ ∀ i, i < 2048 / wx → laneAt wx x.bits i = m.toNat % 2 ^ wx) →
      Completes (.vmov f) s (fun t => ResultV s t f.d 2 x.canon))
    ∧ (x.tag = f.xTag → (∀ i, i < f.xTag.lanes → laneAt f.xTag.width x.bits i = (s.gval f f.a).toNat % 2 ^ f.xTag.width) →
      ready (.vbc f) f s = true → Completes (.vbc f) s (fun t => ResultV s t f.d 2 x.canon))
    ∧ ((s.va f = .val a ∨ (a = ⟨(s.va f).bitsAt 32, .raw⟩ ∧ ∀ r, s.va f ≠ .val r)) → ready (.vget f) f s = true →
      Completes (.vget f) s (fun t =>
        let i := (s.gval f f.b).toNat % (2048 / w)
        let y : W64 := if a.tag.isInt then BitVec.ofInt 64 (laneInt w false a.bits i) else BitVec.ofNat 64 (if a.tag = .t6 ∨ a.tag = .f6 then laneAt w a.bits i % 64 else laneAt w a.bits i)
        (∀ n, f.d = .reg n → Flies s t (.g n) 2 (.g y)) ∧ ((∀ n, f.d ≠ .reg n) → t.me = s.me)))
    ∧ (∀ n, f.d = .reg n → a = s.me.getV n → x.tag = a.tag →
      (∀ i, i < 2048 / w → laneAt w x.bits i
        = if i = (s.gval f f.b).toNat % (2048 / w) then (s.gval f f.a).toNat % 2 ^ w else laneAt w a.bits i) →
      ready (.vset f) f s = true → Completes (.vset f) s (fun t => Flies s t (.v n) 2 (.v x.canon)))
    ∧ (f.d = .zero → ready (.vset f) f s = true → Completes (.vset f) s (fun t => t.me = s.me))

/-- vcmp, vperm, vcomp, vexpd, vred, vscan, vdot4, the bit counts and the transcendentals complete: Where the word may issue
and the operand tag (for the tagged ones) is one the entry takes, each answers a next state with one new record at its
latency, holding what the model's function of its entry gives: vcmp 2 (a mask), vperm, vcomp and vexpd 3, vred 6, vscan
8, vdot4 4, the bit counts 2, the seven transcendentals 8. For vperm on register sources of 8 bits or more, lane i of
the result is lane x mod L of va, x being lane i of vb. A transcendental is a function of the operation, FCTL and the
code alone; its bits where R167's bound leaves a choice are open (log 6). (R156, R161, R162, R163, R164, R165, R166,
R167) -/
def Obligations.VectorPermuteAndReduce : Prop :=
  ∀ (f : Fields) (s : State),
    let one := operandTag f.modTop [s.va f] (s.dTag f.d)
    let two := operandTag f.modTop [s.va f, s.vb f] (s.dTag f.d)
    (∀ t, operandTag f.modTop [s.va f, s.vb f] .raw = some t → (if t.isInt then f.cc ≤ 5 else f.modU = false) →
      ready (.vcmp f) f s = true →
      Completes (.vcmp f) s (fun u => ResultP s u f.d 2 (vcmp f.cc t f.modU s.fp (s.va f) (s.vb f))))
    ∧ (∀ a b x : VReg, s.va f = .val a → s.vb f = .val b → x.tag = a.tag → 8 ≤ a.tag.width →
      (∀ i, i < a.tag.lanes → laneAt a.tag.width x.bits i
        = laneAt a.tag.width a.bits (laneAt a.tag.width b.bits i % a.tag.lanes)) →
      ready (.vperm f) f s = true → Completes (.vperm f) s (fun u => ResultV s u f.d 3 x.canon))
    ∧ (ready (.vcomp f) f s = true → Completes (.vcomp f) s (fun u =>
        ResultV s u f.d 3 (vcomp (s.tag1 f) (s.va f) (s.pval f.c)).canon))
    ∧ (ready (.vexpd f) f s = true → Completes (.vexpd f) s (fun u =>
        ResultV s u f.d 3 (vexpd (s.tag1 f) (s.va f) (s.pval f.c)).canon))
    ∧ (∀ t, one = some t → (t.isInt = true ∨ f.modU = false) → ready (.vred f) f s = true →
      Completes (.vred f) s (fun u => ResultV s u f.d 6 (vred f.cc t f.modU s.fp (s.va f)).canon))
    ∧ (∀ t, one = some t → (t.isInt = true ∨ (f.modU = false ∧ (isWideTag t = true ∨ f.cc ≠ 0))) →
      ready (.vscan f) f s = true →
      Completes (.vscan f) s (fun u => ResultV s u f.d 8 (vscan f.cc t f.modU s.fp (s.va f)).canon))
    ∧ (∀ t r, two = some t → dotTag t = some r → (t.isInt = true ∨ f.modU = false) →
        (∀ c, s.vc f = .val c → c.tag = r) → ready (.vdot4 f) f s = true →
      Completes (.vdot4 f) s (fun u => ResultV s u f.d 4 (vdot4 t r f.modU s.fp (s.va f) (s.vb f) (s.vc f)).canon))
    ∧ (∀ r ∈ countRows, ∀ t, one = some t → t.isInt = true → ready (r.1 f) f s = true →
      Completes (r.1 f) s (fun u => ResultV s u f.d 2 (count r.2 t (s.va f)).canon))
    ∧ (∀ r ∈ fnRows, ∀ t, one = some t → isWideTag t = true → ready (r.1 f) f s = true →
      Completes (r.1 f) s (fun u => ResultV s u f.d 8 (Transcend.apply r.2 t s.me.spr.fctl (s.va f)).canon))

/-- vcvt, vtag, vqnt, vdqt, vbmax and vsat complete; a source tag that the entry refuses or a part at its bound raises
FORMAT: Where the word may issue, the source tag is one the entry takes and the part q is below its bound (R137), and
for a conversion that keeps lanes of vd, vd is readable, each conversion answers a next state with one new record: vcvt
at latency 3, vqnt 6, vdqt 4, vbmax 4, vsat 2 with the model's conversion of the source, and vtag at latency 1 with the
source's bits unchanged under the new tag. Otherwise, with vd readable, vcvt, vqnt, vdqt, vbmax and vsat raise FORMAT at
the instruction's PC. (R137, R138, R139, R140, R141, R142, R143) -/
def Obligations.ConversionsComplete : Prop :=
  ∀ (f : Fields) (s : State), oldReadable s f.d = true →
    let a := convertSource s f
    let old := oldBits s f.d
    let td := f.xTag
    let narrowed (x : VReg) : VReg := if a.tag.lanes < td.lanes then x else x.canon
    let fmt : FaultInfo := ⟨0x07, 0, s.myPc⟩
    (ready (.vcvt f) f s = true →
      (a.tag ≠ .raw ∧ partOk a.tag td f.part = true → Completes (.vcvt f) s (fun t =>
        ResultV s t f.d 3 (narrowed (vcvt td f.part f.modInf f.modU s.fp a old))))
      ∧ (a.tag = .raw ∨ partOk a.tag td f.part = false → Faults (.vcvt f) s 4 fmt))
    ∧ (ready (.vqnt f) f s = true →
      (isWideTag a.tag = true ∧ partOk a.tag td f.part = true → Completes (.vqnt f) s (fun t =>
        ResultV s t f.d 6 (narrowed (vqnt td f.part f.modInf s.fp a (vregOf (s.vb f)) old))))
      ∧ (isWideTag a.tag = false ∨ partOk a.tag td f.part = false → Faults (.vqnt f) s 4 fmt))
    ∧ (ready (.vdqt f) f s = true →
      (isBlockTag a.tag = true ∧ partOk a.tag td f.part = true → Completes (.vdqt f) s (fun t =>
        ResultV s t f.d 4 (narrowed (vdqt td f.part s.fp a (vregOf (s.vb f)) old))))
      ∧ (isBlockTag a.tag = false ∨ partOk a.tag td f.part = false → Faults (.vdqt f) s 4 fmt))
    ∧ (ready (.vbmax f) f s = true →
      (isWideTag a.tag = true → Completes (.vbmax f) s (fun t => ResultV s t f.d 4 (vbmax td f.part s.fp a old)))
      ∧ (isWideTag a.tag = false → Faults (.vbmax f) s 4 fmt))
    ∧ (ready (.vsat f) f s = true →
      (a.tag ≠ .raw ∧ a.tag.isInt = td.isInt → Completes (.vsat f) s (fun t => ResultV s t f.d 2 (vsat td a).canon))
      ∧ (a.tag = .raw ∨ a.tag.isInt ≠ td.isInt → Faults (.vsat f) s 4 fmt))
    ∧ (∀ r, s.va f = .val r → ready (.vtag f) f s = true →
      Completes (.vtag f) s (fun t => ResultV s t f.d 1 ⟨r.bits, td⟩))

/-- A class S or V instruction that takes effect changes nothing but its result's records: For every class S and V
instruction and every state: whenever exec answers a next state without a fault (or in the effect phase of a packet),
every byte of memory and every unit outside the cores is as before; the committed g, v, p and special registers, poison,
chain and repeat of the issuing context are as before; its core's scratchpad, rings, stashes, windows and engines are as
before; and every other context is as before. Only in-flight records, the scoreboard, the divider and entries of link
channels may differ. (R75, R77, R80, R103, R150) -/
def Obligations.ScalarAndVectorFrame : Prop :=
  ∀ (i : Instr) (f : Fields) (k : OpKey) (s t : State),
    i.fields = some f → i.key = some k → k.cl ≤ 1 → exec i s = .next t →
    (s.pk.phase = .effect ∨ ∀ cls fi, t.pk.verdict ≠ .fault cls fi) →
    ResultFrame s t

namespace Sys2Proof.Machine

/-- ea = ga + off (02 R36), and the scratchpad offset ea[18:0] (09 R169). -/
def localEa (s : State) (f : Fields) : W64 := BitVec.ofInt 64 ((s.gval f f.a).toInt + f.imm.toInt)
@[inherit_doc localEa] def localOff (s : State) (f : Fields) : Nat := (localEa s f).toNat % 2 ^ 19

/-- One of the two forms of a local address (09 R169). -/
def LocalForm (ea : W64) : Prop := ea.toNat < 2 ^ 19 ∨ (2 ^ 60 * 15 ≤ ea.toNat ∧ ea.toNat < 2 ^ 60 * 15 + 2 ^ 19)

/-- Bytes `[o, o + n)` meet the region of a live stash (09 R190). -/
def MeetsStash (s : State) (o n : Nat) : Prop :=
  ∃ st, some st ∈ s.myTc.stash.toList ∧ st.region < o + n ∧ o < st.region + 2 ^ st.cap

/-- The bytes at `[o, o + n)` of the issuing core's scratchpad as a little-endian number. -/
def spadNat (s : State) (o n : Nat) : Nat := leNat (s.myTc.spad.read o n)

/-- An n-byte number sign-extended to 64 bits. -/
def signExtended (n x : Nat) : W64 := BitVec.ofInt 64 (if x < 2 ^ (8 * n - 1) then (x : Int) else (x : Int) - 2 ^ (8 * n))

/-- After a write of bytes at offset `o` every byte of the scratchpad outside them reads as before and byte `o + j` reads as
byte `j`. -/
def SpadBytes (s t : State) (o : Nat) (bs : List Byte) : Prop :=
  ∀ a, t.myTc.spad.byte a = if o ≤ a ∧ a < o + bs.length then bs.getD (a - o) 0 else s.myTc.spad.byte a

/-- Apart from the scratchpad, its undo log and its poison, the core's part is as before. -/
def ButSpad (a b : TaskCore) : Prop :=
  b = { a with ctxs := b.ctxs, spad := b.spad, codes := b.codes, undo := b.undo, poisonRows := b.poisonRows, links := b.links }

/-- A write of bytes at offset `o` of the scratchpad, and nothing else in the core's part. -/
def SpadWritten (s t : State) (o : Nat) (bs : List Byte) : Prop := SpadBytes s t o bs ∧ ButSpad s.myTc t.myTc

/-- The local access of `n` bytes at ea passes: LocalOffset with the given alignment (09 R169), no watchpoint (20 R436), and
for a write room in the undo log (15 R351). -/
def localPasses (s : State) (ea : W64) (n align : Nat) (rd wr : Bool) : Bool :=
  s.localOk ea n align == .ok && (!wr || s.logOk ea n == .ok) && s.watch ea n rd wr == .ok

/-- No byte that a read takes lies in a poisoned row (21 R454). -/
def spadClean (s : State) (o n : Nat) : Bool := !s.myTc.rotten o n

end Sys2Proof.Machine

/-- ldl, stl, ala and alf complete with the value and the bytes after; ldl, stl and ala fault by LocalOffset at their
address: Where the word may issue and the local access passes, with n = 1, 2, 4 or 8 bytes (4 or 8 for ala, 4 or 2 for
alf) at o = ea[18:0], unpoisoned where it reads: ldl puts the n bytes, sign-extended, in flight for gd at latency 4; stl
writes the low n bytes of its value; ala writes the result of its operator and returns the old bytes sign-extended at
latency 6; alf writes the rounded sum and returns the old bytes zero-extended at latency 6, counting a signalling NaN in
SCTL.SNC. Every other byte of the scratchpad and everything outside the core is as before, and the issuing context
changes by its result and the tick of .tk alone. Where the word may issue, with n the access size and o = ea[18:0]: an
address of neither local form raises PROTECTION; a local one with o mod n not zero raises ALIGN; an aligned local one
whose bytes pass the footprint or meet a live stash region raises PROTECTION. Each is the fault of step 5 with ea in its
address field, and the instruction has no effect of its own. (R183, R186, R187, R68, R169, R170) -/
def Obligations.LocalScalarAccess : Prop :=
  (∀ (f : Fields) (s : State), s.myTc.spad.wf = true →
      let ea := localEa s f
      let o := localOff s f
      let d := Dest.ofG f.d
      let v := s.gval f f.b
      (f.szCode ≤ 3 → ready (.ldl f) f s = true → localPasses s ea (2 ^ f.szCode) (2 ^ f.szCode) true false = true →
        spadClean s o (2 ^ f.szCode) = true →
        Completes (.ldl f) s (fun t => OnlyMyCore s t ∧ SamePart s.myTc t.myTc
          ∧ t.me = tickedBy f s.now (flying s.me d 4 (.g (signExtended (2 ^ f.szCode) (spadNat s o (2 ^ f.szCode)))))))
      ∧ (f.szCode ≤ 3 → ready (.stl f) f s = true → localPasses s ea (2 ^ f.szCode) (2 ^ f.szCode) false true = true →
        Completes (.stl f) s (fun t => OnlyMyCore s t ∧ SpadWritten s t o (leBytes (2 ^ f.szCode) v.toNat)
          ∧ t.me = tickedBy f s.now s.me))
      ∧ ((f.szCode = 2 ∨ f.szCode = 3) → f.extCode ≤ 8 → ready (.ala f) f s = true →
          localPasses s ea (2 ^ f.szCode) (2 ^ f.szCode) true true = true → spadClean s o (2 ^ f.szCode) = true →
        let n := 2 ^ f.szCode
        let w := 8 * n
        let old := spadNat s o n
        let x := v.toNat % 2 ^ w
        let si (z : Nat) : Int := if z < 2 ^ (w - 1) then z else (z : Int) - 2 ^ w
        let new := match f.extCode with
          | 0 => (old + x) % 2 ^ w
          | 1 => old &&& x
          | 2 => old ||| x
          | 3 => old ^^^ x
          | 4 => if si x < si old then x else old
          | 5 => if si old < si x then x else old
          | 6 => min old x
          | 7 => max old x
          | _ => x
        Completes (.ala f) s (fun t => OnlyMyCore s t ∧ SpadWritten s t o (leBytes n new)
          ∧ t.me = tickedBy f s.now (flying s.me d 6 (.g (signExtended n old)))))
      ∧ ((f.szCode = 2 ∧ f.extTag = .f32 ∨ f.szCode = 1 ∧ (f.extTag = .h16 ∨ f.extTag = .b16)) → ready (.alf f) f s = true →
          localPasses s ea (2 ^ f.szCode) (2 ^ f.szCode) true true = true → spadClean s o (2 ^ f.szCode) = true →
        let n := 2 ^ f.szCode
        let old := spadNat s o n
        let x := v.toNat % 2 ^ (8 * n)
        Completes (.alf f) s (fun t => OnlyMyCore s t ∧ SpadBytes s t o (leBytes n (floatAdd f.extTag old x))
          ∧ ButSpad s.myTc { t.myTc with sctl := s.myTc.sctl }
          ∧ t.me = tickedBy f s.now (flying s.me d 6 (.g (BitVec.ofNat 64 old)))
          ∧ t.myTc.sctl.toNat = (if isSnan f.extTag old || isSnan f.extTag x
              then natSet s.myTc.sctl.toNat 32 16 (min (bitsOf s.myTc.sctl 47 32 + 1) 0xFFFF) else s.myTc.sctl.toNat))))
  ∧ (∀ mk ∈ [(.ldl : Fields → Instr), .stl, .ala], ∀ (f : Fields) (s : State), ready (mk f) f s = true → f.szCode ≤ 3 →
      let n := 2 ^ f.szCode
      let ea := localEa s f
      let o := localOff s f
      (¬LocalForm ea → Faults (mk f) s 5 ⟨0x0A, 0, ea⟩)
      ∧ (LocalForm ea → o % n ≠ 0 → Faults (mk f) s 5 ⟨0x10, 0, ea⟩)
      ∧ (LocalForm ea → o % n = 0 → s.foot < o + n ∨ MeetsStash s o n → Faults (mk f) s 5 ⟨0x0A, 0, ea⟩))

/-- vldl, vstl, vgl and vsl complete: the register loaded and every byte of the scratchpad after: Where the word may issue
and every local access it makes passes: vldl loads 256 bytes (192 under .p6, unpacked) from a 32 B aligned offset with
its tag at latency 5; vstl writes the register's 256 bytes (or its 192 packed ones); vgl gathers 256/G granules of G
bytes from the offsets of the index lanes into the register in order, at latency 8; vsl, where the undo log of a replay
scope has room for all granules together (R351), scatters them so that, where lanes repeat an offset, the highest lane's
bytes remain and no other byte changes. (R184, R185, R124, R351) -/
def Obligations.LocalVectorAccess : Prop :=
  ∀ (f : Fields) (s : State), s.myTc.spad.wf = true →
    let ea := localEa s f
    let o := localOff s f
    let n := if f.szCode = 7 then 192 else 256
    let p6 := decide (f.szCode = 7)
    ((f.szCode = 6 ∨ f.szCode = 7) → ready (.vldl f) f s = true → localPasses s ea n 32 true false = true → spadClean s o n = true →
      Completes (.vldl f) s (fun t => OnlyMyCore s t ∧ SamePart s.myTc t.myTc
        ∧ t.me = tickedBy f s.now (flying s.me (Dest.ofV f.d) 5 (.v (vecOf p6 f.extTag (s.myTc.spad.read o n)).canon))))
    ∧ ((f.szCode = 6 ∨ f.szCode = 7 ∧ ((s.vreg f.b).tag = .t6 ∨ (s.vreg f.b).tag = .f6)) → ready (.vstl f) f s = true →
        localPasses s ea n 32 false true = true →
      Completes (.vstl f) s (fun t => OnlyMyCore s t ∧ t.me = tickedBy f s.now s.me
        ∧ SpadWritten s t o (if p6 then pack6 (s.vreg f.b).bits else leBytes 256 (s.vreg f.b).bits.toNat)))
    ∧ (let g := if f.extTag = .i64 then 8 else 4
      let at_ (j : Nat) : W64 := ea + BitVec.ofNat 64 ((s.vreg f.b).bits.toNat / 2 ^ (32 * j) % 2 ^ 32)
      ready (.vgl f) f s = true →
      (∀ j, j < 256 / g → localPasses s (at_ j) g g true false = true ∧ spadClean s ((at_ j).toNat % 2 ^ 19) g = true) →
      ∀ x : VReg, x.tag = f.extTag →
        (∀ j k, j < 256 / g → k < g → x.bits.toNat / 256 ^ (g * j + k) % 256 = (s.myTc.spad.byte ((at_ j).toNat % 2 ^ 19 + k)).toNat) →
        Completes (.vgl f) s (fun t => OnlyMyCore s t ∧ SamePart s.myTc t.myTc
          ∧ t.me = tickedBy f s.now (flying s.me (Dest.ofV f.d) 8 (.v x.canon))))
    ∧ (let g := if (s.vreg f.b).tag = .i64 then 8 else 4
      let at_ (j : Nat) : W64 := ea + BitVec.ofNat 64 ((s.vreg f.c).bits.toNat / 2 ^ (32 * j) % 2 ^ 32)
      let off (j : Nat) : Nat := (at_ j).toNat % 2 ^ 19
      ready (.vsl f) f s = true →
      (∀ j, j < 256 / g → localPasses s (at_ j) g g false true = true) →
      s.logsOk ((List.range (256 / g)).map at_) g = .ok →
      Completes (.vsl f) s (fun t => OnlyMyCore s t ∧ ButSpad s.myTc t.myTc ∧ t.me = tickedBy f s.now s.me
        ∧ (∀ a, (∀ j, j < 256 / g → ¬(off j ≤ a ∧ a < off j + g)) → t.myTc.spad.byte a = s.myTc.spad.byte a)
        ∧ (∀ j k, j < 256 / g → k < g → (∀ i, j < i → i < 256 / g → off i ≠ off j) →
            (t.myTc.spad.byte (off j + k)).toNat = (s.vreg f.b).bits.toNat / 256 ^ (g * j + k) % 256)))

/-- stmap, stfl and stinv map, clean and empty a stash, and hold while the core's accesses to it are under way: Where the
word may issue and none of the core's accesses to stash N is under way: stmap with a descriptor whose checks of R189
pass maps stash N with no lines, with CAP 0 it unmaps it; stfl leaves every line valid and clean; stinv leaves no line;
on an unmapped stash stfl and stinv leave it unmapped. While such an access is under way each holds and changes nothing.
STASH_RECALL drops a filled line that another party recalls, or leaves it clean. (R189, R191, R192) -/
def Obligations.StashInstructions : Prop :=
  (∀ (f : Fields) (s : State),
    let n := stashNo f
    let gc := s.gval f f.c
    let cap := gc.toNat % 32
    let st : Stash := ⟨localEa s f, gc.toNat / 256 % 64, (s.gval f f.b).toNat, cap, []⟩
    let busy := s.stashBusy s.cur.core n
    (ready (.stmap f) f s = true → (cap = 0 ∨ s.stashOk n (s.ea f) (s.gval f f.b) gc = .ok) →
      (busy = false → Completes (.stmap f) s (fun t => OnlyMyCore s t ∧ t.me = tickedBy f s.now s.me
        ∧ t.myTc = { s.myTc with
            ctxs := t.myTc.ctxs, links := t.myTc.links, stash := s.myTc.stash.set n (if cap = 0 then none else some st) }))
      ∧ (busy = true → Stays (.stmap f) s .hold))
    ∧ (ready (.stfl f) f s = true →
      (busy = false → Completes (.stfl f) s (fun t => OnlyMyCore s t ∧ t.me = tickedBy f s.now s.me
        ∧ t.myTc = { s.myTc with
            ctxs := t.myTc.ctxs, links := t.myTc.links
            stash := s.myTc.stash.set n ((s.myTc.stash[n]).map (fun st =>
              { st with lines := st.lines.map (fun e => (e.1, { e.2 with dirty := false })) })) }))
      ∧ (busy = true → Stays (.stfl f) s .hold))
    ∧ (ready (.stinv f) f s = true →
      (busy = false → Completes (.stinv f) s (fun t => OnlyMyCore s t ∧ t.me = tickedBy f s.now s.me
        ∧ t.myTc = { s.myTc with
            ctxs := t.myTc.ctxs, links := t.myTc.links
            stash := s.myTc.stash.set n ((s.myTc.stash[n]).map (fun st => { st with lines := [] })) }))
      ∧ (busy = true → Stays (.stinv f) s .hold)))
  ∧ (∀ (s : State) (k : CoreId) (n line : Nat) (drop : Bool) (st : Stash) (hn : n < 4), (s.tc k).stash[n] = some st →
    (∃ e ∈ st.lines, e.2.line = line ∧ e.2.filling = false) →
    Completes (.stashRecall k n line drop) s (fun t => ∃ st', (t.tc k).stash[n] = some st'
      ∧ (drop = true → ∀ e ∈ st'.lines, e.2.line ≠ line)
      ∧ (drop = false → ∀ e ∈ st'.lines, e.2.line = line → e.2.dirty = false)
      ∧ ∀ e, e.2.line ≠ line → (e ∈ st'.lines ↔ e ∈ st.lines)))

/-- rcfg, rres, rtake, rrel and rstat act on their ring as R194 to R199 say, and a waiting reservation or take is served:
Where the word may issue: on a configured ring without error, rres (no subscription attached) and rtake (no drain
attached) queue a reservation or take of the issuing context behind those waiting, with gd pending; rrel frees the
earliest-taken DRAINING slot or the slot whose address gb holds, or makes a FILLING one FULL; rcfg with count 0
unconfigures the ring and with a descriptor that passes its checks sets base, size and count with every slot EMPTY,
provided the ring is not in use; rstat answers the word of R199 at once. On an unconfigured ring or one with ERR, rres,
rtake and rrel raise RING_STATE at the PC. RING_RESERVATION_SERVED: on a configured ring whose slot TAIL is EMPTY the
oldest waiting reservation of a context receives base + TAIL·z, the slot becomes FILLING with count 0 and TAIL moves on
by one modulo c. RING_TAKE_SERVED: on a configured ring whose slot HEAD is FULL the oldest take receives base + HEAD·z,
the slot becomes DRAINING and HEAD moves on. (R194, R195, R196, R197, R199) -/
def Obligations.RingInstructions : Prop :=
  (∀ (f : Fields) (s : State),
      let n := ringNo f.a
      let r := s.myTc.ring n
      let d := Dest.ofG f.d
      let bad := r.c = 0 ∨ r.err = true
      let rings (t : State) (x : Ring) : Prop := OnlyMyCore s t ∧ t.myTc = { s.myTc with
        ctxs := t.myTc.ctxs, links := t.myTc.links, rings := s.myTc.rings.setIfInBounds n x }
      (ready (.rres f) f s = true →
        (¬bad → s.attachedAs n false = false → Completes (.rres f) s (fun t => ∃ tok, Waits s t d tok
          ∧ rings t { r with res := r.res ++ [⟨tok, s.cur.ctx, none⟩] }))
        ∧ (bad → Faults (.rres f) s 5 ⟨0x17, 0, s.myPc⟩))
      ∧ (ready (.rtake f) f s = true →
        (¬bad → s.attachedAs n true = false → Completes (.rtake f) s (fun t => ∃ tok, Waits s t d tok
          ∧ rings t { r with takes := r.takes ++ [⟨tok, s.cur.ctx, none⟩] }))
        ∧ (bad → Faults (.rtake f) s 5 ⟨0x17, 0, s.myPc⟩))
      ∧ (ready (.rrel f) f s = true →
        (¬bad → ∀ i, f.b = .zero → r.taken.head? = some i →
          Completes (.rrel f) s (fun t => t.me = s.me ∧ rings t { r with slots := r.slots.set i (.empty, 0), taken := r.taken.filter (· != i) }))
        ∧ (¬bad → ∀ i, f.b ≠ .zero → i < r.c → r.base + BitVec.ofNat 64 (i * r.z) = s.gval f f.b →
            (∀ j, j < i → r.base + BitVec.ofNat 64 (j * r.z) ≠ s.gval f f.b) →
            (r.tag i = .draining → Completes (.rrel f) s (fun t => t.me = s.me ∧ rings t { r with slots := r.slots.set i (.empty, 0), taken := r.taken.filter (· != i) }))
            ∧ (r.tag i = .filling → Completes (.rrel f) s (fun t => t.me = s.me ∧ rings t { r with slots := r.slots.set i (.full, (r.slots.getD i (.empty, 0)).2) }))
            ∧ (r.tag i = .empty ∨ r.tag i = .full → Faults (.rrel f) s 5 ⟨0x17, 0, s.myPc⟩))
        ∧ (bad → Faults (.rrel f) s 5 ⟨0x17, 0, s.myPc⟩))
      ∧ (ready (.rcfg f) f s = true → r.inUse = false →
        let gc := s.gval f f.c
        let c := gc.toNat % 512
        let zu := gc.toNat / 2 ^ 16 % 2 ^ 13
        (c = 0 → Completes (.rcfg f) s (fun t => t.me = s.me ∧ rings t Ring.fresh))
        ∧ (c ≠ 0 → s.rcfgOk n (s.gval f f.b) c zu = .ok → Completes (.rcfg f) s (fun t => t.me = s.me
            ∧ rings t ⟨s.gval f f.b, 64 * zu, c, 0, 0, List.replicate c (.empty, 0), false, false, [], [], []⟩)))
      ∧ (ready (.rstat f) f s = true → Completes (.rstat f) s (fun t => OnlyMyCore s t ∧ SamePart s.myTc t.myTc
          ∧ Quick s t d (.g (if r.c = 0 then 0 else BitVec.ofNat 64 (r.freeCount + r.filled * 2 ^ 16 + r.head * 2 ^ 32
              + r.tail * 2 ^ 40 + r.err.toNat * 2 ^ 48 + 2 ^ 49 + r.att.toNat * 2 ^ 50))))))
  ∧ (∀ (s : State) (k : CoreId) (n : Nat) (w : RingWait) (rest : List RingWait), n < 8 → partHere s k = true →
      let r := (s.tc k).ring n
      (r.res = w :: rest → r.c ≠ 0 → r.tag r.tail = .empty → w.copy = none →
        Completes (.ringReservationServed k n) s (fun t =>
          (t.tc k).ring n = { r with res := rest, slots := r.slots.set r.tail (.filling, 0), tail := (r.tail + 1) % r.c }
          ∧ LandsG s t ⟨k, w.ctx⟩ w.tok (r.base + BitVec.ofNat 64 (r.tail * r.z))))
      ∧ (r.takes = w :: rest → r.c ≠ 0 → r.tag r.head = .full →
        Completes (.ringTakeServed k n) s (fun t =>
          (t.tc k).ring n = { r with
            takes := rest, slots := r.slots.set r.head (.draining, (r.slots.getD r.head (.empty, 0)).2)
            head := (r.head + 1) % r.c, taken := r.taken ++ [r.head] }
          ∧ LandsG s t ⟨k, w.ctx⟩ w.tok (r.base + BitVec.ofNat 64 (r.head * r.z)))))

namespace Sys2Proof.Machine

/-- One more command at the end of the matrix queue, the record at issue `recd`, and nothing else in the core's part. -/
def QueuesM (s t : State) (cmd : MCmd) (recd : MRecord) : Prop :=
  OnlyMyCore s t ∧ t.me = s.me ∧ ∃ seq, t.myTc = { s.myTc with
    ctxs := t.myTc.ctxs, links := t.myTc.links
    mat := { s.myTc.mat with queue := s.myTc.mat.queue ++ [⟨cmd, seq, s.myPc, 0, none, none⟩], recd := recd } }

/-- The same of a command that lands a result: its destination waits for it. -/
def QueuesLandingM (s t : State) (d : Dest) (cmd : MCmd) : Prop :=
  OnlyMyCore s t ∧ ∃ tok seq, Waits s t d tok ∧ t.myTc = { s.myTc with
    ctxs := t.myTc.ctxs, links := t.myTc.links
    mat := { s.myTc.mat with queue := s.myTc.mat.queue ++ [⟨cmd, seq, s.myPc, 0, some tok, none⟩] } }

/-- The tile record with another tag for one tile. -/
def tileTagged (r : MRecord) (i : Fin 4) (t : Tag) : MRecord := r.setTile i t

/-- One more command at the end of the envelope queue. -/
def QueuesE (s t : State) (cmd : ECmd) : Prop :=
  OnlyMyCore s t ∧ t.me = s.me ∧ ∃ seq, t.myTc = { s.myTc with
    ctxs := t.myTc.ctxs, links := t.myTc.links
    env := { s.myTc.env with queue := s.myTc.env.queue ++ [⟨cmd, seq, s.myPc, none, none⟩] } }

/-- The same of a command that lands a result. -/
def QueuesLandingE (s t : State) (d : Dest) (cmd : ECmd) : Prop :=
  OnlyMyCore s t ∧ ∃ tok seq, Waits s t d tok ∧ t.myTc = { s.myTc with
    ctxs := t.myTc.ctxs, links := t.myTc.links
    env := { s.myTc.env with queue := s.myTc.env.queue ++ [⟨cmd, seq, s.myPc, some tok, none⟩] } }

/-- The bits [31:0] of a g source (11 R247). -/
def lowWord (s : State) (f : Fields) (x : Sel) : Nat := (s.gval f x).toNat % 2 ^ 32

end Sys2Proof.Machine

/-- Matrix instructions other than loads and stores enter the queue with the operands they took at issue: Where the word may
issue, its checks of R220 to R230 pass and fewer than 16 commands are queued, mzero, mmul, mmuls, mcom, mdis, mscq,
mfin, mrow, mcnt and mthr each add one command at the end of the queue, with the tags and shadow states recorded at
issue updated, and gd or vd pending for those that land a result; nothing else in the core changes. mrow and mcnt stall
while their tile is busy. With 16 commands queued mcom, mdis, mscq and mthr hold. (R203, R216, R220, R223, R224, R225,
R226, R227, R229, R230) -/
def Obligations.MatrixInstructionsQueue : Prop :=
  ∀ (f : Fields) (s : State),
    let m := s.myTc.mat
    let a := tileNo f.d
    let room := m.queue.length < 16
    let k := (s.gval f f.a).toNat
    let scales : Option Nat := if f.modU then some ((s.gval f f.b).toNat % 2 ^ 19) else none
    let mulOk := m.recd.aTag = m.recd.bTag ∧ m.recd.aTag ≠ .raw
      ∧ m.recd.tiles[a] = (if m.recd.aTag.isInt then Tag.i32 else Tag.f32)
      ∧ k % 32 = 0 ∧ 32 ≤ k ∧ k ≤ m.recd.aDepth ∧ k ≤ m.recd.bDepth
      ∧ (f.modU = true → s.localOk (s.gval f f.b) (96 * (k / 32)) 32 = .ok)
    (room → ready (.mzero f) f s = true → m.recd.shadows[a] = false →
      Completes (.mzero f) s (fun t => QueuesM s t (.mzero a f.xTag) (tileTagged m.recd a f.xTag)))
    ∧ (ready (.mzero f) f s = true → m.recd.shadows[a] = true → Faults (.mzero f) s 5 ⟨0x01, 0, s.myPc⟩)
    ∧ (room → ready (.mmul f) f s = true → mulOk → m.recd.shadows[a] = false →
      Completes (.mmul f) s (fun t => QueuesM s t (.mul a k f.modTop scales false) m.recd))
    ∧ (room → ready (.mmuls f) f s = true → mulOk →
      Completes (.mmuls f) s (fun t => QueuesM s t (.mul a k f.modTop scales true)
        { m.recd with shadows := m.recd.shadows.set a true }))
    ∧ (ready (.mcom f) f s = true →
      (room → Completes (.mcom f) s (fun t => QueuesM s t (.com a) { m.recd with shadows := m.recd.shadows.set a false }))
      ∧ (¬room → Stays (.mcom f) s .hold))
    ∧ (ready (.mdis f) f s = true →
      (room → Completes (.mdis f) s (fun t => QueuesM s t (.dis a) { m.recd with shadows := m.recd.shadows.set a false }))
      ∧ (¬room → Stays (.mdis f) s .hold))
    ∧ (ready (.mscq f) f s = true →
      (room → Completes (.mscq f) s (fun t => QueuesLandingM s t (Dest.ofG f.d) (.scq (s.gval f f.a))))
      ∧ (¬room → Stays (.mscq f) s .hold))
    ∧ (room → ready (.mfin f) f s = true → (m.recd.tiles[a] = .f32 ∨ m.recd.tiles[a] = .i32) → m.recd.shadows[a] = false →
      Completes (.mfin f) s (fun t => QueuesM s t (.fin a f.xTag ((s.gval f f.a).truncate 32)) (tileTagged m.recd a f.xTag)))
    ∧ (ready (.mrow f) f s = true →
      (room → m.busy (tileNo f.a) = false → Completes (.mrow f) s (fun t =>
        QueuesLandingM s t (Dest.ofV f.d) (.row (tileNo f.a) ((s.gval f f.b).toNat % 32))))
      ∧ (m.busy (tileNo f.a) = true → Stays (.mrow f) s .stall))
    ∧ (ready (.mcnt f) f s = true →
      (room → m.busy (tileNo f.a) = false → Completes (.mcnt f) s (fun t =>
        QueuesLandingM s t (Dest.ofG f.d) (.cnt (tileNo f.a) ((s.gval f f.b).toNat % 16))))
      ∧ (m.busy (tileNo f.a) = true → Stays (.mcnt f) s .stall))
    ∧ (ready (.mthr f) f s = true →
      (room → Completes (.mthr f) s (fun t => QueuesM s t (.thr (s.gval f f.a)) m.recd))
      ∧ (¬room → Stays (.mthr f) s .hold))

/-- mlda, mldb, mgat and mst queue the rows they checked; mwt holds; mstat samples the engine: Where the word may issue,
fewer than 16 commands are queued and the checks of the entry pass (a tag, K a multiple of 32 from 32 to Kmax with 0
meaning Kmax, a stride that is a multiple of 32 with 0 meaning the dense row, every row local and the first aligned to
32 B), mlda, mldb and mgat queue a latch load or gather of the rows' offsets and record the latch's tag and depth, and
mst queues the store of the tile's 32 rows (it stalls while the tile is busy). mwt holds while its tile is pending, or
for ZERO while the queue holds a command, and else takes its place in the queue. mstat answers the engine's word of its
issue, clears FOD and takes its place in the queue. With 16 commands queued both hold. (R205, R221, R222, R228, R231,
R232) -/
def Obligations.MatrixLoadsAndStoresQueue : Prop :=
  ∀ (f : Fields) (s : State),
    let m := s.myTc.mat
    let room := m.queue.length < 16
    let off (x : W64) : Nat := x.toNat % 2 ^ 19
    let rowAt (stride : W64) (i : Nat) : W64 := s.gval f f.a + BitVec.ofNat 64 i * stride
    let tagA := if f.xTag = .raw then m.recd.aTag else f.xTag
    let tagB := if f.xTag = .raw then m.recd.bTag else f.xTag
    let kOf (t : Tag) : Nat := if s.gval f f.c = 0 then kMax t else (s.gval f f.c).toNat
    let strideTo (x : W64) (dense : Nat) : W64 := if x = 0 then BitVec.ofNat 64 dense else x
    let kOk (t : Tag) : Prop := t ≠ .raw ∧ kOf t % 32 = 0 ∧ 32 ≤ kOf t ∧ kOf t ≤ kMax t
    let stA := strideTo (s.gval f f.b) (aRow tagA (kOf tagA))
    let stB := strideTo (s.gval f f.b) (bRow tagB)
    let tileS := tileNo f.b
    let stS := strideTo (s.gval f f.c) (bRow m.recd.tiles[tileS])
    let ix (i : Nat) : Nat := (s.vreg f.b).bits.toNat / 2 ^ (32 * i) % 2 ^ 32
    (room → ready (.mlda f) f s = true → kOk tagA → (s.gval f f.b).toNat % 32 = 0 →
      (∀ i, i < 32 → s.localOk (rowAt stA i) (aRow tagA (kOf tagA)) (if i = 0 then 32 else 1) = .ok) →
      Completes (.mlda f) s (fun t => QueuesM s t
        (.load false ⟨tagA, kOf tagA, f.swz, (List.range 32).map (fun i => some (off (rowAt stA i)))⟩)
        { m.recd with aTag := tagA, aDepth := kOf tagA }))
    ∧ (room → ready (.mldb f) f s = true → kOk tagB → (s.gval f f.b).toNat % 32 = 0 →
      (∀ i, i < kOf tagB → s.localOk (rowAt stB i) (bRow tagB) (if i = 0 then 32 else 1) = .ok) →
      Completes (.mldb f) s (fun t => QueuesM s t
        (.load true ⟨tagB, kOf tagB, f.swz, (List.range (kOf tagB)).map (fun i => some (off (rowAt stB i)))⟩)
        { m.recd with bTag := tagB, bDepth := kOf tagB }))
    ∧ (room → ready (.mgat f) f s = true → kOk tagA →
      (∀ i, i < 32 → ix i ≠ 0xFFFFFFFF → s.localOk (s.gval f f.a + BitVec.ofNat 64 (ix i)) (aRow tagA (kOf tagA)) 32 = .ok) →
      Completes (.mgat f) s (fun t => QueuesM s t
        (.gather ⟨tagA, kOf tagA, f.swz, (List.range 32).map (fun i =>
          if ix i = 0xFFFFFFFF then none else some (off (s.gval f f.a + BitVec.ofNat 64 (ix i))))⟩ [])
        { m.recd with aTag := tagA, aDepth := kOf tagA }))
    ∧ (ready (.mst f) f s = true →
      (m.busy tileS = true → Stays (.mst f) s .stall)
      ∧ (room → m.busy tileS = false → m.recd.tiles[tileS] ≠ .raw → (s.gval f f.c).toNat % 32 = 0 →
        (∀ i, i < 32 → s.localOk (rowAt stS i) (bRow m.recd.tiles[tileS]) (if i = 0 then 32 else 1) = .ok) →
        Completes (.mst f) s (fun t => QueuesM s t (.store tileS ((List.range 32).map (fun i => off (rowAt stS i))) f.swz)
          m.recd)))
    ∧ (ready (.mwt f) f s = true →
      let waits := if f.a = .zero then m.queue ≠ [] else m.pending (tileNo f.a) = true
      (waits ∨ ¬room → Stays (.mwt f) s .hold)
      ∧ (¬waits → room → Completes (.mwt f) s (fun t => QueuesM s t .nop m.recd)))
    ∧ (ready (.mstat f) f s = true →
      (¬room → Stays (.mstat f) s .hold)
      ∧ (room → Completes (.mstat f) s (fun t => OnlyMyCore s t ∧ Quick s t (Dest.ofG f.d) (.g m.word)
        ∧ ∃ seq, t.myTc = { s.myTc with
            ctxs := t.myTc.ctxs, links := t.myTc.links
            mat := { m with fod := false, queue := m.queue ++ [⟨.nop, seq, s.myPc, 0, none, none⟩] } })))

/-- MATRIX_COMMAND_RUN and MACRO_OP_BLOCK take the head of the queue and have the effect its entry gives: When the head of
the queue is no macro-op, follows no copy, and neither a refusal, an uncorrectable error nor a task switch stops the
engine, MATRIX_COMMAND_RUN completes: the command leaves the queue and mzero zeroes the tile under its tag, mcom takes
the shadow over, mdis drops it, mfin converts the tile in place, mscq and mcnt land their words and clear what they say,
mrow lands the rows, mthr writes MTHR, a latch load outside poison with matching layout fills the latch, and a store
whose undo log has room writes row i at its offset under the swizzle, a later row over an earlier one, and no other
byte. A head gather reads its next row, and fills latch A with the last. An mmuls that waits for scales makes its IDLE
shadow RUN. For a head macro-op MACRO_OP_BLOCK updates the tile, or its shadow, by the next block of 32, and removes the
macro-op after its last block. (R203, R208, R216, R218, R220, R222, R224, R225, R226, R227, R228, R230) -/
def Obligations.MatrixEngineRuns : Prop :=
  ∀ (s : State) (k : CoreId) (e : MEntry) (rest : List MEntry), partHere s k = true →
    let p := s.tc k
    let m := p.mat
    m.queue = e :: rest → e.follows = none → p.matrixStopped = false → s.stopped k .matrix = false →
    ((∀ a kk zs sc sh, e.cmd ≠ .mul a kk zs sc sh) → (∀ x got, e.cmd ≠ .gather x got) → Completes (.matrixCommandRun k) s (fun t =>
      let q := (t.tc k).mat
      q.queue = rest
      ∧ (∀ a tag, e.cmd = .mzero a tag → q.acc = m.acc.set a { m.acc[a] with data := ⟨0, tag⟩ })
      ∧ (∀ a d n, e.cmd = .com a → m.acc[a].shadow = some (d, n) → q.acc[a].data = d ∧ q.acc[a].shadow = none)
      ∧ (∀ a, e.cmd = .dis a → q.acc = m.acc.set a { m.acc[a] with shadow := none })
      ∧ (∀ a tag x, e.cmd = .fin a tag x → q.acc[a].data = (finTile tag x.toNat m.acc[a].data).1)
      ∧ (∀ n tok, e.cmd = .scq n → e.tok = some tok → q.scq = (m.scqDrop n).scq ∧ LandsG s t ⟨k, 0⟩ tok m.scqWord)
      ∧ (∀ a mask tok, e.cmd = .cnt a mask → e.tok = some tok →
          q.acc = m.acc.set a (m.acc[a].cntClear mask) ∧ LandsG s t ⟨k, 0⟩ tok m.acc[a].cntWord)
      ∧ (∀ a r tok, e.cmd = .row a r → e.tok = some tok → LandsV s t ⟨k, 0⟩ tok (rowValue m.acc[a].data r).canon)
      ∧ (∀ v, e.cmd = .thr v → (t.tc k).mthr = v)
      ∧ (∀ a rows swz, e.cmd = .store a rows swz → p.spad.wf = true →
          let d := m.acc[a].data
          let n := 8 * d.tag.width
          let home (i j : Nat) : Nat := swizzle swz (rows.getD i 0 + j)
          p.logsFull (s.leadReplay k) (rows.flatMap (fun o => placed swz o n)) = false →
          (∀ i j, i < rows.length → j < n → (∀ i' j', i < i' → i' < rows.length → j' < n → home i' j' ≠ home i j) →
            (t.tc k).spad.byte (home i j) = (rowBytes d i).getD j 0)
          ∧ (∀ o, (∀ i j, i < rows.length → j < n → home i j ≠ o) → (t.tc k).spad.byte o = p.spad.byte o))
      ∧ (∀ isB x, e.cmd = .load isB x →
          let n := if isB then bRow x.tag else aRow x.tag x.depth
          (∀ o, some o ∈ x.rows → p.misLaid x.swz o n = false ∧ p.engineRotten x.swz o n = false) →
          (if isB then q.b else q.a) = latchOf x (p.latchRows isB x))))
    ∧ (∀ x got, e.cmd = .gather x got → s.stopped k .gather = false →
        let n := aRow x.tag x.depth
        let row := x.rows.getD e.done none
        (∀ o, row = some o → p.misLaid x.swz o n = false ∧ p.engineRotten x.swz o n = false) →
        Completes (.matrixCommandRun k) s (fun t =>
          let q := (t.tc k).mat
          (e.done + 1 < x.rows.length →
            q = { m with queue := { e with done := e.done + 1, cmd := .gather x (got ++ [p.latchRow x.swz n row]) } :: rest })
          ∧ (x.rows.length ≤ e.done + 1 → q.queue = rest ∧ q.a = latchOf x (got ++ [p.latchRow x.swz n row]))))
    ∧ (∀ a kk zs sc, e.cmd = .mul a kk zs sc true → m.acc[a].shadow = none → m.a.tag.isInt = false → sc = none → m.scq.length < 96 →
        Completes (.macroOpBlock k) s (fun t => (t.tc k).mat.queue = m.queue
          ∧ (t.tc k).mat.acc[a] = { m.acc[a] with shadow := some (m.acc[a].data, ⟨0, 0, 0⟩) }))
    ∧ (∀ a kk zs sc sh, e.cmd = .mul a kk zs sc sh →
        (m.a.tag.isInt = true ∨ sc.isSome = true ∨ 96 ≤ m.scq.length) →
        (∀ o, sc = some o → p.rotten (o + 96 * e.done) 96 = false) →
        let scales := if m.a.tag.isInt then [] else match sc with
          | some o => p.spad.read (o + 96 * e.done) 96
          | none => m.scq.take 96
        let old := if sh then (m.acc[a].shadow.map (·.1)).getD m.acc[a].data else m.acc[a].data
        let new := (blockUpdate m.a m.b zs scales e.done old).1
        Completes (.macroOpBlock k) s (fun t =>
          let q := (t.tc k).mat
          q.queue = (if e.done + 1 < kk / 32 then { e with done := e.done + 1 } :: rest else rest)
          ∧ (sh = false → q.acc[a].data = new) ∧ (sh = true → q.acc[a].data = m.acc[a].data ∧ q.acc[a].shadow.map (·.1) = some new)
          ∧ (∀ b, b ≠ a → q.acc[b] = m.acc[b])))

/-- Envelope instructions enter the unit's queue with the operands they took at issue; ewt holds: Where the word may issue,
fewer than 8 commands are queued, every e source is not busy, a vector source carries F32 (or is ZERO) and an image
address is local and 16 B aligned, each of eclr, eins, eevl, esum, emax, einf, econj, esimp, eld, est, eadd, ecnt, edom
and edom.get adds one command at the end of the queue, with vd or gd pending for eevl, ecnt and edom.get. With 8
commands queued they hold; a busy source stalls. ewt holds while its register is pending, or for ZERO while the queue
holds a command, and else takes its place in the queue. (R242, R243, R247, R248, R249, R250, R251, R252, R253, R256,
R257) -/
def Obligations.EnvelopeInstructionsQueue : Prop :=
  ∀ (f : Fields) (s : State),
    let u := s.myTc.env
    let room := u.queue.length < 8
    let d := envNo f.d
    let a := envNo f.a
    let b := envNo f.b
    let lane (x : Sel) (i : Nat) : Nat := (s.vreg x).bits.toNat / 2 ^ (32 * i) % 2 ^ 32
    let f32 (x : Sel) : Prop := ∀ n, x = .reg n → (s.me.getV n).tag = .f32
    (ready (.eclr f) f s = true → (room → Completes (.eclr f) s (fun t => QueuesE s t (.clr d)))
      ∧ (¬room → Stays (.eclr f) s .hold))
    ∧ (ready (.eins f) f s = true → f32 f.a → f32 f.b →
      (room → Completes (.eins f) s (fun t => QueuesE s t
        (.ins d ((List.range (min (s.gval f f.c).toNat 64)).map (fun i => (lane f.a i, lane f.b i))) f.mod0)))
      ∧ (¬room → Stays (.eins f) s .hold))
    ∧ (ready (.eins f) f s = true → (¬f32 f.a ∨ ¬f32 f.b) → Faults (.eins f) s 4 ⟨0x07, 0, s.myPc⟩)
    ∧ (ready (.eevl f) f s = true →
      (u.busy a = true → Stays (.eevl f) s .stall)
      ∧ (u.busy a = false → f32 f.b → room → Completes (.eevl f) s (fun t =>
          QueuesLandingE s t (Dest.ofV f.d) (.evl a ((List.range 64).map (lane f.b))))))
    ∧ (∀ r ∈ [((.esum : Fields → Instr), ECmd.sum), (.emax, ECmd.max), (.einf, ECmd.inf)], ready (r.1 f) f s = true →
      (u.busy a = true ∨ u.busy b = true → Stays (r.1 f) s .stall)
      ∧ (u.busy a = false → u.busy b = false → (room → Completes (r.1 f) s (fun t => QueuesE s t (r.2 d a b f.mod0)))
        ∧ (¬room → Stays (r.1 f) s .hold)))
    ∧ (ready (.econj f) f s = true → u.busy a = false → room → Completes (.econj f) s (fun t => QueuesE s t (.conj d a f.mod0)))
    ∧ (ready (.esimp f) f s = true → u.busy a = false → room → Completes (.esimp f) s (fun t => QueuesE s t (.simp d a)))
    ∧ (ready (.eld f) f s = true → s.localOk (s.gval f f.a) 4112 16 = .ok → room →
      Completes (.eld f) s (fun t => QueuesE s t (.ld d ((s.gval f f.a).toNat % 2 ^ 19))))
    ∧ (ready (.est f) f s = true → u.busy b = false → s.localOk (s.gval f f.a) 4112 16 = .ok → room →
      Completes (.est f) s (fun t => QueuesE s t (.st b ((s.gval f f.a).toNat % 2 ^ 19))))
    ∧ (ready (.eadd f) f s = true → room → Completes (.eadd f) s (fun t =>
        QueuesE s t (.add d (lowWord s f f.a) (lowWord s f f.b))))
    ∧ (ready (.ecnt f) f s = true → u.busy a = false → room →
      Completes (.ecnt f) s (fun t => QueuesLandingE s t (Dest.ofG f.d) (.cnt a)))
    ∧ (ready (.edom f) f s = true → room → Completes (.edom f) s (fun t =>
        QueuesE s t (.dom d (lowWord s f f.a) (lowWord s f f.b))))
    ∧ (ready (.edomGet f) f s = true → u.busy a = false → room →
      Completes (.edomGet f) s (fun t => QueuesLandingE s t (Dest.ofG f.d) (.getDom a)))
    ∧ (ready (.ewt f) f s = true →
      let waits := if f.a = .zero then u.queue ≠ [] else u.pending a = true
      (waits ∨ ¬room → Stays (.ewt f) s .hold)
      ∧ (¬waits → room → Completes (.ewt f) s (fun t => QueuesE s t .nop)))

/-- ENVELOPE_COMMAND_RUN takes the head of the queue; a command over 256 pieces defers ENV_OVERFLOW and leaves its register:
When the head of the queue follows no copy, the unit stands behind no failed command and no task switch has stopped it,
ENVELOPE_COMMAND_RUN completes and the command leaves the queue. Where a register it names breaks R233 or R234, it
defers FORMAT and changes no register (R418). Else: eclr leaves the empty envelope over all values; a command with a
value writes it to its register; one without (over 256 pieces without .simp) changes no register and adds a deferred
ENV_OVERFLOW with its PC; eevl, ecnt and edom.get land their results; est writes the register's image to the scratchpad;
eld of an image without poison takes its lo, hi, CLIP and n pieces of x, m and c, and defers FORMAT where the image
breaks R233 or R234 or its pad or flag bits are not zero. (R241, R242, R244, R248, R249, R250, R251, R254, R256, R257,
R258, R418) -/
def Obligations.EnvelopeUnitRuns : Prop :=
  ∀ (s : State) (k : CoreId) (e : EEntry) (rest : List EEntry), partHere s k = true →
    let p := s.tc k
    let u := p.env
    u.queue = e :: rest → e.follows = none → p.envStopped = false → s.stopped k .envelope = false →
    Completes (.envelopeCommandRun k) s (fun t =>
      let q := (t.tc k).env
      q.queue = rest
      ∧ (∀ r, e.cmd = .clr r → e.cmd.badSource u.e = false → q.e = u.e.set r ⟨(EnvUnit.emptyAll).pieces, 0xFF800000, 0x7F800000, false⟩)
      ∧ (e.cmd.badSource u.e = true → q.e = u.e ∧ (t.tc k).deferred = p.deferred ++ [⟨0x07, e.pc, true, e.seq⟩])
      ∧ (e.cmd.badSource u.e = false → ∀ r, e.cmd.writes = some r → (∀ x o, e.cmd ≠ .ld x o) →
          (∀ x, e.cmd.value u.e (p.etol.toNat % 2 ^ 32) = some x → q.e = u.e.set r x ∧ (t.tc k).deferred = p.deferred)
          ∧ (e.cmd.value u.e (p.etol.toNat % 2 ^ 32) = none →
              q.e = u.e ∧ (t.tc k).deferred = p.deferred ++ [⟨0x0D, e.pc, true, e.seq⟩]))
      ∧ (e.cmd.badSource u.e = false → ∀ r o, e.cmd = .ld r o → p.poisonRows = [] →
          let word (j : Nat) : Nat := (List.range 4).foldr (fun i v => (p.spad.byte (o + j + i)).toNat + 256 * v) 0
          let n := word 8
          let x : Env := ⟨(List.range n).map (fun i => ⟨word (16 + 16 * i), word (20 + 16 * i), word (24 + 16 * i)⟩), word 0, word 4, word 12 == 1⟩
          let good := n ≤ 256 ∧ word 12 ≤ 1 ∧ (∀ i, i < n → word (28 + 16 * i) = 0) ∧ EnvUnit.wellFormed x = true
          (good → q.e = u.e.set r x ∧ (t.tc k).deferred = p.deferred)
          ∧ (¬good → q.e = u.e ∧ (t.tc k).deferred = p.deferred ++ [⟨0x07, e.pc, true, e.seq⟩]))
      ∧ (e.cmd.badSource u.e = false → ∀ tok, e.tok = some tok →
          (∀ r ps, e.cmd = .evl r ps → LandsV s t ⟨k, 0⟩ tok ⟨ofLanes 32 (ps.map (EnvUnit.evalLane u.e[r])), .f32⟩)
          ∧ (∀ r, e.cmd = .cnt r → LandsG s t ⟨k, 0⟩ tok (EnvUnit.countWord u.e[r]))
          ∧ (∀ r, e.cmd = .getDom r → LandsG s t ⟨k, 0⟩ tok (BitVec.ofNat 64 (u.e[r].lo + u.e[r].hi * 2 ^ 32))))
      ∧ (e.cmd.badSource u.e = false → ∀ r o, e.cmd = .st r o → p.spad.wf = true →
          p.logFull (s.leadReplay k) o (EnvUnit.image u.e[r]).length = false →
          ∀ a, (t.tc k).spad.byte a
            = if o ≤ a ∧ a < o + (EnvUnit.image u.e[r]).length then (EnvUnit.image u.e[r]).getD (a - o) 0 else p.spad.byte a))

namespace Sys2Proof.Machine

/-- The granules `eas` of `n` bytes of a load or an atomic pass: room for one more (12 R276, 13 R295), and for what it writes in its core's
streams (18 R386), the checks of R275 with the alignment and the PLB right, in a replay scope nothing that it forbids (15 R351), and no
watchpoint (20 R436). -/
def loadPasses (s : State) (eas : List W64) (n align right : Nat) (bank control atomic wr : Bool) : Bool :=
  s.loadRoom == .ok && (!wr || s.sendOk eas n == .ok) && s.globalOk eas n align right bank control == .ok && (!atomic || s.replayOk eas true == .ok)
    && s.watchAll eas n true wr == .ok
@[inherit_doc loadPasses]
def storePasses (s : State) (eas : List W64) (n align : Nat) (bank control future : Bool) : Bool :=
  s.storeRoom == .ok && s.sendOk eas n == .ok && s.globalOk eas n align rightW bank control == .ok && s.replayOk eas future == .ok
    && s.watchAll eas n false true == .ok

/-- One access sets out under a new name; its destinations wait for it; a write takes the next number of its context; nothing
else differs but the tick, links that were read and the bookkeeping. -/
def SetsOut (f : Fields) (s t : State) (op : AccOp) (parts : List Part) (ds : List Dest) : Prop :=
  ∃ id tok a, s.nextId ≤ id ∧ t.accs = s.accs.set id a
    ∧ a.op = op ∧ a.ea = s.ea f ∧ a.parts = parts ∧ a.stage = .issued ∧ a.bad = none ∧ a.ctx = s.cur ∧ a.task = s.myTask
    ∧ a.dom = s.me.domain ∧ a.pc = s.myPc ∧ a.ord = f.ord ∧ a.reach = f.reachCode ∧ a.nud = f.nud ∧ a.since = s.now
    ∧ a.tok = (if ds.filter (· != Dest.none) = [] then none else some tok)
    ∧ a.seq = s.me.storeSeq + (if op.isWrite then 1 else 0)
    ∧ t.me = { tickedBy f s.now s.me with
        pend := (ds.filter (· != Dest.none)).map (fun d => (⟨d, tok⟩ : Pend)) ++ s.me.pend, storeSeq := a.seq }
    ∧ t = { s with cores := t.cores, accs := t.accs, nextId := t.nextId, pk := t.pk }
    ∧ SamePart s.myTc t.myTc ∧ (∀ c, c ≠ s.cur → t.ctx c = s.ctx c)

/-- The context is in no replay scope. -/
def noReplay (s : State) : Bool := s.myReplay.isNone

/-- The tile of parts of a wide access at ea: one part of up to 16 B, or 16 B parts in order (12 R277). -/
def inParts (ea n : Nat) (b : Nat → List (Option Byte)) : List Part :=
  if n ≤ 16 then [newPart ea (b 0) n] else (List.range (n / 16)).map (fun i => newPart (ea + 16 * i) (b i) 16)

end Sys2Proof.Machine

/-- Global accesses fault by class, alignment and PLB at their address; loads, atomics and fget set out and their
destinations wait: Where the word may issue, the machine has room for another load and every granule passes its checks,
each of ld, vld, vgg, amo, cas, famo and fget completes: one access with its operation, its operands and its parts (16 B
each, or one per granule) sets out, its destinations wait for it, and nothing else differs but the tick. While an
acquire of the context is outstanding, or the context or the core holds its full number of loads, the instruction
stalls; a write whose packets would exceed a stream of its core stalls too. Where ld, st, amo, cas, famo, fset or fget
may issue and has room: an address whose class it may not name raises PROTECTION; an address not aligned to its size
raises ALIGN; an address of class 0x0 to 0x7 that the PLB denies raises PROTECTION, and one that no entry matches
PROTECTION with the mark PLBMISS; each before any effect, with ea in the address field. (R260, R261, R275, R276, R277,
R280, R281, R283, R284, R289, R386, R431) -/
def Obligations.GlobalReadsSetOut : Prop :=
  (∀ (f : Fields) (s : State),
      let ea := s.ea f
      let n := Machine.sizeOf f.szCode
      let one (n : Nat) : List Part := [newPart ea.toNat [] n]
      let d := [Dest.ofG f.d]
      let g := if f.extTag = .i64 then 8 else 4
      let at_ (j : Nat) : W64 := ea + BitVec.ofNat 64 ((s.vreg f.b).bits.toNat / 2 ^ (32 * j) % 2 ^ 32)
      let eas := (List.range (256 / g)).map at_
      (ready (.ld f) f s = true → loadPasses s [ea] n n rightR true true false false = true →
        Completes (.ld f) s (fun t => SetsOut f s t (.ld n) (inParts ea.toNat n (fun _ => [])) d))
      ∧ (ready (.vld f) f s = true → loadPasses s [ea] n 32 rightR true true false false = true →
        Completes (.vld f) s (fun t => SetsOut f s t (.vld f.extTag (f.szCode == 7)) (inParts ea.toNat n (fun _ => [])) [Dest.ofV f.d]))
      ∧ (ready (.vgg f) f s = true → loadPasses s eas g g rightR true false false false = true →
        Completes (.vgg f) s (fun t => SetsOut f s t (.vgg f.extTag g) (eas.map (fun e => newPart e.toNat [] g)) [Dest.ofV f.d]))
      ∧ (ready (.amo f) f s = true → loadPasses s [ea] n n rightA true false true true = true →
        Completes (.amo f) s (fun t => SetsOut f s t (.amo f.extCode n (s.gval f f.b)) (one n) d))
      ∧ (ready (.cas f) f s = true → loadPasses s [ea] n n rightA true false true true = true →
        Completes (.cas f) s (fun t => SetsOut f s t (.cas n (s.gval f f.b) (s.gval f f.c)) (one n) d))
      ∧ (ready (.famo f) f s = true → loadPasses s [ea] n n rightA true false true true = true →
        Completes (.famo f) s (fun t => SetsOut f s t (.famo f.extTag (s.gval f f.b)) (one n) d))
      ∧ (ready (.fget f) f s = true → loadPasses s [ea] 8 8 rightR false false true false = true →
        Completes (.fget f) s (fun t => SetsOut f s t .fget (one 8) [Dest.ofG f.d, Dest.ofP f.c]))
      ∧ (∀ i ∈ [(.ld f : Instr), .vld f, .vgg f, .amo f, .cas f, .famo f, .fget f], ready i f s = true →
          s.acquiring = true ∨ 32 ≤ s.mine AccOp.isLoad ∨ 256 ≤ s.coreWide AccOp.isLoad → Stays i s .stall)
      ∧ (∀ r ∈ [((.st f : Instr), n, false), (.amo f, n, true), (.cas f, n, true), (.famo f, n, true), (.fset f, 8, false)], ready r.1 f s = true →
          (r.2.2 = true → s.loadRoom = .ok) → (r.2.2 = false → s.storeRoom = .ok) → s.sendOk [ea] r.2.1 = .stall → Stays r.1 s .stall))
  ∧ (∀ (f : Fields) (s : State),
      let ea := s.ea f
      let n := Machine.sizeOf f.szCode
      let c := bitsOf ea 63 60
      let ill : Prop := c = 8 ∨ c = 9 ∨ c = 10 ∨ c = 11 ∨ ((c = 13 ∨ c = 14) ∧ s.privileged = false)
      ∀ r ∈ [((.ld f : Instr), n, rightR, true), (.st f, n, rightW, false), (.amo f, n, rightA, true), (.cas f, n, rightA, true),
          (.famo f, n, rightA, true), (.fset f, 8, rightW, false), (.fget f, 8, rightR, true)],
        ready r.1 f s = true → (r.2.2.2 = true → s.loadRoom = .ok) → (r.2.2.2 = false → s.storeRoom = .ok) →
        (r.2.2.1 ≠ rightR → s.sendOk [ea] r.2.1 = .ok) →
        (ill → Faults r.1 s 5 ⟨0x0A, 0, ea⟩)
        ∧ (c ≤ 7 → ea.toNat % r.2.1 ≠ 0 → Faults r.1 s 5 ⟨0x10, 0, ea⟩)
        ∧ (c ≤ 7 → ea.toNat % r.2.1 = 0 → s.plb s.cur.core s.me.domain ea.toNat r.2.1 r.2.2.1 = .denied → Faults r.1 s 5 ⟨0x0A, 0, ea⟩)
        ∧ (c ≤ 7 → ea.toNat % r.2.1 = 0 → s.plb s.cur.core s.me.domain ea.toNat r.2.1 r.2.2.1 = .miss → Faults r.1 s 5 ⟨0x0A, 2, ea⟩))

/-- Global stores, fset and pf issue; in a replay scope a store is staged; wb and inv hold until their access has ended:
Where the word may issue, there is room and every granule passes, st, vst, vsg and fset complete outside a replay scope
with one access that carries the bytes to be written and waits for nothing. In a replay scope st to class 0x0 to 0x7
stages the bytes in the scope's group instead of setting out. pf completes always: it sets out for its line if the class
is 0x0 to 0x7, the PLB grants it the read right and fewer than 64 of the core are out, and is dropped otherwise. wb and
inv on a line that is not held complete at once; on a held line they hold, and complete when the access they sent has
ended. (R276, R280, R281, R282, R288, R290, R291, R351) -/
def Obligations.GlobalWritesSetOut : Prop :=
  ∀ (f : Fields) (s : State),
    let ea := s.ea f
    let n := Machine.sizeOf f.szCode
    let packed := f.szCode == 7
    let bytes := if packed then pack6 (s.vreg f.b).bits else leBytes 256 (s.vreg f.b).bits.toNat
    let g := if (s.vreg f.b).tag = .i64 then 8 else 4
    let at_ (j : Nat) : W64 := ea + BitVec.ofNat 64 ((s.vreg f.c).bits.toNat / 2 ^ (32 * j) % 2 ^ 32)
    let eas := (List.range (256 / g)).map at_
    let granule_ (j : Nat) : List (Option Byte) := (leBytes g ((s.vreg f.b).bits.toNat / 256 ^ (g * j) % 256 ^ g)).map some
    (ready (.st f) f s = true → f.szCode ≤ 3 → storePasses s [ea] n n true true false = true →
      (noReplay s = true → Completes (.st f) s (fun t => SetsOut f s t .st
        [newPart ea.toNat ((leBytes n (s.gval f f.b).toNat).map some) n] []))
      ∧ (∀ h, s.replayGroup = some h → bitsOf ea 63 60 ≤ 7 → Completes (.st f) s (fun t => t.accs = s.accs
          ∧ ∃ id g, t.gsts = s.gsts.set id g ∧ g.h = h ∧ g.ea = ea ∧ g.bytes = leBytes n (s.gval f f.b).toNat ∧ g.ctx = s.cur)))
    ∧ (ready (.vst f) f s = true → (f.szCode = 6 ∨ f.szCode = 7) → (packed = false ∨ (s.vreg f.b).tag = .t6 ∨ (s.vreg f.b).tag = .f6) →
        storePasses s [ea] n 32 true true false = true → noReplay s = true →
      Completes (.vst f) s (fun t => SetsOut f s t .st
        (inParts ea.toNat n (fun i => ((bytes.drop (16 * i)).take 16).map some)) []))
    ∧ (ready (.vsg f) f s = true → storePasses s eas g g true false false = true → noReplay s = true →
      Completes (.vsg f) s (fun t => SetsOut f s t .st
        ((List.range (256 / g)).map (fun j => newPart (at_ j).toNat (granule_ j) g)) []))
    ∧ (ready (.fset f) f s = true → storePasses s [ea] 8 8 false false true = true →
      Completes (.fset f) s (fun t => SetsOut f s t (.fset (s.gval f f.b)) [newPart ea.toNat [] 8] []))
    ∧ (ready (.pf f) f s = true → s.acquiring = false →
      let sets : Prop := bitsOf ea 63 60 ≤ 7 ∧ s.plb s.cur.core s.me.domain (ea.toNat / 64 * 64) 64 rightR = .granted ∧ s.coreWide (· == .pf) < 64
      (sets →
        Completes (.pf f) s (fun t => SetsOut f s t .pf [newPart (ea.toNat / 64 * 64) [] 64] []))
      ∧ (¬sets →
        Completes (.pf f) s (fun t => t.accs = s.accs ∧ OnlyMyCore s t ∧ t.me = tickedBy f s.now s.me)))
    ∧ (∀ r ∈ [((.wb f : Instr), AccOp.wb), (.inv f, .inv)], ready r.1 f s = true →
      (7 < bitsOf ea 63 60 → Faults r.1 s 5 ⟨0x0A, 0, ea⟩)
      ∧ (bitsOf ea 63 60 ≤ 7 →
        (s.me.holdC = none → s.wbLine f = none →
          Completes r.1 s (fun t => t.accs = s.accs ∧ OnlyMyCore s t ∧ t.me = tickedBy f s.now s.me))
        ∧ (∀ h, s.me.holdC = some h → h.ids.any s.accs.has = false →
          Completes r.1 s (fun t => t.accs = s.accs ∧ OnlyMyCore s t ∧ t.me = { tickedBy f s.now s.me with holdC := none }))
        ∧ (∀ line, s.me.holdC = none → s.wbLine f = some line → ∃ t, exec r.1 s = .next t ∧ (s.pk.phase ≠ .effect →
            t.pk.verdict = .hold ∧ ∃ id a, t.accs = s.accs.set id a ∧ a.op = r.2 ∧ a.parts = [newPart (ea.toNat / 64 * 64) [] 64]))))

namespace Sys2Proof.Machine

/-- Part `j` of the access `id` is `p`, translated to the physical address `pa`. -/
def PartIs (s : State) (id : Nat) (a : Access) (j : Nat) (p : Part) (pa : Nat) : Prop :=
  s.acc id = some a ∧ a.parts[j]? = some p ∧ p.pa = some pa

/-- The bytes at `[pa, pa + n)`, all in one line, have been written under a tenant's key: that tenant reads them, every other byte whose
word keeps its key is as before, and every monitor of the line is hit. -/
def Written (s t : State) (tenant pa : Nat) (bs : List Byte) : Prop :=
  (∀ i, i < bs.length → t.readByte tenant (pa + i) = bs.getD i 0)
  ∧ (∀ x, x < pa ∨ pa + bs.length ≤ x →
      x / 8 < pa / 8 ∨ (pa + bs.length - 1) / 8 < x / 8 ∨ s.keyOf x = none ∨ s.keyOf x = some (s.tenantKey tenant x) → t.mem.byte x = s.mem.byte x)
  ∧ (∀ c m, s.monitors.find c = some m → m.line = pa / 64 → (t.monitors.find c).map (·.hit) = some true)

/-- The words that a write touches are EMPTY after it. -/
def Emptied (t : State) (pa n : Nat) : Prop := ∀ x, pa ≤ x → x < pa + n → x / 8 ∉ t.full

/-- The access lands in a context of the task bound to its core now. -/
def landsHere (s : State) (a : Access) : Bool := partHere s a.ctx.core && a.task == (s.core a.ctx.core).task

/-- The operations of instructions whose failure is recorded at their context. -/
def AccOp.recorded : AccOp → Bool
  | .pf | .wb | .inv | .complete _ | .task _ _ => false
  | _ => true

end Sys2Proof.Machine

/-- SLICE_ACCESS, VICTIM_CHOICE, TRUST_SHIFT_UPDATE, TRANSLATION_WALK and PGOK_REWALK: translation at the slice, and its
lines: At its slice an access of one part of class 0x0 to 0x7 takes the physical address that the cached translation of
its page gives; an address with VA[62:48] not zero, and one of a tenant that is mapped to a firmware region (log 32),
fail with TRANSLATION; a write or a future to a replicable page, or a future outside HBM, fails with PROTECTION; a page
that is not cached makes the access wait in a walk entry. Its slice takes the accesses to one line in the order of their
issue, and one to host memory while fewer than 512 requests are outstanding there. A write to another package takes the
next number of its core's stream there, once it may be numbered. A walk waits for the writes that its tables' lines were
released with; one that finds a leaf caches it and lets the waiting accesses go on; one that finds none fails those
whose tenant no pager serves there with TRANSLATION, or sends an upcall to ring 7 of the region's pager. A token of pgok
makes its slice walk again for what the entry holds. A miss that chooses a victim puts the line into an empty way of the
set if there is one. TRUST_SHIFT_UPDATE moves each tenant's trust shift by the ratio of its evictions and starts the
counts again. (R264, R272, R274, R386, R423, R425, R427, R445) -/
def Obligations.AccessMeetsItsSlice : Prop :=
  (∀ (s : State) (id : Nat) (a : Access) (p : Part), s.acc id = some a → a.parts = [p] → a.stage = .issued → a.bad = none →
    a.op.recorded = true → p.done = false → p.pa = none → natBits p.ea 60 4 ≤ 7 →
    let l := s.clu a.ctx.core
    let pa (te : TlbEntry) : Nat := te.pa + p.ea % 65536
    let future : Prop := a.op = .fget ∨ ∃ v, a.op = .fset v
    let refused (te : TlbEntry) : Prop := (te.rro = true ∧ (a.op.isWrite = true ∨ future)) ∨ (future ∧ natBits (pa te) 44 3 ≠ 0)
    (natBits p.ea 48 15 ≠ 0 → Completes (.sliceAccess id) s (fun t =>
      (t.acc id).bind (·.bad) = some (0x0B, BitVec.ofNat 64 p.ea)))
    ∧ (natBits p.ea 48 15 = 0 → ∀ te, (s.slice l).tlbFind p.ea = some te → mayMap a.dom (pa te) = false →
        Completes (.sliceAccess id) s (fun t => (t.acc id).bind (·.bad) = some (0x0B, BitVec.ofNat 64 p.ea)))
    ∧ (natBits p.ea 48 15 = 0 → ∀ te, (s.slice l).tlbFind p.ea = some te → mayMap a.dom (pa te) = true → refused te →
        Completes (.sliceAccess id) s (fun t => (t.acc id).bind (·.bad) = some (0x0A, BitVec.ofNat 64 p.ea)))
    ∧ (natBits p.ea 48 15 = 0 → ∀ te, (s.slice l).tlbFind p.ea = some te → mayMap a.dom (pa te) = true → ¬refused te →
        (s.touchLine a p.ea (pa te) te.rro).isSome = true →
        s.outOfTurn id { a with parts := [{ p with pa := some (pa te) }] } = false →
        (natBits (pa te) 44 3 = 7 → s.hostBusy (natBits (pa te) 47 9) < 512) →
        let q := natBits (pa te) 47 9
        let placed : Part := { p with pa := some (pa te), conf := te.conf, cmp := te.cmp }
        let foreign : Prop := a.op.isWrite = true ∧ q ≠ a.ctx.core.pkg
        (¬foreign → Completes (.sliceAccess id) s (fun t => ∃ b, t.acc id = some b ∧ b.stage = .placed ∧ b.parts = [placed]))
        ∧ (foreign → s.mayNumber id { a with parts := [placed] } = true → Completes (.sliceAccess id) s (fun t => ∃ b, t.acc id = some b
            ∧ b.stage = .placed ∧ b.parts = [{ placed with seqNo := some (q, (s.core a.ctx.core).streamSeq.get q 0) }]
            ∧ (t.core a.ctx.core).streamSeq.get q 0 = ((s.core a.ctx.core).streamSeq.get q 0 + 1) % 65536)))
    ∧ (natBits p.ea 48 15 = 0 → (s.slice l).tlbFind p.ea = none →
        (s.slice l).walks.any (fun w => w.page == p.ea / 65536) = true ∨ (∃ i, i < 64 ∧ ∀ w ∈ (s.slice l).walks, w.slot ≠ i) →
        (∀ w ∈ (s.slice l).walks, w.page = p.ea / 65536 → w.upcall = true → s.served l.pkg p.ea (a.dom.toNat / 256) ≠ none) →
        Completes (.sliceAccess id) s (fun t => (t.acc id).map (·.stage) = some .walking
          ∧ (t.slice l).walks.any (fun w => w.page == p.ea / 65536) = true)))
  ∧ (∀ (s : State) (l : CluId) (n : Nat) (w : Walk), (s.slice l).walks.find? (fun v => v.slot == n) = some w → w.upcall = false →
    s.walkReady l (w.page * 65536) = true →
    (∀ te, s.walk l.pkg (w.page * 65536) = .leaf te → Completes (.translationWalk l n) s (fun t =>
      (t.slice l).tlbFind (w.page * 65536) = some te ∧ (∀ v ∈ (t.slice l).walks, v.slot ≠ n)
      ∧ ∀ id a, s.acc id = some a → s.clu a.ctx.core = l → a.joined w.page = true → (t.acc id).map (·.stage) = some .issued))
    ∧ (∀ level, s.walk l.pkg (w.page * 65536) = .missing level →
      (s.served l.pkg (w.page * 65536) (w.dom.toNat / 256) = none → Completes (.translationWalk l n) s (fun t =>
        (∀ v ∈ (t.slice l).walks, v.slot ≠ n)
        ∧ ∀ id a p, s.acc id = some a → s.clu a.ctx.core = l → a.stage = .walking → a.parts = [p] → p.ea / 65536 = w.page →
            p.done = false → p.pa = none → a.bad = none → a.op.recorded = true →
            s.served l.pkg (w.page * 65536) (a.dom.toNat / 256) = none →
            (t.acc id).bind (·.bad) = some (0x0B, BitVec.ofNat 64 p.ea)))
      ∧ (∀ k, s.served l.pkg (w.page * 65536) (w.dom.toNat / 256) = some k → Completes (.translationWalk l n) s (fun t =>
          ∃ m, t.msgs.find s.nextId = some m ∧ m.dst = k ∧ m.upcall = true
            ∧ (m.payload.take 8) = leBytes 8 (w.page * 65536) ∧ ∀ v ∈ (t.slice l).walks, v.slot = n → v.upcall = true))))
  ∧ (∀ (s : State) (token : W64) (w : Walk) (te : TlbEntry), s.tokens.contains token = true →
    let l : CluId := ⟨bitsOf token 63 55, bitsOf token 54 53, bitsOf token 52 47⟩
    (s.slice l).walks.find? (fun w => w.upcall && walkToken l w == token) = some w →
    (w.others = true ∨ ∃ id a, s.acc id = some a ∧ s.clu a.ctx.core = l ∧ a.joined w.page = true) → s.walk l.pkg (w.page * 65536) = .leaf te → s.walkReady l (w.page * 65536) = true →
    Completes (.pgokRewalk token) s (fun t => t.tokens = s.tokens.erase token ∧ (t.slice l).tlbFind (w.page * 65536) = some te
      ∧ ∀ v ∈ (t.slice l).walks, v.slot ≠ w.slot))
  ∧ (∀ (s : State) (l : CluId) (line id : Nat) (a : Access), s.acc id = some a → s.clu a.ctx.core = l → (s.slice l).n < 65536 →
    (∀ e ∈ (s.slice l).lines, e.2.line ≠ line) → natBits (line * 64) 47 9 = l.pkg → (∃ p ∈ a.parts, p.done = false ∧ ∃ pa, p.pa = some pa ∧ pa / 64 = line) →
    (∃ w, w < 16 ∧ ∀ x, (s.slice l).lines.find (line % 4096, w) = some x → s.engineOwns x.line = false ∧ x.filling = false) →
    Completes (.victimChoice l line id) s (fun t => ∃ w, w < 16
      ∧ ((t.slice l).lines.find (line % 4096, w)).map (·.line) = some line
      ∧ (∀ x, (s.slice l).lines.find (line % 4096, w) = some x → s.engineOwns x.line = false ∧ x.filling = false
          ∧ ∀ v, v < 16 → (s.slice l).lines.find (line % 4096, v) ≠ none)))
  ∧ (∀ (s : State) (l : CluId), 65536 ≤ (s.slice l).n → ((s.slice l).ev.map (·.1)).Nodup →
    Completes (.trustShiftUpdate l) s (fun t => (t.slice l).n = 0 ∧ (t.slice l).ev = [] ∧ (t.slice l).ov = []
      ∧ ∀ tenant, let e := (s.slice l).ev.get tenant 0
          let o := (s.slice l).ov.get tenant 0
          let old := (s.slice l).ts.get tenant 0
          (t.slice l).ts.get tenant 0 = if e = 0 then old else if e < 4 * o then min (old + 1) 7 else if 16 * o < e then old - 1 else old))

/-- HOME_ACCESS, STORE_PERFORMED, WRITE_PACKET_ARRIVAL and FORCED_PUBLISH: what a load reads and which bytes a store
changes: A part of a load that may be served reads, at its home, the bytes as its tenant reads them, and memory is
unchanged. A write-back is acknowledged: no copy of its line in this cluster's slice is dirty after wb, and none is left
after inv. A part of a store that may be performed writes its bytes under its tenant's key: the tenant reads them, every
other byte whose word keeps its key is as before, the words it touches are EMPTY, monitors of the line are hit; the
access ends when all its parts are performed. The same holds for a write packet of a stream and for the store that an
acquire's home has published first. (R265, R277, R291, R293, R287, R296, R314, R387, R432) -/
def Obligations.MemoryServesReadsAndWrites : Prop :=
  ∀ (s : State) (id j pa : Nat) (a : Access) (p : Part), PartIs s id a j p pa →
    (s.partReady id j a = true →
      (a.op.isPlainLoad = true → s.rottenLine pa p.len = false → Completes (.homeAccess id j) s (fun t =>
        t.mem = s.mem ∧ t.keys = s.keys
        ∧ t.acc id = some { a with parts := a.parts.set j { p with done := true, data := s.readMem (a.dom.toNat / 256) pa p.len } }))
      ∧ (a.op = .wb ∨ a.op = .inv → Completes (.homeAccess id j) s (fun t => t.mem = s.mem ∧ t.acc id = none
        ∧ ∀ e ∈ (t.slice (s.clu a.ctx.core)).lines, e.2.line = pa / 64 → a.op = .wb ∧ e.2.dirty = false)))
    ∧ (∀ bs : List Byte, a.op = .st → p.bytes = bs.map some → bs ≠ [] → pa % 64 + bs.length ≤ 64 → s.mem.wf = true →
      s.storeReady id j a = true →
      let done (t : State) : Prop := Written s t (a.dom.toNat / 256) pa bs ∧ Emptied t pa bs.length
        ∧ (a.parts = [p] → a.bad = none → t.acc id = none)
      Completes (.storePerformed id j) s done
      ∧ (p.seqNo.isSome = true → a.parts = [p] → Completes (.writePacketArrival id) s done)
      ∧ (∀ aid b q line r, s.acc aid = some b → b.parts = [q] → q.done = false → q.pa.map (· / 64) = some line →
          b.stage = .placed → a.parts = [p] →
          s.crossed b line = [r] → s.recordsFull b line = false →
          s.accs.filter (fun e => sameCtx e.2.task r.task e.2.ctx r.ctx && decide (e.2.seq ≤ r.seq)) = [(id, a)] →
          Completes (.forcedPublish aid) s done))

/-- ATOMIC_AT_HOME, FSET_AT_HOME, FGET_AT_HOME and GLOBAL_ACCESS_LAND: the old value returned, the new one written, FULL and
EMPTY: An atomic that may be served reads the old value and writes the new one in one step: amo by its operator, cas
where the old value equals the compare value, famo the rounded sum. fset writes its value, leaves its word FULL and
answers every held fget of the word with it. fget reads a FULL word, is held in the slice's deferred table on an EMPTY
one, and is refused with no data when 256 are held. A load whose parts have all been read lands: ld and atomics sign-
extend, famo zero-extends, vld and vgg give the vector, fget gives the value and an all-ones predicate, or zero and an
all-zero predicate when it was refused. (R283, R284, R285, R286, R287, R288, R289, R77) -/
def Obligations.AtomicsAndFuturesAtHome : Prop :=
  (∀ (s : State) (id pa : Nat) (a : Access) (p : Part), PartIs s id a 0 p pa → a.parts = [p] →
    let tenant := a.dom.toNat / 256
    let bs := s.readMem tenant pa p.len
    let old := leNat bs
    (∀ new, s.mem.wf = true → s.writeReady id 0 a = true → s.rottenLine pa p.len = false → 0 < p.len → pa % 64 + p.len ≤ 64 →
      let w := 8 * p.len
      let si (z : Nat) : Int := if z < 2 ^ (w - 1) then z else (z : Int) - 2 ^ w
      ((∃ o v, a.op = .amo o p.len v ∧ o ≤ 8 ∧
          let x := v.toNat % 2 ^ w
          new = some (match o with
            | 0 => (old + x) % 2 ^ w
            | 1 => old &&& x
            | 2 => old ||| x
            | 3 => old ^^^ x
            | 4 => if si x < si old then x else old
            | 5 => if si old < si x then x else old
            | 6 => min old x
            | 7 => max old x
            | _ => x))
        ∨ (∃ c v, a.op = .cas p.len c v ∧ new = if old = c.toNat % 2 ^ w then some (v.toNat % 2 ^ w) else none)
        ∨ (∃ fmt v, a.op = .famo fmt v ∧ fmt.width = w ∧ new = some (floatAdd fmt old (v.toNat % 2 ^ w)))) →
      Completes (.atomicAtHome id) s (fun t =>
        (t.acc id).map (·.parts) = some [{ p with done := true, data := bs }]
        ∧ (∀ x, new = some x → Written s t tenant pa (leBytes p.len x) ∧ Emptied t pa p.len)
        ∧ (new = none → t.mem = s.mem ∧ t.full = s.full)))
    ∧ (∀ v, a.op = .fset v → a.bad = none → p.len = 8 → s.mem.wf = true → s.writeReady id 0 a = true → pa % 8 = 0 →
      Completes (.fsetAtHome id) s (fun t => Written s t tenant pa (leBytes 8 v.toNat) ∧ pa / 8 ∈ t.full ∧ t.acc id = none
        ∧ ∀ i b q, i ≠ id → i ∈ (s.slice (paClu pa)).deferred → s.acc i = some b → b.parts = [q] → q.pa = some pa →
            (t.acc i).map (·.parts) = some [{ q with done := true, data := leBytes 8 v.toNat }]))
    ∧ (a.op = .fget → s.partReady id 0 a = true →
      (pa / 8 ∈ s.full → s.rottenLine pa 8 = false → Completes (.fgetAtHome id) s (fun t =>
        (t.acc id).map (·.parts) = some [{ p with done := true, data := s.readMem tenant pa 8 }]))
      ∧ (pa / 8 ∉ s.full → (s.slice (paClu pa)).deferred.length < 256 → Completes (.fgetAtHome id) s (fun t =>
          (t.acc id).map (·.stage) = some .deferred ∧ (t.slice (paClu pa)).deferred = (s.slice (paClu pa)).deferred ++ [id]))
      ∧ (pa / 8 ∉ s.full → 256 ≤ (s.slice (paClu pa)).deferred.length → Completes (.fgetAtHome id) s (fun t =>
          (t.acc id).map (·.parts) = some [{ p with done := true, data := [] }]))))
  ∧ (∀ (s : State) (id tok : Nat) (a : Access), s.acc id = some a → (∀ p ∈ a.parts, p.done = true) → a.failure = none → s.answered a = true →
    a.tok = some tok → landsHere s a = true → (∀ q ∈ (s.pkg a.ctx.core.pkg).torus, ∀ l, q.cargo ≠ .reply id l) →
    let bs := a.parts.flatMap (·.data)
    (∀ n, a.op = .ld n ∨ (∃ o v, a.op = .amo o n v) ∨ (∃ c v, a.op = .cas n c v) → bs.length = n → n ≤ 8 → 0 < n →
      Completes (.globalAccessLand id) s (fun t => t.acc id = none ∧ LandsG s t a.ctx tok (signExtended n (leNat bs))))
    ∧ (∀ fmt v, a.op = .famo fmt v → Completes (.globalAccessLand id) s (fun t => t.acc id = none
        ∧ LandsG s t a.ctx tok (BitVec.ofNat 64 (leNat bs))))
    ∧ (∀ tag p6, a.op = .vld tag p6 → Completes (.globalAccessLand id) s (fun t => t.acc id = none
        ∧ LandsV s t a.ctx tok (vecOf p6 tag bs).canon))
    ∧ (∀ tag g, a.op = .vgg tag g → Completes (.globalAccessLand id) s (fun t => t.acc id = none
        ∧ LandsV s t a.ctx tok (VReg.canon ⟨BitVec.ofNat 2048 (leNat bs), tag⟩)))
    ∧ (a.op = .fget → Completes (.globalAccessLand id) s (fun t => t.acc id = none
        ∧ LandsG s t a.ctx tok (BitVec.ofNat 64 (leNat bs))
        ∧ ∀ n m, m ≠ 0 → (s.ctx a.ctx).pend.filter (fun p => p.tok == tok) = [⟨.g n, tok⟩, ⟨.p m, tok⟩] →
            (∀ r ∈ (s.ctx a.ctx).inflight, r.dest ≠ .g n ∧ r.dest ≠ .p m) →
            (t.ctx a.ctx).getG n = BitVec.ofNat 64 (leNat bs)
            ∧ (t.ctx a.ctx).getP m = (if bs = [] then 0 else BitVec.allOnes 512))))

/-- REMOTE_ACCESS, DEBUG_WINDOW_WRITE and POISON_CONSUMED: scratchpads behind their windows, debug windows, poison: An
access to another core's scratchpad that no open window of that core grants is refused; one that is granted, one that
the windows have accepted before, and one to the core's own, reads the bytes of the scratchpad or writes them, no other
byte of it changing. A write to the debug window of a frozen context changes the register that its place names; one to a
context that is not frozen is discarded with PROTECTION. A load of a poisoned line outside a replay scope fails with
UNCORRECTABLE. (R179, R180, R261, R262, R416, R418, R455) -/
def Obligations.AccessesAtOtherUnits : Prop :=
  (∀ (s : State) (id : Nat) (a : Access) (p : Part) (k : CoreId) (off : Nat), s.acc id = some a → a.parts = [p] → a.bad = none →
    s.bankReady id 0 a = some (k, off) →
    let own : Prop := k = a.ctx.core
    let granted (bit : Nat) : Prop := own ∨ (a.granted = true ∧ a.granular = false) ∨ s.windowOk k a.dom off p.len bit = true
    let out (parts : List Part) : Access := { a with granted := true, parts := parts }
    (∀ bit, (bit = if a.op.isAtomic then 40 else if a.op.isWrite then 41 else 42) → ¬granted bit →
      Completes (.remoteAccess id) s (fun t => t.tc k = s.tc k ∧ t.acc id = some (if a.granular
        then { a with parts := [{ p with done := true }], bad := some (0x09, BitVec.ofNat 64 p.ea) } else { a with stage := .nacked })))
    ∧ (own → landsHere s a = true) →
      (∀ n, a.op = .ld n → granted 42 → (s.tc k).rotten off p.len = false → Completes (.remoteAccess id) s (fun t =>
        t.acc id = some (out [{ p with done := true, data := (s.tc k).spad.read off p.len }]) ∧ t.tc k = s.tc k))
      ∧ (∀ bs : List Byte, a.op = .st → p.bytes = bs.map some → bs.length = p.len → granted 41 → (s.tc k).spad.wf = true →
        (s.tc k).logFull (s.replayOf a.scope) off p.len = false → Completes (.remoteAccess id) s (fun t => t.acc id = none
          ∧ ∀ x, (t.tc k).spad.byte x = if off ≤ x ∧ x < off + bs.length then bs.getD (x - off) 0 else (s.tc k).spad.byte x)))
  ∧ (∀ (s : State) (id : Nat) (a : Access) (p : Part) (x : W64), s.acc id = some a → a.parts = [p] → a.bad = none → a.op = .st →
    s.controlReady id a p = true → natBits p.ea 60 4 = 13 → natBits p.ea 35 4 ≤ 10 → p.len = 8 → p.bytes = (leBytes 8 x.toNat).map some →
    let c : CtxId := ⟨⟨natBits p.ea 51 9, natBits p.ea 49 2, natBits p.ea 39 10⟩, natBits p.ea 35 4⟩
    let o := natBits p.ea 0 16
    ((s.ctx c).life ≠ .frozen → Completes (.debugWindowWrite id) s (fun t =>
      (t.acc id).bind (·.bad) = some (0x0A, BitVec.ofNat 64 p.ea) ∧ t.ctx c = s.ctx c))
    ∧ ((s.ctx c).life = .frozen → (∀ n : BitVec 5, o = 8 * n.toNat → Completes (.debugWindowWrite id) s (fun t =>
        t.acc id = none ∧ (t.ctx c).getG n = x ∧ ∀ m, m ≠ n → (t.ctx c).getG m = (s.ctx c).getG m))
      ∧ (o = 0x320 → Completes (.debugWindowWrite id) s (fun t => t.acc id = none ∧ (t.ctx c).pcq0 = pcOfWord x))))
  ∧ (∀ (s : State) (id pa : Nat) (a : Access) (p : Part), PartIs s id a 0 p pa → a.parts = [p] → a.bad = none →
    a.op.isPlainLoad = true → s.partReady id 0 a = true → s.rottenLine pa p.len = true → s.replayOf a.scope = none →
    Completes (.poisonConsumed (.access id)) s (fun t =>
      (t.acc id).bind (·.bad) = some (0x13, BitVec.ofNat 64 p.ea) ∧ t.mem = s.mem))

/-- Refusals, lost packages and expanders, failed authentication and timeouts fail an access; its record names the cause:
WINDOW_NACK fails a refused access with WINDOW; PEER_ACCESS_TIMEOUT one to a failed package and EXPANDER_TIMEOUT one to
an expander that has not answered for T_fail, both with MACHINE_CHECK; AUTHENTICATION_FAILURE one to a confidential page
of another package with PROTECTION, and the home that discards its request counts it. WB_TIMEOUT ends the write-back
that has not been acknowledged for T_fail. ASYNC_FAULT_RECORD ends a failed access: its destinations are poisoned and
wait no more, and the record of its context takes cause and addresses, or counts one more. (R180, R261, R275, R291,
R311, R388, R419, R473) -/
def Obligations.AccessesFail : Prop :=
  (∀ (s : State) (id : Nat) (a : Access), s.acc id = some a →
    (a.stage = .nacked → Completes (.windowNack id) s (fun t => t.acc id = some { a with stage := .failed 0x09 }))
    ∧ (∀ p q, a.parts = [p] → p.done = false → a.failure = none →
      (p.package = some q → s.alive a.ctx.core.pkg q = false → a.op.isLoad = true →
        Completes (.peerAccessTimeout id) s (fun t => t.acc id = some { a with stage := .failed 0x15 }))
      ∧ (∀ pa, p.pa = some pa → 1 ≤ natBits pa 44 3 → natBits pa 44 3 ≤ 6 → a.since + tFail ≤ s.now →
        Completes (.expanderTimeout (.op id)) s (fun t => t.acc id = some { a with stage := .failed 0x15 }
          ∧ natBits pa 44 3 - 1 ∈ (t.pkg (natBits pa 47 9)).memDown))
      ∧ (∀ pa, p.pa = some pa → p.conf = true → natBits pa 47 9 ≠ a.ctx.core.pkg →
        Completes (.authenticationFailure (.op id)) s (fun t => t.acc id = some { a with stage := .failed 0x0A }
          ∧ (t.pkg (natBits pa 47 9)).authFails = (s.pkg (natBits pa 47 9)).authFails + 1)))
    ∧ (∀ cause ea, a.failure = some (cause, ea) → a.op.recorded = true → landsHere s a = true →
        (s.ctx a.ctx).incarn = a.incarn →
        Completes (.asyncFaultRecord id) s (fun t => t.acc id = none
          ∧ (t.ctx a.ctx).afr = (match (s.ctx a.ctx).afr with
            | none => some ⟨ea, a.pc, cause, a.sel, a.kind, 0⟩
            | some r => some { r with count := min (r.count + 1) 255 })
          ∧ (t.ctx a.ctx).pend = (s.ctx a.ctx).pend.filter (fun p => some p.tok != a.tok)
          ∧ ∀ d, d ≠ .p 0 → (∀ dir v k, d ≠ .link dir v k) → (∀ n, d ≠ .spr n) → d ≠ .none →
              ((t.ctx a.ctx).poisoned d = true ↔ (s.ctx a.ctx).poisoned d = true ∨ ∃ tok, a.tok = some tok ∧ ⟨d, tok⟩ ∈ (s.ctx a.ctx).pend))))
  ∧ (∀ (s : State) (c : CtxId) (h : Hold) (id : Nat) (a : Access), (s.ctx c).holdC = some h → h.ids = [id] → s.acc id = some a →
    a.op = .wb ∨ a.op = .inv → h.since + tFail ≤ s.now → Completes (.wbTimeout c) s (fun t => t.acc id = none ∧ t.ctx c = s.ctx c))

namespace Sys2Proof.Machine

/-- Nothing but the packet's own record differs. -/
def OnlyPacket (s t : State) : Prop := OnlyMyCore s t ∧ SamePart s.myTc t.myTc ∧ t.me = s.me

/-- The packet after one of which the last position is `e` in its line, outside a repeat (05 R82). -/
def successor (line e : Nat) : W64 := if e < 4 then pcAt line (e + 1) else pcAt (line + 1) 0

/-- The PC after a packet that ends at position `e` of a line, and the passes left, where a repeat may be running (05 R82). -/
def successorIn (r : RepState) (line e : Nat) : W64 × Nat :=
  if 4 ≤ e ∧ 0 < r.left ∧ line = r.last then (if 1 < r.left then pcAt r.first 0 else pcAt (line + 1) 0, r.left - 1)
  else (successor line e, r.left)

end Sys2Proof.Machine

/-- nop, branches, rep, lpin, lfree, tick and bkpt complete with the effect that R89 to R100 give: Where the word may issue:
nop changes nothing. b, ba and bl hand the packet's boundary the target whose line is IMM[31:3] lines from the packet's
own and whose position is IMM[2:0]; br and brl hand it ga; bl and brl the link's register too. ba with a false guard has
its delay packets annulled. rep hands it the count and the lines of the body, or a freeze with ILLEGAL for a count above
65,536. tick adds 1 to RCLK, moves CAD by a sixteenth of the difference and starts elapsed time again. bkpt sets a
freeze with BREAKPOINT at the boundary, unless a lower position has set one (log 37). lpin keeps the lines it read;
lfree drops the context's pins of its lines; both raise ALIGN for an unaligned address. (R40, R89, R90, R91, R92, R93,
R97, R99, R100, R269) -/
def Obligations.ControlInstructions : Prop :=
  ∀ (f : Fields) (s : State),
    let line := s.me.pcq0.pc.toNat / 64
    let target : W64 := BitVec.ofInt 64 ((((line % 2 ^ 58 : Nat) : Int) + f.imm.toInt / 8) % 2 ^ 58 * 64 + (f.imm.toNat % 8 : Nat))
    let at_ := (s.ea f).toNat / 64
    (ready (.nop f) f s = true → Completes (.nop f) s (fun t => OnlyPacket s t ∧ ∃ v, t.pk = { s.pk with verdict := v }))
    ∧ (∀ i ∈ [(.b f : Instr), .ba f], ready i f s = true → Completes i s (fun t => OnlyPacket s t
        ∧ t.pk.target = some target ∧ t.pk.branch = true ∧ t.pk.link = none ∧ t.pk.annul = s.pk.annul))
    ∧ (ready (.bl f) f s = true → Completes (.bl f) s (fun t => OnlyPacket s t
        ∧ t.pk.target = some target ∧ t.pk.branch = true ∧ t.pk.link = some (Dest.ofG f.d)))
    ∧ (ready (.br f) f s = true → Completes (.br f) s (fun t => OnlyPacket s t
        ∧ t.pk.target = some (s.gval f f.a) ∧ t.pk.branch = true ∧ t.pk.link = none))
    ∧ (ready (.brl f) f s = true → Completes (.brl f) s (fun t => OnlyPacket s t
        ∧ t.pk.target = some (s.gval f f.a) ∧ t.pk.branch = true ∧ t.pk.link = some (Dest.ofG f.d)))
    ∧ (s.pk.phase = .effect → s.guardTrue f = false →
        ∃ t, exec (.ba f) s = .next t ∧ OnlyPacket s t ∧ t.pk.annul = true ∧ t.pk.branch = true ∧ t.pk.target = s.pk.target)
    ∧ (ready (.rep f) f s = true →
      ((s.gval f f.a).toNat ≤ 65536 → Completes (.rep f) s (fun t => OnlyPacket s t
        ∧ t.pk.rep = some ((s.gval f f.a).toNat, f.x.toNat % 8 + 1) ∧ t.pk.after = s.pk.after))
      ∧ (65536 < (s.gval f f.a).toNat → Completes (.rep f) s (fun t => OnlyPacket s t
        ∧ t.pk.rep = s.pk.rep ∧ t.pk.after = some (s.pk.after.getD ⟨0x01, 0, s.myPc⟩))))
    ∧ (ready (.tick f) f s = true → Completes (.tick f) s (fun t => OnlyMyCore s t ∧ SamePart s.myTc t.myTc
        ∧ t.me = { s.me with
            elapsedFrom := s.now, elapsedHeld := 0
            spr := { s.me.spr with
              rclk := s.me.spr.rclk + 1
              cad := BitVec.ofInt 64 (s.me.spr.cad.toNat
                + Int.tdiv (((min (s.me.elapsed s.now * 16) 0xFFFF : Nat) : Int) - s.me.spr.cad.toNat) 16) } }))
    ∧ (ready (.bkpt f) f s = true → Completes (.bkpt f) s (fun t => OnlyPacket s t ∧ t.pk.after = some (s.pk.after.getD ⟨0x11, 0, s.myPc⟩)))
    ∧ (∀ i ∈ [(.lpin f : Instr), .lfree f], ready i f s = true → (s.ea f).toNat % 64 ≠ 0 → Faults i s 5 ⟨0x10, 0, s.ea f⟩)
    ∧ (ready (.lpin f) f s = true → (s.ea f).toNat % 64 = 0 → s.myTc.pins = [] →
        ∀ b : Nat → Nat, (∀ j, j ≤ f.x.toNat % 8 → (s.pinRead (at_ + j)).1 = .ok (b j)) →
        Completes (.lpin f) s (fun t => OnlyMyCore s t ∧ t.me = s.me
          ∧ t.myTc.pins = ((List.range (f.x.toNat % 8 + 1)).map (fun j => (⟨at_ + j, b j, s.cur.ctx, false⟩ : Pin))).reverse))
    ∧ (ready (.lfree f) f s = true → (s.ea f).toNat % 64 = 0 → Completes (.lfree f) s (fun t => OnlyMyCore s t ∧ t.me = s.me
        ∧ ∀ p, p ∈ t.myTc.pins ↔ p ∈ s.myTc.pins ∧ ¬(p.ctx = s.cur.ctx ∧ at_ ≤ p.line ∧ p.line ≤ at_ + f.x.toNat % 8)))

/-- The boundary of a packet moves the chain; a branch's target comes after two delay packets; annulled and empty packets
move it too: Take a packet that ended, its chain resolved. The next packet is what PCQ1 named, annulled if ba said so;
PCQ1 takes PCQ2; PCQ2 takes the branch target, marked TGT, or else the packet after the one it names; a link gets the
address of that packet, due with the next packet; pipe time advances by 1; a branch counts two delay packets. A rep sets
the repeat, with the body from the next line on and its first packet next, or the line after it for a count of 0. A
freeze at the boundary freezes the context with its cause. An annulled packet, and one all of whose positions are empty,
take the cycle in which their context is first in the arbiter's order; they have no effect of their own and move the
chain in the same way. Inside a repeat the packet after the body's last is its first while passes are left. An
unresolved entry stays so until the packet before it has issued; it then becomes the successor of the PC that it holds,
once that line can be read. (R72, R74, R81, R82, R83, R84, R90, R91, R93, R95, R21, R85) -/
def Obligations.ChainMovesAtTheBoundary : Prop :=
  (∀ (s : State) (c : CtxId), s.pk.leave = false → s.pk.stay = false → s.pk.record = none → s.pk.rep = none → s.pk.after = none →
    let k := s.ctx c
    k.stepOnce = false → k.pcq1.sq = false → k.pcq2.sq = false →
    ∀ bits, s.peekLine c k.pcq2.pc = some bits →
    let after := successorIn k.rep (k.pcq2.pc.toNat / 64) (packetEnd bits (k.pcq2.pc.toNat % 8))
    let next := after.1
    let u := (s.finish c).ctx c
    u.pcq0 = { k.pcq1 with anl := s.pk.annul || k.pcq1.anl }
    ∧ u.pcq1 = { k.pcq2 with anl := s.pk.annul || k.pcq2.anl }
    ∧ (∀ x, s.pk.target = some x → u.pcq2 = ⟨x, false, true, false⟩)
    ∧ (s.pk.target = none → u.pcq2 = ⟨next, false, false, false⟩)
    ∧ u.inflight = k.inflight.take (k.inflight.length - s.pk.linkAt) ++ (match s.pk.link with
        | some d => [⟨d, .g next, k.pipe + 1, none⟩]
        | none => []) ++ k.inflight.drop (k.inflight.length - s.pk.linkAt)
    ∧ u.pipe = k.pipe + 1 ∧ u.delayLeft = (if s.pk.branch then 2 else k.delayLeft - 1)
    ∧ u.rep.left = after.2 ∧ u.rep.first = k.rep.first ∧ u.rep.last = k.rep.last
    ∧ u.life = k.life ∧ (∀ n, u.getG n = k.getG n))
  ∧ (∀ (s : State) (c : CtxId), s.pk.leave = false → s.pk.stay = false → s.pk.record = none → s.pk.rep = none → s.pk.after = none →
    let k := s.ctx c
    k.stepOnce = false → k.pcq1.sq = true → k.pcq2.sq = true → k.pcq2.pc = k.pcq1.pc →
    ∀ bits, s.peekLine c k.pcq1.pc = some bits →
    let after := successorIn k.rep (k.pcq1.pc.toNat / 64) (packetEnd bits (k.pcq1.pc.toNat % 8))
    let u := (s.finish c).ctx c
    u.pcq0 = ⟨after.1, false, false, s.pk.annul || k.pcq1.anl⟩ ∧ u.pcq1 = ⟨after.1, true, k.pcq2.tgt, s.pk.annul || k.pcq2.anl⟩
    ∧ (s.pk.target = none → u.pcq2 = ⟨after.1, true, false, false⟩) ∧ u.rep.left = after.2)
  ∧ (∀ (s : State) (c : CtxId) (n lines : Nat), s.pk.leave = false → s.pk.stay = false → s.pk.record = none → s.pk.after = none →
    (s.ctx c).stepOnce = false → s.pk.rep = some (n, lines) → 1 ≤ lines → (s.ctx c).pcq0.pc.toNat / 64 + lines + 1 < 2 ^ 58 →
    let line := (s.ctx c).pcq0.pc.toNat / 64
    let u := (s.finish c).ctx c
    u.pcq0 = ⟨pcAt (if n = 0 then line + lines + 1 else line + 1) 0, false, false, false⟩ ∧ u.rep.first = line + 1
    ∧ u.rep.last = line + lines ∧ (n = 0 → u.rep.run = false) ∧ (n ≠ 0 → u.rep.run = true) ∧ u.pipe = (s.ctx c).pipe + 1)
  ∧ (∀ (s : State) (c : CtxId) (fi : FaultInfo), s.pk.leave = false → s.pk.stay = false → s.pk.after = some fi → (s.ctx c).life = .running →
    ((s.finish c).ctx c).life = .frozen ∧ ((s.finish c).ctx c).cause = fi.cause)
  ∧ (∀ (s s1 : State) (c : CtxId) (bits : Nat), s.canTry c = true →
    ({ s with cur := c, pk := Pk.fresh } : State).fetch c = (.line bits, s1) →
    let k := s1.ctx c
    k.life = .running → k.stepOnce = false → k.leaving = false → (s.issueOrder c.core).head? = some c.ctx →
    let s2 := s1.commitDue (s1.core c.core).task c
    let u := ({ s2 with pk := { Pk.fresh with phase := .effect, before := some (s2.tc c.core) } } : State).finish c
    let issued (t : State) : Prop := ({ t.ctx c with starve := 0 } : Ctx) = { u.ctx c with starve := 0 } ∧ (t.ctx c).pipe = k.pipe + 1
      ∧ t.mem = u.mem ∧ t.now = s.now + 1 ∧ (c.ctx ≠ 0 → (t.ctx c).starve = 0 ∧ (t.core c.core).lastHelper = c.ctx)
    ((s.ctx c).pcq0.anl = true → k.pcq0.anl = true → Completes (.annulledPacket c) s issued)
    ∧ ((s.ctx c).pcq0.sq = false → (s.ctx c).pcq0.anl = false → k.pcq0.anl = false → s.headPacket c = some [] →
        packetPositions bits (k.pcq0.pc.toNat % 8) = [] → (k.pcq0.tgt = true → tmBit bits (k.pcq0.pc.toNat % 8) = true) →
        Completes (.emptyPacket c) s issued))
  ∧ (∀ (s : State) (c : CtxId) (bits : Nat), (s.ctx c).life = .running → (s.ctx c).pcq0.sq = true →
    s.peekLine c (s.ctx c).pcq0.pc = some bits →
    let k := s.ctx c
    let after := successorIn k.rep (k.pcq0.pc.toNat / 64) (packetEnd bits (k.pcq0.pc.toNat % 8))
    Completes (.sequentialResolve c) s (fun t => (t.ctx c).pcq0 = ⟨after.1, false, false, k.pcq0.anl⟩ ∧ (t.ctx c).rep.left = after.2
      ∧ (k.pcq1.sq = false → (t.ctx c).pcq1 = k.pcq1) ∧ t.mem = s.mem))

/-- fence, bar, mon and mwait complete or hold by R310 to R315; an abandoned store is named in FSTAT: Where the word may
issue: a fence completes once the earlier writes are done at its reach (.rel), the earlier loads have landed (.acq) and
the engines and copies have finished (.eng), and holds until then; with a fault in the asynchronous record it freezes
with that cause, the marks ASYNC and FENCE and its address. bar outside a gang is a fence of both kinds; in a gang it
marks its arrival when that fence is done, and completes once every member has arrived or its scope is braked. mon arms
the one monitor of its context on the line of its page; where no translation exists the context has no monitor. mwait
completes once the monitor is hit or gone, or its scope is braked, and disarms it. MWAIT_TIMEOUT and MONITOR_LOST disarm
it. FENCE_ABANDON gives up a store after T_fail and records its package in FSTAT. That mon leaves no monitor where no
translation exists is the model's choice (log 18), and so is the record of an abandoned store (log 8). (R310, R311,
R312, R313, R314, R315, R420) -/
def Obligations.FencesAndBarriers : Prop :=
  (∀ (f : Fields) (s : State),
    let m := f.mod.toNat
    let holds (i : Instr) (P : State → Prop) : Prop := ∃ t, exec i s = .next t ∧ (s.pk.phase ≠ .effect → t.pk.verdict = .hold ∧ P t)
    (ready (.fence f) f s = true →
      (∀ r, s.me.afr = some r → Faults (.fence f) s 2 ⟨r.cause, 9, r.ea⟩)
      ∧ (s.me.afr = none → (m.testBit 2 = true → s.engineFreeze = none) →
        let done : Prop := (m.testBit 0 = true → s.writesDone f.reachCode = true) ∧ (m.testBit 1 = true → s.loadsDone = true)
          ∧ (m.testBit 2 = true → s.enginesDone = true)
        (done → Completes (.fence f) s (fun t => OnlyMyCore s t ∧ SamePart s.myTc t.myTc ∧ t.me = { s.me with hold := none }))
        ∧ (¬done → holds (.fence f) (fun t => t.me.hold.isSome = true))))
    ∧ (ready (.bar f) f s = true → s.me.afr = none →
      let fenced := s.writesDone (s.barReach f) = true ∧ s.loadsDone = true
      (s.myGang = none → s.me.barHere = false → (fenced → Completes (.bar f) s (fun t => OnlyMyCore s t ∧ t.me = { s.me with hold := none }))
        ∧ (¬fenced → holds (.bar f) (fun t => t.me.hold.isSome = true)))
      ∧ (s.myGang.isSome = true →
        (s.me.barHere = false → fenced → holds (.bar f) (fun t => t.me.barHere = true))
        ∧ (s.me.barHere = true → (s.allArrived || s.braked) = true → Completes (.bar f) s (fun t => OnlyMyCore s t
            ∧ t.me = { s.me with hold := none, barCount := s.me.barCount + 1, barHere := false }))
        ∧ (s.me.barHere = true → (s.allArrived || s.braked) = false → holds (.bar f) (fun t => t.me = s.me))))
    ∧ (ready (.mon f) f s = true → s.acquiring = false → bitsOf (s.ea f) 63 60 ≤ 7 →
        s.plb s.cur.core s.me.domain ((s.ea f).toNat / 64 * 64) 64 rightR = .granted →
      (∀ te, (s.findPage (s.clu s.cur.core) (s.ea f).toNat 0 s.me.domain).1 = .page te →
        Completes (.mon f) s (fun t => ∃ n, t.me.monitor = some n
          ∧ t.monitors.find n = some ⟨(te.pa + (s.ea f).toNat % 65536) / 64, false⟩ ∧ t.mem = s.mem))
      ∧ ((s.findPage (s.clu s.cur.core) (s.ea f).toNat 0 s.me.domain).1 = .none →
        Completes (.mon f) s (fun t => t.me.monitor = none ∧ t.mem = s.mem)))
    ∧ (ready (.mon f) f s = true → s.acquiring = false → 7 < bitsOf (s.ea f) 63 60 → Faults (.mon f) s 5 ⟨0x0A, 0, s.ea f⟩)
    ∧ (ready (.mwait f) f s = true →
      let ended : Prop := s.me.monitor = none ∨ (∃ n, s.me.monitor = some n ∧ ((s.monitors.find n).map (·.hit)).getD true = true)
        ∨ s.braked = true
      (ended → Completes (.mwait f) s (fun t => t.me = { s.me with hold := none, monitor := none } ∧ t.mem = s.mem))
      ∧ (¬ended → holds (.mwait f) (fun t => t.me.hold.isSome = true ∧ t.me.monitor = s.me.monitor))))
  ∧ (∀ (s : State) (c : CtxId),
    (∀ h, (s.ctx c).hold = some h → h.kind = .mwait → h.since + 2 ^ 20 ≤ s.now →
      Completes (.mwaitTimeout c) s (fun t => t.ctx c = { s.ctx c with monitor := none }))
    ∧ ((s.ctx c).monitor.isSome = true → Completes (.monitorLost c) s (fun t => t.ctx c = { s.ctx c with monitor := none }))
    ∧ (∀ h id a p pa, (s.ctx c).hold = some h → h.kind = .fence → h.since + tFail ≤ s.now → s.acc id = some a →
        a.parts = [p] → p.done = false → natBits p.ea 60 4 ≤ 7 → p.pa = some pa → a.ctx = c → a.task = (s.core c.core).task → a.op = .st →
        a.abandoned = false →
        Completes (.fenceAbandon c id) s (fun t => (t.acc id).map (·.abandoned) = some true ∧
          let q := natBits pa 47 9
          let n := bitsOf (s.ctx c).spr.fstat 27 19
          let u := (t.ctx c).spr
          bitAt u.fstat 0 = true ∧ q ∈ u.lost
          ∧ (q ∈ (s.ctx c).spr.lost → bitsOf u.fstat 27 19 = n)
          ∧ (q ∉ (s.ctx c).spr.lost → bitsOf u.fstat 27 19 = min (n + 1) 511
              ∧ (n < 4 → bitsOf u.fstat (36 + 9 * n) (28 + 9 * n) = q)))))

/-- cp, cps, cpw and cpq complete; chunks start, move their bytes and end; a copy's final status and its follow-ons: Where
the word may issue, the checks of R317 pass and a command slot and a share are free, cp and cps make one copy with the
next handle of the task, the spans and rows of their operands, and give the handle. With 16 slots taken they hold. cpq
gives the status of its handle at once and cpw once the copy has finished or its scope is braked; an unknown handle has
status 4. A chunk of up to 4,096 B starts while fewer than four are in flight, or the copy observes its brake instead.
The end of a chunk between two stretches of the scratchpad, for which no earlier access of the context stands in the
way, has moved its bytes and changed no other. A reservation is served with slot TAIL. A copy that is over enters its
final status, releases or discards its follow-ons and returns its share. (R316, R318, R320, R321, R323, R324, R325,
R328, R329, R330, R217) -/
def Obligations.CopiesIssueAndFinish : Prop :=
  (∀ (f : Fields) (s : State),
    let rows (i : Instr) (j : CopyJob) : Prop := ready i f s = true → s.acquiring = false → s.copyOk j = .ok → s.carveHold = .ok →
      (s.copySlots s.cur.core < 16 → Completes i s (fun t => ∃ id c, s.nextId ≤ id ∧ t.copies.find id = some c
        ∧ c.core = s.cur.core ∧ c.ctx = s.cur.ctx ∧ c.task = s.myTask ∧ c.handle = s.myTc.nextCopy ∧ c.pc = s.myPc
        ∧ c.dom = s.me.domain ∧ c.scope = s.me.scope ∧ c.rowBytes = j.rowBytes ∧ c.rows = j.rows ∧ c.ds = j.ds ∧ c.ss = j.ss
        ∧ some c.src = spanOf s.cur.core j.src
        ∧ (∀ n, j.ring = some n → c.dst = .ring n) ∧ (j.ring = none → some c.dst = spanOf s.cur.core j.dst)
        ∧ t.myTc.nextCopy = (if (c.handle + 1) % 2 ^ 32 = 0 then 1 else (c.handle + 1) % 2 ^ 32)
        ∧ (Dest.ofG f.d ≠ .none → ∃ r ∈ t.me.inflight, r.dest = Dest.ofG f.d ∧ r.val = .g (BitVec.ofNat 64 c.handle))))
      ∧ (16 ≤ s.copySlots s.cur.core → Stays i s .hold)
    let d := s.gval f f.c
    let ring := if f.rg then some (⟨ringNo f.a % 8, Nat.mod_lt _ (by decide)⟩ : Fin 8) else none
    rows (.cp f) ⟨ring, s.gval f f.a, s.gval f f.b, d.toNat, 1, 0, 0⟩
    ∧ rows (.cps f) ⟨ring, s.gval f f.a, s.gval f f.b, bitsOf d 19 0, bitsOf d 31 20 + 1, 16 * bitsOf d 63 48, 16 * bitsOf d 47 32⟩
    ∧ (ready (.cpq f) f s = true → Completes (.cpq f) s (fun t => OnlyMyCore s t
        ∧ Quick s t (Dest.ofG f.d) (.g (s.copyStatus (s.gval f f.a)))))
    ∧ (ready (.cpw f) f s = true → (s.copyRuns (s.gval f f.a) = false ∨ s.braked = true →
        Completes (.cpw f) s (fun t => OnlyMyCore s t ∧ Quick s t (Dest.ofG f.d) (.g (s.copyStatus (s.gval f f.a)))))
      ∧ (s.copyRuns (s.gval f f.a) = true → s.braked = false → Stays (.cpw f) s .hold))
    ∧ (s.copyRuns (s.gval f f.a) = false → (∀ e ∈ s.myTc.statuses, BitVec.ofNat 64 e.1 ≠ s.gval f f.a) →
        s.copyStatus (s.gval f f.a) = 4))
  ∧ (∀ (s : State) (id : Nat) (c : Copy), s.copy id = some c → partHere s c.core = true → c.task = (s.core c.core).task →
    let part := s.tc c.core
    let live := c.saved = false ∧ (s.core c.core).switch = none
    let spad (x : Span) : Prop := ∃ o, x = .spad o
    let brake := c.free = false ∧ s.brakeOf c.scope = true
    let n := min (c.rowBytes * c.rows - c.started) (4096 - c.started % 4096)
    (live → spad c.dst → c.ended = .running → c.started < c.rowBytes * c.rows → c.flying.length < 4 →
      (brake → Completes (.copyChunkStart id) s (fun t => t.copy id = some { c with ended := .braked }))
      ∧ (¬brake → s.replayOf c.scope = none → Completes (.copyChunkStart id) s (fun t =>
          t.copy id = some { c with started := c.started + n, flying := c.flying ++ [(c.started, n)], since := s.now })))
    ∧ (∀ o q p n, c.dst = .spad o → c.src = .spad q → c.rows = 1 → p + n ≤ c.rowBytes → 0 < n → c.swz = 0 → c.flying = [(p, n)] →
        s.replayOf c.scope = none → part.rotten (q + p) n = false → part.spad.wf = true →
        s.behind id c true (.spad (o + p), n) = false → s.behind id c false (.spad (q + p), n) = false →
        Completes (.copyChunkEnd id (p / 4096)) s (fun t => t.copy id = some { c with flying := [], written := c.written + n }
          ∧ ∀ x, (t.tc c.core).spad.byte x
              = if o + p ≤ x ∧ x < o + p + n then part.spad.byte (q + p + (x - (o + p))) else part.spad.byte x))
    ∧ (∀ i w rest, live → c.dst = .ring i → c.waiting = true → c.ended = .running → ¬brake →
        let r := part.ring i
        r.err = false → r.res = w :: rest → w.copy = some id → r.c ≠ 0 → r.tag r.tail = .empty →
        Completes (.copySlotReserve id) s (fun t => t.copy id = some { c with slot := some r.tail, waiting := false }
          ∧ (t.tc c.core).ring i = { r with res := rest, slots := r.slots.set r.tail (.filling, 0), tail := (r.tail + 1) % r.c }))
    ∧ (live → c.flying = [] → spad c.dst → s.stagedBy id = false → (c.ended = .running → c.written = c.rowBytes * c.rows ∧ c.waiting = false) →
        let word := match c.ended with
          | .running => 1
          | .braked => 2
          | .error e => 3 + e * 2 ^ 16
        Completes (.copyFinish id) s (fun t => t.copy id = none
          ∧ (t.tc c.core).statuses = ((c.handle, BitVec.ofNat 64 (c.written * 2 ^ 24 + word)) :: part.statuses).take 16
          ∧ (∀ e ∈ (t.tc c.core).mat.queue, e.follows ≠ some id) ∧ (∀ e ∈ (t.tc c.core).env.queue, e.follows ≠ some id)
          ∧ (c.share ≠ 0 → t.returns = s.returns ++ [⟨c.scope, c.share, false, none⟩])
          ∧ ∀ e ∈ t.owned, e.2 ≠ id)))

/-- sub, drn and unsub attach and detach a stream; its tiles move, drain, and end it with an error: Where the word may
issue, the earlier writes of the context are done, the record at gs can be read and keeps to R332, the ring is
configured, is not ring7, has ATT and ERR clear and z equal to ROWB x ROWS, and the quadrant's stack engine has room,
sub and drn attach a stream with that record, and the ring's ATT is set. With all 64 stream contexts in use they hold,
and in a braked scope they do nothing. unsub completes at once on a ring on which no stream stands, and holds while one
does, the stream being told. STREAM_TILE_WRITE and DRAIN_TILE move the tile in progress when nothing stands in its way:
a subscription's tile lies in its slot and is counted, a drain's has been written. DRAIN_SLOT_EMPTY empties the drained
slot; STREAM_DETACH ends a stream that was told, has done its tiles or whose scope is braked, at a tile boundary, ATT
clearing and its share returning; STREAM_ERROR ends it with ERR set. (R331, R332, R333, R334, R335, R336, R337) -/
def Obligations.StreamsRun : Prop :=
  (∀ (f : Fields) (s : State),
    let n := ringNo f.a
    let r := s.myTc.ring n
    (∀ p ∈ [((.streamSub f : Instr), false), (.drn f, true)], ready p.1 f s = true → s.acquiring = false → s.writesDone 3 = true →
      s.recordOk (s.gval f f.b) = .ok → ∀ x, s.recordAt (s.gval f f.b) = some x →
      r.c ≠ 0 → n ≠ 7 → r.att = false → r.err = false → r.z = x.rowb * x.rows →
      (s.streamsFull = false → s.carveHold = .ok → Completes p.1 s (fun t => (t.myTc.ring n).att = true ∧ t.mem = s.mem
        ∧ ∃ id st, s.nextId ≤ id ∧ t.streams.find id = some st ∧ st.recd = x ∧ st.drain = p.2 ∧ st.ring.val = n ∧ st.core = s.cur.core
          ∧ st.task = s.myTask ∧ st.tile = 0 ∧ st.slot = none ∧ st.unsub = false))
      ∧ (s.streamsFull = true → s.braked = true → Completes p.1 s (fun t => OnlyPacket s t ∧ t.streams = s.streams))
      ∧ (s.streamsFull = true → s.braked = false → Stays p.1 s .hold))
    ∧ (ready (.unsub f) f s = true →
      (s.streamOn n = none → Completes (.unsub f) s (fun t => OnlyPacket s t ∧ t.streams = s.streams))
      ∧ (∀ id x, s.streamOn n = some (id, x) → s.streams.find id = some x → ∃ t, exec (.unsub f) s = .next t
          ∧ (s.pk.phase ≠ .effect → t.pk.verdict = .hold ∧ t.streams.find id = some { x with unsub := true }))))
  ∧ (∀ (s : State) (id : Nat) (x : Stream), s.stream id = some x → partHere s x.core = true → x.task = (s.core x.core).task →
    let part := s.tc x.core
    let ring (t : State) : Ring := (t.tc x.core).ring x.ring
    let ending : Prop := x.unsub = true ∨ (x.recd.count ≠ 0 ∧ x.recd.count ≤ x.tile) ∨ s.brakeOf x.scope = true
    (x.slot.isSome = true → x.wrote = false → (s.tileWay id x).1 = .clear →
      (x.drain = false → Completes (.streamTileWrite id) s (fun t => t.stream id = some { x with tile := x.tile + 1, slot := none }
        ∧ ∀ o z, (s.tileWay id x).2 = s → s.slotSpan x = [(.spad o, z)] → (s.tileBytes x).length = z → x.recd.swz = 0 →
            s.replayOf x.scope = none → part.spad.wf = true →
            ∀ b, (t.tc x.core).spad.byte b = if o ≤ b ∧ b < o + z then (s.tileBytes x).getD (b - o) 0 else part.spad.byte b))
      ∧ (x.drain = true → Completes (.drainTile id) s (fun t => t.stream id = some { x with wrote := true })))
    ∧ (∀ i, x.drain = true → x.wrote = true → x.slot = some i → s.stagedBy id = false → Completes (.drainSlotEmpty id) s (fun t =>
        t.stream id = some { x with tile := x.tile + 1, slot := none, wrote := false }
        ∧ ring t = { ring s with slots := (ring s).slots.set i (.empty, 0), taken := (ring s).taken.filter (· != i) }
        ∧ ∀ e ∈ t.owned, e.2 ≠ id))
    ∧ ((s.core x.core).switch = none → x.slot = none → ending → Completes (.streamDetach id) s (fun t => t.stream id = none
        ∧ ring t = { ring s with att := false }
        ∧ (x.share ≠ 0 → t.returns = s.returns ++ [⟨x.scope, x.share, false, none⟩])))
    ∧ (∀ cause, s.streamFault id x = some cause → cause ≠ 0x13 → Completes (.streamError id cause) s (fun t => t.stream id = none
        ∧ ring t = { ring s with att := false, err := true })))

namespace Sys2Proof.Machine

/-- A packet between two cores rides the torus: they are of one package and have different routers (18 R382). -/
def rides (s : State) (a b : CoreId) : Prop := b.pkg = a.pkg ∧ s.routerAt a ≠ s.routerAt b

end Sys2Proof.Machine

/-- msg sends 64 B; a message is delivered, held, refused or discarded by the table of R340: Where the word may issue, its
64 B are local, aligned and not poisoned, gt names a core and a share is free, msg sends one message with those bytes,
in a packet of the torus where the two cores have different routers of one package. Poisoned bytes outside a replay
scope are not sent; the asynchronous record takes UNCORRECTABLE with kind 7. At a target whose bound task is of the
sender's tenant a message enters slot TAIL of ring7 when that is EMPTY, or the scale queue when 64 B fit. While it
cannot, it is held in the spill ring of 256, or NACKed and sent again. Where no such task is or was there it is refused:
the sender's record takes PROTECTION. A message to a failed package ends after T_fail with MACHINE_CHECK. A message of a
braked scope is discarded. (R339, R340, R341, R382, R212, R455) -/
def Obligations.MessagesTravel : Prop :=
  (∀ (f : Fields) (s : State), ready (.msg f) f s = true →
    let ea := s.ea f
    let o := ea.toNat % 2 ^ 19
    s.acquiring = false → s.localOk ea 64 64 = .ok → s.replayOk [s.gval f f.b] false = .ok → s.carveHold = .ok →
    (messageTarget s.cur.core (s.gval f f.b) = none → Faults (.msg f) s 5 ⟨0x0A, 0, s.gval f f.b⟩)
    ∧ (∀ dst, messageTarget s.cur.core (s.gval f f.b) = some dst →
      (s.myTc.rotten o 64 = false → Completes (.msg f) s (fun t => ∃ id m, s.nextId ≤ id ∧ t.msgs.find id = some m
        ∧ m.dst = dst ∧ m.payload = s.myTc.spad.read o 64 ∧ m.src = s.cur ∧ m.dom = s.me.domain ∧ m.scq = f.mod.toNat.testBit 0
        ∧ m.held = false ∧ m.nacked = false ∧ t.mem = s.mem
        ∧ (¬rides s s.cur.core dst → (t.pkg dst.pkg).torus = (s.pkg dst.pkg).torus)
        ∧ (rides s s.cur.core dst → ∃ q, (t.pkg dst.pkg).torus = (s.pkg dst.pkg).torus ++ [q] ∧ q.cargo = .message id ∧ q.at_ = none
            ∧ q.age = 0 ∧ q.src = s.routerAt s.cur.core ∧ q.dst = s.routerAt dst)))
      ∧ (s.myTc.rotten o 64 = true → s.replayOf s.me.scope = none → Completes (.msg f) s (fun t => t.msgs = s.msgs
          ∧ t.me.afr = (match s.me.afr with
            | none => some ⟨ea, s.myPc, 0x13, 0, 7, 0⟩
            | some r => some { r with count := min (r.count + 1) 255 })))))
  ∧ (∀ (s : State) (id : Nat) (m : Message), s.msgs.find id = some m → s.mayArrive id m = true →
    let c := s.core m.dst
    let braked := m.free = false ∧ s.brakeOf m.scope = true
    let mine := ∃ n t, c.task = some n ∧ s.tasks.find n = some t ∧ t.dom.toNat / 256 = m.dom.toNat / 256
    let r := c.tc.ring 7
    let holdsIt (t : State) : Prop := if 256 ≤ c.spill.length then t.msgs.find id = some { m with nacked := true }
      else t.msgs.find id = some { m with held := true } ∧ (t.core m.dst).spill = c.spill ++ [id]
    (braked → Completes (.messageDelivery id) s (fun t => t.msgs.find id = none ∧ t.tc m.dst = c.tc))
    ∧ (¬braked → c.switch.isSome = true → Completes (.messageDelivery id) s holdsIt)
    ∧ (¬braked → c.switch = none → mine → c.spill = [] →
      (m.scq = true → c.tc.mat.scq.length + 64 ≤ 6144 → Completes (.messageDelivery id) s (fun t => t.msgs.find id = none
        ∧ (t.tc m.dst).mat.scq = c.tc.mat.scq ++ m.payload))
      ∧ (m.scq = true → 6144 < c.tc.mat.scq.length + 64 → Completes (.messageDelivery id) s holdsIt)
      ∧ (m.scq = false → r.c ≠ 0 → r.err = false → r.res = [] → r.tag r.tail = .empty → s.replayOf m.scope = none →
          m.payload.length = 64 → c.tc.spad.wf = true →
          let o := (r.base + BitVec.ofNat 64 (r.tail * r.z)).toNat % 2 ^ 19
          Completes (.messageDelivery id) s (fun t => t.msgs.find id = none
            ∧ ∀ x, (t.tc m.dst).spad.byte x = if o ≤ x ∧ x < o + 64 then m.payload.getD (x - o) 0 else c.tc.spad.byte x))
      ∧ (m.scq = false → r.c ≠ 0 → r.err = false → (r.res ≠ [] ∨ r.tag r.tail ≠ .empty) →
          Completes (.messageDelivery id) s holdsIt))
    ∧ (¬braked → c.switch = none → c.task = none → c.spill = [] → s.preempted m.dst (m.dom.toNat / 256) = none → m.upcall = false →
        partHere s m.src.core = true → m.task = (s.core m.src.core).task → (s.ctx m.src).incarn = m.incarn → (s.ctx m.src).life ≠ .free →
        (s.ctx m.src).afr = none →
        Completes (.messageDelivery id) s (fun t => t.msgs.find id = none
          ∧ (t.ctx m.src).afr = some ⟨m.ea, m.pc, 0x0A, 0, 7, 0⟩)))
  ∧ (∀ (s : State) (id : Nat) (m : Message), s.msgs.find id = some m →
    let c := s.core m.dst
    (m.nacked = true → Completes (.messageResend id) s (fun t => t.msgs.find id = some { m with nacked := false, since := s.now }
      ∧ (rides s m.src.core m.dst → t.riding m.dst.pkg (.message id) = true)))
    ∧ (c.spill = [id] → m.scq = true → s.fate m = .deliver → Completes (.spillReplay m.dst) s (fun t => t.msgs.find id = none
        ∧ (t.core m.dst).spill = [] ∧ (t.tc m.dst).mat.scq = c.tc.mat.scq ++ m.payload))
    ∧ (m.held = false → s.alive m.src.core.pkg m.dst.pkg = false → m.since + tFail ≤ s.now → m.upcall = false →
        partHere s m.src.core = true → m.task = (s.core m.src.core).task → (s.ctx m.src).incarn = m.incarn → (s.ctx m.src).life ≠ .free →
        (s.ctx m.src).afr = none →
        Completes (.messageTimeout id) s (fun t => t.msgs.find id = none
          ∧ (t.ctx m.src).afr = some ⟨m.ea, m.pc, 0x15, 0, 7, 0⟩)))

/-- mcst sets out, its members write or refuse, its reply lands; torus, flits and lanes: Where the word may issue, fewer
than four multicasts of the context are outstanding, the payload is local, aligned and not poisoned and no replay scope
stands, mcst sets out with the payload, its group and its offset, and vd waits for the reply. A member whose scratchpad
window grants the write writes and confirms; one whose window does not refuses; a member of KIND 0 writes its bytes at
BASE + P·PSTR + OFF where every page is translated, homed there and writable with W and M, and refuses elsewhere; one
that has not answered within T_fail is lost. With every answer in, the reply lands: how many confirmed, how many did
not, how many are lost, and the first that did not. A torus packet alone at a router is ejected at its destination,
where what it carries has arrived, and elsewhere moves one hop closer. A flit sent again is counted; a retired lane is
recorded, and a second one takes the port down. (R382, R384, R389, R390, R391) -/
def Obligations.MulticastAndFabricLinks : Prop :=
  (∀ (f : Fields) (s : State), ready (.mcst f) f s = true →
    let g := s.gval f f.b
    let ea := s.ea f
    let n := 64 * (bitsOf g 13 12 + 1)
    let d := Dest.ofV f.d
    s.acquiring = false → s.mcstRoom = .ok → s.myReplay = none → s.localOk ea n 64 = .ok → bitsOf g 63 16 % 64 = 0 → s.carveHold = .ok →
    s.myTc.rotten (ea.toNat % 2 ^ 19) n = false →
    Completes (.mcst f) s (fun t => ∃ id m tok, s.nextId ≤ id ∧ t.mcsts.find id = some m ∧ m.payload = s.myTc.spad.read (ea.toNat % 2 ^ 19) n
      ∧ m.grp = bitsOf g 11 0 ∧ m.off = bitsOf g 63 16 ∧ m.ctx = s.cur ∧ m.dom = s.me.domain ∧ m.sent = false
      ∧ (d ≠ .none → m.tok = some tok ∧ ⟨d, tok⟩ ∈ t.me.pend) ∧ t.mem = s.mem))
  ∧ (∀ (s : State) (id p : Nat) (m : Mcst), s.mcsts.find id = some m → m.sent = true → s.mcstOpen m p = true →
    let answered (a : McstAnswer) : Mcst := { m with answers := m.answers.map (fun e => if e.1 = p then (p, a) else e) }
    let n := m.payload.length
    (∀ k o, entryTarget m.entry p m.off = .inr (k, o) → s.alive m.ctx.core.pkg p = true → o + n ≤ 2 ^ 19 → k.num ≤ 991 →
      (s.core k).switch = none → (∀ q ∈ (s.pkg p).torus, ∀ l, q.cargo ≠ .member id l) →
      (s.windowOk k m.dom o n 41 = true → (s.tc k).spad.wf = true → Completes (.multicastMemberWrite id p) s (fun t =>
        t.mcsts.find id = some (answered .ok)
        ∧ ∀ x, (t.tc k).spad.byte x = if o ≤ x ∧ x < o + n then m.payload.getD (x - o) 0 else (s.tc k).spad.byte x))
      ∧ (s.windowOk k m.dom o n 41 = false → Completes (.multicastMemberWrite id p) s (fun t =>
          t.mcsts.find id = some (answered .nack) ∧ t.tc k = s.tc k)))
    ∧ (∀ a, entryTarget m.entry p m.off = .inl a → s.alive m.ctx.core.pkg p = true → 0 < n → n ≤ 256 →
      let page (x : Nat) : Option TlbEntry := s.pageFor ⟨p, 0, 0⟩ x
      let inside (x : Nat) : Prop := a ≤ x ∧ x < a + n
      let refused : Prop := Completes (.multicastMemberWrite id p) s (fun t => t.mcsts.find id = some (answered .nack) ∧ t.mem = s.mem)
      let may (right : Nat) : Prop := s.plb (s.anyCore p) m.dom a n right = .granted
      (2 ^ 63 < a + n → refused)
      ∧ (a + n ≤ 2 ^ 63 →
        (∀ x, inside x → page x = none → refused)
        ∧ (∀ x te, inside x → page x = some te → te.pa % 65536 = 0 →
            natBits te.pa 47 9 ≠ p ∨ te.rro = true ∨ mayMap m.dom (te.at x) = false → refused)
        ∧ (¬may rightW ∨ ¬may rightM → refused)
        ∧ ((∀ x, inside x → ∃ te, page x = some te ∧ te.pa % 65536 = 0 ∧ natBits te.pa 47 9 = p ∧ te.rro = false
              ∧ mayMap m.dom (te.at x) = true ∧ s.lineOpen (te.at x / 64) = true) → may rightW → may rightM → s.mem.wf = true →
            Completes (.multicastMemberWrite id p) s (fun t => t.mcsts.find id = some (answered .ok)
              ∧ (∀ x te, inside x → page x = some te → t.readByte (m.dom.toNat / 256) (te.at x) = m.payload.getD (x - a) 0)
              ∧ ∀ y, (∀ x te, inside x → page x = some te → te.at x / 64 ≠ y / 64) → t.mem.byte y = s.mem.byte y))))
    ∧ (m.since + tFail ≤ s.now → Completes (.multicastMemberTimeout id p) s (fun t => t.mcsts.find id = some (answered .lost))))
  ∧ (∀ (s : State) (id tok : Nat) (m : Mcst), s.mcsts.find id = some m → m.sent = true → (∀ a ∈ m.answers, a.2 ≠ .waiting) →
    m.tok = some tok → partHere s m.ctx.core = true → m.task = (s.core m.ctx.core).task →
    let bad := (m.answers.filter (fun e => e.2 == .nack || e.2 == .lost)).map (·.1)
    ∀ x : VReg, x.tag = .i32 →
      (∀ i, i < 64 → x.bits.toNat / 2 ^ (32 * i) % 2 ^ 32 = (if i = 0 then (m.answers.filter (fun e => e.2 == .ok)).length
        else if i = 1 then bad.length
        else if i = 2 then (m.answers.filter (fun e => e.2 == .lost)).length
        else if i ≤ 10 then bad.getD (i - 3) 0xFFFFFFFF else 0) % 2 ^ 32) →
      Completes (.multicastReply id) s (fun t => t.mcsts.find id = none ∧ LandsV s t m.ctx tok x))
  ∧ (∀ (s : State) (pkg x y : Nat) (p : TorusPacket), x < 64 → y < 64 → (s.pkg pkg).torus = [p] → p.at_ = some (x, y) → p.since < s.now →
    p.dst.1 < 64 → p.dst.2 < 64 →
    (p.dst = (x, y) → Completes (.routerCycle pkg x y) s (fun t => (t.pkg pkg).torus = [] ∧ t.riding pkg p.cargo = false))
    ∧ (p.dst ≠ (x, y) → Completes (.routerCycle pkg x y) s (fun t => ∃ d q, (t.pkg pkg).torus = [q] ∧ q.dst = p.dst
        ∧ q.cargo = p.cargo
        ∧ q.at_ = some (routerNext (x, y) d) ∧ hops (routerNext (x, y) d) p.dst + 1 = hops (x, y) p.dst
        ∧ q.age = min (p.age + 1) 8191)))
  ∧ (∀ (s : State) (pkg port lane : Nat), port < 18 → (s.pkg pkg).powered = true →
    let q := s.port pkg port
    q.down = false →
    Completes (.flitCrcReplay pkg port) s (fun t => t.port pkg port = { q with resent := q.resent + 1 })
    ∧ (lane < 9 → lane ∉ q.bad → Completes (.laneRetrain pkg port lane) s (fun t =>
        t.port pkg port = { q with bad := q.bad ++ [lane], down := decide (q.bad ≠ []) })))

/-- gopen, gst, gcom, gab and gstt complete; the coordinator opens, prepares, decides and releases a group: Where the word
may issue: gopen opens a free group of the tenant and gives its handle, or gives 0 when all 64 are in use; gst with a
handle of the tenant, an aligned address and the rights W and G sends the bytes to be staged and changes no memory; gcom
waits for the decision; gab on an OPEN group with participants has it abort with EXPLICIT; gstt gives the status of R400
as it stands; a handle of another tenant raises PROTECTION. At the coordinator: a JOIN records the participant; a commit
asks every participant to prepare; the last YES before T_vote publishes, a NO or T_vote aborts; the last confirmation or
T_commit releases the group; a reason that reaches an OPEN group is recorded with its package, and in any phase the
dropped store counts as accepted. The group of a replay scope is O46's. The model's choice: gopen takes the lowest free
group (log 34); gstt shows PREPARING while a group publishes or aborts, and gab acts at the coordinator at issue, with
the issuer's package as the cause (log 24). (R392, R395, R396, R397, R400, R401, R402, R403, R404, R405, R406) -/
def Obligations.GroupInstructionsAndCoordinator : Prop :=
  (∀ (f : Fields) (s : State),
    let p := s.cur.core.pkg
    let tenant := s.myTenant
    let slot (i : Nat) : Group := s.group (p, tenant, i)
    let d := Dest.ofG f.d
    let h := s.gval f f.a
    let g := s.group (groupKey h)
    let n := 2 ^ f.szCode
    let ea := s.ea f
    let hs := s.gval f f.d
    (ready (.gopen f) f s = true →
      ((∀ i, i < 64 → (slot i).phase ≠ .free) → Completes (.gopen f) s (fun t => Quick s t d (.g 0) ∧ t.groups = s.groups))
      ∧ (∀ i, i < 64 → (slot i).phase = .free → (∀ j, j < i → (slot j).phase ≠ .free) → Completes (.gopen f) s (fun t =>
          Quick s t d (.g (groupHandle p tenant (slot i).gen i))
          ∧ t.group (p, tenant, i) = { Group.fresh with gen := (slot i).gen, phase := .opened })))
    ∧ (ready (.gst f) f s = true → f.szCode ≤ 3 → s.storeRoom = .ok → s.sendOk [ea] n = .ok →
      (bitsOf hs 23 16 ≠ tenant → Faults (.gst f) s 5 ⟨0x0A, 0, s.myPc⟩)
      ∧ (bitsOf hs 23 16 = tenant → bitsOf hs 54 24 = 0 → bitsOf hs 7 6 = 0 →
        (2 ^ 63 ≤ ea.toNat → Faults (.gst f) s 5 ⟨0x0A, 0, ea⟩)
        ∧ (ea.toNat < 2 ^ 63 → ea.toNat % n ≠ 0 → Faults (.gst f) s 5 ⟨0x10, 0, ea⟩)
        ∧ (ea.toNat < 2 ^ 63 → ea.toNat % n = 0 → s.plb s.cur.core s.me.domain ea.toNat n rightW = .granted →
            s.plb s.cur.core s.me.domain ea.toNat n rightG = .granted →
            Completes (.gst f) s (fun t => OnlyPacket s { t with gsts := s.gsts, nextId := t.nextId } ∧ t.mem = s.mem
              ∧ ∃ id x, s.nextId ≤ id ∧ t.gsts = s.gsts.set id x ∧ x.h = hs ∧ x.ea = ea ∧ x.bytes = leBytes n (s.gval f f.b).toNat
                ∧ x.ctx = s.cur ∧ x.dom = s.me.domain ∧ x.stage = .issued))))
    ∧ (∀ i ∈ [(.gcom f : Instr), .gab f, .gstt f], ready i f s = true → bitsOf h 23 16 ≠ tenant → Faults i s 5 ⟨0x0A, 0, s.myPc⟩)
    ∧ (bitsOf h 23 16 = tenant →
      let waitsFor (t : State) (peek abort : Bool) : Prop := ∃ tok w, Waits s t d tok ∧ w ∈ t.gwaits.get (groupKey h) [] ∧ w.h = h
        ∧ w.tok = some tok ∧ w.peek = peek ∧ w.abort = abort ∧ w.ctx = s.cur
      let dead : Prop := s.alive p (bitsOf h 63 55) = false
      (ready (.gcom f) f s = true → Completes (.gcom f) s (fun t => waitsFor t false false))
      ∧ (ready (.gab f) f s = true →
        (dead → Completes (.gab f) s (fun t => waitsFor t false true))
        ∧ (¬dead → s.groupLive h = false → Completes (.gab f) s (fun t => Quick s t d (.g 4)))
        ∧ (¬dead → s.groupLive h = true → g.phase = .opened → g.parts ≠ [] → Completes (.gab f) s (fun t => waitsFor t false true
            ∧ (t.group (groupKey h)).phase = .aborting ∧ (t.group (groupKey h)).reasons.testBit 4 = true
            ∧ (g.reasons = 0 → (t.group (groupKey h)).firstPkg = p)
            ∧ t.gmsgs = s.gmsgs ++ g.parts.map (fun q => (.abort h q, s.now)))))
      ∧ (ready (.gstt f) f s = true →
        (dead → Completes (.gstt f) s (fun t => waitsFor t true false))
        ∧ (¬dead → s.groupLive h = false → Completes (.gstt f) s (fun t => Quick s t d (.g 4)))
        ∧ (¬dead → s.groupLive h = true → Completes (.gstt f) s (fun t => Quick s t d (.g (BitVec.ofNat 64
            ((if g.phase = .opened then 0 else 1) + g.reasons * 2 ^ 8 + g.parts.length * 2 ^ 16
              + (if g.reasons = 0 then 0 else g.firstPkg * 2 ^ 55)))))))))
  ∧ (∀ (s : State) (h : W64), s.groupLive h = true → (s.pkg (groupKey h).1).powered = true →
    let k := groupKey h
    let g := s.group k
    let aborts (t : State) : Prop := (t.group k).phase = .aborting ∧ ∀ q ∈ g.parts, (.abort h q, s.now) ∈ t.gmsgs
    let r := g.reasons &&& 4
    let noReplay : Prop := ∀ e ∈ s.hubs, e.2.group ≠ h
    (g.phase = .opened → s.commitsReady h = true → g.parts ≠ [] → (∀ q ∈ g.parts, q ∉ (s.pkg k.1).failed) →
      Completes (.groupPrepare h) s (fun t => (t.group k).phase = .preparing
        ∧ t.gmsgs = s.gmsgs ++ g.parts.map (fun q => (.prepare h q g.parts, s.now))))
    ∧ (∀ w tok, g.phase = .opened → s.commitsReady h = true → g.parts = [] → noReplay → s.gwaits.get k [] = [w] → w.h = h →
        w.tok = some tok → partHere s w.ctx.core = true → w.task = (s.core w.ctx.core).task →
        Completes (.groupPrepare h) s (fun t => (t.group k).phase = .free
          ∧ LandsG s t w.ctx tok (BitVec.ofNat 64 (2 + r * 2 ^ 8 + (if r = 0 then 0 else g.firstPkg * 2 ^ 55)))))
    ∧ (∀ q, g.phase = .preparing → s.posted (.vote h q true 0) = true → (∀ x ∈ g.parts, x = q ∨ x ∈ g.yes) → g.parts ≠ [] →
      (s.now < g.since + 130000 → g.reasons = 0 → Completes (.groupVote h q true 0) s (fun t => (t.group k).phase = .publishing
        ∧ t.gmsgs = s.gmsgs.eraseP (fun e => e.1 == .vote h q true 0) ++ g.parts.map (fun x => (.publish h x, s.now))))
      ∧ (s.now < g.since + 130000 → g.reasons ≠ 0 → Completes (.groupVote h q true 0) s aborts)
      ∧ (g.since + 130000 ≤ s.now → Completes (.groupVote h q true 0) s (fun t => aborts t ∧ (t.group k).reasons.testBit 3 = true)))
    ∧ (∀ q r, g.phase = .preparing → s.posted (.vote h q false r) = true → g.parts ≠ [] → Completes (.groupVote h q false r) s (fun t => aborts t
        ∧ (t.group k).reasons.testBit r = true ∧ (g.reasons = 0 → (t.group k).firstPkg = q)))
    ∧ (g.phase = .preparing → g.since + 130000 ≤ s.now → g.parts ≠ [] → Completes (.tVoteExpiry h) s (fun t => aborts t
        ∧ (t.group k).reasons.testBit 3 = true))
    ∧ (∀ q x, g.phase = .publishing ∨ g.phase = .aborting → s.posted (.confirm h q) = true → x ∈ g.parts → x ≠ q → x ∉ g.confirmed →
        q ∉ g.confirmed → Completes (.groupConfirm h q) s (fun t => (t.group k).confirmed = g.confirmed ++ [q] ∧ (t.group k).phase = g.phase))
    ∧ (∀ q, g.phase = .publishing ∨ g.phase = .aborting → s.posted (.confirm h q) = true → (∀ x ∈ g.parts, x = q ∨ x ∈ g.confirmed) →
        noReplay → Completes (.groupConfirm h q) s (fun t => (t.group k).phase = .free))
    ∧ (g.phase = .publishing ∨ g.phase = .aborting → g.since + 260000 ≤ s.now → noReplay →
        Completes (.tCommitExpiry h) s (fun t => (t.group k).phase = .free))
    ∧ (∀ q r id x, (s.gsts.map (·.1)).Nodup → s.gsts.find id = some x → x.h = h → x.place = q → x.stage = .dropped r →
        let by_ := if r = 2 then x.ctx.core.pkg else q
        (s.pkg by_).powered = true → s.alive by_ k.1 = true → Completes (.groupReasonReport h q r) s (fun t => t.gsts.find id = none
          ∧ (g.phase = .opened → (t.group k).reasons.testBit r = true ∧ (g.reasons = 0 → (t.group k).firstPkg = q))
          ∧ (g.phase ≠ .opened → t.group k = g)))
    ∧ (∀ id x pa, s.gsts.find id = some x → x.h = h → x.pa = some pa → x.stage = .joining → s.alive (natBits pa 47 9) k.1 = true →
      (s.pkg (natBits pa 47 9)).powered = true →
      (g.phase = .opened → g.parts.length < 64 → Completes (.groupJoin id) s (fun t =>
        natBits pa 47 9 ∈ (t.group k).parts ∧ (t.participant (natBits pa 47 9) h).isSome = true))
      ∧ (g.phase = .opened → 64 ≤ g.parts.length → natBits pa 47 9 ∉ g.parts → Completes (.groupJoin id) s (fun t =>
          t.gsts.find id = none ∧ (t.group k).reasons.testBit 5 = true ∧ (t.group k).parts = g.parts))
      ∧ (g.phase ≠ .opened → (s.ctxOf x.task x.ctx).incarn = x.incarn → partHere s x.ctx.core = true →
          x.task = (s.core x.ctx.core).task → (s.ctx x.ctx).afr = none → Completes (.groupJoin id) s (fun t => t.gsts.find id = none
            ∧ (t.ctx x.ctx).afr = some ⟨x.ea, x.pc, 0x16, 0, 6, 0⟩))))

namespace Sys2Proof.Machine

/-- The staged bytes of some lines have been written under a tenant's key: that tenant reads them, and reads every other byte as before; the
bytes of other lines are unchanged, and every monitor of a line that has one is hit. -/
def StagedWritten (s t : State) (tenant : Nat) (lines : Map Nat (List (Option Byte))) : Prop :=
  (∀ l ∈ lines, ∀ i b, l.2[i]? = some (some b) → t.readByte tenant (64 * l.1 + i) = b)
  ∧ (∀ a, (∀ l ∈ lines, l.1 = a / 64 → ∀ b, l.2[a % 64]? ≠ some (some b)) → t.readByte tenant a = s.readByte tenant a)
  ∧ (∀ a, (∀ l ∈ lines, l.1 ≠ a / 64) → t.mem.byte a = s.mem.byte a)
  ∧ (∀ c m, s.monitors.find c = some m → (∃ l ∈ lines, l.1 = m.line ∧ l.2.any Option.isSome = true) →
      (t.monitors.find c).map (·.hit) = some true)

/-- Staged lines have a place of their own and 64 bytes each. -/
def StagedLines (lines : Map Nat (List (Option Byte))) : Prop := (lines.map (·.1)).Nodup ∧ ∀ l ∈ lines, l.2.length = 64

/-- Every group stands under the name that its handle gives it. -/
def GroupsNamed (s : State) : Prop :=
  (s.groups.map (·.1)).Nodup ∧ ∀ e ∈ s.groups, groupKey (groupHandle e.1.1 e.1.2.1 e.2.gen e.1.2.2) = e.1

end Sys2Proof.Machine

/-- A participant stages, locks and votes, publishes or drops its lines, and resolves a lost coordinator by its peers: A
staged store is translated and takes its number in its core's stream to another package; in its turn it lays its bytes
over the staged line of a STAGING participant and is accepted; without a participant it joins, a DOOMED one drops it,
and one whose home has failed is dropped with PEER_FAILED. Asked to prepare, a STAGING participant whose lines no other
group locks votes YES and is PREPARED, a DOOMED one votes NO with its reason. PUBLISH writes every staged byte under the
tenant's key, of one line or of several, and confirms; ABORT drops the lines and confirms. A PREPARED one that hears
nothing for T_commit asks its peers, and drops its lines 2·T_fab later; a STAGING peer that is asked aborts, an answer
PUBLISHED has the asker publish. A final state is kept for 2·T_commit. A failed coordinator's package ends what waits
for it: LOST for a request, and T_fail after a JOIN or a report GROUP_STATE, the lines dropped. A package takes a silent
peer, or one it is told of, as failed: the groups that prepare with it abort with PEER_FAILED, and participants whose
coordinator it holds drop what they have staged. (R385, R386, R393, R394, R396, R398, R399, R403, R404, R432) -/
def Obligations.GroupParticipantsResolve : Prop :=
  (∀ (s : State) (id : Nat) (x : Gst) (te : TlbEntry), s.gsts.find id = some x → x.stage = .issued → x.pa = none →
    x.ea.toNat < 2 ^ 48 → (s.slice (s.clu x.ctx.core)).tlbFind x.ea.toNat = some te →
    let pa := te.pa + x.ea.toNat % 65536
    mayMap x.dom pa = true →
    let q := natBits te.pa 47 9
    let n := (s.core x.ctx.core).streamSeq.get q 0
    s.gstMayGo id x q = true → Completes (.gstStage id) s (fun t => t.mem = s.mem
      ∧ (q = x.ctx.core.pkg → t.gsts.find id = some { x with pa := some pa, asked := s.now })
      ∧ (q ≠ x.ctx.core.pkg → t.gsts.find id = some { x with pa := some pa, stream := some (q, n), asked := s.now }
          ∧ (t.core x.ctx.core).streamSeq.get q 0 = (n + 1) % 65536)))
  ∧ (∀ (s : State) (id pa : Nat) (x : Gst), s.gsts.find id = some x → x.stage = .issued → x.pa = some pa → s.gstTurn id x = true →
    let q := natBits pa 47 9
    (s.alive x.ctx.core.pkg q = false → Completes (.gstStage id) s (fun t =>
      t.gsts.find id = some { x with stage := .dropped 2, asked := s.now } ∧ t.mem = s.mem))
    ∧ (s.alive x.ctx.core.pkg q = true →
      (s.participant q x.h = none → Completes (.gstStage id) s (fun t =>
        t.gsts.find id = some { x with stage := .joining, asked := s.now } ∧ t.mem = s.mem))
      ∧ (∀ r, s.participant q x.h = some r → r.phase = .staging → s.gstReadOnly x = false → natBits pa 44 3 = 0 → s.stagingFull r pa = false →
          pa % 64 + x.bytes.length ≤ 64 → (r.lines.get (pa / 64) (List.replicate 64 none)).length = 64 →
          Completes (.gstStage id) s (fun t => t.gsts.find id = none ∧ t.mem = s.mem ∧ ∃ u, t.participant q x.h = some u ∧ u.phase = .staging
            ∧ ∀ i, i < 64 → (u.lines.get (pa / 64) [])[i]? = some (if pa % 64 ≤ i ∧ i < pa % 64 + x.bytes.length
                then x.bytes[i - pa % 64]? else ((r.lines.get (pa / 64) (List.replicate 64 none))[i]?).getD none)))
      ∧ (∀ r, s.participant q x.h = some r → r.phase = .staging → natBits pa 44 3 ≠ 0 → Completes (.gstStage id) s (fun t =>
          (t.participant q x.h).map (·.phase) = some .doomed ∧ (t.gsts.find id).map (·.stage) = some (.dropped 1)))
      ∧ (∀ r, s.participant q x.h = some r → r.phase = .doomed → Completes (.gstStage id) s (fun t => t.gsts.find id = none
          ∧ t.participant q x.h = some r ∧ t.mem = s.mem))))
  ∧ (∀ (s : State) (p : Nat) (h : W64) (q : Participant), s.participant p h = some q → (s.pkg p).powered = true →
    let phaseIs (t : State) (ph : PartPhase) : Prop := (t.participant p h).map (·.phase) = some ph
    let dropped (t : State) : Prop := t.participant p h = some { q with phase := .aborted, lines := [], since := s.now }
    let answered (t : State) (a m : GroupMsg) : Prop := t.gmsgs = s.gmsgs.eraseP (fun e => e.1 == a) ++ [(m, s.now)]
    (∀ peers, s.posted (.prepare h p peers) = true → (∀ e ∈ s.gmsgs, ∀ x, e.1 = .prepare h p x → x = peers) →
      (q.phase = .staging → (∀ l ∈ q.lines, s.lockedByOther p h l.1 = false) → Completes (.participantPrepare p h) s (fun t =>
        phaseIs t .prepared ∧ answered t (.prepare h p peers) (.vote h p true 0) ∧ t.mem = s.mem))
      ∧ (q.phase = .doomed → Completes (.participantPrepare p h) s (fun t => phaseIs t .doomed
        ∧ answered t (.prepare h p peers) (.vote h p false q.reason))))
    ∧ (s.posted (.publish h p) = true → q.phase = .prepared ∨ q.phase = .resolving → StagedLines q.lines → s.mem.wf = true →
        Completes (.groupPublish p h) s (fun t =>
          phaseIs t .published ∧ answered t (.publish h p) (.confirm h p) ∧ StagedWritten s t (bitsOf h 23 16) q.lines))
    ∧ (s.posted (.abort h p) = true → q.phase ≠ .published → q.phase ≠ .aborted → Completes (.groupAbort p h) s (fun t =>
        dropped t ∧ answered t (.abort h p) (.confirm h p) ∧ t.mem = s.mem))
    ∧ (q.phase = .prepared → q.since + 260000 ≤ s.now → Completes (.participantQuery p h) s (fun t => phaseIs t .resolving
        ∧ t.gmsgs = s.gmsgs ++ (q.peers.filter (· != p)).map (fun x => (.query h p x, s.now))))
    ∧ (q.phase = .resolving → q.since + 2 * 26000 ≤ s.now → Completes (.resolveTimeout p h) s (fun t => dropped t ∧ t.mem = s.mem))
    ∧ (q.phase = .published ∨ q.phase = .aborted → q.since + 2 * 260000 ≤ s.now →
        Completes (.finalStateExpiry p h) s (fun t => t.participant p h = none))
    ∧ (∀ src, s.posted (.query h src p) = true → s.alive src p = true → src ≠ p →
      (q.phase = .staging ∨ q.phase = .doomed → Completes (.queryAnswer src p h) s (fun t =>
        dropped t ∧ answered t (.query h src p) (.confirm h p)))
      ∧ (∀ r, q.phase = .published → s.participant src h = some r → r.phase = .resolving → StagedLines r.lines → s.mem.wf = true →
          Completes (.queryAnswer src p h) s (fun t => (t.participant src h).map (·.phase) = some .published
            ∧ answered t (.query h src p) (.confirm h src) ∧ StagedWritten s t (bitsOf h 23 16) r.lines)))
    ∧ (∀ id x, s.alive p (bitsOf h 63 55) = false → q.phase = .staging ∨ q.phase = .doomed → (s.gsts.map (·.1)).Nodup →
        s.gsts.find id = some x → x.h = h → x.reporter = p → x.stage ≠ .issued → x.asked + 130000 ≤ s.now →
        Completes (.joinTimeout p h) s (fun t => dropped t ∧ t.gsts.find id = none
          ∧ (x.stage = .joining → (∀ e ∈ s.gsts, sameCtx e.2.task x.task e.2.ctx x.ctx = true → e.1 = id) → (s.ctxOf x.task x.ctx).incarn = x.incarn →
              partHere s x.ctx.core = true → x.task = (s.core x.ctx.core).task → (s.ctx x.ctx).afr = none →
              (t.ctx x.ctx).afr = some ⟨x.ea, x.pc, 0x16, 0, 6, 0⟩))))
  ∧ (∀ (s : State) (k : Nat × Nat × Nat) (w : GroupWait) (tok : Nat), w ∈ s.gwaits.get k [] → w.tok = some tok →
    (∀ e ∈ s.gwaits, ∀ v ∈ e.2, v.tok = some tok → e.1 = k ∧ v = w) → s.waitSent w = true →
    s.alive w.ctx.core.pkg (bitsOf w.h 63 55) = false → w.since + (if w.peek then 2 * 26000 else 0) ≤ s.now →
    partHere s w.ctx.core = true → w.task = (s.core w.ctx.core).task →
    Completes (.gsttTimeout tok) s (fun t => w ∉ t.gwaits.get k []
      ∧ LandsG s t w.ctx tok (BitVec.ofNat 64 (5 + 4 * 2 ^ 8 + bitsOf w.h 63 55 * 2 ^ 55))))
  ∧ (∀ (s : State) (at_ p : Nat), (s.pkg at_).powered = true → at_ ≠ p → p ∉ (s.pkg at_).failed →
    GroupsNamed s →
    Completes (.failureNotice at_ p) s (fun t => p ∈ (t.pkg at_).failed ∧ t.alive at_ p = false ∧ t.mem = s.mem
      ∧ (∀ k, k.1 = at_ → (s.group k).phase = .preparing → p ∈ (s.group k).parts →
          (t.group k).phase = .aborting ∧ (t.group k).reasons.testBit 2 = true)
      ∧ (∀ h q, s.participant at_ h = some q → bitsOf h 63 55 = p → q.phase = .staging ∨ q.phase = .doomed →
          t.participant at_ h = some { q with phase := .aborted, lines := [], since := s.now }))
    ∧ (∀ id a q, ((s.pkg p).powered = false ∨ s.partReady id 0 a = true) → a.stage ≠ .deferred → s.acc id = some a → a.ctx.core.pkg = at_ → a.since + tFail ≤ s.now → a.failure = none →
        a.parts = [q] → q.done = false → q.package = some p →
        Completes (.peerSilenceTimeout at_ p id) s (fun t => p ∈ (t.pkg at_).failed)))

namespace Sys2Proof.Machine

/-- A context needs no borrowing to carve: it has no scope, or its current entry holds two shares or more (15 R344). -/
def canCarve (c : Ctx) : Bool := c.stack.isEmpty || decide (2 ≤ c.top.share)

/-- The scope stack after a share has been carved from its top. -/
def carvedStack (c : Ctx) : List ScopeEntry :=
  match c.stack with
  | e :: es => { e with share := e.share - e.share / 2 } :: es
  | [] => []

/-- A predicate lands in a context: a p register other than p0 that waits for the operation alone and has no result in flight. -/
def LandsP (s t : State) (c : CtxId) (tok : Nat) (x : PBits) : Prop :=
  ∀ n, n ≠ 0 → (s.ctx c).pend.filter (fun p => p.tok == tok) = [⟨.p n, tok⟩] → (∀ r ∈ (s.ctx c).inflight, r.dest ≠ .p n) →
    (t.ctx c).getP n = x ∧ (t.ctx c).pend = (s.ctx c).pend.filter (fun p => !(p.tok == tok))

/-- A result that its unit answers at once is in flight for a destination, unless that discards it. -/
def HasResult (c : Ctx) (d : Dest) (v : RVal) : Prop := d = .none ∨ ∃ r ∈ c.inflight, r.dest = d ∧ r.val = v

end Sys2Proof.Machine

/-- sopen, sclose, scnl, sshd, sunsh, claim, poll and sinfo act on scopes as R342 to R375 say: Where the word may issue:
sopen in a context of depth below 16 takes a free hub slot, carves half of the current share for it, makes the new scope
current with a share of 2^32 and gives its handle, or gives 0 when no slot is free; at depth 16 it raises SCOPE_DEPTH.
sclose of the context's own current scope pops it, sends its share home and holds until the scope has ended and the
writes of its descendants are seen, then gives the status word and the claim value; any other sclose raises SCOPE_DEPTH.
scnl sets the brake of a scope of its tenant. sshd and sunsh count the freewheel depth up to 15 and down to 0, and raise
SCOPE_DEPTH beyond. claim loses at once under a brake, and else asks the hub. poll shows the brake. sinfo gives the
word, the claim value, the parent or the shares out. That sopen takes the lowest free slot (log 34) and that scnl brakes
the hub at once (log 25) are the model's choice. (R305, R344, R346, R347, R349, R350, R364, R365, R366, R367, R368,
R375) -/
def Obligations.ScopeInstructions : Prop :=
  ∀ (f : Fields) (s : State),
    let h : W64 := if f.a = .zero then s.me.spr.csc else s.gval f f.a
    let l := s.clu s.cur.core
    let depth : Verdict := .fault 5 ⟨0x0E, 0, s.myPc⟩
    let all (b : Bool) : PBits := if b then BitVec.allOnes 512 else 0
    (ready (.sopen f) f s = true →
      (16 ≤ s.me.stack.length → Faults (.sopen f) s 5 ⟨0x0E, 0, s.myPc⟩)
      ∧ (s.me.stack.length < 16 → f.mod0 = false → canCarve s.me = true →
        (∀ i, i < 4096 → (∀ b, s.hubs.find (l, i) = some b → b.state = 0) →
          (∀ j, j < i → ∃ b, s.hubs.find (l, j) = some b ∧ b.state ≠ 0) →
          let x := handleOf l i (((s.hubs.find (l, i)).map (·.gen)).getD 1)
          Completes (.sopen f) s (fun t => t.me.spr.csc = x ∧ t.me.stack = ⟨x, 2 ^ 32, true⟩ :: carvedStack s.me
            ∧ HasResult t.me (Dest.ofG f.d) (.g x)
            ∧ ∃ b, t.hubs.find (l, i) = some b ∧ b.state = 1 ∧ b.t = 2 ^ 32 ∧ b.r = 0 ∧ b.parent = s.me.spr.csc
              ∧ b.parentShare = s.me.top.share / 2 ∧ b.reach = f.reachCode ∧ b.brake = s.braked ∧ b.tenant = s.myTenant))
        ∧ ((∀ i, i < 4096 → ∃ b, s.hubs.find (l, i) = some b ∧ b.state ≠ 0) →
          Completes (.sopen f) s (fun t => Quick s t (Dest.ofG f.d) (.g 0) ∧ t.hubs = s.hubs))))
    ∧ (ready (.sclose f) f s = true →
      (s.closing = none → (h ≠ s.me.spr.csc ∨ s.me.top.own = false ∨ s.me.stack = []) → Faults (.sclose f) s 5 ⟨0x0E, 0, s.myPc⟩)
      ∧ (∀ e es, s.closing = none → s.me.stack = e :: es → e.own = true → h = s.me.spr.csc →
          ∃ t, exec (.sclose f) s = .next t ∧ (s.pk.phase ≠ .effect → t.pk.verdict = .hold ∧ t.me.stack = es
            ∧ t.me.spr.csc = (es.head?.map (·.handle)).getD 0 ∧ t.returns = s.returns ++ [⟨e.handle, e.share, true, none⟩]
            ∧ t.me.hold.isSome = true))
      ∧ (∀ x w v, s.closing = some x → x.answer = some (w, v) → (∀ i ∈ x.ids.drop 1, s.sees i = true) → Completes (.sclose f) s (fun t => t.me.hold = none
          ∧ HasResult t.me (Dest.ofG f.d) (.g w) ∧ HasResult t.me (Dest.ofG f.c) (.g v) ∧ t.me.stack = s.me.stack))
      ∧ (∀ x, s.closing = some x → x.answer = none ∨ (∃ i ∈ x.ids.drop 1, s.sees i = false) → Stays (.sclose f) s .hold))
    ∧ (ready (.scnl f) f s = true →
      (∀ b, s.hub h = some b → b.tenant = s.myTenant → Completes (.scnl f) s (fun t => t.hub h = some { b with brake := true } ∧ t.me = s.me))
      ∧ ((∀ b, s.hub h = some b → b.tenant ≠ s.myTenant) → Completes (.scnl f) s (fun t => OnlyPacket s t ∧ t.hubs = s.hubs)))
    ∧ (ready (.sshd f) f s = true →
      (s.me.freewheel < 15 → Completes (.sshd f) s (fun t => OnlyMyCore s t ∧ t.me = { s.me with freewheel := s.me.freewheel + 1 }))
      ∧ (15 ≤ s.me.freewheel → Faults (.sshd f) s 5 ⟨0x0E, 0, s.myPc⟩))
    ∧ (ready (.sunsh f) f s = true →
      (0 < s.me.freewheel → Completes (.sunsh f) s (fun t => OnlyMyCore s t ∧ t.me = { s.me with freewheel := s.me.freewheel - 1 }))
      ∧ (s.me.freewheel = 0 → Faults (.sunsh f) s 5 ⟨0x0E, 0, s.myPc⟩))
    ∧ (ready (.claim f) f s = true →
      (s.braked = true → Completes (.claim f) s (fun t => Quick s t (Dest.ofP f.d) (.p 0) ∧ t.claims = s.claims))
      ∧ (s.braked = false → Completes (.claim f) s (fun t => ∃ id tok c, s.nextId ≤ id ∧ Waits s t (Dest.ofP f.d) tok
          ∧ t.claims = s.claims.set id c ∧ c.handle = h ∧ c.value = s.gval f f.b ∧ c.tok = tok ∧ c.ctx = s.cur
          ∧ (c.held = true ↔ ∃ e ∈ s.me.stack, e.handle = h))))
    ∧ (ready (.poll f) f s = true → Completes (.poll f) s (fun t => OnlyMyCore s t ∧ Quick s t (Dest.ofP f.d) (.p (all s.braked))))
    ∧ (ready (.sinfo f) f s = true →
      (s.hub h = none → Completes (.sinfo f) s (fun t => OnlyMyCore s t ∧ Quick s t (Dest.ofG f.d) (.g 0)))
      ∧ (∀ b, s.hub h = some b → Completes (.sinfo f) s (fun t => OnlyMyCore s t ∧ Quick s t (Dest.ofG f.d) (.g (
          let status := if b.fault then 3 else if b.claimed then 2 else if b.brake then 1 else 0
          if s.gval f f.b = 0 then BitVec.ofNat 64 (status + b.state * 2 ^ 3 + b.brake.toNat * 2 ^ 5 + b.rp.toNat * 2 ^ 6 + b.reach * 2 ^ 7
              + b.runs * 2 ^ 10 + b.depu.toNat * 2 ^ 12 + b.cause * 2 ^ 16)
          else if s.gval f f.b = 1 then b.claimv
          else if s.gval f f.b = 2 then b.parent
          else if s.gval f f.b = 3 then BitVec.ofNat 64 (b.t - b.r) else 0)))))

/-- Shares return to their hub; the last one ends the scope; brakes spread; claims are decided; replay restores and runs
again: A share that returns is added to R, and a closing one makes the scope CLOSING. When R equals T in a CLOSING scope
that runs no replay of its own, the scope ends: its slot is free with the next generation, its parent's share returns,
and the waiting sclose gets the status word; a root scope's word is stored for its tenant, or its MSI-X vector raised
where the store is denied. A replay scope asks for its group's commit and ends with it: committed, the logs are dropped;
aborted, the logged blocks are restored and it ends with FAULT and GROUP_STATE. A share of 1 of which an instruction is
to carve borrows 2^16 on both sides. A brake reaches the child hubs. A claim from inside a scope neither braked nor
claimed wins, its value is kept and the scope is braked; any other loses. An undo log takes the old bytes of a block
once, as a write is about to reach it. After a consumed error the scope's tasks and helpers end and its opener stays
frozen, its share returned; when every share is back the logged blocks are restored and the scope runs again from its
recorded frame, or after its third run goes on to its end with FAULT, at once where its opener waits in sclose. The
freeze cause 0, what a frozen opener keeps, and how it goes on after the third run are the model's choice (log 28).
(R344, R345, R346, R348, R350, R351, R352, R457) -/
def Obligations.HubsCollectShares : Prop :=
  (∀ (s : State) (h : W64) (b : Hub) (e : SpokeBack), s.returns = [e] → e.h = h → e.fault = none → s.hub h = some b →
    let r := b.r + e.share
    let st := if e.closing then 2 else b.state
    ((st ≠ 2 ∨ r ≠ b.t ∨ b.replaying = true) → Completes (.hubSpokeReturn h e.share e.closing) s (fun t => t.returns = []
        ∧ t.hub h = some { b with r := r, state := st }))
    ∧ (∀ task c x, st = 2 → r = b.t → b.replaying = false → s.replayOf h ≠ some h → b.root = none → b.opener = some (task, c) →
        partHere s c.core = true → task = (s.core c.core).task → (s.ctx c).hold = some x → x.ids = [h.toNat] → x.answer = none →
        Completes (.hubSpokeReturn h e.share e.closing) s (fun t =>
          t.returns = (if b.parent = 0 ∨ b.parentShare = 0 then [] else [⟨b.parent, b.parentShare, false, none⟩])
          ∧ t.hubs.find (hubKey h) = some { Hub.fresh with gen := if (b.gen + 1) % 256 = 0 then 1 else (b.gen + 1) % 256 }
          ∧ (t.ctx c).hold = some { x with ids := h.toNat :: b.owes, answer := some (b.word 0, if b.status = 2 then b.claimv else 0) })))
  ∧ (∀ (s : State) (c : CtxId) (e : ScopeEntry) (es : List ScopeEntry) (b : Hub), (s.ctx c).stack = e :: es → e.share = 1 →
    s.hub e.handle = some b → s.carvePends c = true → Completes (.borrow e.handle c) s (fun t => t.hub e.handle = some { b with t := b.t + 2 ^ 16 }
      ∧ (t.ctx c).stack = { e with share := 1 + 2 ^ 16 } :: es))
  ∧ (∀ (s : State) (h : W64) (k : CluId × Nat) (b : Hub), s.brakeOf h = true → s.hubs.find k = some b → b.state ≠ 0 → b.parent = h →
    b.brake = false → Completes (.hubBrake h) s (fun t => t.hubs.find k = some { b with brake := true }))
  ∧ (∀ (s : State) (id : Nat) (c : ClaimReq), s.claims.find id = some c → partHere s c.ctx.core = true →
    c.task = (s.core c.ctx.core).task →
    (∀ b, c.held = true → s.hub c.handle = some b → b.brake = false → b.claimed = false → Completes (.claimAtHub id) s (fun t =>
      t.claims.find id = none ∧ t.hub c.handle = some { b with claimed := true, claimv := c.value, brake := true }
      ∧ LandsP s t c.ctx c.tok (BitVec.allOnes 512)))
    ∧ (c.held = false ∨ s.hub c.handle = none ∨ (∃ b, s.hub c.handle = some b ∧ (b.brake = true ∨ b.claimed = true)) →
        Completes (.claimAtHub id) s (fun t => t.claims.find id = none ∧ t.hubs = s.hubs ∧ LandsP s t c.ctx c.tok 0)))
  ∧ (∀ (s : State) (k : CoreId) (block : Nat) (u : UndoLog), block < 2048 → (s.tc k).undo = [u] → Map.find u.blocks block = none →
    u.blocks.length < 255 → s.writesBlock u.scope k block = true → Completes (.undoLogWrite k block) s (fun t => ∃ v, (t.tc k).undo = [v] ∧ v.scope = u.scope
      ∧ Map.find v.blocks block = some ((s.tc k).spad.read (256 * block) 256) ∧ (t.tc k).spad = (s.tc k).spad))
  ∧ (∀ (s : State) (h : W64) (b : Hub) (e : SpokeBack), s.returns = [e] → e.h = h → e.fault = none → s.hub h = some b →
    (if e.closing then 2 else b.state) = 2 → b.r + e.share = b.t → b.replaying = false →
    (∀ pkg ea, s.replayOf h ≠ some h → b.root = some (pkg, ea) → b.parent = 0 → b.opener = none →
      let granted : Bool := s.plb (s.coreIn (hubKey h).1) (BitVec.ofNat 16 (b.tenant * 256)) ea 8 rightW == .granted
      Completes (.hubSpokeReturn h e.share e.closing) s (fun t => t.hub h = none
        ∧ (granted = false → t.accs = s.accs ∧ (t.pkg (hubKey h).1.pkg).msix = (s.pkg (hubKey h).1.pkg).msix ++ [b.tenant])
        ∧ (granted = true → (t.pkg (hubKey h).1.pkg).msix = (s.pkg (hubKey h).1.pkg).msix ∧ ∃ a, t.accs = s.accs.set s.nextId a
            ∧ a.op = .complete b.tenant ∧ a.ea = BitVec.ofNat 64 ea ∧ a.parts = writeParts ea (leBytes 8 (b.word 0).toNat))))
    ∧ (s.replayOf h = some h → b.fault = false → s.groupLive b.group = true → Completes (.hubSpokeReturn h e.share e.closing) s (fun t =>
        (t.group (groupKey b.group)).asked = true ∧ ∃ x, t.hub h = some x ∧ x.state = 2 ∧ x.r = b.t)))
  ∧ (∀ (s : State) (l : CluId) (slot : Nat) (b : Hub) (task : Option Nat) (c : CtxId) (x : Hold),
    let h := handleOf l slot b.gen
    let g := b.group
    let gr := s.group (groupKey g)
    hubKey h = (l, slot) → s.hub h = some b → (s.hubs.map (·.1)).Nodup → (∀ e ∈ s.hubs, e.2.group = g → e.1 = (l, slot)) →
    s.replayOf h = some h → b.state = 2 → b.r = b.t → b.replaying = false → b.root = none → b.opener = some (task, c) →
    partHere s c.core = true → task = (s.core c.core).task → (s.ctx c).hold = some x → x.ids = [h.toNat] → x.answer = none →
    s.groupLive g = true → (s.pkg (groupKey g).1).powered = true → s.gwaits.get (groupKey g) [] = [] →
    let answered (t : State) (b : Hub) : Prop := t.hub h = none
      ∧ (t.ctx c).hold = some { x with ids := h.toNat :: b.owes, answer := some (b.word 0, if b.status = 2 then b.claimv else 0) }
    (gr.phase = .opened → gr.asked = true → gr.parts = [] → (∀ e ∈ s.gsts, e.2.h ≠ g) → Completes (.groupPrepare g) s (fun t => answered t b
        ∧ ∀ k, (t.tc k).spad = (s.tc k).spad ∧ (t.tc k).undo = (s.tc k).undo.filter (fun u => u.scope != h)))
    ∧ (∀ core i bs, gr.phase = .aborting → gr.since + 260000 ≤ s.now → (s.tc core).undo = [⟨h, [(i, bs)]⟩] → bs.length = 256 →
        (s.tc core).spad.wf = true → Completes (.tCommitExpiry g) s (fun t =>
          answered t { b with fault := true, cause := if b.cause = 0 then 0x16 else b.cause } ∧ (t.tc core).undo = []
          ∧ ∀ j, j < 256 → (t.tc core).spad.byte (256 * i + j) = bs.getD j 0)))
  ∧ (∀ (s : State) (h : W64) (b : Hub) (c : CtxId), s.hub h = some b → b.opener = some ((s.core c.core).task, c) → b.replaying = true →
    partHere s c.core = true → s.groupLive b.group = false →
    (∀ n own es, (∀ e ∈ s.tasks, e.2.core = some c.core → some e.1 = (s.core c.core).task) → b.contained = false → (s.ctx c).life = .running → (s.ctx c).stack = ⟨h, n, own⟩ :: es → Completes (.replayContain h) s (fun t =>
      (t.hub h).map (fun x => (x.contained, x.r)) = some (true, b.r + n)
      ∧ (t.ctx c).life = .frozen ∧ (t.ctx c).cause = 0 ∧ (t.ctx c).stack = ⟨h, 0, own⟩ :: es.map (fun e => if e.handle = h then { e with share := 0 } else e)
      ∧ (∀ id ∈ s.scopeTasks h (s.core c.core).task, t.tasks.find id = none)
      ∧ (∀ m, m ≠ c.ctx → s.inScope h ((s.tc c.core).ctx m) = true → ((t.tc c.core).ctx m).life = .free)))
    ∧ (b.contained = true → b.r = b.t →
      (∀ mark fr core i bs, b.runs < 2 → b.spent = false → (s.ctx c).holds h = true → (s.openGroup (hubKey h).1.pkg b.tenant).isSome = true →
        (s.tc c.core).recorded.find h = some (mark, fr) → (s.tc core).undo = [⟨h, [(i, bs)]⟩] → bs.length = 256 → (s.tc core).spad.wf = true →
        Completes (.replayRestore h) s (fun t => (∃ b', t.hub h = some b' ∧ b'.runs = b.runs + 1 ∧ b'.replaying = false
            ∧ b'.t = 2 ^ 32 ∧ b'.r = 0 ∧ b'.brake = false ∧ b'.fault = b.fault)
          ∧ (t.ctx c).life = .running ∧ (t.ctx c).g = fr.g ∧ (t.ctx c).v = fr.v ∧ (t.ctx c).p = fr.p ∧ (t.ctx c).pcq0 = fr.pcq0
          ∧ (t.ctx c).spr.csc = h ∧ (t.ctx c).top = ⟨h, 2 ^ 32, true⟩
          ∧ ∀ j, j < 256 → (t.tc core).spad.byte (256 * i + j) = bs.getD j 0))
      ∧ (2 ≤ b.runs ∨ b.spent = true → b.fault = false → (s.ctx c).holds h = true → Completes (.replayRestore h) s (fun t =>
          (∃ b', t.hub h = some b' ∧ b'.fault = true ∧ b'.cause = 0x13 ∧ b'.brake = true ∧ b'.replaying = false ∧ b'.t = 2 ^ 32 ∧ b'.r = 0)
          ∧ (t.ctx c).life = .running ∧ ⟨h, 2 ^ 32, true⟩ ∈ (t.ctx c).stack.map (fun e => { e with own := true })))
      ∧ (∀ x, 2 ≤ b.runs ∨ b.spent = true → (s.ctx c).holds h = false → (s.ctx c).hold = some x → x.kind = .own → x.ids = [h.toNat] →
          s.replayOf h = some h → Completes (.replayRestore h) s (fun t => t.hub h = none))))

namespace Sys2Proof.Machine

/-- One share divided into `n`, the first of them taking the rest: what member `i` gets (log 26, DESIGN CHOICE). -/
def sharePart (share n i : Nat) : Nat := if i = 0 then share - share / n * (n - 1) else share / n

/-- The scheduler's decrements of a list of addresses in a scope and a domain: one request for each, with the share divided among
them, the first taking the rest; with no address the share returns (15 R344, R358). -/
def Sends (s t : State) (h : W64) (dom : BitVec 16) (share : Nat) (eas : List Nat) : Prop :=
  (eas = [] → t.nodeOps = s.nodeOps ∧ t.returns = s.returns ++ [⟨h, share, false, none⟩])
  ∧ (eas ≠ [] → eas.length ≤ share → t.returns = s.returns ∧ ∀ j, j < eas.length → ∃ id r, s.nextId ≤ id ∧ t.nodeOps.find id = some r
      ∧ r.op = .dec ∧ some r.ea = eas[j]? ∧ r.ctx = none ∧ r.dom = dom ∧ r.csc = h
      ∧ r.share = sharePart share eas.length j)

/-- What is left of an entry's share once it has been halved `k` times (15 R344). -/
def halved (share : Nat) : Nat → Nat
  | 0 => share
  | k + 1 => halved (share - share / 2) k

/-- The tasks of a record, `n` of them with ids from `first` on, queued in a cluster, each with its share (15 R353, R360, R369). -/
def Queued (t : State) (first : Nat) (l : CluId) (dom : BitVec 16) (scope : W64) (share : Nat → Nat) (r : TaskRec) : Prop :=
  let n := r.w * r.h
  ∀ i, i < n → ∃ tk, t.tasks.find (first + i) = some tk ∧ tk.entry = r.entry ∧ tk.args = r.args ∧ tk.prio = r.prio ∧ tk.reach = r.reach
    ∧ tk.foot = r.foot ∧ tk.dom = dom ∧ tk.scope = scope ∧ tk.clu = l ∧ tk.pkg = l.pkg ∧ tk.life = .queued ∧ tk.core = none
    ∧ tk.gang = (if n = 1 then none else some ⟨first, i % r.w, i / r.w, r.w, r.h⟩)
    ∧ tk.share = share i

/-- The addresses of `n` successors whose signed 16-bit offsets stand at byte `off` of a node at `ea` (15 R357). -/
def successorsAt (ea : Nat) (bs : List Byte) (off n : Nat) : List Nat :=
  (List.range n).map (fun i => (((ea : Int) + 64 * (BitVec.ofNat 16 (field bs (off + 2 * i) 2)).toInt) % 2 ^ 64).toNat)

/-- The cached translation of an address at a cluster's slice gives a physical address in HBM of a package that has not failed, whose
line is open; nothing is poisoned or watched, and memory is in its form. -/
def hbmAt (s : State) (l : CluId) (dom : BitVec 16) (ea pa : Nat) : Prop :=
  mayMap dom pa = true ∧ ea < 2 ^ 48 ∧ (∃ te, (s.slice l).tlbFind ea = some te ∧ te.rro = false ∧ pa = te.pa + ea % 65536)
    ∧ natBits pa 44 3 = 0 ∧ s.alive l.pkg (natBits pa 47 9) = true ∧ s.lineOpen (pa / 64) = true ∧ s.poison = []
    ∧ (s.pkg (natBits pa 47 9)).watches = [] ∧ s.mem.wf = true

end Sys2Proof.Machine

/-- spawn, spwg, start, exit and yield act on tasks as R353 to R372 say; a record that has been read makes its tasks: Where
the word may issue: spawn and spwg give 0 under a brake, raise ILLEGAL in a replay scope, and else carve a share and
read the 64 B record as an acquire load at .sys. The record read makes a task, or one for each member of the gang, with
its fields as R353 lays them out, and gd gets a task id; a refused one makes none, returns the share and is recorded
with ILLEGAL. start by a helper raises ILLEGAL_HELPER_OP; by the lead it starts the free helper at ga with g1, g2, and
its scope, and writes true, or writes false with no free helper or under a brake; .w waits. exit of a helper frees it;
of the lead, its task is gone and its core has none; entries beside the birth entry raise SCOPE_DEPTH; what its own
packet has begun keeps it in its place until that has ended. yield begins a switch of the lead's core where a ready task
of its priority or higher may take it, and else does nothing. The model's choice: start takes the lowest free helper and
task ids count up (log 34); how the members of a gang come by their shares, and that an exit waits in its place (log
26); the rank of ILLEGAL_HELPER_OP (log 7). (R343, R344, R351, R353, R354, R369, R370, R371, R372) -/
def Obligations.TaskInstructions : Prop :=
  (∀ (f : Fields) (s : State),
    let k := s.cur.core
    let ea := s.ea f
    let carved := if s.me.stack = [] then 0 else s.me.top.share / 2
    let d := Dest.ofG f.d
    (∀ x ∈ [((.spawn f : Instr), false), (.spwg f, true)], ready x.1 f s = true →
      (noReplay s = false → Faults x.1 s 5 ⟨0x01, 0, s.myPc⟩)
      ∧ (noReplay s = true → s.loadRoom = .ok → s.globalOk [ea] 64 64 rightR true false = .ok → s.watch ea 64 true false = .ok →
        (s.braked = true → Completes x.1 s (fun t => OnlyMyCore s t ∧ Quick s t d (.g 0)))
        ∧ (s.braked = false → canCarve s.me = true → Completes x.1 s (fun t => ∃ id tok a, s.nextId ≤ id ∧ t.acc id = some a
            ∧ (∀ j, j ≠ id → t.acc j = s.acc j) ∧ a.op = .task x.2 carved ∧ a.ea = ea ∧ a.parts = inParts ea.toNat 64 (fun _ => [])
            ∧ a.stage = .issued ∧ a.bad = none ∧ a.ord = true ∧ a.reach = 4 ∧ a.ctx = s.cur ∧ a.task = s.myTask ∧ a.dom = s.me.domain
            ∧ a.scope = s.me.spr.csc ∧ a.tok = (if d = .none then none else some tok) ∧ t.mem = s.mem
            ∧ t.me = { s.me with stack := carvedStack s.me, pend := (if d = .none then [] else [⟨d, tok⟩]) ++ s.me.pend }))))
    ∧ (ready (.start f) f s = true →
      let p := Dest.ofP f.d
      (s.cur.ctx ≠ 0 → Faults (.start f) s 1 ⟨0x06, 0, s.myPc⟩)
      ∧ (s.cur.ctx = 0 →
        (∀ n, 1 ≤ n → n ≤ 10 → (s.myTc.ctx n).life = .free → (∀ j, 1 ≤ j → j < n → (s.myTc.ctx j).life ≠ .free) →
          s.braked = false → canCarve s.me = true → Completes (.start f) s (fun t =>
            let u := t.ctx ⟨k, n⟩
            u.life = .running ∧ u.pcq0.pc = s.gval f f.a ∧ u.pcq0.sq = false ∧ u.getG 1 = s.gval f f.b ∧ u.getG 2 = BitVec.ofNat 64 n
            ∧ (∀ m : BitVec 5, m ≠ 1 → m ≠ 2 → u.getG m = 0) ∧ u.spr.csc = s.me.spr.csc ∧ u.domain = s.me.domain
            ∧ u.stack = [⟨s.me.spr.csc, carved, false⟩] ∧ t.me.stack = carvedStack s.me
            ∧ HasResult t.me p (.p (BitVec.allOnes 512)) ∧ t.mem = s.mem))
        ∧ ((s.braked = true ∨ (f.mod0 = false ∧ ∀ n, 1 ≤ n → n ≤ 10 → (s.myTc.ctx n).life ≠ .free)) →
            Completes (.start f) s (fun t => OnlyMyCore s t ∧ Quick s t p (.p 0)))
        ∧ (s.braked = false → f.mod0 = true → (∀ n, 1 ≤ n → n ≤ 10 → (s.myTc.ctx n).life ≠ .free) → Stays (.start f) s .hold)))
    ∧ (ready (.exit f) f s = true →
      (∀ r, s.me.afr = some r → Faults (.exit f) s 2 ⟨r.cause, 9, r.ea⟩)
      ∧ (s.me.afr = none → s.engineFreeze = none → (s.cur.ctx = 0 → s.exitQuiet = true ∧ s.exitStreams = true) →
        (2 ≤ s.me.stack.length → Faults (.exit f) s 5 ⟨0x0E, 0, s.myPc⟩)
        ∧ (∀ h n, s.me.stack = [⟨h, n, false⟩] → n ≠ 0 → s.writesDone (s.reachOf h) = true → partHere s k = true →
          (s.cur.ctx ≠ 0 → Completes (.exit f) s (fun t => t.pk.leave = true ∧ (t.ctx s.cur).life = .free
            ∧ t.returns = s.returns ++ [⟨h, n, false, none⟩] ∧ t.mem = s.mem))
          ∧ (∀ id tk, s.cur.ctx = 0 → s.myTask = some id → s.tasks.find id = some tk → tk.node = none →
            Completes (.exit f) s (fun t => t.pk.leave = true ∧ t.tasks.find id = none ∧ (t.core k).task = none
              ∧ (t.ctx s.cur).life = .free ∧ t.returns = s.returns ++ [⟨h, n, false, none⟩] ∧ t.mem = s.mem)))))
    ∧ (s.pk.phase = .effect → s.guardTrue f = true → s.exitReady = false → ∃ t, exec (.exit f) s = .next t ∧ t.pk.stay = true ∧ t.tasks = s.tasks
        ∧ t.returns = s.returns)
    ∧ (ready (.yield f) f s = true →
      (s.cur.ctx = 0 → s.yieldsTo = true → partHere s k = true →
        Completes (.yield f) s (fun t => (t.core k).switch = some ⟨[], .yield, s.now, (s.tc s.cur.core).matrixHead, (s.tc s.cur.core).envHead⟩ ∧ t.mem = s.mem ∧ t.me = s.me))
      ∧ ((s.cur.ctx ≠ 0 ∨ s.yieldsTo = false) → Completes (.yield f) s (OnlyPacket s))))
  ∧ (∀ (s : State) (id share tok : Nat) (a : Access) (gang : Bool), s.acc id = some a → a.op = .task gang share → a.tok = some tok →
    a.failure = none → s.answered a = true → (∀ p ∈ a.parts, p.done = true) → share ≠ 0 → landsHere s a = true →
    (∀ n, a.task = some n → n < s.nextId) →
    let bs := a.parts.flatMap (·.data)
    (taskRec bs = none → (s.ctx a.ctx).afr = none → (s.ctx a.ctx).incarn = a.incarn → Completes (.globalAccessLand id) s (fun t => t.acc id = none
      ∧ (∀ n, t.tasks.find n = s.tasks.find n) ∧ t.returns = s.returns ++ [⟨a.scope, share, false, none⟩]
      ∧ (t.ctx a.ctx).afr = some ⟨a.ea, a.pc, 0x01, a.sel, 0, 0⟩))
    ∧ (∀ r, taskRec bs = some r →
        let n := r.w * r.h
        let queues (shares : Nat → Nat) : Prop := Completes (.globalAccessLand id) s (fun t => t.acc id = none
          ∧ Queued t s.nextId (s.clu a.ctx.core) a.dom a.scope shares r ∧ LandsG s t a.ctx tok (BitVec.ofNat 64 s.nextId))
        (n = 1 → queues (fun _ => share))
        ∧ (∀ m own es, gang = true → (s.ctx a.ctx).incarn = a.incarn → (s.ctx a.ctx).stack = ⟨a.scope, m, own⟩ :: es →
            (∀ k, k < n - 1 → 2 ≤ halved m k) → queues (fun i => if i = 0 then share else halved m (n - 1 - i) / 2))
        ∧ (gang = true → (∀ e ∈ (s.ctx a.ctx).stack, e.handle ≠ a.scope) → n ≤ share → queues (sharePart share n))))
  ∧ (∀ (entry : W64) (args : List W64) (prio reach foot w h : Nat), entry.toNat < 2 ^ 63 → entry.toNat % 64 ≤ 4 →
    args.length = 6 → prio < 8 → reach ≤ 4 → foot ≤ 16 → 1 ≤ w → 1 ≤ h →
    (w ≤ (if reach = 0 then 1 else if reach = 1 then 4 else 8)) → (h ≤ (if reach = 0 then 1 else if reach = 1 then 4 else 8)) →
    taskRec (leBytes 8 entry.toNat ++ args.flatMap (fun x => leBytes 8 x.toNat)
        ++ [BitVec.ofNat 8 (prio + 8 * reach), BitVec.ofNat 8 foot, BitVec.ofNat 8 (w - 1 + 8 * (h - 1)), 0, 0, 0, 0, 0])
      = some ⟨entry, args, prio, reach, foot, w, h⟩)

/-- tgnode and tgdec set out; a decrement, an installation and a firing do at a node what R357, R358 and R374 say: Where the
word may issue and the node's address passes its checks, tgnode and tgdec set out, pd waiting, tgdec with a share that
it carves; under a brake tgnode writes false. At the node's home an installation of a well-formed node that is not
installed sets INST and writes SCOPE, gives true, and fires the node if CNT is 0, with a share carved of its installer's
entry then (log 26); any other node is left unchanged and gives false. A decrement of a node that is not installed gives
false; with CNT = 0 it sets DEPU in the hub of SCOPE and gives false; else it takes 1 from CNT, gives true and fires the
node if CNT is then 0. A node that is not in HBM is recorded with PROTECTION. A firing sets CNT to INIT; in a stale or
braked scope no more; JOIN decrements SA, COND SA or SB by the word at ARG, SWITCH the one that the word names, LOOP
counts the word up to LIMIT, and TASK queues the record's task, or records ILLEGAL in the scope. That a firing's share
is divided among its decrements, of which the first takes the rest, is the model's choice (log 27), as is the share of a
firing at an installation (log 26). (R344, R346, R357, R358, R374) -/
def Obligations.GraphNodes : Prop :=
  (∀ (f : Fields) (s : State),
    let p := Dest.ofP f.d
    let carved := if s.me.stack = [] then 0 else s.me.top.share / 2
    (ready (.tgnode f) f s = true → noReplay s = false → Faults (.tgnode f) s 5 ⟨0x01, 0, s.myPc⟩)
    ∧ (∀ x ∈ [((.tgnode f : Instr), NodeOp.install), (.tgdec f, .dec)], ready x.1 f s = true → (x.2 = .install → noReplay s = true) →
        s.acquiring = false →
        ((s.ea f).toNat < 2 ^ 63 → (s.ea f).toNat % 64 ≠ 0 → Faults x.1 s 5 ⟨0x10, 0, s.ea f⟩)
        ∧ (s.globalOk [s.ea f] 64 64 rightW false false = .ok →
          (x.2 = .install → s.braked = true → Completes x.1 s (fun t => OnlyMyCore s t ∧ Quick s t p (.p 0)))
          ∧ ((x.2 = .install → s.braked = false) → (x.2 = .dec → canCarve s.me = true) → Completes x.1 s (fun t => ∃ id tok q, s.nextId ≤ id
              ∧ t.nodeOps = s.nodeOps.set id q ∧ q.op = x.2 ∧ q.ea = (s.ea f).toNat ∧ q.ctx = some s.cur ∧ q.task = s.myTask
              ∧ q.tok = some tok ∧ q.dom = s.me.domain ∧ q.csc = s.me.spr.csc ∧ q.share = (if x.2 = .install then 0 else carved) ∧ t.mem = s.mem
              ∧ t.me = { s.me with stack := if x.2 = .install then s.me.stack else carvedStack s.me, pend := (if p = .none then [] else [⟨p, tok⟩]) ++ s.me.pend })))))
  ∧ (∀ (s : State) (id tok pa : Nat) (q : NodeReq) (c : CtxId), s.nodeOps.find id = some q → q.waits = [] → q.ctx = some c →
    q.tok = some tok → partHere s c.core = true → q.task = (s.core c.core).task → hbmAt s q.clu q.dom q.ea pa → pa % 64 = 0 →
    let tenant := tenantOf q.dom
    let bs := s.readMem tenant pa 64
    let cnt := field bs 0 2
    let back (t : State) : Prop := t.fires = s.fires ∧ t.returns = s.returns ++ (if q.share = 0 then [] else [⟨q.csc, q.share, false, none⟩])
    let fires (t : State) (scope : W64) (share : Nat) : Prop := t.returns = s.returns
      ∧ ∃ n, s.nextId ≤ n ∧ t.fires = s.fires.set n ⟨pa, q.ea, scope, q.csc, share⟩
    let sound : Prop := field bs 4 1 ≤ 4 ∧ natBits (field bs 5 1) 0 4 ≤ 8 ∧ natBits (field bs 5 1) 4 4 ≤ 8 ∧ field bs 6 1 = 0
      ∧ field bs 7 1 = 0 ∧ (field bs 4 1 = 2 ∨ field bs 16 8 = 0)
    let done (t : State) (b : Bool) : Prop := t.nodeOps.find id = none ∧ LandsP s t c tok (if b then BitVec.allOnes 512 else 0)
    (q.op = .install → ¬sound → Completes (.nodeDecrement id) s (fun t => done t false ∧ back t ∧ t.mem = s.mem))
    ∧ (q.op = .install → sound → Completes (.nodeDecrement id) s (fun t =>
        let scope : W64 := (q.csc &&& ~~~ 0x7FFFFFF#64) ||| q.dom.zeroExtend 64
        done t true ∧ t.readByte tenant (pa + 7) = 1 ∧ (∀ i, i < 8 → t.readByte tenant (pa + 56 + i) = (leBytes 8 scope.toNat).getD i 0)
        ∧ (∀ i, i < 56 → i ≠ 7 → t.readByte tenant (pa + i) = s.readByte tenant (pa + i))
        ∧ (∀ x, x < pa ∨ pa + 64 ≤ x → t.mem.byte x = s.mem.byte x)
        ∧ (∀ n own es, cnt = 0 → (s.ctx c).incarn = q.incarn → (s.ctx c).stack = ⟨q.csc, n, own⟩ :: es → 2 ≤ n →
            fires t scope (n / 2) ∧ (t.ctx c).top = ⟨q.csc, n - n / 2, own⟩)
        ∧ (cnt ≠ 0 → back t)))
    ∧ (q.op = .dec → (field bs 7 1).testBit 0 = false → Completes (.nodeDecrement id) s (fun t => done t false ∧ back t ∧ t.mem = s.mem
        ∧ t.hubs = s.hubs))
    ∧ (q.op = .dec → (field bs 7 1).testBit 0 = true → cnt = 0 → Completes (.nodeDecrement id) s (fun t => done t false ∧ back t
        ∧ t.mem = s.mem ∧ ∀ b, s.hub (wordAt bs 56 &&& ~~~ 0x7FFFFFF#64) = some b →
            t.hub (wordAt bs 56 &&& ~~~ 0x7FFFFFF#64) = some { b with depu := true }))
    ∧ (q.op = .dec → (field bs 7 1).testBit 0 = true → cnt ≠ 0 → Completes (.nodeDecrement id) s (fun t => done t true
        ∧ Written s t tenant pa (leBytes 2 (cnt - 1)) ∧ (cnt = 1 → fires t (wordAt bs 56) q.share) ∧ (cnt ≠ 1 → back t))))
  ∧ (∀ (s : State) (id : Nat) (q : NodeReq) (c : CtxId) (te : TlbEntry), s.nodeOps.find id = some q → q.waits = [] → q.ctx = some c →
    partHere s c.core = true → q.task = (s.core c.core).task → q.ea < 2 ^ 48 → (s.slice q.clu).tlbFind q.ea = some te →
    mayMap q.dom (te.pa + q.ea % 65536) = true →
    s.lineOpen ((te.pa + q.ea % 65536) / 64) = true → natBits (te.pa + q.ea % 65536) 44 3 ≠ 0 → (s.ctx c).afr = none →
    (s.ctx c).incarn = q.incarn → Completes (.nodeDecrement id) s (fun t => t.nodeOps.find id = none
      ∧ (t.ctx c).afr = some ⟨BitVec.ofNat 64 q.ea, q.pc, 0x0A, q.sel, 3, 0⟩ ∧ t.mem = s.mem))
  ∧ (∀ (s : State) (id : Nat) (q : NodeFire), s.fires.find id = some q → q.pa % 64 = 0 → natBits q.pa 44 3 = 0 → s.lineOpen (q.pa / 64) = true →
    s.poison = [] → (s.pkg (natBits q.pa 47 9)).watches = [] → s.mem.wf = true → q.share ≠ 0 →
    let h : W64 := q.scope &&& ~~~ 0x7FFFFFF#64
    let dom : BitVec 16 := q.scope.truncate 16
    let l := paClu q.pa
    let bs := s.readMem (tenantOf dom) q.pa 64
    let kind := field bs 4 1
    let sa := successorsAt q.ea bs 24 (min (natBits (field bs 5 1) 0 4) 8)
    let sb := successorsAt q.ea bs 40 (min (natBits (field bs 5 1) 4 4) 8)
    let arg := field bs 8 8
    let again (t : State) : Prop := t.fires.find id = none
      ∧ ∀ i, i < 2 → t.readByte (tenantOf dom) (q.pa + i) = s.readByte (tenantOf dom) (q.pa + 2 + i)
    ((s.hub h = none ∨ s.brakeOf h = true) → Completes (.nodeFire id) s (fun t => again t ∧ t.nodeOps = s.nodeOps ∧ t.tasks = s.tasks
      ∧ t.returns = s.returns ++ [⟨q.holder, q.share, false, none⟩]))
    ∧ (∀ b, s.hub h = some b → b.brake = false → q.holder = h →
      (kind = 4 → Completes (.nodeFire id) s (fun t => again t ∧ t.tasks = s.tasks ∧ Sends s t h dom q.share sa))
      ∧ (∀ pa n, arg % n = 0 → hbmAt s l dom arg pa → pa / 64 ≠ q.pa / 64 → s.plb (s.coreIn l) dom arg n (if kind = 2 then rightW else rightR) = .granted →
        let rd := s.readMem (tenantOf dom) pa n
        let w := wordAt rd 0
        let sends (eas : List Nat) : Prop := Completes (.nodeFire id) s (fun t => again t ∧ t.tasks = s.tasks ∧ Sends s t h dom q.share eas)
        (kind = 1 → n = 8 → sends (if w ≠ 0 then sa else sb))
        ∧ (kind = 3 → n = 8 → sends (if w.toNat < natBits (field bs 5 1) 0 4 then (sa.drop w.toNat).take 1 else []))
        ∧ (kind = 2 → n = 8 → w.slt (wordAt bs 16) = false → sends sb)
        ∧ (kind = 2 → n = 8 → pa % 8 = 0 → w.slt (wordAt bs 16) = true → Completes (.nodeFire id) s (fun t => again t ∧ t.tasks = s.tasks
            ∧ Sends s t h dom q.share sa
            ∧ ∀ i, i < 8 → t.readByte (tenantOf dom) (pa + i) = (leBytes 8 (w + 1).toNat).getD i 0))
        ∧ (∀ r, kind = 0 → n = 64 → taskRec rd = some r → r.w * r.h = 1 → Completes (.nodeFire id) s (fun t => again t
            ∧ ∃ first, s.nextId ≤ first ∧ Queued t first l dom h (fun _ => q.share) r
              ∧ (t.tasks.find first).bind (·.node) = some (wordAt bs 56, sa)))
        ∧ (kind = 0 → n = 64 → taskRec rd = none → Completes (.nodeFire id) s (fun t => again t ∧ t.tasks = s.tasks
            ∧ t.hub h = some { b with
                fault := true, cause := if b.fault then b.cause else 0x01, pres := if l ∈ b.pres then b.pres else b.pres ++ [l] }
            ∧ t.returns = s.returns ++ [⟨h, q.share, false, none⟩])))))

/-- Launch packets queue and are taken or refused; waiting tasks age; a free core takes the task that R361 puts first; the
fill starts it: A packet written to a ready package's port of a valid tenant is queued, or dropped and counted when 16
wait or the write has another size. A packet taken opens a CLOSING root scope whose task holds the whole share; a
refused one has its completion word written, or only raises the vector when DONE is not usable. A queued task rises a
level for every 2^20 cycles it waits. A core without a task takes an eligible task of the nearest cluster that has one,
of the highest level there, the oldest of its tenant; a gang starts on a whole rectangle, each member at its place, a
launched one with its member (0,0) in the cluster that was chosen. A task with a frame goes on from it, once its image
stands in the shadow storage there; another starts when its footprint holds the image of its tenant's table and zeros
elsewhere, in the state of R354; an image address that no page can hold starts it FROZEN with TRANSLATION. The model's
choice: a launch's root scope is CLOSING from the start (log 25), takes the lowest free slot, and ids count up (log 34);
where the members of a launched gang stand and what shares they have (log 26). (R354, R355, R356, R359, R360, R361,
R432) -/
def Obligations.LaunchesAndDispatch : Prop :=
  (∀ (s : State) (pkg tenant : Nat) (packet : BitVec 512) (whole : Bool), 1 ≤ tenant → tenant ≤ 255 → (s.pkg pkg).powered = true →
    let q := s.tenant pkg tenant
    Completes (.launchPacketWrite pkg tenant packet whole) s (fun t => t.tenant pkg tenant =
      if (s.pkg pkg).st ≠ .ready then q
      else if whole = false ∨ 16 ≤ q.queue.length then { q with drops := q.drops + 1 }
      else if q.valid then { q with queue := q.queue ++ [packet] } else q))
  ∧ (∀ (s : State) (pkg tenant : Nat) (l : CluId) (p : BitVec 512) (rest : List (BitVec 512)), (s.tenant pkg tenant).queue = p :: rest →
    l.pkg = pkg → l.die < 4 → l.clu < 64 →
    let bs := leBytes 64 p.toNat
    let done := field bs 40 8
    let dom := BitVec.ofNat 16 (tenant * 256)
    let taken (t : State) : Prop := (t.tenant pkg tenant).queue = rest
    let usable : Prop := done < 2 ^ 63 ∧ done % 8 = 0
    (¬usable → Completes (.launchTake pkg tenant l) s (fun t => taken t ∧ (t.pkg pkg).msix = (s.pkg pkg).msix ++ [tenant]
      ∧ t.hubs = s.hubs ∧ t.tasks = s.tasks ∧ t.accs = s.accs))
    ∧ (usable → launchRec bs = none → s.plb (s.coreIn l) dom done 8 rightW = .granted → Completes (.launchTake pkg tenant l) s (fun t => taken t
        ∧ t.hubs = s.hubs ∧ t.tasks = s.tasks ∧ ∃ a, t.accs = s.accs.set s.nextId a ∧ a.op = .complete tenant ∧ a.ea = BitVec.ofNat 64 done
          ∧ a.dom = dom ∧ a.parts = [newPart done ((leBytes 8 (3 + 2 ^ 16)).map some) 8]))
    ∧ (∀ r i, usable → launchRec bs = some r → s.hosts s.coreFree r l = true → l.pkg < 512 → i < 4096 →
        (∀ b, s.hubs.find (l, i) = some b → b.state = 0) → (∀ j, j < i → ∃ b, s.hubs.find (l, j) = some b ∧ b.state ≠ 0) →
        let gen := ((s.hubs.find (l, i)).map (·.gen)).getD 1
        gen < 256 → Completes (.launchTake pkg tenant l) s (fun t => taken t
          ∧ Queued t s.nextId l dom (handleOf l i gen) (sharePart (2 ^ 32) (r.w * r.h)) r
          ∧ ∃ b, t.hubs.find (l, i) = some b ∧ b.state = 2 ∧ b.t = 2 ^ 32 ∧ b.r = 0 ∧ b.parent = 0 ∧ b.reach = r.reach ∧ b.tenant = tenant
            ∧ b.root = some (pkg, done) ∧ b.gen = gen)))
  ∧ (∀ (s : State) (id : Nat) (tk : Task), s.tasks.find id = some tk → tk.life = .queued → tk.level < 7 →
    tk.level < tk.prio + (s.now - tk.since) / 2 ^ 20 →
    Completes (.priorityAging id) s (fun t => t.tasks = s.tasks.set id { tk with level := tk.level + 1 }))
  ∧ (∀ (s : State) (k : CoreId), s.eligible s.coreFree k ≠ [] → (s.tasks.map (·.1)).Nodup →
    (∀ e ∈ s.eligible s.coreFree k, ∀ ks, s.placesFor s.coreFree k e.1 e.2 = some ks → s.imagesReady e ks = true) →
    Completes (.dispatch k) s (fun t => ∃ id tk, (id, tk) ∈ s.eligible s.coreFree k
      ∧ (∀ e ∈ s.eligible s.coreFree k, cluRank (s.clu k) tk.clu ≤ cluRank (s.clu k) e.2.clu)
      ∧ (∀ e ∈ s.eligible s.coreFree k, e.2.clu = tk.clu → e.2.level ≤ tk.level)
      ∧ (∀ e ∈ s.eligible s.coreFree k, e.2.clu = tk.clu → e.2.level = tk.level → tenantOf e.2.dom = tenantOf tk.dom → tk.order ≤ e.2.order)
      ∧ (tk.gang = none → (t.core k).task = some id ∧ (∃ u, t.tasks.find id = some u ∧ u.core = some k ∧ u.level = tk.prio ∧ u.started = s.now
          ∧ u.frame = none ∧ u.life = (if tk.frame.isSome then .running else .filling))
          ∧ ∀ fr, tk.frame = some fr → (t.tc k).spad = fr.spad ∧ ∀ c, (t.ctx ⟨k, c⟩).g = (fr.ctx c).g ∧ (t.ctx ⟨k, c⟩).v = (fr.ctx c).v
              ∧ (t.ctx ⟨k, c⟩).p = (fr.ctx c).p ∧ (t.ctx ⟨k, c⟩).pcq0 = (fr.ctx c).pcq0 ∧ (t.ctx ⟨k, c⟩).life = (fr.ctx c).life)
      ∧ (∀ g ks, tk.gang = some g → s.placesFor s.coreFree k id tk = some ks → ks.Nodup →
          (tk.rooted = true → tk.starts = 0 → ks.head?.map s.clu = some tk.clu)
          ∧ ((∀ m ∈ s.gangOf g, ∀ x, m.2.gang = some x → x.w = g.w) → ∀ (m : Nat × Task) (x : GangPos) (c : CoreId), m ∈ s.gangOf g →
            m.2.gang = some x → ks[x.y * g.w + x.x]? = some c → (t.core c).task = some m.1))))
  ∧ (∀ (s : State) (k : CoreId) (id : Nat) (tk : Task), (s.core k).task = some id → s.tasks.find id = some tk → tk.life = .filling →
    tk.waits = [] → tk.args.length = 6 →
    let begun (t : State) : Prop :=
      let u := t.ctx ⟨k, 0⟩
      u.pcq0 = ⟨tk.entry, false, true, false⟩ ∧ u.domain = tk.dom ∧ u.spr.csc = tk.scope ∧ u.stack = [⟨tk.scope, tk.share, false⟩]
      ∧ (∀ i, i < 6 → u.getG (BitVec.ofNat 5 (i + 1)) = tk.args.getD i 0)
      ∧ u.getG 7 = BitVec.ofNat 64 ((tk.gang.map (fun g => g.x + 256 * g.y)).getD 0)
      ∧ (∀ n : BitVec 5, n = 0 ∨ 7 < n.toNat → u.getG n = 0) ∧ (t.tc k).layout = [] ∧ (t.tasks.find id).map (·.life) = some .running
    ((s.imageOf tk).2 = 0 → Completes (.footprintFillDone k) s (fun t => begun t ∧ (t.ctx ⟨k, 0⟩).life = .running
      ∧ ∀ o, (t.tc k).spad.byte o = 0))
    ∧ (∀ a n te, s.imageOf tk = (a, n) → 0 < n → a % 65536 + n ≤ 65536 → a < 2 ^ 48 → (s.slice (s.clu k)).tlbFind a = some te →
        (∀ o, o < n → mayMap tk.dom (te.pa + (a + o) % 65536) = true) →
        s.alive k.pkg (natBits te.pa 47 9) = true → (∀ x ∈ s.plbAnswers k tk.dom a n rightR, x.2 = .granted) → s.poison = [] → s.owned = [] →
        s.parts = [] → Completes (.footprintFillDone k) s (fun t => begun t ∧ (t.ctx ⟨k, 0⟩).life = .running
          ∧ ∀ o, (t.tc k).spad.byte o = if o < n then s.readByte (tenantOf tk.dom) (te.pa + (a + o) % 65536) else 0))
    ∧ (∀ a n, s.imageOf tk = (a, n) → 0 < n → 2 ^ 48 ≤ a → a + n ≤ 2 ^ 63 → Completes (.footprintFillDone k) s (fun t => begun t
        ∧ (t.ctx ⟨k, 0⟩).life = .frozen ∧ (t.ctx ⟨k, 0⟩).cause = 0x0B ∧ ∀ o, (t.tc k).spad.byte o = 0)))
  ∧ (∀ (s : State) (tk : Task) (i b z a n : Nat), i < 64 →
    (∀ j, j < i → (s.pkg tk.pkg).images.get (tenantOf tk.dom, j) 0 = 0) →
    (s.pkg tk.pkg).images.get (tenantOf tk.dom, i) 0 = BitVec.ofNat 512 (b + z * 2 ^ 64 + a * 2 ^ 128 + n * 2 ^ 192 + 2 ^ 224) →
    b % 64 = 0 → b < 2 ^ 63 → z % 64 = 0 → z ≠ 0 → z < 2 ^ 64 → a % 64 = 0 → a < 2 ^ 63 → n ≤ 524288 → b ≤ tk.entry.toNat →
    tk.entry.toNat < b + z → s.imageOf tk = (a, min n (tk.foot * 32768)))

/-- Pre-emption picks its victim, the engines stop, the frame goes out with the task's state, and a parked task comes back:
A task ready for 2^16 cycles with no free lead context in its reach begins a switch of the running task of lower
priority that has the lowest priority, the latest started among equals. Each engine acknowledges once, when it stands at
its unit: the command at the head of the matrix or the envelope queue at the stop has run, copies with no chunk in
flight, streams with no tile. When all seven have, the task leaves its core: its frame holds its scratchpad and the
registers of each context, it is queued at the head of its tenant's queue, or at the tail after yield, or off the queues
when parked, and the core has no task; the switch goes on until the next task is bound, or ends where none is to come.
The image, with its header, stands in the shadow storage of that core; it may be written to the tenant's pool, and that
of a queued task fetched from there to another core. A task one of whose contexts stalls on an access, or whose fetch
waits for a page, that waits for a pager begins to park; when nothing it waits for is held any more it is queued again.
(R23, R362, R363, R372, R415, R421, R422, R427, R441) -/
def Obligations.SwitchesAndFrames : Prop :=
  (∀ (s : State) (id : Nat) (tk : Task) (k : CoreId) (v : Nat × Task), s.tasks.find id = some tk → tk.life = .queued → tk.gang = none →
    tk.since + 2 ^ 16 ≤ s.now →
    let near (j : CoreId) : Prop := j ∈ s.workerCores tk.pkg ∧ s.reaches tk.reach tk.origin j = true
    (∀ j, near j → (s.core j).switch = none ∧ s.coreFree j = false) → near k → s.runningOn k = some v → v.2.prio < tk.level → v.2.gang = none →
    partHere s k = true →
    (∀ j e, near j → j ≠ k → s.runningOn j = some e → e.2.prio < tk.level →
      v.2.prio < e.2.prio ∨ (v.2.prio = e.2.prio ∧ e.2.started < v.2.started)) →
    Completes (.preemptTrigger id) s (fun t => (t.core k).switch = some ⟨[], .preempt, s.now, (s.tc k).matrixHead, (s.tc k).envHead⟩ ∧ (∀ j, j ≠ k → t.core j = s.core j)
      ∧ t.tasks = s.tasks))
  ∧ (∀ (s : State) (k : CoreId) (engine : Engine) (w : Switch), (s.core k).switch = some w → engine ∉ w.acked →
    (engine = .matrix → ∀ e ∈ (s.tc k).mat.queue.head?, w.matrixHead ≠ some e.seq) →
    (engine = .envelope → ∀ e ∈ (s.tc k).env.queue.head?, w.envHead ≠ some e.seq) →
    (engine = .copy → ∀ c ∈ s.copies, c.2.core = k → c.2.task = (s.core k).task → c.2.flying = []) →
    (engine = .stack → ∀ x ∈ s.streams, x.2.core = k → x.2.task = (s.core k).task → x.2.slot = none) →
    Completes (.preemptAck k engine) s (fun t => (t.core k).switch = some { w with acked := w.acked ++ [engine] } ∧ t.tc k = s.tc k))
  ∧ (∀ (s : State) (k : CoreId) (id : Nat) (tk : Task) (w : Switch), (s.core k).switch = some w →
    (∀ e ∈ [Engine.issue, .matrix, .gather, .copy, .envelope, .stack, .network], e ∈ w.acked) → (s.core k).task = some id →
    s.tasks.find id = some tk → tk.core = some k → tk.gang = none → tk.life = .running →
    Completes (.frameSwap k) s (fun t => (t.core k).task = none ∧ (t.core k).switch = some w ∧ (∀ o, (t.tc k).spad.byte o = 0)
      ∧ (∀ c, (t.ctx ⟨k, c⟩).life = .free)
      ∧ ∃ u fr, t.tasks.find id = some u ∧ u.core = none ∧ u.frame = some fr ∧ u.lastCore = some k ∧ u.level = tk.prio
        ∧ u.header = some (fr.header id tk) ∧ (∃ n, u.shadow = some (k, n))
        ∧ fr.spad = (s.tc k).spad ∧ fr.layout = (s.tc k).layout
        ∧ (∀ c, (fr.ctx c).g = (s.ctx ⟨k, c⟩).g ∧ (fr.ctx c).v = (s.ctx ⟨k, c⟩).v ∧ (fr.ctx c).p = (s.ctx ⟨k, c⟩).p
            ∧ (fr.ctx c).pcq0 = (s.ctx ⟨k, c⟩).pcq0 ∧ (fr.ctx c).spr = (s.ctx ⟨k, c⟩).spr ∧ (fr.ctx c).life = (s.ctx ⟨k, c⟩).life)
        ∧ (w.why = .yield → u.life = .queued ∧ u.order = s.nextId)
        ∧ (w.why = .preempt → u.life = .queued ∧ ∀ e ∈ s.tasks, e.2.clu = tk.clu → tenantOf e.2.dom = tenantOf tk.dom → u.order < e.2.order)
        ∧ (w.why = .park → u.life = .parked)
        ∧ (w.why = .prmt → (u.life = .parked ↔ ∃ e ∈ (s.tc k).ctxs, e.2.life = .frozen))))
  ∧ (∀ (s : State) (k : CoreId) (w : Switch), (s.core k).switch = some w → (s.core k).task = none → s.nextComes k = false →
    (∀ e ∈ [Engine.issue, .matrix, .gather, .copy, .envelope, .stack, .network], e ∈ w.acked) →
    Completes (.frameSwap k) s (fun t => t.core k = { s.core k with switch := none } ∧ t.tasks = s.tasks))
  ∧ (∀ (s : State) (k : CoreId) (id : Nat) (tk : Task), s.tasks.find id = some tk → tk.frame.isSome = true →
    (∀ n, tk.shadow = some (k, n) → tk.spilled = false → Completes (.frameBackgroundWrite k id) s (fun t =>
      t.tasks.find id = some { tk with spilled := true, pooled := frameBytes tk } ∧ (∀ i, i ≠ id → t.tasks.find i = s.tasks.find i)
      ∧ (t.tenant tk.pkg (tenantOf tk.dom)).poolUsed = (s.tenant tk.pkg (tenantOf tk.dom)).poolUsed - tk.pooled + frameBytes tk))
    ∧ ((∀ n, tk.shadow ≠ some (k, n)) → tk.spilled = true → tk.life = .queued → tk.pkg = k.pkg →
      Completes (.frameBackgroundWrite k id) s (fun t => ∃ u n, t.tasks.find id = some u ∧ u.shadow = some (k, n) ∧ n ≤ frameBytes tk
        ∧ u.spilled = true ∧ u.life = .queued ∧ u.header = tk.header)))
  ∧ (∀ (s : State) (id : Nat) (tk : Task), s.tasks.find id = some tk →
    (∀ (k : CoreId) (c : Nat × Ctx), tk.core = some k → (s.core k).task = some id → tk.gang = none → tk.life = .running → (s.core k).switch = none →
      (∀ e ∈ (s.tc k).ctxs, e.2.life ≠ .frozen) → c ∈ (s.tc k).ctxs → s.stallsOnHeld ⟨k, c.1⟩ (s.heldBy id) = true ∨ s.fetchesHeld k ≠ [] →
      Completes (.taskPark id) s (fun t => (t.core k).switch = some ⟨[], .park, s.now, (s.tc k).matrixHead, (s.tc k).envHead⟩))
    ∧ (tk.core = none → tk.gang = none → tk.life = .parked → (tk.waits ≠ [] ∨ tk.fetches ≠ []) → (∀ i ∈ tk.waits, i ∉ s.heldBy id) →
        (∀ p ∈ tk.fetches, ∀ k, tk.lastCore = some k → s.asked (s.clu k) p = false) → tk.lastCore.isSome = true →
        Completes (.taskPark id) s (fun t => t.tasks.find id = some { tk with life := .queued, waits := [], fetches := [], since := s.now }))
    ∧ (∀ g, tk.core = none → tk.gang = some g → (s.tasks.map (·.1)).Nodup →
        (∀ m ∈ s.gangOf g, m.2.life = .parked ∧ (∀ i ∈ m.2.waits, i ∉ s.heldBy m.1)
          ∧ ∀ p ∈ m.2.fetches, ∀ k, m.2.lastCore = some k → m.2.lastCore.isSome = true ∧ s.asked (s.clu k) p = false) →
        (∀ m ∈ s.gangOf g, m.2.lastCore.isSome = true) → (∃ m ∈ s.gangOf g, m.2.waits ≠ [] ∨ m.2.fetches ≠ []) →
        Completes (.taskPark id) s (fun t => ∀ m ∈ s.gangOf g,
          t.tasks.find m.1 = some { m.2 with life := .queued, waits := [], fetches := [], since := s.now })))

/-- trap, resm, kill, kill.dom, prmt, plbw, plbi, plbi.dom, wpt and auds act on their targets as R434 to R447 say: Where the
word may issue in a context with the privilege: an operand that names no context, or no worker core, of this package
raises PROTECTION. trap freezes the running context with the cause IMM[7:0]; resm makes a frozen one run again, for one
packet under .st, on its core or in its frame, unless its fault event still waits at its core (log 30). kill ends the
task of a lead, or a helper, and holds until every router's sweep has ended; kill.dom does so for every task of the
package that GS selects, and for tenant 0 does nothing. prmt begins a switch of the core's task and holds until it has
left. plbw writes entry IMM[5:0], plbi clears its V, plbi.dom the V of each entry of a selected domain, on the core
named or, with ZERO, on all of the quadrant. wpt arms or disarms home watchpoint IMM[1:0]; auds sets K and EN of the
clusters' auditors, or raises ILLEGAL above 16. That trap freezes its target at once, and that plbw, plbi, plbi.dom, wpt
and auds are acknowledged at once, is the model's choice (log 30). (R434, R435, R437, R438, R439, R440, R441, R442,
R443, R446, R447) -/
def Obligations.SystemInstructions : Prop :=
  ∀ (f : Fields) (s : State),
    let x := s.gval f f.a
    let gb := s.gval f f.b
    let k : CoreId := ⟨bitsOf x 59 51, bitsOf x 50 49, bitsOf x 48 39⟩
    let b := bitsOf x 38 35
    let named : Prop := bitsOf x 63 60 = 13 ∧ bitsOf x 34 16 = 0 ∧ k.pkg = s.cur.core.pkg ∧ s.isWorker k = true
    let c : CtxId := ⟨k, b⟩
    let p := s.cur.core.pkg
    let meant (j : CoreId) : Prop := if f.a = .zero then j ∈ s.workerCores p ∧ s.quad j = s.quad s.cur.core else j = k
    let holds (i : Instr) (P : State → Prop) : Prop :=
      ∃ t, exec i s = .next t ∧ (s.pk.phase ≠ .effect → t.pk.verdict = .hold ∧ P t)
    let still (t : State) : Prop := t.mem = s.mem
    let flooding (t : State) : Prop := (∃ h, t.me.hold = some h ∧ h.kind = .own) ∧ (t.pkg p).kills.length = (s.pkg p).kills.length + 1
    let confirmed : Prop := ∃ h w, s.me.hold = some h ∧ w ∈ (s.pkg p).kills ∧ w.ids = h.ids ∧ 4096 ≤ w.swept.length
    (∀ i ∈ [(.trap f : Instr), .resm f, .kill f], ready i f s = true → ¬(named ∧ b ≤ 10) → Faults i s 5 ⟨0x0A, 0, s.myPc⟩)
    ∧ (∀ i ∈ [(.plbw f : Instr), .plbi f, .plbiDom f, .auds f], ready i f s = true → f.a ≠ .zero → ¬named →
        Faults i s 5 ⟨0x0A, 0, s.myPc⟩)
    ∧ (ready (.prmt f) f s = true → ¬named → Faults (.prmt f) s 5 ⟨0x0A, 0, s.myPc⟩)
    ∧ (named → b ≤ 10 → k ≠ s.cur.core →
      (ready (.trap f) f s = true → Completes (.trap f) s (fun t => t.mem = s.mem ∧ t.me = s.me
        ∧ ((s.ctx c).life = .running → (t.ctx c).life = .frozen ∧ (t.ctx c).cause = f.imm.toNat % 256 ∧ (t.ctx c).g = (s.ctx c).g
            ∧ (t.ctx c).pcq0 = (s.ctx c).pcq0)
        ∧ ((s.ctx c).life ≠ .running → t.ctx c = s.ctx c)))
      ∧ (ready (.resm f) f s = true →
        (s.eventWaits c = true → Completes (.resm f) s (OnlyPacket s))
        ∧ ((s.ctx c).life = .frozen → s.eventWaits c = false → Completes (.resm f) s (fun t => t.mem = s.mem ∧ (t.ctx c).life = .running
          ∧ (t.ctx c).stepOnce = f.mod0 ∧ (t.ctx c).g = (s.ctx c).g ∧ (t.ctx c).pcq0 = (s.ctx c).pcq0 ∧ (t.ctx c).afr = (s.ctx c).afr))
        ∧ (∀ id tk fr, (s.ctx c).life ≠ .frozen → s.eventWaits c = false → s.tasks = [(id, tk)] → tk.frame = some fr → tk.lastCore = some k →
            (fr.ctx b).life = .frozen → Completes (.resm f) s (fun t => t.mem = s.mem ∧ ∃ u fr', t.tasks.find id = some u
              ∧ u.frame = some fr' ∧ (fr'.ctx b).life = .running ∧ (fr'.ctx b).stepOnce = f.mod0
              ∧ ((∀ n, n ≠ b → (fr.ctx n).life ≠ .frozen) → tk.life = .parked → tk.waits = [] → tk.fetches = [] → (fr.ctxs.map (·.1)).Nodup →
                  u.life = .queued))))
      ∧ (ready (.kill f) f s = true →
        (∀ id, s.me.hold = none → (s.core k).task = some id → partHere s k = true → (s.ctx ⟨k, 0⟩).life ≠ .free →
            tenantOf (s.ctx ⟨k, 0⟩).domain ≠ 0 →
            holds (.kill f) (fun t => ((∀ e ∈ s.copies, e.2.flying = []) → still t) ∧ flooding t ∧ (b = 0 → t.tasks.find id = none ∧ (t.core k).task = none)
              ∧ (b ≠ 0 → (t.ctx c).life = .free)))
        ∧ (s.me.hold.isSome = true → ¬confirmed → Stays (.kill f) s .hold)
        ∧ (confirmed → Completes (.kill f) s (fun t => t.me = { s.me with hold := none } ∧ t.tasks = s.tasks ∧ t.mem = s.mem))))
    ∧ (ready (.killDom f) f s = true →
      (bitsOf gb 15 8 = 0 → s.me.hold = none → Completes (.killDom f) s (OnlyPacket s))
      ∧ (bitsOf gb 15 8 ≠ 0 → s.me.hold = none → (s.tasks.map (·.1)).Nodup → (∀ e ∈ s.tasks, e.2.core ≠ some s.cur.core) →
        s.myTask = none → holds (.killDom f) (fun t => ((∀ e ∈ s.copies, e.2.flying = []) → still t) ∧ flooding t
          ∧ (∀ e ∈ s.tasks, e.2.pkg = p → selects gb (s.taskDomain e.1 e.2) = true → t.tasks.find e.1 = none)
          ∧ (∀ e ∈ s.tasks, (e.2.pkg ≠ p ∨ selects gb (s.taskDomain e.1 e.2) = false) → (t.tasks.find e.1).isSome = true)))
      ∧ (bitsOf gb 15 8 ≠ 0 → s.me.hold.isSome = true → ¬confirmed → Stays (.killDom f) s .hold)
      ∧ (confirmed → Completes (.killDom f) s (fun t => t.me = { s.me with hold := none } ∧ t.tasks = s.tasks ∧ t.mem = s.mem)))
    ∧ (ready (.prmt f) f s = true → named →
      (∀ id tk, s.me.hold = none → (s.core k).task = some id → s.tasks.find id = some tk → tk.core = some k → tk.gang = none →
          (s.core k).switch = none → k ≠ s.cur.core → holds (.prmt f) (fun t => still t ∧ (t.core k).switch = some ⟨[], .prmt, s.now, (s.tc k).matrixHead, (s.tc k).envHead⟩
            ∧ ∃ h, t.me.hold = some h ∧ h.ids = [id, tk.starts]))
      ∧ (∀ h id tk, s.me.hold = some h → (s.core k).task = some id → s.tasks.find id = some tk → h.ids = [id, tk.starts] → Stays (.prmt f) s .hold)
      ∧ ((s.me.hold = none ∧ (s.core k).task = none) ∨ (∃ h id n, s.me.hold = some h ∧ h.ids = [id, n]
            ∧ ((s.core k).task ≠ some id ∨ ∃ tk, s.tasks.find id = some tk ∧ tk.starts ≠ n)) →
          Completes (.prmt f) s (fun t => OnlyMyCore s t ∧ t.me = { s.me with hold := none })))
    ∧ ((f.a ≠ .zero → named) →
      let n := f.imm.toNat % 64
      let others (t : State) : Prop := t.mem = s.mem ∧ (∀ j, ¬meant j → (t.core j).plb = (s.core j).plb)
      (ready (.plbw f) f s = true → Completes (.plbw f) s (fun t => others t ∧ ∀ j, meant j → ∃ w, (t.core j).plb.find n = some (w, s.gval f f.c &&& 0xFFFFFF000000007F#64)
          ∧ (16 ≤ bitsOf gb 5 0 → bitsOf gb 5 0 ≤ 47 → w.toNat = gb.toNat / 2 ^ bitsOf gb 5 0 * 2 ^ bitsOf gb 5 0 + bitsOf gb 5 0)
          ∧ ∀ m, m ≠ n → (t.core j).plb.find m = (s.core j).plb.find m))
      ∧ (ready (.plbi f) f s = true → Completes (.plbi f) s (fun t => others t ∧ ∀ j, meant j → ∀ m, (t.core j).plb.find m
          = if m = n then ((s.core j).plb.find n).map (fun e => (e.1, e.2 &&& ~~~ 0x40#64)) else (s.core j).plb.find m))
      ∧ (ready (.plbiDom f) f s = true → Completes (.plbiDom f) s (fun t => others t ∧ ∀ j, meant j → ∀ m, (t.core j).plb.find m
          = ((s.core j).plb.find m).map (fun e => if selects gb (BitVec.ofNat 16 (bitsOf e.2 63 48)) then (e.1, e.2 &&& ~~~ 0x40#64) else e)))
      ∧ (ready (.auds f) f s = true → (16 < bitsOf gb 4 0 → Faults (.auds f) s 5 ⟨0x01, 0, s.myPc⟩)
        ∧ (bitsOf gb 4 0 ≤ 16 → Completes (.auds f) s (fun t => t.mem = s.mem ∧ t.me = s.me
          ∧ ∀ j, meant j → t.audit (s.clu j) = { s.audit (s.clu j) with k := bitsOf gb 4 0, en := bitAt gb 8 }))))
    ∧ (ready (.wpt f) f s = true → Completes (.wpt f) s (fun t => t.mem = s.mem ∧ t.me = s.me ∧
        let n := f.imm.toNat % 4
        let len := 16 * 4 ^ bitsOf gb 1 0
        (t.pkg p).watches.find n = (if bitAt gb 2 then some ⟨bitsOf x 55 0 / len * len, len, s.quad s.cur.core⟩ else none)
        ∧ ∀ m, m ≠ n → (t.pkg p).watches.find m = (s.pkg p).watches.find m))

/-- xlti drops translations behind a fence and waits for the accesses made through them; pgok sends its token behind a
release: Where the word may issue: a fault in the asynchronous record freezes both instructions as a fence. xlti raises
ILLEGAL for a count outside 1 to 2^18, and PROTECTION in a pager's context for a region that its domain does not serve;
else it holds until the earlier writes are done at its reach, drops every translation of its pages in the slices of its
reach and no other, holds until the accesses translated through them are over, and completes. pgok raises PROTECTION in
a pager's context for a live token of a region that it does not serve; else it holds until the earlier writes are done
at .sys, and completes with its token on the way to its slice. (R420, R424, R425, R427, R438, R444, R445) -/
def Obligations.TranslationControl : Prop :=
  ∀ (f : Fields) (s : State),
    let page := (s.gval f f.a).toNat / 65536
    let n := (s.gval f f.b).toNat
    let mine (te : TlbEntry) : Prop := page ≤ te.page ∧ te.page < page + n
    let dropped (t : State) : Prop := t.mem = s.mem ∧ ∀ l : CluId,
      if f.reachCode = 4 ∨ l.pkg = s.cur.core.pkg then ∀ te, te ∈ (t.slice l).tlb ↔ te ∈ (s.slice l).tlb ∧ ¬mine te
      else t.slice l = s.slice l
    let holds (i : Instr) (P : State → Prop) : Prop := ∃ t, exec i s = .next t ∧ (s.pk.phase ≠ .effect → t.pk.verdict = .hold ∧ P t)
    (∀ r, ∀ i ∈ [(.xlti f : Instr), .pgok f], ready i f s = true → s.me.afr = some r → Faults i s 2 ⟨r.cause, 9, r.ea⟩)
    ∧ (ready (.xlti f) f s = true → s.me.afr = none →
      ((n = 0 ∨ 2 ^ 18 < n) → Faults (.xlti f) s 5 ⟨0x01, 0, s.myPc⟩)
      ∧ (1 ≤ n → n ≤ 2 ^ 18 →
        (s.pagerContext = true → s.servesAll page n = false → Faults (.xlti f) s 5 ⟨0x0A, 0, s.myPc⟩)
        ∧ (s.pagerContext = false ∨ s.servesAll page n = true →
          ((∀ h, s.me.hold = some h → h.kind ≠ .own) →
            (s.writesDone f.reachCode = true → s.xltiHeld f = [] → Completes (.xlti f) s (fun t => dropped t
              ∧ t.me = { s.me with hold := none }))
            ∧ (s.writesDone f.reachCode = true → s.xltiHeld f ≠ [] → holds (.xlti f) (fun t => dropped t
              ∧ t.me.hold = some ⟨.own, s.now, s.xltiHeld f, none⟩))
            ∧ (s.writesDone f.reachCode = false → holds (.xlti f) (fun t => t.me.hold.isSome = true ∧ t.slices = s.slices)))
          ∧ (∀ h, s.me.hold = some h → h.kind = .own →
            ((∀ id ∈ h.ids, id ∉ s.xltiHeld f) → Completes (.xlti f) s (fun t => dropped t ∧ t.me = { s.me with hold := none }))
            ∧ ((∃ id ∈ h.ids, id ∈ s.xltiHeld f) → Stays (.xlti f) s .hold)))))
    ∧ (ready (.pgok f) f s = true → s.me.afr = none →
      (∀ w, s.pagerContext = true → s.tokenWalk (s.gval f f.a) = some w → s.serves (bitsOf (s.gval f f.a) 63 55) w.page = false →
        Faults (.pgok f) s 5 ⟨0x0A, 0, s.myPc⟩)
      ∧ (s.pagerContext = false ∨ (∀ w, s.tokenWalk (s.gval f f.a) = some w → s.serves (bitsOf (s.gval f f.a) 63 55) w.page = true) →
        (s.writesDone 4 = true → Completes (.pgok f) s (fun t => t.tokens = s.tokens ++ [s.gval f f.a] ∧ t.me = { s.me with hold := none }
          ∧ t.mem = s.mem))
        ∧ (s.writesDone 4 = false → holds (.pgok f) (fun t => t.me.hold.isSome = true ∧ t.tokens = s.tokens))))

/-- Kills flood and are swept; events reach their ring; sweepers count and poison; auditors replay; rows and cores are
replaced: KILL_FLOOD marks a router next to a reached one; after T_sweep its sweep is over, and with the last sweep the
ended parties' stores on their way are gone. FAULT_EVENT_DELIVER fills the slot at TAIL of the supervisor's ring6 with
the oldest event. A visit encodes its granule in the code that STRONG names and marks an overdue line OD. Flipped bits
are judged by the code the granule held (SECDED: one of each 64-bit word corrected, two detected; strong: two of the
granule corrected, three detected): a corrected error counts in CE and is reported once when CE passes CETH; an
uncorrectable one counts in UE, and poisons the line or row, or drops a clean copy. ECCR_CLR clears CE and UE;
ECCR_STRONG names the code, clears DONE and changes no granule; REENCODE_DONE sets DONE once every granule holds the
named code, and not before. A row corrected 16 times is replaced while a spare is left. An audit entry replayed is void,
matched or mismatched. REMAP_GO refuses, empties the core, or moves its id to the spare; REMAP_SUP moves a supervisor
role to a spare of its quadrant, or refuses. (R413, R435, R448, R449, R452, R453, R454, R458, R461, R463, R465, R466) -/
def Obligations.ReliabilityEvents : Prop :=
  (∀ (s : State) (pkg site : Nat) (w : KillSweep), (s.pkg pkg).kills = [w] →
    (site < 4096 → w.reached.has site = false → w.near site = true → Completes (.killFlood pkg site) s (fun t =>
      (t.pkg pkg).kills = [{ w with reached := w.reached.set site s.now }]))
    ∧ (∀ c, w.reached.find site = some c → site ∉ w.swept → c + 8192 ≤ s.now → Completes (.killSweepExpiry pkg site) s (fun t =>
        (t.pkg pkg).kills = [{ w with swept := site :: w.swept }]
        ∧ (4096 ≤ w.swept.length + 1 → ∀ i ∈ w.strays, t.acc i = none))))
  ∧ (∀ (s : State) (q : QuadId) (e : List Byte) (rest : List (List Byte)), (s.quadEvents q).buffer = e :: rest → e.length = 64 →
    let r := (s.tc (supOf q)).ring 6
    r.z = 64 → r.err = false → r.res = [] → r.tail < r.c → r.slots.length = r.c → r.tag r.tail = .empty → r.base.toNat + 64 * r.c ≤ 2 ^ 19 →
    (s.tc (supOf q)).spad.wf = true → Completes (.faultEventDeliver q) s (fun t =>
      ((t.tc (supOf q)).ring 6).tag r.tail = .full ∧ ((t.tc (supOf q)).ring 6).tail = (r.tail + 1) % r.c
      ∧ (∀ i, i < 64 → (t.tc (supOf q)).spad.byte (r.base.toNat + 64 * r.tail + i) = e.getD i 0)
      ∧ ((s.quadEvents q).held = [] → (t.quadEvents q).buffer = rest)
      ∧ (∀ h hs, (s.quadEvents q).held = h :: hs → (t.quadEvents q).held = hs ∧ (t.quadEvents q).buffer = rest ++ [withSeq (s.quadEvents q).seq h])))
  ∧ (∀ (s : State) (u : RasUnit) (g : Nat) (x : Flips), s.granule u g = true →
    let r := s.rasOf u
    let pl := unitPlace u
    let q : QuadId := ⟨pl.1, pl.2.1, siteQuad pl.2.2⟩
    let strong := (s.codesOf u).holds g
    let line := g / 4
    let corrects := (strong = true ∧ 0 < x.lo + x.hi ∧ x.lo + x.hi ≤ 2) ∨ (strong = false ∧ 0 < x.lo + x.hi ∧ x.lo ≤ 1 ∧ x.hi ≤ 1)
    let detects := (strong = true ∧ x.lo + x.hi = 3) ∨ (strong = false ∧ x.lo ≤ 2 ∧ x.hi ≤ 2 ∧ (x.lo = 2 ∨ x.hi = 2))
    let encoded (t : State) : Prop :=
      (∀ l, u = .slice l → (lineAt (s.slice l).lines line).isSome = true → (t.slice l).codes.holds g = (s.slice l).codes.strong)
      ∧ (∀ p d n k, u = .site p d n → s.coreOfSite p d n = some k → (t.tc k).codes.holds g = (s.tc k).codes.strong)
    (x.lo + x.hi = 0 → Completes (.sweepVisit u g x) s (fun t => t.mem = s.mem ∧ t.poison = s.poison ∧ t.ras = s.ras ∧ encoded t
      ∧ ∀ l, u = .slice l → ∀ e ∈ (s.slice l).lines, e.2.line = line → (∃ x, e.2.classify (s.slack l.pkg) = .overdue x) →
        (e.1, { e.2 with od := true }) ∈ (t.slice l).lines))
    ∧ (s.inStack u g = false → corrects → Completes (.sweepVisit u g x) s (fun t => t.mem = s.mem ∧ t.poison = s.poison ∧ encoded t
        ∧ (t.rasOf u).ce = min (r.ce + 1) 0xFFFF ∧ (t.rasOf u).ue = r.ue
        ∧ (r.ceth < min (r.ce + 1) 0xFFFF → r.reported = false → (s.quadEvents q).buffer.length < 256 → (t.rasOf u).reported = true
            ∧ (t.quadEvents q).buffer.length = (s.quadEvents q).buffer.length + 1)
        ∧ (min (r.ce + 1) 0xFFFF ≤ r.ceth ∨ r.reported = true → t.quads = s.quads)))
    ∧ (s.inStack u g = false → detects → Completes (.sweepVisit u g x) s (fun t => t.mem = s.mem
        ∧ (t.rasOf u).ue = min (r.ue + 1) 0xFFFF ∧ (t.rasOf u).ce = r.ce
        ∧ (∀ l, u = .slice l → (∀ e ∈ (s.slice l).lines, e.2.line = line → e.2.dirty = true) → line ∈ t.poison)
        ∧ (∀ l, u = .slice l → (∀ e ∈ (s.slice l).lines, e.2.line = line → e.2.dirty = false) →
            t.poison = s.poison ∧ ∀ e ∈ (t.slice l).lines, e.2.line ≠ line)
        ∧ (∀ p d n k, u = .site p d n → s.coreOfSite p d n = some k → g / 2 ∈ (t.tc k).poisonRows))))
  ∧ (∀ (s : State) (u : RasUnit) (strong : Bool),
    let r := s.rasOf u
    let all := ∀ g ∈ s.granulesOf u, (s.codesOf u).holds g = r.strong
    Completes (.eccrClr u) s (fun t => t.rasOf u = { r with ce := 0, ue := 0, reported := false } ∧ t.mem = s.mem)
    ∧ Completes (.eccrStrong u strong) s (fun t => t.rasOf u = { r with strong := strong, done := false } ∧ t.mem = s.mem
        ∧ (∀ g, (t.codesOf u).holds g = (s.codesOf u).holds g) ∧ (s.granulesOf u ≠ [] → (t.codesOf u).strong = strong))
    ∧ (r.done = false → all → Completes (.reencodeDone u) s (fun t => t.rasOf u = { r with done := true } ∧ t.mem = s.mem))
    ∧ (r.done = true ∨ ¬all → Stays (.reencodeDone u) s .idle))
  ∧ (∀ (s : State) (l : CluId) (row : Nat), 16 ≤ (s.rasOf (.slice l)).fixes.get row 0 → (s.rasOf (.slice l)).spared.length < Config.spareRows →
    Completes (.l2RowSpare l row) s (fun t => (t.rasOf (.slice l)).spared = row :: (s.rasOf (.slice l)).spared
      ∧ (Config.spareRows ≤ (s.rasOf (.slice l)).spared.length + 1 → (t.rasOf (.slice l)).ret = true) ∧ t.mem = s.mem))
  ∧ (∀ (s : State) (l : CluId),
    let a := s.audit l
    Completes (.auditClr l) s (fun t => t.audit l = { a with samp := 0, skip := 0, void := 0, matched := 0, mism := 0 })
    ∧ (∀ e rest, a.buffer = e :: rest →
      let v := (e.verdict (s.tc e.core)).1
      Completes (.auditReplay l) s (fun t => t.audit l = { a with
        buffer := rest
        void := if v = none then min (a.void + 1) 0xFFFF else a.void
        matched := if v = some true then min (a.matched + 1) 0xFFFF else a.matched
        mism := if v = some false then min (a.mism + 1) 0xFFFF else a.mism })))
  ∧ (∀ (s : State) (p d : Nat),
    let x := s.die p d
    let r := x.remap
    let site := 32 * r.y + r.x
    let spare : Prop := r.y < 32 ∧ r.x < 32 ∧ site ∈ x.spares
    let k : CoreId := ⟨p, d, r.id⟩
    (r.move = none →
      (¬spare ∨ x.workers.has r.id = false ∨ s.frozenOn k = true → Completes (.remapGo p d) s (fun t => (t.die p d).remap.st = 3
        ∧ (t.die p d).workers = x.workers))
      ∧ (spare → x.workers.has r.id = true → s.frozenOn k = false → Completes (.remapGo p d) s (fun t => (t.die p d).remap.st = 1
          ∧ (t.die p d).remap.move = some (r.id, site)
          ∧ ∀ id tk, (s.core k).task = some id → s.tasks.find id = some tk → tk.core = some k → tk.gang = none → (t.core k).switch.isSome = true)))
    ∧ (∀ id dest, r.move = some (id, dest) → (s.core ⟨p, d, id⟩).task = none → (s.core ⟨p, d, id⟩).switch = none →
        let old := s.site ⟨p, d, id⟩
        Completes (.remapGo p d) s (fun t => (t.die p d).workers.find id = some dest ∧ dest ∉ (t.die p d).spares ∧ old ∈ (t.die p d).fused
          ∧ (t.die p d).remap.st = 2 ∧ (t.die p d).remap.move = none ∧ (t.rasOf (.site p d old)).ret = true))
    ∧ (r.move = none → spare → r.id < 4 → siteQuad site = r.id → Completes (.remapSup p d) s (fun t => (t.die p d).sups.find r.id = some site
        ∧ site ∉ (t.die p d).spares ∧ (t.die p d).remap.st = 2 ∧ (t.die p d).workers = x.workers
        ∧ s.site (supOf ⟨p, d, r.id⟩) ∈ (t.die p d).fused ∧ (t.ctx ⟨supOf ⟨p, d, r.id⟩, 0⟩).life = .running
        ∧ (t.ctx ⟨supOf ⟨p, d, r.id⟩, 0⟩).pcq0.pc = 0))
    ∧ (r.move.isSome = true ∨ ¬spare ∨ 4 ≤ r.id ∨ siteQuad site ≠ r.id → Completes (.remapSup p d) s (fun t =>
        (t.die p d).remap.st = 3 ∧ (t.die p d).sups = x.sups)))

/-- Writes to device, package and core registers take effect on their writable fields: SCTL_SNCZ clears SNC and keeps LCHK;
SCTL_LTZ makes every layout tag 0; a 1 written to FAILED clears it with FSTAT's list. GROUP_TABLE_WRITE brings an entry
of I/O die 0, the copy that a write enters, to the other die's copy (that die 0's is written first is the model's
choice, log 10). A register write gives TTBR, PGTBASE, a tenant's valid bit, pool base and size, a quota byte, a word of
an image entry or of a group entry (its writable bits; that a write drops the low 6 bits of BASE and PSTR is the model's
choice, log 39), the next word of a key (the model's choice, log 22), CETH with STRONG, the RW fields of REMAP, and
FWADDR (4 KiB aligned; that a write's low bits are dropped is the model's choice, log 38), FWSIZE and ATTN the value
written; memory is as before. The last three are ignored while ST is FAILED, and ATTN while a report is under way. (R5,
R177, R312, R355, R389, R432, R433, R451, R464, R469) -/
def Obligations.RegisterWriteEvents : Prop :=
  (∀ (s : State) (k : CoreId) (c : CtxId),
    Completes (.sctlSncz k) s (fun t => (t.tc k).sctl = (s.tc k).sctl &&& 1 ∧ (t.tc k).layout = (s.tc k).layout ∧ (t.tc k).spad = (s.tc k).spad)
    ∧ Completes (.sctlLtz k) s (fun t => (t.tc k).layout = [] ∧ (t.tc k).sctl = (s.tc k).sctl ∧ (t.tc k).spad = (s.tc k).spad)
    ∧ Completes (.fstatFailedClear c) s (fun t => bitAt (t.ctx c).spr.fstat 0 = false ∧ (t.ctx c).spr.lost = []
        ∧ t.ctx c = { s.ctx c with spr := { (s.ctx c).spr with fstat := (t.ctx c).spr.fstat, lost := [] } }))
  ∧ (∀ (s : State) (p iodie e : Nat), iodie < 2 → (s.pkg p).groupTable.get (0, e) 0 ≠ (s.pkg p).groupTable.get (1, e) 0 →
    Completes (.groupTableWrite p iodie e) s (fun t => (t.pkg p).groupTable.get (1, e) 0 = (s.pkg p).groupTable.get (0, e) 0
      ∧ (t.pkg p).groupTable.get (0, e) 0 = (s.pkg p).groupTable.get (0, e) 0))
  ∧ (∀ (s : State) (v : W64) (p n e w : Nat) (l : CluId) (u : RasUnit),
    let x := v.toNat
    (∀ r ∈ [((.ttbr p : DevReg), x), (.pgtbase p, x), (.tenantValid p n, x % 2), (.framePoolBase p n, x), (.framePoolSize p n, x),
        (.quota l n, x % 256)], Completes (.registerWrite r.1 v) s (fun t => t.regWord r.1 = r.2 ∧ t.mem = s.mem))
    ∧ (w < 8 → Completes (.registerWrite (.imageWord p n e w) v) s (fun t => t.regWord (.imageWord p n e w) = x
        ∧ ∀ j, j < 8 → j ≠ w → t.regWord (.imageWord p n e j) = s.regWord (.imageWord p n e j)))
    ∧ (w < 16 → Completes (.registerWrite (.groupTableWord p e w) v) s (fun t => t.regWord (.groupTableWord p e w)
          = (if w < 8 then x else if w = 8 ∨ w = 9 then x / 64 * 64 else if w = 10 then x &&& 0x0FFFFF03 else 0)
        ∧ ∀ j, j < 16 → j ≠ w → t.regWord (.groupTableWord p e j) = s.regWord (.groupTableWord p e j)))
    ∧ Completes (.registerWrite (.memoryKey p n) v) s (fun t => (t.pkg p).memKeys.find n
        = some ((s.pkg p).memKeys.get n 0 <<< 64 ||| BitVec.setWidth 512 v))
    ∧ Completes (.registerWrite (.linkKey p n e) v) s (fun t => (t.pkg p).linkKeys.find (n, e)
        = some ((s.pkg p).linkKeys.get (n, e) 0 <<< 64 ||| BitVec.setWidth 256 v))
    ∧ Completes (.registerWrite (.ceth u) v) s (fun t => (t.rasOf u).ceth = x / 2 ^ 16 % 2 ^ 16 ∧ (t.rasOf u).strong = x.testBit 0
        ∧ (t.rasOf u).done = false ∧ (t.rasOf u).ce = (if x.testBit 3 then 0 else (s.rasOf u).ce)
        ∧ (t.rasOf u).ue = (if x.testBit 3 then 0 else (s.rasOf u).ue))
    ∧ (x.testBit 0 = false → Completes (.registerWrite (.remap p n) v) s (fun t => (t.die p n).remap = { (s.die p n).remap with
        id := x / 2 ^ 32 % 2 ^ 10, y := x / 2 ^ 22 % 2 ^ 6, x := x / 2 ^ 16 % 2 ^ 6, sup := x.testBit 1 }))
    ∧ Completes (.registerWrite (.fwaddr p) v) s (fun t => (t.pkg p).fwaddr = if (s.pkg p).st = .failed then (s.pkg p).fwaddr else x / 4096 * 4096)
    ∧ Completes (.registerWrite (.fwsize p) v) s (fun t => (t.pkg p).fwsize = if (s.pkg p).st = .failed then (s.pkg p).fwsize else x)
    ∧ (w < 4 → Completes (.registerWrite (.attn p w) v) s (fun t => t.regWord (.attn p w)
        = if (s.pkg p).st = .failed ∨ (s.pkg p).attst = 1 then s.regWord (.attn p w) else x)))

/-- Power-up, PKGID and FWGO, the fetch and its verdict, the flood, the roles, the load and READY follow R469 to R472:
POWER_UP brings on the lowest slot without power, IDLE, its dies' boot cores as fused. PKGID is written in IDLE only;
FWGO of 1 in IDLE starts the fetch, under that id where no package in power has it (else each keeps its slot as its
name, the model's choice, log 32). A bus error gives CODE 1, a header that does not match 2, a wrong signature 3; the
fourth verified die starts the floods. A router takes coordinates, parent and hop count from the first packet and sends
on; later packets change nothing. A site reports GOOD when unfused and self-tested. A flood not over after 2^16 cycles
gives CODE 4; fewer than 996 good sites 5. Supervisors, 992 workers and spares are assigned in raster order. Each good
site, a spare one too, writes the core part at offset 0 and acknowledges; with the boot core's acknowledgement a die is
done, and the fourth makes the package READY, its supervisors running. The model's choice: supervisors begin in domain 0
at PC 0, and the places of the header's fields (log 15); POWER_UP takes the lowest slot (log 32). (R467, R469, R470,
R471, R472) -/
def Obligations.BootSequence : Prop :=
  (∀ (s : State) (bootCores : List Nat) (p : Nat), p < 512 → (s.pkg p).powered = false → (∀ j, j < p → (s.pkg j).powered = true) →
    (∀ n ∈ bootCores, n < 1024) → Completes (.powerUp bootCores) s (fun t => (t.pkg p).powered = true ∧ (t.pkg p).st = .idle
      ∧ (t.pkg p).code = 0 ∧ (t.pkg p).pkgid = 0 ∧ (t.pkg p).pwrlim = 2400000 ∧ (∀ d, d < 4 → (t.die p d).bootCore = bootCores.getD d 0)
      ∧ (∀ j, j ≠ p → t.pkg j = s.pkg j) ∧ t.mem = s.mem))
  ∧ (∀ (s : State) (p : Nat) (v : W64), (s.pkg p).powered = true → (s.pkg p).st ≠ .failed →
    let k := s.pkg p
    Completes (.pkgidWrite p v) s (fun t => t.pkg p = if k.st = .idle then { k with pkgid := v.toNat % 512 } else k)
    ∧ (v = 1 → k.st = .idle → k.pkgid = p ∨ (s.pkg k.pkgid).powered = false → Completes (.fwgo p v) s (fun t =>
        t.pkg k.pkgid = { k with st := .fetch } ∧ (k.pkgid ≠ p → (t.pkg p).powered = false)))
    ∧ (v = 1 → k.st = .idle → k.pkgid ≠ p → (s.pkg k.pkgid).powered = true → Completes (.fwgo p v) s (fun t =>
        t.pkg p = { k with st := .fetch } ∧ t.mem = s.mem ∧ ∀ j, j ≠ p → t.pkg j = s.pkg j))
    ∧ (v ≠ 1 ∨ k.st ≠ .idle → Completes (.fwgo p v) s (fun t => t.pkgs = s.pkgs)))
  ∧ (∀ (s : State) (p d : Nat), (s.pkg p).st = .fetch ∨ (s.pkg p).st = .verify → d < 4 → (s.die p d).verified = none →
    let bs := s.hostImage p
    let fails (busError : Bool) (code : Nat) : Prop := Completes (.firmwareFetchDone p d busError) s (fun t =>
      (t.pkg p).st = .failed ∧ (t.pkg p).code = code)
    fails true 1
    ∧ (fwHeader bs = none → fails false 2)
    ∧ (∀ h, fwHeader bs = some h →
      let signed := Config.signatureOk (h.digest bs ++ (bs.drop h.signature).take sigBytes)
      (signed = false → fails false 3)
      ∧ (signed = true → (∃ d', d' < 4 ∧ d' ≠ d ∧ (s.die p d').verified ≠ some true) → Completes (.firmwareFetchDone p d false) s (fun t =>
          (t.pkg p).st = .verify ∧ (t.die p d).image = some bs ∧ (t.die p d).verified = some true ∧ (t.pkg p).digest = (s.pkg p).digest))
      ∧ (signed = true → (∀ d', d' < 4 → d' ≠ d → (s.die p d').verified = some true) → Completes (.firmwareFetchDone p d false) s (fun t =>
          (t.pkg p).st = .discover ∧ (t.pkg p).digest = h.digest bs ∧ ∀ d', d' < 4 → (t.die p d').marks.find (s.die p d').bootCore
            = some ⟨siteX (s.die p d').bootCore, siteY (s.die p d').bootCore, none, 0⟩ ∧ (t.die p d').floodSince = s.now))))
  ∧ (∀ (s : State) (p d site : Nat) (port : Dir), (s.pkg p).st = .discover →
    let x := s.die p d
    (∀ f, x.flood = [f] → f.site = site → f.port = port →
      (x.marks.has site = false → Completes (.discoveryPacket p d site port) s (fun t => ∃ m, (t.die p d).marks.find site = some m
        ∧ m.parent = some port ∧ m.hops = f.hops + 1
        ∧ (m.x, m.y) = (match port with | .w => (f.x + 1, f.y) | .e => (f.x - 1, f.y) | .s => (f.x, f.y + 1) | .n => (f.x, f.y - 1))
        ∧ ∀ g, g ∈ (t.die p d).flood ↔ ∃ dir, dir ≠ port ∧ meshNext site dir = some g.site
            ∧ g = ⟨g.site, dir.opposite, siteX site, siteY site, f.hops + 1⟩))
      ∧ (x.marks.has site = true → Completes (.discoveryPacket p d site port) s (fun t => (t.die p d).marks = x.marks
          ∧ (t.die p d).flood = [])))
    ∧ (∀ ok, x.reportDue site = true → Completes (.discoveryReport p d site ok) s (fun t =>
        (t.die p d).reports.find site = some (ok && !x.fused.contains site)))
    ∧ (d < 4 → x.floodOver = false → x.floodSince + 2 ^ 16 < s.now → Completes (.discoveryTimeout p d) s (fun t =>
        (t.pkg p).st = .failed ∧ (t.pkg p).code = 4))
    ∧ (d < 4 → x.floodOver = true → x.workers = [] →
      let good := x.goodSites
      let isSup (n : Nat) : Bool := good.find? (fun m => siteQuad m == siteQuad n) == some n
      let rest := good.filter (fun n => !isSup n)
      (good.length < 996 → Completes (.roleAssignment p d) s (fun t => (t.pkg p).st = .failed ∧ (t.pkg p).code = 5))
      ∧ (996 ≤ good.length → Completes (.roleAssignment p d) s (fun t =>
          (∀ q, q < 4 → (t.die p d).sups.find q = good.find? (fun n => siteQuad n == q))
          ∧ (∀ i, (t.die p d).workers.find i = if i < 992 then rest[i]? else none) ∧ (t.die p d).spares = rest.drop 992
          ∧ ((∀ d', d' < 4 → d' ≠ d → (s.die p d').workers ≠ []) → (t.pkg p).st = .load)))))
  ∧ (∀ (s : State) (p d : Nat), (s.pkg p).st = .load →
    let x := s.die p d
    (∀ site k, x.marks.has site = true → site ∉ x.acks → (∀ n ∈ x.children site, n ∈ x.acks) → s.coreOfSite p d site = some k →
        (s.tc k).spad = [] → Completes (.imageMulticastAck p d site) s (fun t => site ∈ (t.die p d).acks
          ∧ ∀ o, (t.tc k).spad.byte o = x.corePart.getD o 0))
    ∧ (∀ site, x.marks.has site = true → site ∉ x.acks → (∀ n ∈ x.children site, n ∈ x.acks) → s.coreOfSite p d site = none →
        site ∈ x.spares → x.spareCores.has site = false → Completes (.imageMulticastAck p d site) s (fun t => site ∈ (t.die p d).acks
          ∧ ∃ c, (t.die p d).spareCores.find site = some c ∧ ∀ o, c.spad.byte o = x.corePart.getD o 0))
    ∧ (d < 4 → x.ok = false → x.bootCore ∈ x.acks → Completes (.dieBootDone p d) s (fun t => (t.die p d).ok = true
        ∧ (∀ q, q < 4 → (t.ctx ⟨supOf ⟨p, d, q⟩, 0⟩).life = .running ∧ (t.ctx ⟨supOf ⟨p, d, q⟩, 0⟩).pcq0.pc = 0
            ∧ (t.ctx ⟨supOf ⟨p, d, q⟩, 0⟩).domain = 0)
        ∧ ((∀ d', d' < 4 → d' ≠ d → (s.die p d').ok = true) → (t.pkg p).st = .ready)
        ∧ ((∃ d', d' < 4 ∧ d' ≠ d ∧ (s.die p d').ok = false) → (t.pkg p).st = .load))))

/-- Power limits, reports, the host's accesses and snoops, the loss of a slot and the return of a peer: PWRLIM holds the
value written, clamped to its range. A throttle sets an island's frequency and voltage, at every site of it (island = 8
times the die, plus 2 times the quadrant, plus one half's bit); what PWRNOW then reads is left open. ATTGO of 1 starts a
report, which ends with the nonce and the digest as they stood. A write of the host reaches memory under tenant 0's key
outside the firmware region and is discarded inside it; a read changes no byte. A snoop of a line of host memory drops
the device's copies or makes them clean (a line that is still being filled is no copy yet). A slot that loses power
loses its HBM, its cores and its tasks, and no other package's. A failed peer that is restored has failed no more. The
model's choice: the lost bytes of a slot's HBM read as 0 (log 3); which addresses the firmware region has (log 32); a
line whose fill is outstanding is no copy yet, and a snoop leaves it (log 8). (R10, R264, R385, R432, R468, R469, R470,
R474, R475) -/
def Obligations.PowerAttestationAndHost : Prop :=
  (∀ (s : State) (p : Nat) (v : W64), (s.pkg p).powered = true → (s.pkg p).st ≠ .failed →
    Completes (.pwrlimWrite p v) s (fun t => (t.pkg p).pwrlim = max 600000 (min 2400000 (v.toNat % 2 ^ 32)) ∧ t.mem = s.mem)
    ∧ (v = 1 → (s.pkg p).attst ≠ 1 → Completes (.attgo p v) s (fun t => (t.pkg p).attst = 1
        ∧ (t.pkg p).attHeld = some ((s.pkg p).attn, s.bootWord p)))
    ∧ (v ≠ 1 ∨ (s.pkg p).attst = 1 → Completes (.attgo p v) s (fun t => t.pkgs = s.pkgs)))
  ∧ (∀ (s : State) (p island mhz mv : Nat), (s.pkg p).powered = true → island < 32 → mhz < 65536 → 300 ≤ mv → mv ≤ 550 →
    Completes (.powerThrottle p island mhz mv) s (fun t => (t.pkg p).islands.find island = some (mhz, mv)
      ∧ (∀ d n, 8 * d + 2 * siteQuad n + siteY n / 8 % 2 = island → (t.pkg p).clockAt d n = some (mhz, mv)) ∧ (t.pkg p).pwrnow < 2 ^ 32
      ∧ (t.pkg p).pwrlim = (s.pkg p).pwrlim ∧ t.mem = s.mem))
  ∧ (∀ (s : State) (p : Nat) (attn : Vector W64 4) (boot : Nat), (s.pkg p).attst = 1 → (s.pkg p).attHeld = some (attn, boot) →
    (s.pkg p).digest.length = 64 → Completes (.attestDone p) s (fun t => (t.pkg p).attst = 2 ∧ (t.pkg p).attHeld = none
      ∧ ((t.pkg p).attrep.drop 4).take 2 = leBytes 2 (s.pkg p).pkgid ∧ ((t.pkg p).attrep.drop 6).take 2 = leBytes 2 boot
      ∧ ((t.pkg p).attrep.drop 8).take 64 = (s.pkg p).digest
      ∧ ((t.pkg p).attrep.drop 72).take 32 = attn.toList.flatMap (fun w => leBytes 8 w.toNat)))
  ∧ (∀ (s : State) (p line : Nat) (inval : Bool), (s.pkg p).powered = true → natBits (64 * line) 44 3 = 7 →
    Completes (.cxlCacheHostSnoop p line inval) s (fun t => t.mem = s.mem
      ∧ ∀ l : CluId, l.pkg = p → ∀ e ∈ (t.slice l).lines, e.2.line = line → if inval then e.2.filling = true else e.2.dirty = false))
  ∧ (∀ (s : State) (p off : Nat), (s.pkg p).powered = true → s.owned = [] → s.parts = [] →
    (∀ n, off + n ≤ 768 * 2 ^ 30 → Completes (.hostCxlMemAccess p off (.read n)) s (fun t => t.mem = s.mem ∧ t.keys = s.keys
      ∧ ∀ x, off ≤ x → x < off + n → inFirmware (64 * ((p * 2 ^ 47 + x) / 64)) = false → (p * 2 ^ 47 + x) / 64 ∈ t.hostHeld))
    ∧ (∀ bs : List Byte, bs ≠ [] → off + bs.length ≤ 768 * 2 ^ 30 → off % 64 + bs.length ≤ 64 → s.mem.wf = true → (s.pkg p).watches = [] → p < 512 →
        let pa := p * 2 ^ 47 + off
        (inFirmware pa = false → Completes (.hostCxlMemAccess p off (.write bs)) s (fun t => Written s t 0 pa bs))
        ∧ (inFirmware pa = true → Completes (.hostCxlMemAccess p off (.write bs)) s (fun t => t.mem = s.mem ∧ t.keys = s.keys))))
  ∧ (∀ (s : State) (p at_ : Nat),
    ((s.pkg at_).powered = true → p ∈ (s.pkg at_).failed → Completes (.peerRestore at_ p) s (fun t => p ∉ (t.pkg at_).failed
      ∧ t.mem = s.mem))
    ∧ ((s.pkg p).powered = true → Completes (.slotPowerLoss p) s (fun t => (t.pkg p).powered = false
        ∧ (∀ j, j ≠ p → t.pkg j = s.pkg j) ∧ (∀ k : CoreId, k.pkg = p → t.core k = Core.fresh) ∧ (∀ k : CoreId, k.pkg ≠ p → t.core k = s.core k)
        ∧ (∀ id tk, t.tasks.find id = some tk → tk.pkg ≠ p)
        ∧ (∀ a, natBits a 47 9 = p → natBits a 44 3 = 0 → t.mem.byte a = 0)
        ∧ (s.mem.wf = true → ∀ a, natBits a 47 9 ≠ p ∨ natBits a 44 3 ≠ 0 → t.mem.byte a = s.mem.byte a))))

/-- What keeps any instruction from issuing: the helper and privilege checks, a false guard, poison, a stall: For every
instruction: a helper's class M word, link selector or v register above v7 freezes it with ILLEGAL_HELPER_OP; a
privileged instruction in a context without privilege with PRIVILEGE, but for xlti and pgok in a pager's context; both
whatever the guard holds, with the PC of the instruction in the address field. A false guard leaves everything but the
packet's own record. A source in poison, with a fault in the asynchronous record, freezes it with that cause, ASYNC and
POISON marked, and that address. With no freeze pending, a word that stalls waits and changes nothing. (R26, R27, R28,
R30, R78, R411, R420) -/
def Obligations.ChecksBeforeIssue : Prop :=
  ∀ (i : Instr) (f : Fields) (s : State), i.fields = some f →
    let cl := (i.key.getD ⟨0, 0, 0⟩).cl
    let op := (i.key.getD ⟨0, 0, 0⟩).op
    let helperOp : Prop := s.cur.ctx ≠ 0 ∧ (cl = 2 ∨ namesLink f = true ∨ ∃ n ∈ vectorNames i.shape f, 7 < n.toNat)
    let privileged : Prop := s.privileged = true ∨ ((op = 0x36 ∨ op = 0x37) ∧ s.pagerContext = true)
    let guardClean : Prop := s.me.poisoned (Dest.p f.guard.p) = false ∧ (f.guard.p ≠ 0 → s.me.pending (Dest.p f.guard.p) = false)
    (helperOp → Faults i s 1 ⟨0x06, 0, s.myPc⟩)
    ∧ (¬helperOp → cl = 4 → 0x30 ≤ op → ¬privileged → Faults i s 1 ⟨0x14, 0, s.myPc⟩)
    ∧ (rankOk i f s = true → guardClean → s.guardTrue f = false →
        ∃ t, exec i s = .next t ∧ OnlyPacket s t ∧ (s.pk.phase ≠ .effect → t.pk.verdict = .idle))
    ∧ (∀ r, rankOk i f s = true → s.me.afr = some r →
        (s.me.poisoned (Dest.p f.guard.p) = true → Faults i s 2 ⟨r.cause, 5, r.ea⟩)
        ∧ (guardClean → s.guardTrue f = true → (sources i.shape f).any s.me.poisoned = true → Faults i s 2 ⟨r.cause, 5, r.ea⟩))
    ∧ (rankOk i f s = true → s.me.afr = none → s.engineFreeze = none → f.guard.p ≠ 0 → s.me.pending (Dest.p f.guard.p) = true →
        Stays i s .stall)
    ∧ (rankOk i f s = true → s.me.afr = none → s.engineFreeze = none → s.guardTrue f = true →
        (f.guard.p ≠ 0 → s.me.pending (Dest.p f.guard.p) = false) → wordStalls i.shape f s = true → Stays i s .stall)

/-- Taking a fault freezes that context alone, saves its cause, and sends the fault packet of R414: A fault taken by a
running context freezes it with the cause; its registers, PC chain, in-flight records, pending operations, scope stack
and asynchronous record are as before, and so are every other context, every task and all of memory. The fault packet
enters the buffer of its quadrant: SRC, CAUSE, TYPE 1 with the marks, DOM, SEQ, ADDR, PCQ0 whole, PCQ1 and PCQ2 by their
low 32 bits, and zeros; a packet that finds 256 events waiting stays at its core. A context that is not running is left
as it is. (R27, R85, R412, R413, R414, R415) -/
def Obligations.TakingAFault : Prop :=
  ∀ (s : State) (c : CtxId) (fi : FaultInfo),
    let k := s.ctx c
    let q := s.quad c.core
    let t := s.takeFault c fi
    (k.life ≠ .running → t = s)
    ∧ (k.life = .running →
      (t.ctx c).life = .frozen ∧ (t.ctx c).cause = fi.cause ∧ (t.ctx c).g = k.g ∧ (t.ctx c).v = k.v ∧ (t.ctx c).p = k.p
      ∧ (t.ctx c).pcq0 = k.pcq0 ∧ (t.ctx c).pcq1 = k.pcq1 ∧ (t.ctx c).pcq2 = k.pcq2 ∧ (t.ctx c).spr = k.spr
      ∧ (t.ctx c).inflight = k.inflight ∧ (t.ctx c).pend = k.pend ∧ (t.ctx c).stack = k.stack ∧ (t.ctx c).afr = k.afr
      ∧ (t.ctx c).domain = k.domain ∧ (∀ d, d ≠ c → t.ctx d = s.ctx d) ∧ t.tasks = s.tasks ∧ t.mem = s.mem
      ∧ (∀ d, (t.tc d).spad = (s.tc d).spad)
      ∧ ((s.quadEvents q).buffer.length < 256 → ∃ bs, (t.quadEvents q).buffer = (s.quadEvents q).buffer ++ [bs] ∧ bs.length = 64
          ∧ bs.take 2 = leBytes 2 (c.core.num % 1024 + 1024 * (c.core.die % 4) + 4096 * c.ctx)
          ∧ (bs.drop 2).take 2 = leBytes 1 fi.cause ++ leBytes 1 (1 + 16 * fi.typ) ∧ (bs.drop 4).take 2 = leBytes 2 k.domain.toNat
          ∧ (bs.drop 6).take 2 = leBytes 2 (s.quadEvents q).seq ∧ (bs.drop 8).take 8 = leBytes 8 fi.addr.toNat
          ∧ (bs.drop 16).take 8 = leBytes 8 (k.pcq0.pc ||| BitVec.ofNat 64 (k.pcq0.sq.toNat * 32 + k.pcq0.tgt.toNat * 16 + k.pcq0.anl.toNat * 8)).toNat
          ∧ (bs.drop 24).take 4 = leBytes 4 k.pcq1.word.toNat ∧ (bs.drop 28).take 4 = leBytes 4 k.pcq2.word.toNat
          ∧ bs.drop 32 = List.replicate 32 0 ∧ (t.quadEvents q).seq = ((s.quadEvents q).seq + 1) % 65536)
      ∧ (256 ≤ (s.quadEvents q).buffer.length → (t.quadEvents q).buffer = (s.quadEvents q).buffer
          ∧ (t.quadEvents q).held.length = (s.quadEvents q).held.length + 1))

/-- The machine after reset: the registers that the spec resets hold the values of their maps, and memory is in its form:
After reset the one package waits in IDLE with the BAR0 values of R469; every context has the special register values of
R118 and v registers of RAW zero; every core's registers are those of R118; every unit's ECCR, every REMAP, and every
auditor's LFSR hold the reset values of R451, R464 and R458; memory lists nothing and is in its canonical form. Values
of other registers at reset are the model's choice (log 2). That unwritten memory lists nothing, and so reads as 0, is
the model's choice too (log 3). (R101, R118, R125, R312, R451, R458, R464, R469) -/
def Obligations.ResetState : Prop :=
  let s := State.reset
  let k := s.pkg 0
  (k.powered = true ∧ s.bootWord 0 = 0 ∧ k.pkgid = 0 ∧ k.fwaddr = 0 ∧ k.fwsize = 0 ∧ k.pwrnow = 0 ∧ k.pwrlim = 2400000 ∧ k.islands = []
    ∧ k.attn = Vector.replicate 4 0 ∧ k.attst = 0 ∧ k.attrep = [])
  ∧ (∀ c : CtxId, (s.ctx c).spr.read 1 = 0 ∧ (s.ctx c).spr.read 2 = 0x0400 ∧ (s.ctx c).spr.read 3 = 0 ∧ (s.ctx c).spr.read 7 = 0
      ∧ (∀ n ∈ [0x20, 0x21, 0x22, 0x23, 0x28, 0x29], (s.ctx c).spr.read n = 0)
      ∧ (∀ n : BitVec 5, (s.ctx c).getV n = ⟨0, .raw⟩))
  ∧ (∀ d : CoreId, (∀ n ∈ [4, 5, 0x10, 0x11, 0x12, 0x13], (s.tc d).sprRead n = 0) ∧ (s.tc d).sprRead 6 = BitVec.allOnes 64)
  ∧ (∀ u, (s.rasOf u).word = 0xFFFF * 2 ^ 16 + 2) ∧ (∀ p d, (s.die p d).remap.word = 0) ∧ (∀ l, (s.audit l).lfsr = 0xFFFFFFFF)
  ∧ s.mem = [] ∧ MemoryCanonical s

/-- Every step keeps memory in its canonical form: Whatever the machine does next, from any state whose memory is in its
canonical form (addresses strictly rising, no byte listed that an unlisted address reads as), the state after the step
has it too. The form is the model's (log 3). (12_global_memory.md Where a line lives, R293, R432, R470) -/
def Obligations.StepKeepsMemoryCanonical : Prop :=
  ∀ s t : State, MemoryCanonical s → step s = .next t → MemoryCanonical t
end

