-- ==== Sys2Proof/Laws/Memory.lean ====
section
/-! SUPPORT. Tables and memories: what a read gives after a write, and the canonical form. -/

namespace Sys2Proof.Machine

open Sys2Proof

section Tables

variable {κ ν : Type} [DecidableEq κ]

theorem Map.find_set_same (m : Map κ ν) (k : κ) (v : ν) : Map.find (Map.set m k v) k = some v := by
  induction m with
  | nil => simp [Map.set, Map.find]
  | cons e m ih =>
    obtain ⟨a, w⟩ := e
    by_cases h : a = k <;> simp [Map.set, Map.find, h, ih]

theorem Map.find_set_other (m : Map κ ν) (k k' : κ) (v : ν) (h : k ≠ k') :
    Map.find (Map.set m k v) k' = Map.find m k' := by
  induction m with
  | nil => simp [Map.set, Map.find, h]
  | cons e m ih =>
    obtain ⟨a, w⟩ := e
    by_cases h1 : a = k
    · subst h1; simp [Map.set, Map.find, h]
    · by_cases h2 : a = k'
      · subst h2; simp [Map.set, Map.find, h1]
      · simp [Map.set, Map.find, h1, h2, ih]

@[simp] theorem Map.get_set_same (m : Map κ ν) (k : κ) (v d : ν) : Map.get (Map.set m k v) k d = v := by
  simp [Map.get, Map.find_set_same]

theorem Map.get_set_other (m : Map κ ν) (k k' : κ) (v d : ν) (h : k ≠ k') :
    Map.get (Map.set m k v) k' d = Map.get m k' d := by
  simp [Map.get, Map.find_set_other _ _ _ _ h]

theorem Map.set_set (m : Map κ ν) (k : κ) (v w : ν) : Map.set (Map.set m k v) k w = Map.set m k w := by
  induction m with
  | nil => simp [Map.set]
  | cons e m ih =>
    obtain ⟨a, x⟩ := e
    by_cases h : a = k <;> simp [Map.set, h, ih]

theorem Map.find_del_same (m : Map κ ν) (k : κ) : Map.find (Map.del m k) k = none := by
  induction m with
  | nil => simp [Map.del, Map.find]
  | cons e m ih =>
    obtain ⟨a, x⟩ := e
    by_cases h : a = k
    · simpa [Map.del, h] using ih
    · simpa [Map.del, h, Map.find] using ih

end Tables

/-! ## The canonical form -/

theorem Memory.wfFrom_le : ∀ (m : Memory) (n k : Nat), k ≤ n → m.wfFrom n = true → m.wfFrom k = true
  | [], _, _, _, _ => rfl
  | (a, b) :: m, n, k, h, hw => by
    simp only [Memory.wfFrom, Bool.and_eq_true, decide_eq_true_eq] at hw ⊢
    exact ⟨⟨Nat.le_trans h hw.1.1, hw.1.2⟩, hw.2⟩

theorem Memory.wfFrom_cons (a : Nat) (b : Byte) (m : Memory) (n : Nat) (hn : n ≤ a) (hm : m.wfFrom (a + 1) = true) :
    (Memory.cons a b m).wfFrom n = true := by
  unfold Memory.cons
  split
  · exact Memory.wfFrom_le m _ _ (by omega) hm
  · simp_all [Memory.wfFrom]

/-- Writing a byte keeps the canonical form. -/
theorem Memory.wfFrom_put : ∀ (m : Memory) (n k : Nat) (v : Byte), n ≤ k → m.wfFrom n = true → (m.put k v).wfFrom n = true
  | [], n, k, v, h, _ => Memory.wfFrom_cons k v [] n h rfl
  | (a, b) :: m, n, k, v, h, hw => by
    simp only [Memory.wfFrom, Bool.and_eq_true, decide_eq_true_eq] at hw
    unfold Memory.put
    split
    · rename_i e; subst e; exact Memory.wfFrom_cons _ _ _ _ h hw.2
    · split
      · refine Memory.wfFrom_cons _ _ _ _ h ?_
        simp only [Memory.wfFrom, Bool.and_eq_true, decide_eq_true_eq]
        exact ⟨⟨by omega, hw.1.2⟩, hw.2⟩
      · simp only [Memory.wfFrom, Bool.and_eq_true, decide_eq_true_eq]
        exact ⟨hw.1, Memory.wfFrom_put m (a + 1) k v (by omega) hw.2⟩

theorem Memory.wf_put (m : Memory) (k : Nat) (v : Byte) (h : m.wf = true) : (m.put k v).wf = true :=
  Memory.wfFrom_put m 0 k v (Nat.zero_le _) h

theorem Memory.wf_write : ∀ (bs : List Byte) (m : Memory) (a : Nat), m.wf = true → (m.write a bs).wf = true
  | [], _, _, h => h
  | b :: bs, m, a, h => Memory.wf_write bs (m.put a b) (a + 1) (m.wf_put a b h)

theorem Memory.wf_writeMasked : ∀ (bs : List (Option Byte)) (m : Memory) (a : Nat),
    m.wf = true → (m.writeMasked a bs).wf = true
  | [], _, _, h => h
  | none :: bs, m, a, h => Memory.wf_writeMasked bs m (a + 1) h
  | some b :: bs, m, a, h => Memory.wf_writeMasked bs (m.put a b) (a + 1) (m.wf_put a b h)

theorem Memory.wfFrom_filter (p : Host.Cell → Bool) : ∀ (m : Memory) (n : Nat),
    m.wfFrom n = true → Memory.wfFrom n (m.filter p) = true
  | [], _, _ => rfl
  | (a, b) :: m, n, hw => by
    simp only [Memory.wfFrom, Bool.and_eq_true, decide_eq_true_eq] at hw
    have ih := Memory.wfFrom_filter p m (a + 1) hw.2
    by_cases h : p (a, b) = true
    · simp [List.filter, h, Memory.wfFrom, hw.1.1, ih, hw.1.2]
    · simp only [List.filter, h]
      exact Memory.wfFrom_le _ _ _ (by omega) ih

/-- Dropping bytes keeps the canonical form. -/
theorem Memory.wf_filter (p : Host.Cell → Bool) (m : Memory) (h : m.wf = true) : Memory.wf (m.filter p) = true :=
  Memory.wfFrom_filter p m 0 h

/-! ## Reads after writes -/

theorem Memory.byte_below : ∀ (m : Memory) (n k : Nat), m.wfFrom n = true → k < n → m.byte k = unlisted
  | [], _, _, _, _ => rfl
  | (a, b) :: m, n, k, hw, hk => by
    simp only [Memory.wfFrom, Bool.and_eq_true, decide_eq_true_eq] at hw
    have h1 : a ≠ k := by omega
    have h2 : k < a := by omega
    simp [Memory.byte, h1, h2]

theorem Memory.byte_cons_same (a : Nat) (b : Byte) (m : Memory) (hm : m.wfFrom (a + 1) = true) :
    (Memory.cons a b m).byte a = b := by
  unfold Memory.cons
  split
  · rename_i h; rw [h]; exact Memory.byte_below m (a + 1) a hm (by omega)
  · simp [Memory.byte]

theorem Memory.byte_cons_other (a k : Nat) (b : Byte) (m : Memory) (h : a ≠ k) (hm : m.wfFrom (a + 1) = true) :
    (Memory.cons a b m).byte k = m.byte k := by
  unfold Memory.cons
  split
  · rfl
  · by_cases hk : k < a
    · simp [Memory.byte, h, hk, Memory.byte_below m (a + 1) k hm (by omega)]
    · simp [Memory.byte, h, hk]

theorem Memory.byte_put_same : ∀ (m : Memory) (n k : Nat) (v : Byte), m.wfFrom n = true → (m.put k v).byte k = v
  | [], _, k, v, _ => Memory.byte_cons_same k v [] rfl
  | (a, b) :: m, n, k, v, hw => by
    simp only [Memory.wfFrom, Bool.and_eq_true, decide_eq_true_eq] at hw
    unfold Memory.put
    split
    · rename_i e; subst e; exact Memory.byte_cons_same _ _ _ hw.2
    · rename_i h1
      split
      · rename_i h2
        refine Memory.byte_cons_same _ _ _ ?_
        simp only [Memory.wfFrom, Bool.and_eq_true, decide_eq_true_eq]
        exact ⟨⟨by omega, hw.1.2⟩, hw.2⟩
      · rename_i h2
        simp only [Memory.byte, h1, h2, if_false]
        exact Memory.byte_put_same m (a + 1) k v hw.2

theorem Memory.byte_put_other : ∀ (m : Memory) (n k j : Nat) (v : Byte), m.wfFrom n = true → k ≠ j →
    (m.put k v).byte j = m.byte j
  | [], _, k, j, v, _, h => Memory.byte_cons_other k j v [] h rfl
  | (a, b) :: m, n, k, j, v, hw, h => by
    simp only [Memory.wfFrom, Bool.and_eq_true, decide_eq_true_eq] at hw
    unfold Memory.put
    split
    · rename_i e; subst e
      rw [Memory.byte_cons_other _ _ _ _ h hw.2]
      by_cases hj : j < a
      · simp [Memory.byte, h, hj, Memory.byte_below m (a + 1) j hw.2 (by omega)]
      · simp [Memory.byte, h, hj]
    · rename_i h1
      split
      · rename_i h2
        refine Memory.byte_cons_other _ _ _ _ h ?_
        simp only [Memory.wfFrom, Bool.and_eq_true, decide_eq_true_eq]
        exact ⟨⟨by omega, hw.1.2⟩, hw.2⟩
      · simp only [Memory.byte, Memory.byte_put_other m (a + 1) k j v hw.2 h]

/-- A byte outside the written ones reads as before. -/
theorem Memory.byte_write_other : ∀ (bs : List Byte) (m : Memory) (a j : Nat), m.wf = true →
    (j < a ∨ a + bs.length ≤ j) → (m.write a bs).byte j = m.byte j
  | [], _, _, _, _, _ => rfl
  | b :: bs, m, a, j, hw, h => by
    simp only [List.length_cons] at h
    simp only [Memory.write]
    rw [Memory.byte_write_other bs (m.put a b) (a + 1) j (m.wf_put a b hw) (by omega),
      Memory.byte_put_other m 0 a j b hw (by omega)]

/-- A written byte reads as the byte that was written. -/
theorem Memory.byte_write_at : ∀ (bs : List Byte) (m : Memory) (a i : Nat), m.wf = true → (h : i < bs.length) →
    (m.write a bs).byte (a + i) = bs[i]
  | b :: bs, m, a, 0, hw, _ => by
    simp only [Memory.write, Nat.add_zero]
    rw [Memory.byte_write_other bs (m.put a b) (a + 1) a (m.wf_put a b hw) (by omega)]
    simpa using Memory.byte_put_same m 0 a b hw
  | b :: bs, m, a, i + 1, hw, h => by
    simp only [Memory.write]
    have := Memory.byte_write_at bs (m.put a b) (a + 1) i (m.wf_put a b hw) (by simpa using h)
    rw [show a + (i + 1) = a + 1 + i by omega, this]
    simp

theorem Memory.writeMasked_some (bs : List Byte) : ∀ (m : Memory) (a : Nat),
    m.writeMasked a (bs.map some) = m.write a bs := by
  induction bs with
  | nil => intro m a; rfl
  | cons b bs ih => intro m a; simp [Memory.writeMasked, Memory.write, ih]

/-- A byte that a masked write leaves out reads as before. -/
theorem Memory.byte_writeMasked_other : ∀ (bs : List (Option Byte)) (m : Memory) (a j : Nat), m.wf = true →
    (j < a ∨ a + bs.length ≤ j) → (m.writeMasked a bs).byte j = m.byte j
  | [], _, _, _, _, _ => rfl
  | none :: bs, m, a, j, hw, h => by
    simp only [List.length_cons] at h
    simp only [Memory.writeMasked]
    exact Memory.byte_writeMasked_other bs m (a + 1) j hw (by omega)
  | some b :: bs, m, a, j, hw, h => by
    simp only [List.length_cons] at h
    simp only [Memory.writeMasked]
    rw [Memory.byte_writeMasked_other bs (m.put a b) (a + 1) j (m.wf_put a b hw) (by omega),
      Memory.byte_put_other m 0 a j b hw (by omega)]

end Sys2Proof.Machine
end

