-- ==== Sys2Proof/Laws/PerInstr.lean ====
section
/-! SUPPORT. What holds of every instruction as syntax: it is a word of one of the five classes with an opcode of 6 bits (02 R29,
R42-R46), or a step of the device that no word encodes. -/

namespace Sys2Proof.Laws.WordClass

open Sys2Proof

/-- A word has fields, a class below 5 and an opcode below 64, and is encoded; a step of the device has none of them. -/
def Statement (i : Instr) : Prop :=
  match i.key with
  | some k => k.cl < 5 ∧ k.op < 64 ∧ k.form < 2 ∧ i.fields.isSome = true ∧ (encode i).isSome = true
  | none => i.fields = none ∧ encode i = none

theorem add (f : Fields) : Statement (.add f) := ⟨by decide, by decide, by decide, rfl, rfl⟩
theorem sub (f : Fields) : Statement (.sub f) := ⟨by decide, by decide, by decide, rfl, rfl⟩
theorem mul (f : Fields) : Statement (.mul f) := ⟨by decide, by decide, by decide, rfl, rfl⟩
theorem mulh (f : Fields) : Statement (.mulh f) := ⟨by decide, by decide, by decide, rfl, rfl⟩
theorem mulhu (f : Fields) : Statement (.mulhu f) := ⟨by decide, by decide, by decide, rfl, rfl⟩
theorem div (f : Fields) : Statement (.div f) := ⟨by decide, by decide, by decide, rfl, rfl⟩
theorem divu (f : Fields) : Statement (.divu f) := ⟨by decide, by decide, by decide, rfl, rfl⟩
theorem rem (f : Fields) : Statement (.rem f) := ⟨by decide, by decide, by decide, rfl, rfl⟩
theorem remu (f : Fields) : Statement (.remu f) := ⟨by decide, by decide, by decide, rfl, rfl⟩
theorem and (f : Fields) : Statement (.and f) := ⟨by decide, by decide, by decide, rfl, rfl⟩
theorem or (f : Fields) : Statement (.or f) := ⟨by decide, by decide, by decide, rfl, rfl⟩
theorem xor (f : Fields) : Statement (.xor f) := ⟨by decide, by decide, by decide, rfl, rfl⟩
theorem andn (f : Fields) : Statement (.andn f) := ⟨by decide, by decide, by decide, rfl, rfl⟩
theorem shl (f : Fields) : Statement (.shl f) := ⟨by decide, by decide, by decide, rfl, rfl⟩
theorem shr (f : Fields) : Statement (.shr f) := ⟨by decide, by decide, by decide, rfl, rfl⟩
theorem sra (f : Fields) : Statement (.sra f) := ⟨by decide, by decide, by decide, rfl, rfl⟩
theorem rol (f : Fields) : Statement (.rol f) := ⟨by decide, by decide, by decide, rfl, rfl⟩
theorem min (f : Fields) : Statement (.min f) := ⟨by decide, by decide, by decide, rfl, rfl⟩
theorem minu (f : Fields) : Statement (.minu f) := ⟨by decide, by decide, by decide, rfl, rfl⟩
theorem max (f : Fields) : Statement (.max f) := ⟨by decide, by decide, by decide, rfl, rfl⟩
theorem maxu (f : Fields) : Statement (.maxu f) := ⟨by decide, by decide, by decide, rfl, rfl⟩
theorem sel (f : Fields) : Statement (.sel f) := ⟨by decide, by decide, by decide, rfl, rfl⟩
theorem mov (f : Fields) : Statement (.mov f) := ⟨by decide, by decide, by decide, rfl, rfl⟩
theorem movh (f : Fields) : Statement (.movh f) := ⟨by decide, by decide, by decide, rfl, rfl⟩
theorem lea (f : Fields) : Statement (.lea f) := ⟨by decide, by decide, by decide, rfl, rfl⟩
theorem ext (f : Fields) : Statement (.ext f) := ⟨by decide, by decide, by decide, rfl, rfl⟩
theorem extu (f : Fields) : Statement (.extu f) := ⟨by decide, by decide, by decide, rfl, rfl⟩
theorem ins (f : Fields) : Statement (.ins f) := ⟨by decide, by decide, by decide, rfl, rfl⟩
theorem sext (f : Fields) : Statement (.sext f) := ⟨by decide, by decide, by decide, rfl, rfl⟩
theorem zext (f : Fields) : Statement (.zext f) := ⟨by decide, by decide, by decide, rfl, rfl⟩
theorem clz (f : Fields) : Statement (.clz f) := ⟨by decide, by decide, by decide, rfl, rfl⟩
theorem ctz (f : Fields) : Statement (.ctz f) := ⟨by decide, by decide, by decide, rfl, rfl⟩
theorem ffs (f : Fields) : Statement (.ffs f) := ⟨by decide, by decide, by decide, rfl, rfl⟩
theorem popc (f : Fields) : Statement (.popc f) := ⟨by decide, by decide, by decide, rfl, rfl⟩
theorem bswap (f : Fields) : Statement (.bswap f) := ⟨by decide, by decide, by decide, rfl, rfl⟩
theorem brev (f : Fields) : Statement (.brev f) := ⟨by decide, by decide, by decide, rfl, rfl⟩
theorem cmp (f : Fields) : Statement (.cmp f) := ⟨by decide, by decide, by decide, rfl, rfl⟩
theorem cmpf (f : Fields) : Statement (.cmpf f) := ⟨by decide, by decide, by decide, rfl, rfl⟩
theorem fadd (f : Fields) : Statement (.fadd f) := ⟨by decide, by decide, by decide, rfl, rfl⟩
theorem fmul (f : Fields) : Statement (.fmul f) := ⟨by decide, by decide, by decide, rfl, rfl⟩
theorem ffma (f : Fields) : Statement (.ffma f) := ⟨by decide, by decide, by decide, rfl, rfl⟩
theorem fmin (f : Fields) : Statement (.fmin f) := ⟨by decide, by decide, by decide, rfl, rfl⟩
theorem fmax (f : Fields) : Statement (.fmax f) := ⟨by decide, by decide, by decide, rfl, rfl⟩
theorem fcvt (f : Fields) : Statement (.fcvt f) := ⟨by decide, by decide, by decide, rfl, rfl⟩
theorem pset (f : Fields) : Statement (.pset f) := ⟨by decide, by decide, by decide, rfl, rfl⟩
theorem mrd (f : Fields) : Statement (.mrd f) := ⟨by decide, by decide, by decide, rfl, rfl⟩
theorem mwr (f : Fields) : Statement (.mwr f) := ⟨by decide, by decide, by decide, rfl, rfl⟩
theorem rdtime (f : Fields) : Statement (.rdtime f) := ⟨by decide, by decide, by decide, rfl, rfl⟩
theorem vadd (f : Fields) : Statement (.vadd f) := ⟨by decide, by decide, by decide, rfl, rfl⟩
theorem vsub (f : Fields) : Statement (.vsub f) := ⟨by decide, by decide, by decide, rfl, rfl⟩
theorem vmul (f : Fields) : Statement (.vmul f) := ⟨by decide, by decide, by decide, rfl, rfl⟩
theorem vfma (f : Fields) : Statement (.vfma f) := ⟨by decide, by decide, by decide, rfl, rfl⟩
theorem vfms (f : Fields) : Statement (.vfms f) := ⟨by decide, by decide, by decide, rfl, rfl⟩
theorem vfnma (f : Fields) : Statement (.vfnma f) := ⟨by decide, by decide, by decide, rfl, rfl⟩
theorem vmin (f : Fields) : Statement (.vmin f) := ⟨by decide, by decide, by decide, rfl, rfl⟩
theorem vmax (f : Fields) : Statement (.vmax f) := ⟨by decide, by decide, by decide, rfl, rfl⟩
theorem vabs (f : Fields) : Statement (.vabs f) := ⟨by decide, by decide, by decide, rfl, rfl⟩
theorem vneg (f : Fields) : Statement (.vneg f) := ⟨by decide, by decide, by decide, rfl, rfl⟩
theorem vand (f : Fields) : Statement (.vand f) := ⟨by decide, by decide, by decide, rfl, rfl⟩
theorem vor (f : Fields) : Statement (.vor f) := ⟨by decide, by decide, by decide, rfl, rfl⟩
theorem vxor (f : Fields) : Statement (.vxor f) := ⟨by decide, by decide, by decide, rfl, rfl⟩
theorem vandn (f : Fields) : Statement (.vandn f) := ⟨by decide, by decide, by decide, rfl, rfl⟩
theorem vshl (f : Fields) : Statement (.vshl f) := ⟨by decide, by decide, by decide, rfl, rfl⟩
theorem vshr (f : Fields) : Statement (.vshr f) := ⟨by decide, by decide, by decide, rfl, rfl⟩
theorem vsra (f : Fields) : Statement (.vsra f) := ⟨by decide, by decide, by decide, rfl, rfl⟩
theorem vmulh (f : Fields) : Statement (.vmulh f) := ⟨by decide, by decide, by decide, rfl, rfl⟩
theorem vavg (f : Fields) : Statement (.vavg f) := ⟨by decide, by decide, by decide, rfl, rfl⟩
theorem vabd (f : Fields) : Statement (.vabd f) := ⟨by decide, by decide, by decide, rfl, rfl⟩
theorem vcmp (f : Fields) : Statement (.vcmp f) := ⟨by decide, by decide, by decide, rfl, rfl⟩
theorem vsel (f : Fields) : Statement (.vsel f) := ⟨by decide, by decide, by decide, rfl, rfl⟩
theorem vmov (f : Fields) : Statement (.vmov f) := ⟨by decide, by decide, by decide, rfl, rfl⟩
theorem vbc (f : Fields) : Statement (.vbc f) := ⟨by decide, by decide, by decide, rfl, rfl⟩
theorem vget (f : Fields) : Statement (.vget f) := ⟨by decide, by decide, by decide, rfl, rfl⟩
theorem vset (f : Fields) : Statement (.vset f) := ⟨by decide, by decide, by decide, rfl, rfl⟩
theorem vperm (f : Fields) : Statement (.vperm f) := ⟨by decide, by decide, by decide, rfl, rfl⟩
theorem vcomp (f : Fields) : Statement (.vcomp f) := ⟨by decide, by decide, by decide, rfl, rfl⟩
theorem vexpd (f : Fields) : Statement (.vexpd f) := ⟨by decide, by decide, by decide, rfl, rfl⟩
theorem vred (f : Fields) : Statement (.vred f) := ⟨by decide, by decide, by decide, rfl, rfl⟩
theorem vscan (f : Fields) : Statement (.vscan f) := ⟨by decide, by decide, by decide, rfl, rfl⟩
theorem vdot4 (f : Fields) : Statement (.vdot4 f) := ⟨by decide, by decide, by decide, rfl, rfl⟩
theorem vclz (f : Fields) : Statement (.vclz f) := ⟨by decide, by decide, by decide, rfl, rfl⟩
theorem vpopc (f : Fields) : Statement (.vpopc f) := ⟨by decide, by decide, by decide, rfl, rfl⟩
theorem vffs (f : Fields) : Statement (.vffs f) := ⟨by decide, by decide, by decide, rfl, rfl⟩
theorem vexp2 (f : Fields) : Statement (.vexp2 f) := ⟨by decide, by decide, by decide, rfl, rfl⟩
theorem vlog2 (f : Fields) : Statement (.vlog2 f) := ⟨by decide, by decide, by decide, rfl, rfl⟩
theorem vrcp (f : Fields) : Statement (.vrcp f) := ⟨by decide, by decide, by decide, rfl, rfl⟩
theorem vrsq (f : Fields) : Statement (.vrsq f) := ⟨by decide, by decide, by decide, rfl, rfl⟩
theorem vsin (f : Fields) : Statement (.vsin f) := ⟨by decide, by decide, by decide, rfl, rfl⟩
theorem vcos (f : Fields) : Statement (.vcos f) := ⟨by decide, by decide, by decide, rfl, rfl⟩
theorem vtanh (f : Fields) : Statement (.vtanh f) := ⟨by decide, by decide, by decide, rfl, rfl⟩
theorem vcvt (f : Fields) : Statement (.vcvt f) := ⟨by decide, by decide, by decide, rfl, rfl⟩
theorem vtag (f : Fields) : Statement (.vtag f) := ⟨by decide, by decide, by decide, rfl, rfl⟩
theorem vqnt (f : Fields) : Statement (.vqnt f) := ⟨by decide, by decide, by decide, rfl, rfl⟩
theorem vdqt (f : Fields) : Statement (.vdqt f) := ⟨by decide, by decide, by decide, rfl, rfl⟩
theorem vbmax (f : Fields) : Statement (.vbmax f) := ⟨by decide, by decide, by decide, rfl, rfl⟩
theorem vsat (f : Fields) : Statement (.vsat f) := ⟨by decide, by decide, by decide, rfl, rfl⟩
theorem mzero (f : Fields) : Statement (.mzero f) := ⟨by decide, by decide, by decide, rfl, rfl⟩
theorem mlda (f : Fields) : Statement (.mlda f) := ⟨by decide, by decide, by decide, rfl, rfl⟩
theorem mldb (f : Fields) : Statement (.mldb f) := ⟨by decide, by decide, by decide, rfl, rfl⟩
theorem mgat (f : Fields) : Statement (.mgat f) := ⟨by decide, by decide, by decide, rfl, rfl⟩
theorem mmul (f : Fields) : Statement (.mmul f) := ⟨by decide, by decide, by decide, rfl, rfl⟩
theorem mmuls (f : Fields) : Statement (.mmuls f) := ⟨by decide, by decide, by decide, rfl, rfl⟩
theorem mcom (f : Fields) : Statement (.mcom f) := ⟨by decide, by decide, by decide, rfl, rfl⟩
theorem mdis (f : Fields) : Statement (.mdis f) := ⟨by decide, by decide, by decide, rfl, rfl⟩
theorem mscq (f : Fields) : Statement (.mscq f) := ⟨by decide, by decide, by decide, rfl, rfl⟩
theorem mfin (f : Fields) : Statement (.mfin f) := ⟨by decide, by decide, by decide, rfl, rfl⟩
theorem mrow (f : Fields) : Statement (.mrow f) := ⟨by decide, by decide, by decide, rfl, rfl⟩
theorem mst (f : Fields) : Statement (.mst f) := ⟨by decide, by decide, by decide, rfl, rfl⟩
theorem mcnt (f : Fields) : Statement (.mcnt f) := ⟨by decide, by decide, by decide, rfl, rfl⟩
theorem mthr (f : Fields) : Statement (.mthr f) := ⟨by decide, by decide, by decide, rfl, rfl⟩
theorem mwt (f : Fields) : Statement (.mwt f) := ⟨by decide, by decide, by decide, rfl, rfl⟩
theorem mstat (f : Fields) : Statement (.mstat f) := ⟨by decide, by decide, by decide, rfl, rfl⟩
theorem eclr (f : Fields) : Statement (.eclr f) := ⟨by decide, by decide, by decide, rfl, rfl⟩
theorem eins (f : Fields) : Statement (.eins f) := ⟨by decide, by decide, by decide, rfl, rfl⟩
theorem eevl (f : Fields) : Statement (.eevl f) := ⟨by decide, by decide, by decide, rfl, rfl⟩
theorem esum (f : Fields) : Statement (.esum f) := ⟨by decide, by decide, by decide, rfl, rfl⟩
theorem emax (f : Fields) : Statement (.emax f) := ⟨by decide, by decide, by decide, rfl, rfl⟩
theorem einf (f : Fields) : Statement (.einf f) := ⟨by decide, by decide, by decide, rfl, rfl⟩
theorem econj (f : Fields) : Statement (.econj f) := ⟨by decide, by decide, by decide, rfl, rfl⟩
theorem esimp (f : Fields) : Statement (.esimp f) := ⟨by decide, by decide, by decide, rfl, rfl⟩
theorem eld (f : Fields) : Statement (.eld f) := ⟨by decide, by decide, by decide, rfl, rfl⟩
theorem est (f : Fields) : Statement (.est f) := ⟨by decide, by decide, by decide, rfl, rfl⟩
theorem eadd (f : Fields) : Statement (.eadd f) := ⟨by decide, by decide, by decide, rfl, rfl⟩
theorem ecnt (f : Fields) : Statement (.ecnt f) := ⟨by decide, by decide, by decide, rfl, rfl⟩
theorem edom (f : Fields) : Statement (.edom f) := ⟨by decide, by decide, by decide, rfl, rfl⟩
theorem edomGet (f : Fields) : Statement (.edomGet f) := ⟨by decide, by decide, by decide, rfl, rfl⟩
theorem ewt (f : Fields) : Statement (.ewt f) := ⟨by decide, by decide, by decide, rfl, rfl⟩
theorem ldl (f : Fields) : Statement (.ldl f) := ⟨by decide, by decide, by decide, rfl, rfl⟩
theorem stl (f : Fields) : Statement (.stl f) := ⟨by decide, by decide, by decide, rfl, rfl⟩
theorem vldl (f : Fields) : Statement (.vldl f) := ⟨by decide, by decide, by decide, rfl, rfl⟩
theorem vstl (f : Fields) : Statement (.vstl f) := ⟨by decide, by decide, by decide, rfl, rfl⟩
theorem vgl (f : Fields) : Statement (.vgl f) := ⟨by decide, by decide, by decide, rfl, rfl⟩
theorem vsl (f : Fields) : Statement (.vsl f) := ⟨by decide, by decide, by decide, rfl, rfl⟩
theorem ala (f : Fields) : Statement (.ala f) := ⟨by decide, by decide, by decide, rfl, rfl⟩
theorem alf (f : Fields) : Statement (.alf f) := ⟨by decide, by decide, by decide, rfl, rfl⟩
theorem stmap (f : Fields) : Statement (.stmap f) := ⟨by decide, by decide, by decide, rfl, rfl⟩
theorem stfl (f : Fields) : Statement (.stfl f) := ⟨by decide, by decide, by decide, rfl, rfl⟩
theorem stinv (f : Fields) : Statement (.stinv f) := ⟨by decide, by decide, by decide, rfl, rfl⟩
theorem rres (f : Fields) : Statement (.rres f) := ⟨by decide, by decide, by decide, rfl, rfl⟩
theorem rtake (f : Fields) : Statement (.rtake f) := ⟨by decide, by decide, by decide, rfl, rfl⟩
theorem rrel (f : Fields) : Statement (.rrel f) := ⟨by decide, by decide, by decide, rfl, rfl⟩
theorem rcfg (f : Fields) : Statement (.rcfg f) := ⟨by decide, by decide, by decide, rfl, rfl⟩
theorem rstat (f : Fields) : Statement (.rstat f) := ⟨by decide, by decide, by decide, rfl, rfl⟩
theorem ld (f : Fields) : Statement (.ld f) := ⟨by decide, by decide, by decide, rfl, rfl⟩
theorem st (f : Fields) : Statement (.st f) := ⟨by decide, by decide, by decide, rfl, rfl⟩
theorem vld (f : Fields) : Statement (.vld f) := ⟨by decide, by decide, by decide, rfl, rfl⟩
theorem vst (f : Fields) : Statement (.vst f) := ⟨by decide, by decide, by decide, rfl, rfl⟩
theorem vgg (f : Fields) : Statement (.vgg f) := ⟨by decide, by decide, by decide, rfl, rfl⟩
theorem vsg (f : Fields) : Statement (.vsg f) := ⟨by decide, by decide, by decide, rfl, rfl⟩
theorem amo (f : Fields) : Statement (.amo f) := ⟨by decide, by decide, by decide, rfl, rfl⟩
theorem cas (f : Fields) : Statement (.cas f) := ⟨by decide, by decide, by decide, rfl, rfl⟩
theorem famo (f : Fields) : Statement (.famo f) := ⟨by decide, by decide, by decide, rfl, rfl⟩
theorem fset (f : Fields) : Statement (.fset f) := ⟨by decide, by decide, by decide, rfl, rfl⟩
theorem fget (f : Fields) : Statement (.fget f) := ⟨by decide, by decide, by decide, rfl, rfl⟩
theorem pf (f : Fields) : Statement (.pf f) := ⟨by decide, by decide, by decide, rfl, rfl⟩
theorem wb (f : Fields) : Statement (.wb f) := ⟨by decide, by decide, by decide, rfl, rfl⟩
theorem inv (f : Fields) : Statement (.inv f) := ⟨by decide, by decide, by decide, rfl, rfl⟩
theorem cp (f : Fields) : Statement (.cp f) := ⟨by decide, by decide, by decide, rfl, rfl⟩
theorem cps (f : Fields) : Statement (.cps f) := ⟨by decide, by decide, by decide, rfl, rfl⟩
theorem cpw (f : Fields) : Statement (.cpw f) := ⟨by decide, by decide, by decide, rfl, rfl⟩
theorem streamSub (f : Fields) : Statement (.streamSub f) := ⟨by decide, by decide, by decide, rfl, rfl⟩
theorem unsub (f : Fields) : Statement (.unsub f) := ⟨by decide, by decide, by decide, rfl, rfl⟩
theorem drn (f : Fields) : Statement (.drn f) := ⟨by decide, by decide, by decide, rfl, rfl⟩
theorem cpq (f : Fields) : Statement (.cpq f) := ⟨by decide, by decide, by decide, rfl, rfl⟩
theorem msg (f : Fields) : Statement (.msg f) := ⟨by decide, by decide, by decide, rfl, rfl⟩
theorem mcst (f : Fields) : Statement (.mcst f) := ⟨by decide, by decide, by decide, rfl, rfl⟩
theorem gopen (f : Fields) : Statement (.gopen f) := ⟨by decide, by decide, by decide, rfl, rfl⟩
theorem gst (f : Fields) : Statement (.gst f) := ⟨by decide, by decide, by decide, rfl, rfl⟩
theorem gcom (f : Fields) : Statement (.gcom f) := ⟨by decide, by decide, by decide, rfl, rfl⟩
theorem gab (f : Fields) : Statement (.gab f) := ⟨by decide, by decide, by decide, rfl, rfl⟩
theorem gstt (f : Fields) : Statement (.gstt f) := ⟨by decide, by decide, by decide, rfl, rfl⟩
theorem nop (f : Fields) : Statement (.nop f) := ⟨by decide, by decide, by decide, rfl, rfl⟩
theorem b (f : Fields) : Statement (.b f) := ⟨by decide, by decide, by decide, rfl, rfl⟩
theorem ba (f : Fields) : Statement (.ba f) := ⟨by decide, by decide, by decide, rfl, rfl⟩
theorem bl (f : Fields) : Statement (.bl f) := ⟨by decide, by decide, by decide, rfl, rfl⟩
theorem br (f : Fields) : Statement (.br f) := ⟨by decide, by decide, by decide, rfl, rfl⟩
theorem brl (f : Fields) : Statement (.brl f) := ⟨by decide, by decide, by decide, rfl, rfl⟩
theorem rep (f : Fields) : Statement (.rep f) := ⟨by decide, by decide, by decide, rfl, rfl⟩
theorem lpin (f : Fields) : Statement (.lpin f) := ⟨by decide, by decide, by decide, rfl, rfl⟩
theorem lfree (f : Fields) : Statement (.lfree f) := ⟨by decide, by decide, by decide, rfl, rfl⟩
theorem tick (f : Fields) : Statement (.tick f) := ⟨by decide, by decide, by decide, rfl, rfl⟩
theorem bkpt (f : Fields) : Statement (.bkpt f) := ⟨by decide, by decide, by decide, rfl, rfl⟩
theorem fence (f : Fields) : Statement (.fence f) := ⟨by decide, by decide, by decide, rfl, rfl⟩
theorem bar (f : Fields) : Statement (.bar f) := ⟨by decide, by decide, by decide, rfl, rfl⟩
theorem mon (f : Fields) : Statement (.mon f) := ⟨by decide, by decide, by decide, rfl, rfl⟩
theorem mwait (f : Fields) : Statement (.mwait f) := ⟨by decide, by decide, by decide, rfl, rfl⟩
theorem sopen (f : Fields) : Statement (.sopen f) := ⟨by decide, by decide, by decide, rfl, rfl⟩
theorem sclose (f : Fields) : Statement (.sclose f) := ⟨by decide, by decide, by decide, rfl, rfl⟩
theorem scnl (f : Fields) : Statement (.scnl f) := ⟨by decide, by decide, by decide, rfl, rfl⟩
theorem sshd (f : Fields) : Statement (.sshd f) := ⟨by decide, by decide, by decide, rfl, rfl⟩
theorem sunsh (f : Fields) : Statement (.sunsh f) := ⟨by decide, by decide, by decide, rfl, rfl⟩
theorem claim (f : Fields) : Statement (.claim f) := ⟨by decide, by decide, by decide, rfl, rfl⟩
theorem spawn (f : Fields) : Statement (.spawn f) := ⟨by decide, by decide, by decide, rfl, rfl⟩
theorem spwg (f : Fields) : Statement (.spwg f) := ⟨by decide, by decide, by decide, rfl, rfl⟩
theorem start (f : Fields) : Statement (.start f) := ⟨by decide, by decide, by decide, rfl, rfl⟩
theorem exit (f : Fields) : Statement (.exit f) := ⟨by decide, by decide, by decide, rfl, rfl⟩
theorem yield (f : Fields) : Statement (.yield f) := ⟨by decide, by decide, by decide, rfl, rfl⟩
theorem poll (f : Fields) : Statement (.poll f) := ⟨by decide, by decide, by decide, rfl, rfl⟩
theorem tgnode (f : Fields) : Statement (.tgnode f) := ⟨by decide, by decide, by decide, rfl, rfl⟩
theorem tgdec (f : Fields) : Statement (.tgdec f) := ⟨by decide, by decide, by decide, rfl, rfl⟩
theorem sinfo (f : Fields) : Statement (.sinfo f) := ⟨by decide, by decide, by decide, rfl, rfl⟩
theorem trap (f : Fields) : Statement (.trap f) := ⟨by decide, by decide, by decide, rfl, rfl⟩
theorem kill (f : Fields) : Statement (.kill f) := ⟨by decide, by decide, by decide, rfl, rfl⟩
theorem killDom (f : Fields) : Statement (.killDom f) := ⟨by decide, by decide, by decide, rfl, rfl⟩
theorem prmt (f : Fields) : Statement (.prmt f) := ⟨by decide, by decide, by decide, rfl, rfl⟩
theorem resm (f : Fields) : Statement (.resm f) := ⟨by decide, by decide, by decide, rfl, rfl⟩
theorem plbw (f : Fields) : Statement (.plbw f) := ⟨by decide, by decide, by decide, rfl, rfl⟩
theorem plbi (f : Fields) : Statement (.plbi f) := ⟨by decide, by decide, by decide, rfl, rfl⟩
theorem plbiDom (f : Fields) : Statement (.plbiDom f) := ⟨by decide, by decide, by decide, rfl, rfl⟩
theorem xlti (f : Fields) : Statement (.xlti f) := ⟨by decide, by decide, by decide, rfl, rfl⟩
theorem pgok (f : Fields) : Statement (.pgok f) := ⟨by decide, by decide, by decide, rfl, rfl⟩
theorem wpt (f : Fields) : Statement (.wpt f) := ⟨by decide, by decide, by decide, rfl, rfl⟩
theorem auds (f : Fields) : Statement (.auds f) := ⟨by decide, by decide, by decide, rfl, rfl⟩
theorem divideLand (c : CtxId) : Statement (.divideLand c) := ⟨rfl, rfl⟩
theorem matrixCommandRun (k : CoreId) : Statement (.matrixCommandRun k) := ⟨rfl, rfl⟩
theorem macroOpBlock (k : CoreId) : Statement (.macroOpBlock k) := ⟨rfl, rfl⟩
theorem envelopeCommandRun (k : CoreId) : Statement (.envelopeCommandRun k) := ⟨rfl, rfl⟩
theorem ringReservationServed (k : CoreId) (ring : Nat) : Statement (.ringReservationServed k ring) := ⟨rfl, rfl⟩
theorem ringTakeServed (k : CoreId) (ring : Nat) : Statement (.ringTakeServed k ring) := ⟨rfl, rfl⟩
theorem globalAccessLand (id : Nat) : Statement (.globalAccessLand id) := ⟨rfl, rfl⟩
theorem sliceAccess (id : Nat) : Statement (.sliceAccess id) := ⟨rfl, rfl⟩
theorem victimChoice (l : CluId) (line : Nat) (id : Nat) : Statement (.victimChoice l line id) := ⟨rfl, rfl⟩
theorem trustShiftUpdate (l : CluId) : Statement (.trustShiftUpdate l) := ⟨rfl, rfl⟩
theorem sweepVisit (u : RasUnit) (at_ : Nat) (found : Flips) : Statement (.sweepVisit u at_ found) := ⟨rfl, rfl⟩
theorem homeAccess (id : Nat) (part : Nat) : Statement (.homeAccess id part) := ⟨rfl, rfl⟩
theorem storePerformed (id : Nat) (part : Nat) : Statement (.storePerformed id part) := ⟨rfl, rfl⟩
theorem forcedPublish (id : Nat) : Statement (.forcedPublish id) := ⟨rfl, rfl⟩
theorem atomicAtHome (id : Nat) : Statement (.atomicAtHome id) := ⟨rfl, rfl⟩
theorem fsetAtHome (id : Nat) : Statement (.fsetAtHome id) := ⟨rfl, rfl⟩
theorem fgetAtHome (id : Nat) : Statement (.fgetAtHome id) := ⟨rfl, rfl⟩
theorem stashRecall (k : CoreId) (n : Nat) (line : Nat) (drop : Bool) : Statement (.stashRecall k n line drop) := ⟨rfl, rfl⟩
theorem remoteAccess (id : Nat) : Statement (.remoteAccess id) := ⟨rfl, rfl⟩
theorem windowNack (id : Nat) : Statement (.windowNack id) := ⟨rfl, rfl⟩
theorem peerAccessTimeout (id : Nat) : Statement (.peerAccessTimeout id) := ⟨rfl, rfl⟩
theorem wbTimeout (c : CtxId) : Statement (.wbTimeout c) := ⟨rfl, rfl⟩
theorem asyncFaultRecord (id : Nat) : Statement (.asyncFaultRecord id) := ⟨rfl, rfl⟩
theorem poisonConsumed (who : Consumer) : Statement (.poisonConsumed who) := ⟨rfl, rfl⟩
theorem copyChunkStart (id : Nat) : Statement (.copyChunkStart id) := ⟨rfl, rfl⟩
theorem copyChunkEnd (id : Nat) (chunk : Nat) : Statement (.copyChunkEnd id chunk) := ⟨rfl, rfl⟩
theorem copySlotReserve (id : Nat) : Statement (.copySlotReserve id) := ⟨rfl, rfl⟩
theorem copyFinish (id : Nat) : Statement (.copyFinish id) := ⟨rfl, rfl⟩
theorem streamTileWrite (id : Nat) : Statement (.streamTileWrite id) := ⟨rfl, rfl⟩
theorem drainTile (id : Nat) : Statement (.drainTile id) := ⟨rfl, rfl⟩
theorem drainSlotEmpty (id : Nat) : Statement (.drainSlotEmpty id) := ⟨rfl, rfl⟩
theorem streamDetach (id : Nat) : Statement (.streamDetach id) := ⟨rfl, rfl⟩
theorem streamError (id : Nat) (cause : Nat) : Statement (.streamError id cause) := ⟨rfl, rfl⟩
theorem messageDelivery (id : Nat) : Statement (.messageDelivery id) := ⟨rfl, rfl⟩
theorem spillReplay (k : CoreId) : Statement (.spillReplay k) := ⟨rfl, rfl⟩
theorem messageResend (id : Nat) : Statement (.messageResend id) := ⟨rfl, rfl⟩
theorem messageTimeout (id : Nat) : Statement (.messageTimeout id) := ⟨rfl, rfl⟩
theorem multicastMemberWrite (id : Nat) (pkg : Nat) : Statement (.multicastMemberWrite id pkg) := ⟨rfl, rfl⟩
theorem multicastReply (id : Nat) : Statement (.multicastReply id) := ⟨rfl, rfl⟩
theorem gstStage (id : Nat) : Statement (.gstStage id) := ⟨rfl, rfl⟩
theorem groupJoin (id : Nat) : Statement (.groupJoin id) := ⟨rfl, rfl⟩
theorem groupReasonReport (h : W64) (pkg : Nat) (reason : Nat) : Statement (.groupReasonReport h pkg reason) := ⟨rfl, rfl⟩
theorem groupPrepare (h : W64) : Statement (.groupPrepare h) := ⟨rfl, rfl⟩
theorem participantPrepare (pkg : Nat) (h : W64) : Statement (.participantPrepare pkg h) := ⟨rfl, rfl⟩
theorem groupVote (h : W64) (pkg : Nat) (yes : Bool) (reason : Nat) : Statement (.groupVote h pkg yes reason) := ⟨rfl, rfl⟩
theorem tVoteExpiry (h : W64) : Statement (.tVoteExpiry h) := ⟨rfl, rfl⟩
theorem groupPublish (pkg : Nat) (h : W64) : Statement (.groupPublish pkg h) := ⟨rfl, rfl⟩
theorem groupAbort (pkg : Nat) (h : W64) : Statement (.groupAbort pkg h) := ⟨rfl, rfl⟩
theorem groupConfirm (h : W64) (pkg : Nat) : Statement (.groupConfirm h pkg) := ⟨rfl, rfl⟩
theorem tCommitExpiry (h : W64) : Statement (.tCommitExpiry h) := ⟨rfl, rfl⟩
theorem participantQuery (pkg : Nat) (h : W64) : Statement (.participantQuery pkg h) := ⟨rfl, rfl⟩
theorem queryAnswer (src : Nat) (dst : Nat) (h : W64) : Statement (.queryAnswer src dst h) := ⟨rfl, rfl⟩
theorem resolveTimeout (pkg : Nat) (h : W64) : Statement (.resolveTimeout pkg h) := ⟨rfl, rfl⟩
theorem joinTimeout (pkg : Nat) (h : W64) : Statement (.joinTimeout pkg h) := ⟨rfl, rfl⟩
theorem failureNotice (at_ : Nat) (pkg : Nat) : Statement (.failureNotice at_ pkg) := ⟨rfl, rfl⟩
theorem peerSilenceTimeout (at_ : Nat) (pkg : Nat) (id : Nat) : Statement (.peerSilenceTimeout at_ pkg id) := ⟨rfl, rfl⟩
theorem finalStateExpiry (pkg : Nat) (h : W64) : Statement (.finalStateExpiry pkg h) := ⟨rfl, rfl⟩
theorem writePacketArrival (id : Nat) : Statement (.writePacketArrival id) := ⟨rfl, rfl⟩
theorem flitCrcReplay (pkg : Nat) (port : Nat) : Statement (.flitCrcReplay pkg port) := ⟨rfl, rfl⟩
theorem laneRetrain (pkg : Nat) (port : Nat) (lane : Nat) : Statement (.laneRetrain pkg port lane) := ⟨rfl, rfl⟩
theorem authenticationFailure (w : Waiter) : Statement (.authenticationFailure w) := ⟨rfl, rfl⟩
theorem routerCycle (pkg : Nat) (x : Nat) (y : Nat) : Statement (.routerCycle pkg x y) := ⟨rfl, rfl⟩
theorem annulledPacket (c : CtxId) : Statement (.annulledPacket c) := ⟨rfl, rfl⟩
theorem emptyPacket (c : CtxId) : Statement (.emptyPacket c) := ⟨rfl, rfl⟩
theorem sequentialResolve (c : CtxId) : Statement (.sequentialResolve c) := ⟨rfl, rfl⟩
theorem fenceAbandon (c : CtxId) (id : Nat) : Statement (.fenceAbandon c id) := ⟨rfl, rfl⟩
theorem mwaitTimeout (c : CtxId) : Statement (.mwaitTimeout c) := ⟨rfl, rfl⟩
theorem monitorLost (c : CtxId) : Statement (.monitorLost c) := ⟨rfl, rfl⟩
theorem hubSpokeReturn (h : W64) (share : Nat) (closing : Bool) : Statement (.hubSpokeReturn h share closing) := ⟨rfl, rfl⟩
theorem borrow (h : W64) (c : CtxId) : Statement (.borrow h c) := ⟨rfl, rfl⟩
theorem hubBrake (h : W64) : Statement (.hubBrake h) := ⟨rfl, rfl⟩
theorem claimAtHub (id : Nat) : Statement (.claimAtHub id) := ⟨rfl, rfl⟩
theorem replayRestore (h : W64) : Statement (.replayRestore h) := ⟨rfl, rfl⟩
theorem replayContain (h : W64) : Statement (.replayContain h) := ⟨rfl, rfl⟩
theorem undoLogWrite (k : CoreId) (block : Nat) : Statement (.undoLogWrite k block) := ⟨rfl, rfl⟩
theorem nodeDecrement (id : Nat) : Statement (.nodeDecrement id) := ⟨rfl, rfl⟩
theorem nodeFire (id : Nat) : Statement (.nodeFire id) := ⟨rfl, rfl⟩
theorem launchPacketWrite (pkg : Nat) (tenant : Nat) (packet : BitVec 512) (whole : Bool) : Statement (.launchPacketWrite pkg tenant packet whole) := ⟨rfl, rfl⟩
theorem launchTake (pkg : Nat) (tenant : Nat) (l : CluId) : Statement (.launchTake pkg tenant l) := ⟨rfl, rfl⟩
theorem dispatch (k : CoreId) : Statement (.dispatch k) := ⟨rfl, rfl⟩
theorem footprintFillDone (k : CoreId) : Statement (.footprintFillDone k) := ⟨rfl, rfl⟩
theorem priorityAging (task : Nat) : Statement (.priorityAging task) := ⟨rfl, rfl⟩
theorem preemptTrigger (task : Nat) : Statement (.preemptTrigger task) := ⟨rfl, rfl⟩
theorem preemptAck (k : CoreId) (engine : Engine) : Statement (.preemptAck k engine) := ⟨rfl, rfl⟩
theorem frameSwap (k : CoreId) : Statement (.frameSwap k) := ⟨rfl, rfl⟩
theorem frameBackgroundWrite (k : CoreId) (task : Nat) : Statement (.frameBackgroundWrite k task) := ⟨rfl, rfl⟩
theorem taskPark (task : Nat) : Statement (.taskPark task) := ⟨rfl, rfl⟩
theorem translationWalk (l : CluId) (walk : Nat) : Statement (.translationWalk l walk) := ⟨rfl, rfl⟩
theorem pgokRewalk (token : W64) : Statement (.pgokRewalk token) := ⟨rfl, rfl⟩
theorem killFlood (pkg : Nat) (site : Nat) : Statement (.killFlood pkg site) := ⟨rfl, rfl⟩
theorem killSweepExpiry (pkg : Nat) (site : Nat) : Statement (.killSweepExpiry pkg site) := ⟨rfl, rfl⟩
theorem faultEventDeliver (q : QuadId) : Statement (.faultEventDeliver q) := ⟨rfl, rfl⟩
theorem debugWindowWrite (id : Nat) : Statement (.debugWindowWrite id) := ⟨rfl, rfl⟩
theorem auditReplay (l : CluId) : Statement (.auditReplay l) := ⟨rfl, rfl⟩
theorem auditClr (l : CluId) : Statement (.auditClr l) := ⟨rfl, rfl⟩
theorem eccrClr (u : RasUnit) : Statement (.eccrClr u) := ⟨rfl, rfl⟩
theorem eccrStrong (u : RasUnit) (strong : Bool) : Statement (.eccrStrong u strong) := ⟨rfl, rfl⟩
theorem reencodeDone (u : RasUnit) : Statement (.reencodeDone u) := ⟨rfl, rfl⟩
theorem l2RowSpare (l : CluId) (row : Nat) : Statement (.l2RowSpare l row) := ⟨rfl, rfl⟩
theorem remapGo (pkg : Nat) (die : Nat) : Statement (.remapGo pkg die) := ⟨rfl, rfl⟩
theorem remapSup (pkg : Nat) (die : Nat) : Statement (.remapSup pkg die) := ⟨rfl, rfl⟩
theorem sctlSncz (k : CoreId) : Statement (.sctlSncz k) := ⟨rfl, rfl⟩
theorem sctlLtz (k : CoreId) : Statement (.sctlLtz k) := ⟨rfl, rfl⟩
theorem fstatFailedClear (c : CtxId) : Statement (.fstatFailedClear c) := ⟨rfl, rfl⟩
theorem groupTableWrite (pkg : Nat) (iodie : Nat) (entry : Nat) : Statement (.groupTableWrite pkg iodie entry) := ⟨rfl, rfl⟩
theorem registerWrite (r : DevReg) (value : W64) : Statement (.registerWrite r value) := ⟨rfl, rfl⟩
theorem hostCxlMemAccess (pkg : Nat) (off : Nat) (acc : HostAccess) : Statement (.hostCxlMemAccess pkg off acc) := ⟨rfl, rfl⟩
theorem powerUp (bootCores : List Nat) : Statement (.powerUp bootCores) := ⟨rfl, rfl⟩
theorem pkgidWrite (pkg : Nat) (value : W64) : Statement (.pkgidWrite pkg value) := ⟨rfl, rfl⟩
theorem fwgo (pkg : Nat) (value : W64) : Statement (.fwgo pkg value) := ⟨rfl, rfl⟩
theorem firmwareFetchDone (pkg : Nat) (die : Nat) (busError : Bool) : Statement (.firmwareFetchDone pkg die busError) := ⟨rfl, rfl⟩
theorem discoveryPacket (pkg : Nat) (die : Nat) (site : Nat) (port : Dir) : Statement (.discoveryPacket pkg die site port) := ⟨rfl, rfl⟩
theorem discoveryReport (pkg : Nat) (die : Nat) (site : Nat) (selfTest : Bool) : Statement (.discoveryReport pkg die site selfTest) := ⟨rfl, rfl⟩
theorem discoveryTimeout (pkg : Nat) (die : Nat) : Statement (.discoveryTimeout pkg die) := ⟨rfl, rfl⟩
theorem roleAssignment (pkg : Nat) (die : Nat) : Statement (.roleAssignment pkg die) := ⟨rfl, rfl⟩
theorem imageMulticastAck (pkg : Nat) (die : Nat) (site : Nat) : Statement (.imageMulticastAck pkg die site) := ⟨rfl, rfl⟩
theorem dieBootDone (pkg : Nat) (die : Nat) : Statement (.dieBootDone pkg die) := ⟨rfl, rfl⟩
theorem pwrlimWrite (pkg : Nat) (value : W64) : Statement (.pwrlimWrite pkg value) := ⟨rfl, rfl⟩
theorem powerThrottle (pkg : Nat) (island : Nat) (mhz : Nat) (mv : Nat) : Statement (.powerThrottle pkg island mhz mv) := ⟨rfl, rfl⟩
theorem attgo (pkg : Nat) (value : W64) : Statement (.attgo pkg value) := ⟨rfl, rfl⟩
theorem attestDone (pkg : Nat) : Statement (.attestDone pkg) := ⟨rfl, rfl⟩
theorem peerRestore (at_ : Nat) (pkg : Nat) : Statement (.peerRestore at_ pkg) := ⟨rfl, rfl⟩
theorem slotPowerLoss (pkg : Nat) : Statement (.slotPowerLoss pkg) := ⟨rfl, rfl⟩
theorem expanderTimeout (w : Waiter) : Statement (.expanderTimeout w) := ⟨rfl, rfl⟩
theorem gsttTimeout (id : Nat) : Statement (.gsttTimeout id) := ⟨rfl, rfl⟩
theorem multicastMemberTimeout (id : Nat) (pkg : Nat) : Statement (.multicastMemberTimeout id pkg) := ⟨rfl, rfl⟩
theorem cxlCacheHostSnoop (pkg : Nat) (line : Nat) (inval : Bool) : Statement (.cxlCacheHostSnoop pkg line inval) := ⟨rfl, rfl⟩

end Sys2Proof.Laws.WordClass
end

