-- ==== Sys2Proof/Laws/State.lean ====
section
/-! SUPPORT. The fields of State after each update, and what an accessor reads after an update. -/

namespace Sys2Proof.Machine

open Sys2Proof

/-! ### setPkg -/

@[simp] theorem State.setPkg_now (s : State) (p : Nat) (f : Pkg → Pkg) : (s.setPkg p f).now = s.now := rfl
@[simp] theorem State.setPkg_cur (s : State) (p : Nat) (f : Pkg → Pkg) : (s.setPkg p f).cur = s.cur := rfl
@[simp] theorem State.setPkg_pk (s : State) (p : Nat) (f : Pkg → Pkg) : (s.setPkg p f).pk = s.pk := rfl
@[simp] theorem State.setPkg_agenda (s : State) (p : Nat) (f : Pkg → Pkg) : (s.setPkg p f).agenda = s.agenda := rfl
@[simp] theorem State.setPkg_nextId (s : State) (p : Nat) (f : Pkg → Pkg) : (s.setPkg p f).nextId = s.nextId := rfl
@[simp] theorem State.setPkg_draws (s : State) (p : Nat) (f : Pkg → Pkg) : (s.setPkg p f).draws = s.draws := rfl
@[simp] theorem State.setPkg_cores (s : State) (p : Nat) (f : Pkg → Pkg) : (s.setPkg p f).cores = s.cores := rfl
@[simp] theorem State.setPkg_mem (s : State) (p : Nat) (f : Pkg → Pkg) : (s.setPkg p f).mem = s.mem := rfl
@[simp] theorem State.setPkg_keys (s : State) (p : Nat) (f : Pkg → Pkg) : (s.setPkg p f).keys = s.keys := rfl
@[simp] theorem State.setPkg_packs (s : State) (p : Nat) (f : Pkg → Pkg) : (s.setPkg p f).packs = s.packs := rfl
@[simp] theorem State.setPkg_full (s : State) (p : Nat) (f : Pkg → Pkg) : (s.setPkg p f).full = s.full := rfl
@[simp] theorem State.setPkg_owned (s : State) (p : Nat) (f : Pkg → Pkg) : (s.setPkg p f).owned = s.owned := rfl
@[simp] theorem State.setPkg_rels (s : State) (p : Nat) (f : Pkg → Pkg) : (s.setPkg p f).rels = s.rels := rfl
@[simp] theorem State.setPkg_poison (s : State) (p : Nat) (f : Pkg → Pkg) : (s.setPkg p f).poison = s.poison := rfl
@[simp] theorem State.setPkg_monitors (s : State) (p : Nat) (f : Pkg → Pkg) : (s.setPkg p f).monitors = s.monitors := rfl
@[simp] theorem State.setPkg_tokens (s : State) (p : Nat) (f : Pkg → Pkg) : (s.setPkg p f).tokens = s.tokens := rfl
@[simp] theorem State.setPkg_hostHeld (s : State) (p : Nat) (f : Pkg → Pkg) : (s.setPkg p f).hostHeld = s.hostHeld := rfl
@[simp] theorem State.setPkg_slices (s : State) (p : Nat) (f : Pkg → Pkg) : (s.setPkg p f).slices = s.slices := rfl
@[simp] theorem State.setPkg_accs (s : State) (p : Nat) (f : Pkg → Pkg) : (s.setPkg p f).accs = s.accs := rfl
@[simp] theorem State.setPkg_copies (s : State) (p : Nat) (f : Pkg → Pkg) : (s.setPkg p f).copies = s.copies := rfl
@[simp] theorem State.setPkg_streams (s : State) (p : Nat) (f : Pkg → Pkg) : (s.setPkg p f).streams = s.streams := rfl
@[simp] theorem State.setPkg_msgs (s : State) (p : Nat) (f : Pkg → Pkg) : (s.setPkg p f).msgs = s.msgs := rfl
@[simp] theorem State.setPkg_mcsts (s : State) (p : Nat) (f : Pkg → Pkg) : (s.setPkg p f).mcsts = s.mcsts := rfl
@[simp] theorem State.setPkg_gsts (s : State) (p : Nat) (f : Pkg → Pkg) : (s.setPkg p f).gsts = s.gsts := rfl
@[simp] theorem State.setPkg_nodeOps (s : State) (p : Nat) (f : Pkg → Pkg) : (s.setPkg p f).nodeOps = s.nodeOps := rfl
@[simp] theorem State.setPkg_fires (s : State) (p : Nat) (f : Pkg → Pkg) : (s.setPkg p f).fires = s.fires := rfl
@[simp] theorem State.setPkg_claims (s : State) (p : Nat) (f : Pkg → Pkg) : (s.setPkg p f).claims = s.claims := rfl
@[simp] theorem State.setPkg_hubs (s : State) (p : Nat) (f : Pkg → Pkg) : (s.setPkg p f).hubs = s.hubs := rfl
@[simp] theorem State.setPkg_returns (s : State) (p : Nat) (f : Pkg → Pkg) : (s.setPkg p f).returns = s.returns := rfl
@[simp] theorem State.setPkg_tasks (s : State) (p : Nat) (f : Pkg → Pkg) : (s.setPkg p f).tasks = s.tasks := rfl
@[simp] theorem State.setPkg_units (s : State) (p : Nat) (f : Pkg → Pkg) : (s.setPkg p f).units = s.units := rfl
@[simp] theorem State.setPkg_audits (s : State) (p : Nat) (f : Pkg → Pkg) : (s.setPkg p f).audits = s.audits := rfl
@[simp] theorem State.setPkg_ras (s : State) (p : Nat) (f : Pkg → Pkg) : (s.setPkg p f).ras = s.ras := rfl
@[simp] theorem State.setPkg_quads (s : State) (p : Nat) (f : Pkg → Pkg) : (s.setPkg p f).quads = s.quads := rfl
@[simp] theorem State.setPkg_groups (s : State) (p : Nat) (f : Pkg → Pkg) : (s.setPkg p f).groups = s.groups := rfl
@[simp] theorem State.setPkg_gwaits (s : State) (p : Nat) (f : Pkg → Pkg) : (s.setPkg p f).gwaits = s.gwaits := rfl
@[simp] theorem State.setPkg_parts (s : State) (p : Nat) (f : Pkg → Pkg) : (s.setPkg p f).parts = s.parts := rfl
@[simp] theorem State.setPkg_gmsgs (s : State) (p : Nat) (f : Pkg → Pkg) : (s.setPkg p f).gmsgs = s.gmsgs := rfl

/-! ### setDie -/

@[simp] theorem State.setDie_now (s : State) (p d : Nat) (f : DieState → DieState) : (s.setDie p d f).now = s.now := rfl
@[simp] theorem State.setDie_cur (s : State) (p d : Nat) (f : DieState → DieState) : (s.setDie p d f).cur = s.cur := rfl
@[simp] theorem State.setDie_pk (s : State) (p d : Nat) (f : DieState → DieState) : (s.setDie p d f).pk = s.pk := rfl
@[simp] theorem State.setDie_agenda (s : State) (p d : Nat) (f : DieState → DieState) : (s.setDie p d f).agenda = s.agenda := rfl
@[simp] theorem State.setDie_nextId (s : State) (p d : Nat) (f : DieState → DieState) : (s.setDie p d f).nextId = s.nextId := rfl
@[simp] theorem State.setDie_draws (s : State) (p d : Nat) (f : DieState → DieState) : (s.setDie p d f).draws = s.draws := rfl
@[simp] theorem State.setDie_cores (s : State) (p d : Nat) (f : DieState → DieState) : (s.setDie p d f).cores = s.cores := rfl
@[simp] theorem State.setDie_mem (s : State) (p d : Nat) (f : DieState → DieState) : (s.setDie p d f).mem = s.mem := rfl
@[simp] theorem State.setDie_keys (s : State) (p d : Nat) (f : DieState → DieState) : (s.setDie p d f).keys = s.keys := rfl
@[simp] theorem State.setDie_packs (s : State) (p d : Nat) (f : DieState → DieState) : (s.setDie p d f).packs = s.packs := rfl
@[simp] theorem State.setDie_full (s : State) (p d : Nat) (f : DieState → DieState) : (s.setDie p d f).full = s.full := rfl
@[simp] theorem State.setDie_owned (s : State) (p d : Nat) (f : DieState → DieState) : (s.setDie p d f).owned = s.owned := rfl
@[simp] theorem State.setDie_rels (s : State) (p d : Nat) (f : DieState → DieState) : (s.setDie p d f).rels = s.rels := rfl
@[simp] theorem State.setDie_poison (s : State) (p d : Nat) (f : DieState → DieState) : (s.setDie p d f).poison = s.poison := rfl
@[simp] theorem State.setDie_monitors (s : State) (p d : Nat) (f : DieState → DieState) : (s.setDie p d f).monitors = s.monitors := rfl
@[simp] theorem State.setDie_tokens (s : State) (p d : Nat) (f : DieState → DieState) : (s.setDie p d f).tokens = s.tokens := rfl
@[simp] theorem State.setDie_hostHeld (s : State) (p d : Nat) (f : DieState → DieState) : (s.setDie p d f).hostHeld = s.hostHeld := rfl
@[simp] theorem State.setDie_slices (s : State) (p d : Nat) (f : DieState → DieState) : (s.setDie p d f).slices = s.slices := rfl
@[simp] theorem State.setDie_accs (s : State) (p d : Nat) (f : DieState → DieState) : (s.setDie p d f).accs = s.accs := rfl
@[simp] theorem State.setDie_copies (s : State) (p d : Nat) (f : DieState → DieState) : (s.setDie p d f).copies = s.copies := rfl
@[simp] theorem State.setDie_streams (s : State) (p d : Nat) (f : DieState → DieState) : (s.setDie p d f).streams = s.streams := rfl
@[simp] theorem State.setDie_msgs (s : State) (p d : Nat) (f : DieState → DieState) : (s.setDie p d f).msgs = s.msgs := rfl
@[simp] theorem State.setDie_mcsts (s : State) (p d : Nat) (f : DieState → DieState) : (s.setDie p d f).mcsts = s.mcsts := rfl
@[simp] theorem State.setDie_gsts (s : State) (p d : Nat) (f : DieState → DieState) : (s.setDie p d f).gsts = s.gsts := rfl
@[simp] theorem State.setDie_nodeOps (s : State) (p d : Nat) (f : DieState → DieState) : (s.setDie p d f).nodeOps = s.nodeOps := rfl
@[simp] theorem State.setDie_fires (s : State) (p d : Nat) (f : DieState → DieState) : (s.setDie p d f).fires = s.fires := rfl
@[simp] theorem State.setDie_claims (s : State) (p d : Nat) (f : DieState → DieState) : (s.setDie p d f).claims = s.claims := rfl
@[simp] theorem State.setDie_hubs (s : State) (p d : Nat) (f : DieState → DieState) : (s.setDie p d f).hubs = s.hubs := rfl
@[simp] theorem State.setDie_returns (s : State) (p d : Nat) (f : DieState → DieState) : (s.setDie p d f).returns = s.returns := rfl
@[simp] theorem State.setDie_tasks (s : State) (p d : Nat) (f : DieState → DieState) : (s.setDie p d f).tasks = s.tasks := rfl
@[simp] theorem State.setDie_units (s : State) (p d : Nat) (f : DieState → DieState) : (s.setDie p d f).units = s.units := rfl
@[simp] theorem State.setDie_audits (s : State) (p d : Nat) (f : DieState → DieState) : (s.setDie p d f).audits = s.audits := rfl
@[simp] theorem State.setDie_ras (s : State) (p d : Nat) (f : DieState → DieState) : (s.setDie p d f).ras = s.ras := rfl
@[simp] theorem State.setDie_quads (s : State) (p d : Nat) (f : DieState → DieState) : (s.setDie p d f).quads = s.quads := rfl
@[simp] theorem State.setDie_groups (s : State) (p d : Nat) (f : DieState → DieState) : (s.setDie p d f).groups = s.groups := rfl
@[simp] theorem State.setDie_gwaits (s : State) (p d : Nat) (f : DieState → DieState) : (s.setDie p d f).gwaits = s.gwaits := rfl
@[simp] theorem State.setDie_parts (s : State) (p d : Nat) (f : DieState → DieState) : (s.setDie p d f).parts = s.parts := rfl
@[simp] theorem State.setDie_gmsgs (s : State) (p d : Nat) (f : DieState → DieState) : (s.setDie p d f).gmsgs = s.gmsgs := rfl

/-! ### setTenant -/

@[simp] theorem State.setTenant_now (s : State) (p n : Nat) (f : Tenant → Tenant) : (s.setTenant p n f).now = s.now := rfl
@[simp] theorem State.setTenant_cur (s : State) (p n : Nat) (f : Tenant → Tenant) : (s.setTenant p n f).cur = s.cur := rfl
@[simp] theorem State.setTenant_pk (s : State) (p n : Nat) (f : Tenant → Tenant) : (s.setTenant p n f).pk = s.pk := rfl
@[simp] theorem State.setTenant_agenda (s : State) (p n : Nat) (f : Tenant → Tenant) : (s.setTenant p n f).agenda = s.agenda := rfl
@[simp] theorem State.setTenant_nextId (s : State) (p n : Nat) (f : Tenant → Tenant) : (s.setTenant p n f).nextId = s.nextId := rfl
@[simp] theorem State.setTenant_draws (s : State) (p n : Nat) (f : Tenant → Tenant) : (s.setTenant p n f).draws = s.draws := rfl
@[simp] theorem State.setTenant_cores (s : State) (p n : Nat) (f : Tenant → Tenant) : (s.setTenant p n f).cores = s.cores := rfl
@[simp] theorem State.setTenant_mem (s : State) (p n : Nat) (f : Tenant → Tenant) : (s.setTenant p n f).mem = s.mem := rfl
@[simp] theorem State.setTenant_keys (s : State) (p n : Nat) (f : Tenant → Tenant) : (s.setTenant p n f).keys = s.keys := rfl
@[simp] theorem State.setTenant_packs (s : State) (p n : Nat) (f : Tenant → Tenant) : (s.setTenant p n f).packs = s.packs := rfl
@[simp] theorem State.setTenant_full (s : State) (p n : Nat) (f : Tenant → Tenant) : (s.setTenant p n f).full = s.full := rfl
@[simp] theorem State.setTenant_owned (s : State) (p n : Nat) (f : Tenant → Tenant) : (s.setTenant p n f).owned = s.owned := rfl
@[simp] theorem State.setTenant_rels (s : State) (p n : Nat) (f : Tenant → Tenant) : (s.setTenant p n f).rels = s.rels := rfl
@[simp] theorem State.setTenant_poison (s : State) (p n : Nat) (f : Tenant → Tenant) : (s.setTenant p n f).poison = s.poison := rfl
@[simp] theorem State.setTenant_monitors (s : State) (p n : Nat) (f : Tenant → Tenant) : (s.setTenant p n f).monitors = s.monitors := rfl
@[simp] theorem State.setTenant_tokens (s : State) (p n : Nat) (f : Tenant → Tenant) : (s.setTenant p n f).tokens = s.tokens := rfl
@[simp] theorem State.setTenant_hostHeld (s : State) (p n : Nat) (f : Tenant → Tenant) : (s.setTenant p n f).hostHeld = s.hostHeld := rfl
@[simp] theorem State.setTenant_slices (s : State) (p n : Nat) (f : Tenant → Tenant) : (s.setTenant p n f).slices = s.slices := rfl
@[simp] theorem State.setTenant_accs (s : State) (p n : Nat) (f : Tenant → Tenant) : (s.setTenant p n f).accs = s.accs := rfl
@[simp] theorem State.setTenant_copies (s : State) (p n : Nat) (f : Tenant → Tenant) : (s.setTenant p n f).copies = s.copies := rfl
@[simp] theorem State.setTenant_streams (s : State) (p n : Nat) (f : Tenant → Tenant) : (s.setTenant p n f).streams = s.streams := rfl
@[simp] theorem State.setTenant_msgs (s : State) (p n : Nat) (f : Tenant → Tenant) : (s.setTenant p n f).msgs = s.msgs := rfl
@[simp] theorem State.setTenant_mcsts (s : State) (p n : Nat) (f : Tenant → Tenant) : (s.setTenant p n f).mcsts = s.mcsts := rfl
@[simp] theorem State.setTenant_gsts (s : State) (p n : Nat) (f : Tenant → Tenant) : (s.setTenant p n f).gsts = s.gsts := rfl
@[simp] theorem State.setTenant_nodeOps (s : State) (p n : Nat) (f : Tenant → Tenant) : (s.setTenant p n f).nodeOps = s.nodeOps := rfl
@[simp] theorem State.setTenant_fires (s : State) (p n : Nat) (f : Tenant → Tenant) : (s.setTenant p n f).fires = s.fires := rfl
@[simp] theorem State.setTenant_claims (s : State) (p n : Nat) (f : Tenant → Tenant) : (s.setTenant p n f).claims = s.claims := rfl
@[simp] theorem State.setTenant_hubs (s : State) (p n : Nat) (f : Tenant → Tenant) : (s.setTenant p n f).hubs = s.hubs := rfl
@[simp] theorem State.setTenant_returns (s : State) (p n : Nat) (f : Tenant → Tenant) : (s.setTenant p n f).returns = s.returns := rfl
@[simp] theorem State.setTenant_tasks (s : State) (p n : Nat) (f : Tenant → Tenant) : (s.setTenant p n f).tasks = s.tasks := rfl
@[simp] theorem State.setTenant_units (s : State) (p n : Nat) (f : Tenant → Tenant) : (s.setTenant p n f).units = s.units := rfl
@[simp] theorem State.setTenant_audits (s : State) (p n : Nat) (f : Tenant → Tenant) : (s.setTenant p n f).audits = s.audits := rfl
@[simp] theorem State.setTenant_ras (s : State) (p n : Nat) (f : Tenant → Tenant) : (s.setTenant p n f).ras = s.ras := rfl
@[simp] theorem State.setTenant_quads (s : State) (p n : Nat) (f : Tenant → Tenant) : (s.setTenant p n f).quads = s.quads := rfl
@[simp] theorem State.setTenant_groups (s : State) (p n : Nat) (f : Tenant → Tenant) : (s.setTenant p n f).groups = s.groups := rfl
@[simp] theorem State.setTenant_gwaits (s : State) (p n : Nat) (f : Tenant → Tenant) : (s.setTenant p n f).gwaits = s.gwaits := rfl
@[simp] theorem State.setTenant_parts (s : State) (p n : Nat) (f : Tenant → Tenant) : (s.setTenant p n f).parts = s.parts := rfl
@[simp] theorem State.setTenant_gmsgs (s : State) (p n : Nat) (f : Tenant → Tenant) : (s.setTenant p n f).gmsgs = s.gmsgs := rfl

/-! ### setCore -/

@[simp] theorem State.setCore_now (s : State) (k : CoreId) (f : Core → Core) : (s.setCore k f).now = s.now := rfl
@[simp] theorem State.setCore_cur (s : State) (k : CoreId) (f : Core → Core) : (s.setCore k f).cur = s.cur := rfl
@[simp] theorem State.setCore_pk (s : State) (k : CoreId) (f : Core → Core) : (s.setCore k f).pk = s.pk := rfl
@[simp] theorem State.setCore_agenda (s : State) (k : CoreId) (f : Core → Core) : (s.setCore k f).agenda = s.agenda := rfl
@[simp] theorem State.setCore_nextId (s : State) (k : CoreId) (f : Core → Core) : (s.setCore k f).nextId = s.nextId := rfl
@[simp] theorem State.setCore_draws (s : State) (k : CoreId) (f : Core → Core) : (s.setCore k f).draws = s.draws := rfl
@[simp] theorem State.setCore_pkgs (s : State) (k : CoreId) (f : Core → Core) : (s.setCore k f).pkgs = s.pkgs := rfl
@[simp] theorem State.setCore_mem (s : State) (k : CoreId) (f : Core → Core) : (s.setCore k f).mem = s.mem := rfl
@[simp] theorem State.setCore_keys (s : State) (k : CoreId) (f : Core → Core) : (s.setCore k f).keys = s.keys := rfl
@[simp] theorem State.setCore_packs (s : State) (k : CoreId) (f : Core → Core) : (s.setCore k f).packs = s.packs := rfl
@[simp] theorem State.setCore_full (s : State) (k : CoreId) (f : Core → Core) : (s.setCore k f).full = s.full := rfl
@[simp] theorem State.setCore_owned (s : State) (k : CoreId) (f : Core → Core) : (s.setCore k f).owned = s.owned := rfl
@[simp] theorem State.setCore_rels (s : State) (k : CoreId) (f : Core → Core) : (s.setCore k f).rels = s.rels := rfl
@[simp] theorem State.setCore_poison (s : State) (k : CoreId) (f : Core → Core) : (s.setCore k f).poison = s.poison := rfl
@[simp] theorem State.setCore_monitors (s : State) (k : CoreId) (f : Core → Core) : (s.setCore k f).monitors = s.monitors := rfl
@[simp] theorem State.setCore_tokens (s : State) (k : CoreId) (f : Core → Core) : (s.setCore k f).tokens = s.tokens := rfl
@[simp] theorem State.setCore_hostHeld (s : State) (k : CoreId) (f : Core → Core) : (s.setCore k f).hostHeld = s.hostHeld := rfl
@[simp] theorem State.setCore_slices (s : State) (k : CoreId) (f : Core → Core) : (s.setCore k f).slices = s.slices := rfl
@[simp] theorem State.setCore_accs (s : State) (k : CoreId) (f : Core → Core) : (s.setCore k f).accs = s.accs := rfl
@[simp] theorem State.setCore_copies (s : State) (k : CoreId) (f : Core → Core) : (s.setCore k f).copies = s.copies := rfl
@[simp] theorem State.setCore_streams (s : State) (k : CoreId) (f : Core → Core) : (s.setCore k f).streams = s.streams := rfl
@[simp] theorem State.setCore_msgs (s : State) (k : CoreId) (f : Core → Core) : (s.setCore k f).msgs = s.msgs := rfl
@[simp] theorem State.setCore_mcsts (s : State) (k : CoreId) (f : Core → Core) : (s.setCore k f).mcsts = s.mcsts := rfl
@[simp] theorem State.setCore_gsts (s : State) (k : CoreId) (f : Core → Core) : (s.setCore k f).gsts = s.gsts := rfl
@[simp] theorem State.setCore_nodeOps (s : State) (k : CoreId) (f : Core → Core) : (s.setCore k f).nodeOps = s.nodeOps := rfl
@[simp] theorem State.setCore_fires (s : State) (k : CoreId) (f : Core → Core) : (s.setCore k f).fires = s.fires := rfl
@[simp] theorem State.setCore_claims (s : State) (k : CoreId) (f : Core → Core) : (s.setCore k f).claims = s.claims := rfl
@[simp] theorem State.setCore_hubs (s : State) (k : CoreId) (f : Core → Core) : (s.setCore k f).hubs = s.hubs := rfl
@[simp] theorem State.setCore_returns (s : State) (k : CoreId) (f : Core → Core) : (s.setCore k f).returns = s.returns := rfl
@[simp] theorem State.setCore_tasks (s : State) (k : CoreId) (f : Core → Core) : (s.setCore k f).tasks = s.tasks := rfl
@[simp] theorem State.setCore_units (s : State) (k : CoreId) (f : Core → Core) : (s.setCore k f).units = s.units := rfl
@[simp] theorem State.setCore_audits (s : State) (k : CoreId) (f : Core → Core) : (s.setCore k f).audits = s.audits := rfl
@[simp] theorem State.setCore_ras (s : State) (k : CoreId) (f : Core → Core) : (s.setCore k f).ras = s.ras := rfl
@[simp] theorem State.setCore_quads (s : State) (k : CoreId) (f : Core → Core) : (s.setCore k f).quads = s.quads := rfl
@[simp] theorem State.setCore_groups (s : State) (k : CoreId) (f : Core → Core) : (s.setCore k f).groups = s.groups := rfl
@[simp] theorem State.setCore_gwaits (s : State) (k : CoreId) (f : Core → Core) : (s.setCore k f).gwaits = s.gwaits := rfl
@[simp] theorem State.setCore_parts (s : State) (k : CoreId) (f : Core → Core) : (s.setCore k f).parts = s.parts := rfl
@[simp] theorem State.setCore_gmsgs (s : State) (k : CoreId) (f : Core → Core) : (s.setCore k f).gmsgs = s.gmsgs := rfl

/-! ### setSlice -/

@[simp] theorem State.setSlice_now (s : State) (l : CluId) (f : Slice → Slice) : (s.setSlice l f).now = s.now := rfl
@[simp] theorem State.setSlice_cur (s : State) (l : CluId) (f : Slice → Slice) : (s.setSlice l f).cur = s.cur := rfl
@[simp] theorem State.setSlice_pk (s : State) (l : CluId) (f : Slice → Slice) : (s.setSlice l f).pk = s.pk := rfl
@[simp] theorem State.setSlice_agenda (s : State) (l : CluId) (f : Slice → Slice) : (s.setSlice l f).agenda = s.agenda := rfl
@[simp] theorem State.setSlice_nextId (s : State) (l : CluId) (f : Slice → Slice) : (s.setSlice l f).nextId = s.nextId := rfl
@[simp] theorem State.setSlice_draws (s : State) (l : CluId) (f : Slice → Slice) : (s.setSlice l f).draws = s.draws := rfl
@[simp] theorem State.setSlice_pkgs (s : State) (l : CluId) (f : Slice → Slice) : (s.setSlice l f).pkgs = s.pkgs := rfl
@[simp] theorem State.setSlice_cores (s : State) (l : CluId) (f : Slice → Slice) : (s.setSlice l f).cores = s.cores := rfl
@[simp] theorem State.setSlice_mem (s : State) (l : CluId) (f : Slice → Slice) : (s.setSlice l f).mem = s.mem := rfl
@[simp] theorem State.setSlice_keys (s : State) (l : CluId) (f : Slice → Slice) : (s.setSlice l f).keys = s.keys := rfl
@[simp] theorem State.setSlice_packs (s : State) (l : CluId) (f : Slice → Slice) : (s.setSlice l f).packs = s.packs := rfl
@[simp] theorem State.setSlice_full (s : State) (l : CluId) (f : Slice → Slice) : (s.setSlice l f).full = s.full := rfl
@[simp] theorem State.setSlice_owned (s : State) (l : CluId) (f : Slice → Slice) : (s.setSlice l f).owned = s.owned := rfl
@[simp] theorem State.setSlice_rels (s : State) (l : CluId) (f : Slice → Slice) : (s.setSlice l f).rels = s.rels := rfl
@[simp] theorem State.setSlice_poison (s : State) (l : CluId) (f : Slice → Slice) : (s.setSlice l f).poison = s.poison := rfl
@[simp] theorem State.setSlice_monitors (s : State) (l : CluId) (f : Slice → Slice) : (s.setSlice l f).monitors = s.monitors := rfl
@[simp] theorem State.setSlice_tokens (s : State) (l : CluId) (f : Slice → Slice) : (s.setSlice l f).tokens = s.tokens := rfl
@[simp] theorem State.setSlice_hostHeld (s : State) (l : CluId) (f : Slice → Slice) : (s.setSlice l f).hostHeld = s.hostHeld := rfl
@[simp] theorem State.setSlice_accs (s : State) (l : CluId) (f : Slice → Slice) : (s.setSlice l f).accs = s.accs := rfl
@[simp] theorem State.setSlice_copies (s : State) (l : CluId) (f : Slice → Slice) : (s.setSlice l f).copies = s.copies := rfl
@[simp] theorem State.setSlice_streams (s : State) (l : CluId) (f : Slice → Slice) : (s.setSlice l f).streams = s.streams := rfl
@[simp] theorem State.setSlice_msgs (s : State) (l : CluId) (f : Slice → Slice) : (s.setSlice l f).msgs = s.msgs := rfl
@[simp] theorem State.setSlice_mcsts (s : State) (l : CluId) (f : Slice → Slice) : (s.setSlice l f).mcsts = s.mcsts := rfl
@[simp] theorem State.setSlice_gsts (s : State) (l : CluId) (f : Slice → Slice) : (s.setSlice l f).gsts = s.gsts := rfl
@[simp] theorem State.setSlice_nodeOps (s : State) (l : CluId) (f : Slice → Slice) : (s.setSlice l f).nodeOps = s.nodeOps := rfl
@[simp] theorem State.setSlice_fires (s : State) (l : CluId) (f : Slice → Slice) : (s.setSlice l f).fires = s.fires := rfl
@[simp] theorem State.setSlice_claims (s : State) (l : CluId) (f : Slice → Slice) : (s.setSlice l f).claims = s.claims := rfl
@[simp] theorem State.setSlice_hubs (s : State) (l : CluId) (f : Slice → Slice) : (s.setSlice l f).hubs = s.hubs := rfl
@[simp] theorem State.setSlice_returns (s : State) (l : CluId) (f : Slice → Slice) : (s.setSlice l f).returns = s.returns := rfl
@[simp] theorem State.setSlice_tasks (s : State) (l : CluId) (f : Slice → Slice) : (s.setSlice l f).tasks = s.tasks := rfl
@[simp] theorem State.setSlice_units (s : State) (l : CluId) (f : Slice → Slice) : (s.setSlice l f).units = s.units := rfl
@[simp] theorem State.setSlice_audits (s : State) (l : CluId) (f : Slice → Slice) : (s.setSlice l f).audits = s.audits := rfl
@[simp] theorem State.setSlice_ras (s : State) (l : CluId) (f : Slice → Slice) : (s.setSlice l f).ras = s.ras := rfl
@[simp] theorem State.setSlice_quads (s : State) (l : CluId) (f : Slice → Slice) : (s.setSlice l f).quads = s.quads := rfl
@[simp] theorem State.setSlice_groups (s : State) (l : CluId) (f : Slice → Slice) : (s.setSlice l f).groups = s.groups := rfl
@[simp] theorem State.setSlice_gwaits (s : State) (l : CluId) (f : Slice → Slice) : (s.setSlice l f).gwaits = s.gwaits := rfl
@[simp] theorem State.setSlice_parts (s : State) (l : CluId) (f : Slice → Slice) : (s.setSlice l f).parts = s.parts := rfl
@[simp] theorem State.setSlice_gmsgs (s : State) (l : CluId) (f : Slice → Slice) : (s.setSlice l f).gmsgs = s.gmsgs := rfl

/-! ### setRas -/

@[simp] theorem State.setRas_now (s : State) (u : RasUnit) (f : Ras → Ras) : (s.setRas u f).now = s.now := rfl
@[simp] theorem State.setRas_cur (s : State) (u : RasUnit) (f : Ras → Ras) : (s.setRas u f).cur = s.cur := rfl
@[simp] theorem State.setRas_pk (s : State) (u : RasUnit) (f : Ras → Ras) : (s.setRas u f).pk = s.pk := rfl
@[simp] theorem State.setRas_agenda (s : State) (u : RasUnit) (f : Ras → Ras) : (s.setRas u f).agenda = s.agenda := rfl
@[simp] theorem State.setRas_nextId (s : State) (u : RasUnit) (f : Ras → Ras) : (s.setRas u f).nextId = s.nextId := rfl
@[simp] theorem State.setRas_draws (s : State) (u : RasUnit) (f : Ras → Ras) : (s.setRas u f).draws = s.draws := rfl
@[simp] theorem State.setRas_pkgs (s : State) (u : RasUnit) (f : Ras → Ras) : (s.setRas u f).pkgs = s.pkgs := rfl
@[simp] theorem State.setRas_cores (s : State) (u : RasUnit) (f : Ras → Ras) : (s.setRas u f).cores = s.cores := rfl
@[simp] theorem State.setRas_mem (s : State) (u : RasUnit) (f : Ras → Ras) : (s.setRas u f).mem = s.mem := rfl
@[simp] theorem State.setRas_keys (s : State) (u : RasUnit) (f : Ras → Ras) : (s.setRas u f).keys = s.keys := rfl
@[simp] theorem State.setRas_packs (s : State) (u : RasUnit) (f : Ras → Ras) : (s.setRas u f).packs = s.packs := rfl
@[simp] theorem State.setRas_full (s : State) (u : RasUnit) (f : Ras → Ras) : (s.setRas u f).full = s.full := rfl
@[simp] theorem State.setRas_owned (s : State) (u : RasUnit) (f : Ras → Ras) : (s.setRas u f).owned = s.owned := rfl
@[simp] theorem State.setRas_rels (s : State) (u : RasUnit) (f : Ras → Ras) : (s.setRas u f).rels = s.rels := rfl
@[simp] theorem State.setRas_poison (s : State) (u : RasUnit) (f : Ras → Ras) : (s.setRas u f).poison = s.poison := rfl
@[simp] theorem State.setRas_monitors (s : State) (u : RasUnit) (f : Ras → Ras) : (s.setRas u f).monitors = s.monitors := rfl
@[simp] theorem State.setRas_tokens (s : State) (u : RasUnit) (f : Ras → Ras) : (s.setRas u f).tokens = s.tokens := rfl
@[simp] theorem State.setRas_hostHeld (s : State) (u : RasUnit) (f : Ras → Ras) : (s.setRas u f).hostHeld = s.hostHeld := rfl
@[simp] theorem State.setRas_slices (s : State) (u : RasUnit) (f : Ras → Ras) : (s.setRas u f).slices = s.slices := rfl
@[simp] theorem State.setRas_accs (s : State) (u : RasUnit) (f : Ras → Ras) : (s.setRas u f).accs = s.accs := rfl
@[simp] theorem State.setRas_copies (s : State) (u : RasUnit) (f : Ras → Ras) : (s.setRas u f).copies = s.copies := rfl
@[simp] theorem State.setRas_streams (s : State) (u : RasUnit) (f : Ras → Ras) : (s.setRas u f).streams = s.streams := rfl
@[simp] theorem State.setRas_msgs (s : State) (u : RasUnit) (f : Ras → Ras) : (s.setRas u f).msgs = s.msgs := rfl
@[simp] theorem State.setRas_mcsts (s : State) (u : RasUnit) (f : Ras → Ras) : (s.setRas u f).mcsts = s.mcsts := rfl
@[simp] theorem State.setRas_gsts (s : State) (u : RasUnit) (f : Ras → Ras) : (s.setRas u f).gsts = s.gsts := rfl
@[simp] theorem State.setRas_nodeOps (s : State) (u : RasUnit) (f : Ras → Ras) : (s.setRas u f).nodeOps = s.nodeOps := rfl
@[simp] theorem State.setRas_fires (s : State) (u : RasUnit) (f : Ras → Ras) : (s.setRas u f).fires = s.fires := rfl
@[simp] theorem State.setRas_claims (s : State) (u : RasUnit) (f : Ras → Ras) : (s.setRas u f).claims = s.claims := rfl
@[simp] theorem State.setRas_hubs (s : State) (u : RasUnit) (f : Ras → Ras) : (s.setRas u f).hubs = s.hubs := rfl
@[simp] theorem State.setRas_returns (s : State) (u : RasUnit) (f : Ras → Ras) : (s.setRas u f).returns = s.returns := rfl
@[simp] theorem State.setRas_tasks (s : State) (u : RasUnit) (f : Ras → Ras) : (s.setRas u f).tasks = s.tasks := rfl
@[simp] theorem State.setRas_units (s : State) (u : RasUnit) (f : Ras → Ras) : (s.setRas u f).units = s.units := rfl
@[simp] theorem State.setRas_audits (s : State) (u : RasUnit) (f : Ras → Ras) : (s.setRas u f).audits = s.audits := rfl
@[simp] theorem State.setRas_quads (s : State) (u : RasUnit) (f : Ras → Ras) : (s.setRas u f).quads = s.quads := rfl
@[simp] theorem State.setRas_groups (s : State) (u : RasUnit) (f : Ras → Ras) : (s.setRas u f).groups = s.groups := rfl
@[simp] theorem State.setRas_gwaits (s : State) (u : RasUnit) (f : Ras → Ras) : (s.setRas u f).gwaits = s.gwaits := rfl
@[simp] theorem State.setRas_parts (s : State) (u : RasUnit) (f : Ras → Ras) : (s.setRas u f).parts = s.parts := rfl
@[simp] theorem State.setRas_gmsgs (s : State) (u : RasUnit) (f : Ras → Ras) : (s.setRas u f).gmsgs = s.gmsgs := rfl

/-! ### setAudit -/

@[simp] theorem State.setAudit_now (s : State) (l : CluId) (f : Audit → Audit) : (s.setAudit l f).now = s.now := rfl
@[simp] theorem State.setAudit_cur (s : State) (l : CluId) (f : Audit → Audit) : (s.setAudit l f).cur = s.cur := rfl
@[simp] theorem State.setAudit_pk (s : State) (l : CluId) (f : Audit → Audit) : (s.setAudit l f).pk = s.pk := rfl
@[simp] theorem State.setAudit_agenda (s : State) (l : CluId) (f : Audit → Audit) : (s.setAudit l f).agenda = s.agenda := rfl
@[simp] theorem State.setAudit_nextId (s : State) (l : CluId) (f : Audit → Audit) : (s.setAudit l f).nextId = s.nextId := rfl
@[simp] theorem State.setAudit_draws (s : State) (l : CluId) (f : Audit → Audit) : (s.setAudit l f).draws = s.draws := rfl
@[simp] theorem State.setAudit_pkgs (s : State) (l : CluId) (f : Audit → Audit) : (s.setAudit l f).pkgs = s.pkgs := rfl
@[simp] theorem State.setAudit_cores (s : State) (l : CluId) (f : Audit → Audit) : (s.setAudit l f).cores = s.cores := rfl
@[simp] theorem State.setAudit_mem (s : State) (l : CluId) (f : Audit → Audit) : (s.setAudit l f).mem = s.mem := rfl
@[simp] theorem State.setAudit_keys (s : State) (l : CluId) (f : Audit → Audit) : (s.setAudit l f).keys = s.keys := rfl
@[simp] theorem State.setAudit_packs (s : State) (l : CluId) (f : Audit → Audit) : (s.setAudit l f).packs = s.packs := rfl
@[simp] theorem State.setAudit_full (s : State) (l : CluId) (f : Audit → Audit) : (s.setAudit l f).full = s.full := rfl
@[simp] theorem State.setAudit_owned (s : State) (l : CluId) (f : Audit → Audit) : (s.setAudit l f).owned = s.owned := rfl
@[simp] theorem State.setAudit_rels (s : State) (l : CluId) (f : Audit → Audit) : (s.setAudit l f).rels = s.rels := rfl
@[simp] theorem State.setAudit_poison (s : State) (l : CluId) (f : Audit → Audit) : (s.setAudit l f).poison = s.poison := rfl
@[simp] theorem State.setAudit_monitors (s : State) (l : CluId) (f : Audit → Audit) : (s.setAudit l f).monitors = s.monitors := rfl
@[simp] theorem State.setAudit_tokens (s : State) (l : CluId) (f : Audit → Audit) : (s.setAudit l f).tokens = s.tokens := rfl
@[simp] theorem State.setAudit_hostHeld (s : State) (l : CluId) (f : Audit → Audit) : (s.setAudit l f).hostHeld = s.hostHeld := rfl
@[simp] theorem State.setAudit_slices (s : State) (l : CluId) (f : Audit → Audit) : (s.setAudit l f).slices = s.slices := rfl
@[simp] theorem State.setAudit_accs (s : State) (l : CluId) (f : Audit → Audit) : (s.setAudit l f).accs = s.accs := rfl
@[simp] theorem State.setAudit_copies (s : State) (l : CluId) (f : Audit → Audit) : (s.setAudit l f).copies = s.copies := rfl
@[simp] theorem State.setAudit_streams (s : State) (l : CluId) (f : Audit → Audit) : (s.setAudit l f).streams = s.streams := rfl
@[simp] theorem State.setAudit_msgs (s : State) (l : CluId) (f : Audit → Audit) : (s.setAudit l f).msgs = s.msgs := rfl
@[simp] theorem State.setAudit_mcsts (s : State) (l : CluId) (f : Audit → Audit) : (s.setAudit l f).mcsts = s.mcsts := rfl
@[simp] theorem State.setAudit_gsts (s : State) (l : CluId) (f : Audit → Audit) : (s.setAudit l f).gsts = s.gsts := rfl
@[simp] theorem State.setAudit_nodeOps (s : State) (l : CluId) (f : Audit → Audit) : (s.setAudit l f).nodeOps = s.nodeOps := rfl
@[simp] theorem State.setAudit_fires (s : State) (l : CluId) (f : Audit → Audit) : (s.setAudit l f).fires = s.fires := rfl
@[simp] theorem State.setAudit_claims (s : State) (l : CluId) (f : Audit → Audit) : (s.setAudit l f).claims = s.claims := rfl
@[simp] theorem State.setAudit_hubs (s : State) (l : CluId) (f : Audit → Audit) : (s.setAudit l f).hubs = s.hubs := rfl
@[simp] theorem State.setAudit_returns (s : State) (l : CluId) (f : Audit → Audit) : (s.setAudit l f).returns = s.returns := rfl
@[simp] theorem State.setAudit_tasks (s : State) (l : CluId) (f : Audit → Audit) : (s.setAudit l f).tasks = s.tasks := rfl
@[simp] theorem State.setAudit_units (s : State) (l : CluId) (f : Audit → Audit) : (s.setAudit l f).units = s.units := rfl
@[simp] theorem State.setAudit_ras (s : State) (l : CluId) (f : Audit → Audit) : (s.setAudit l f).ras = s.ras := rfl
@[simp] theorem State.setAudit_quads (s : State) (l : CluId) (f : Audit → Audit) : (s.setAudit l f).quads = s.quads := rfl
@[simp] theorem State.setAudit_groups (s : State) (l : CluId) (f : Audit → Audit) : (s.setAudit l f).groups = s.groups := rfl
@[simp] theorem State.setAudit_gwaits (s : State) (l : CluId) (f : Audit → Audit) : (s.setAudit l f).gwaits = s.gwaits := rfl
@[simp] theorem State.setAudit_parts (s : State) (l : CluId) (f : Audit → Audit) : (s.setAudit l f).parts = s.parts := rfl
@[simp] theorem State.setAudit_gmsgs (s : State) (l : CluId) (f : Audit → Audit) : (s.setAudit l f).gmsgs = s.gmsgs := rfl

/-! ### setTc -/

@[simp] theorem State.setTc_now (s : State) (k : CoreId) (f : TaskCore → TaskCore) : (s.setTc k f).now = s.now := rfl
@[simp] theorem State.setTc_cur (s : State) (k : CoreId) (f : TaskCore → TaskCore) : (s.setTc k f).cur = s.cur := rfl
@[simp] theorem State.setTc_pk (s : State) (k : CoreId) (f : TaskCore → TaskCore) : (s.setTc k f).pk = s.pk := rfl
@[simp] theorem State.setTc_agenda (s : State) (k : CoreId) (f : TaskCore → TaskCore) : (s.setTc k f).agenda = s.agenda := rfl
@[simp] theorem State.setTc_nextId (s : State) (k : CoreId) (f : TaskCore → TaskCore) : (s.setTc k f).nextId = s.nextId := rfl
@[simp] theorem State.setTc_draws (s : State) (k : CoreId) (f : TaskCore → TaskCore) : (s.setTc k f).draws = s.draws := rfl
@[simp] theorem State.setTc_pkgs (s : State) (k : CoreId) (f : TaskCore → TaskCore) : (s.setTc k f).pkgs = s.pkgs := rfl
@[simp] theorem State.setTc_mem (s : State) (k : CoreId) (f : TaskCore → TaskCore) : (s.setTc k f).mem = s.mem := rfl
@[simp] theorem State.setTc_keys (s : State) (k : CoreId) (f : TaskCore → TaskCore) : (s.setTc k f).keys = s.keys := rfl
@[simp] theorem State.setTc_packs (s : State) (k : CoreId) (f : TaskCore → TaskCore) : (s.setTc k f).packs = s.packs := rfl
@[simp] theorem State.setTc_full (s : State) (k : CoreId) (f : TaskCore → TaskCore) : (s.setTc k f).full = s.full := rfl
@[simp] theorem State.setTc_owned (s : State) (k : CoreId) (f : TaskCore → TaskCore) : (s.setTc k f).owned = s.owned := rfl
@[simp] theorem State.setTc_rels (s : State) (k : CoreId) (f : TaskCore → TaskCore) : (s.setTc k f).rels = s.rels := rfl
@[simp] theorem State.setTc_poison (s : State) (k : CoreId) (f : TaskCore → TaskCore) : (s.setTc k f).poison = s.poison := rfl
@[simp] theorem State.setTc_monitors (s : State) (k : CoreId) (f : TaskCore → TaskCore) : (s.setTc k f).monitors = s.monitors := rfl
@[simp] theorem State.setTc_tokens (s : State) (k : CoreId) (f : TaskCore → TaskCore) : (s.setTc k f).tokens = s.tokens := rfl
@[simp] theorem State.setTc_hostHeld (s : State) (k : CoreId) (f : TaskCore → TaskCore) : (s.setTc k f).hostHeld = s.hostHeld := rfl
@[simp] theorem State.setTc_slices (s : State) (k : CoreId) (f : TaskCore → TaskCore) : (s.setTc k f).slices = s.slices := rfl
@[simp] theorem State.setTc_accs (s : State) (k : CoreId) (f : TaskCore → TaskCore) : (s.setTc k f).accs = s.accs := rfl
@[simp] theorem State.setTc_copies (s : State) (k : CoreId) (f : TaskCore → TaskCore) : (s.setTc k f).copies = s.copies := rfl
@[simp] theorem State.setTc_streams (s : State) (k : CoreId) (f : TaskCore → TaskCore) : (s.setTc k f).streams = s.streams := rfl
@[simp] theorem State.setTc_msgs (s : State) (k : CoreId) (f : TaskCore → TaskCore) : (s.setTc k f).msgs = s.msgs := rfl
@[simp] theorem State.setTc_mcsts (s : State) (k : CoreId) (f : TaskCore → TaskCore) : (s.setTc k f).mcsts = s.mcsts := rfl
@[simp] theorem State.setTc_gsts (s : State) (k : CoreId) (f : TaskCore → TaskCore) : (s.setTc k f).gsts = s.gsts := rfl
@[simp] theorem State.setTc_nodeOps (s : State) (k : CoreId) (f : TaskCore → TaskCore) : (s.setTc k f).nodeOps = s.nodeOps := rfl
@[simp] theorem State.setTc_fires (s : State) (k : CoreId) (f : TaskCore → TaskCore) : (s.setTc k f).fires = s.fires := rfl
@[simp] theorem State.setTc_claims (s : State) (k : CoreId) (f : TaskCore → TaskCore) : (s.setTc k f).claims = s.claims := rfl
@[simp] theorem State.setTc_hubs (s : State) (k : CoreId) (f : TaskCore → TaskCore) : (s.setTc k f).hubs = s.hubs := rfl
@[simp] theorem State.setTc_returns (s : State) (k : CoreId) (f : TaskCore → TaskCore) : (s.setTc k f).returns = s.returns := rfl
@[simp] theorem State.setTc_tasks (s : State) (k : CoreId) (f : TaskCore → TaskCore) : (s.setTc k f).tasks = s.tasks := rfl
@[simp] theorem State.setTc_units (s : State) (k : CoreId) (f : TaskCore → TaskCore) : (s.setTc k f).units = s.units := rfl
@[simp] theorem State.setTc_audits (s : State) (k : CoreId) (f : TaskCore → TaskCore) : (s.setTc k f).audits = s.audits := rfl
@[simp] theorem State.setTc_ras (s : State) (k : CoreId) (f : TaskCore → TaskCore) : (s.setTc k f).ras = s.ras := rfl
@[simp] theorem State.setTc_quads (s : State) (k : CoreId) (f : TaskCore → TaskCore) : (s.setTc k f).quads = s.quads := rfl
@[simp] theorem State.setTc_groups (s : State) (k : CoreId) (f : TaskCore → TaskCore) : (s.setTc k f).groups = s.groups := rfl
@[simp] theorem State.setTc_gwaits (s : State) (k : CoreId) (f : TaskCore → TaskCore) : (s.setTc k f).gwaits = s.gwaits := rfl
@[simp] theorem State.setTc_parts (s : State) (k : CoreId) (f : TaskCore → TaskCore) : (s.setTc k f).parts = s.parts := rfl
@[simp] theorem State.setTc_gmsgs (s : State) (k : CoreId) (f : TaskCore → TaskCore) : (s.setTc k f).gmsgs = s.gmsgs := rfl

/-! ### setCtx -/

@[simp] theorem State.setCtx_now (s : State) (c : CtxId) (f : Ctx → Ctx) : (s.setCtx c f).now = s.now := rfl
@[simp] theorem State.setCtx_cur (s : State) (c : CtxId) (f : Ctx → Ctx) : (s.setCtx c f).cur = s.cur := rfl
@[simp] theorem State.setCtx_pk (s : State) (c : CtxId) (f : Ctx → Ctx) : (s.setCtx c f).pk = s.pk := rfl
@[simp] theorem State.setCtx_agenda (s : State) (c : CtxId) (f : Ctx → Ctx) : (s.setCtx c f).agenda = s.agenda := rfl
@[simp] theorem State.setCtx_nextId (s : State) (c : CtxId) (f : Ctx → Ctx) : (s.setCtx c f).nextId = s.nextId := rfl
@[simp] theorem State.setCtx_draws (s : State) (c : CtxId) (f : Ctx → Ctx) : (s.setCtx c f).draws = s.draws := rfl
@[simp] theorem State.setCtx_pkgs (s : State) (c : CtxId) (f : Ctx → Ctx) : (s.setCtx c f).pkgs = s.pkgs := rfl
@[simp] theorem State.setCtx_mem (s : State) (c : CtxId) (f : Ctx → Ctx) : (s.setCtx c f).mem = s.mem := rfl
@[simp] theorem State.setCtx_keys (s : State) (c : CtxId) (f : Ctx → Ctx) : (s.setCtx c f).keys = s.keys := rfl
@[simp] theorem State.setCtx_packs (s : State) (c : CtxId) (f : Ctx → Ctx) : (s.setCtx c f).packs = s.packs := rfl
@[simp] theorem State.setCtx_full (s : State) (c : CtxId) (f : Ctx → Ctx) : (s.setCtx c f).full = s.full := rfl
@[simp] theorem State.setCtx_owned (s : State) (c : CtxId) (f : Ctx → Ctx) : (s.setCtx c f).owned = s.owned := rfl
@[simp] theorem State.setCtx_rels (s : State) (c : CtxId) (f : Ctx → Ctx) : (s.setCtx c f).rels = s.rels := rfl
@[simp] theorem State.setCtx_poison (s : State) (c : CtxId) (f : Ctx → Ctx) : (s.setCtx c f).poison = s.poison := rfl
@[simp] theorem State.setCtx_monitors (s : State) (c : CtxId) (f : Ctx → Ctx) : (s.setCtx c f).monitors = s.monitors := rfl
@[simp] theorem State.setCtx_tokens (s : State) (c : CtxId) (f : Ctx → Ctx) : (s.setCtx c f).tokens = s.tokens := rfl
@[simp] theorem State.setCtx_hostHeld (s : State) (c : CtxId) (f : Ctx → Ctx) : (s.setCtx c f).hostHeld = s.hostHeld := rfl
@[simp] theorem State.setCtx_slices (s : State) (c : CtxId) (f : Ctx → Ctx) : (s.setCtx c f).slices = s.slices := rfl
@[simp] theorem State.setCtx_accs (s : State) (c : CtxId) (f : Ctx → Ctx) : (s.setCtx c f).accs = s.accs := rfl
@[simp] theorem State.setCtx_copies (s : State) (c : CtxId) (f : Ctx → Ctx) : (s.setCtx c f).copies = s.copies := rfl
@[simp] theorem State.setCtx_streams (s : State) (c : CtxId) (f : Ctx → Ctx) : (s.setCtx c f).streams = s.streams := rfl
@[simp] theorem State.setCtx_msgs (s : State) (c : CtxId) (f : Ctx → Ctx) : (s.setCtx c f).msgs = s.msgs := rfl
@[simp] theorem State.setCtx_mcsts (s : State) (c : CtxId) (f : Ctx → Ctx) : (s.setCtx c f).mcsts = s.mcsts := rfl
@[simp] theorem State.setCtx_gsts (s : State) (c : CtxId) (f : Ctx → Ctx) : (s.setCtx c f).gsts = s.gsts := rfl
@[simp] theorem State.setCtx_nodeOps (s : State) (c : CtxId) (f : Ctx → Ctx) : (s.setCtx c f).nodeOps = s.nodeOps := rfl
@[simp] theorem State.setCtx_fires (s : State) (c : CtxId) (f : Ctx → Ctx) : (s.setCtx c f).fires = s.fires := rfl
@[simp] theorem State.setCtx_claims (s : State) (c : CtxId) (f : Ctx → Ctx) : (s.setCtx c f).claims = s.claims := rfl
@[simp] theorem State.setCtx_hubs (s : State) (c : CtxId) (f : Ctx → Ctx) : (s.setCtx c f).hubs = s.hubs := rfl
@[simp] theorem State.setCtx_returns (s : State) (c : CtxId) (f : Ctx → Ctx) : (s.setCtx c f).returns = s.returns := rfl
@[simp] theorem State.setCtx_tasks (s : State) (c : CtxId) (f : Ctx → Ctx) : (s.setCtx c f).tasks = s.tasks := rfl
@[simp] theorem State.setCtx_units (s : State) (c : CtxId) (f : Ctx → Ctx) : (s.setCtx c f).units = s.units := rfl
@[simp] theorem State.setCtx_audits (s : State) (c : CtxId) (f : Ctx → Ctx) : (s.setCtx c f).audits = s.audits := rfl
@[simp] theorem State.setCtx_ras (s : State) (c : CtxId) (f : Ctx → Ctx) : (s.setCtx c f).ras = s.ras := rfl
@[simp] theorem State.setCtx_quads (s : State) (c : CtxId) (f : Ctx → Ctx) : (s.setCtx c f).quads = s.quads := rfl
@[simp] theorem State.setCtx_groups (s : State) (c : CtxId) (f : Ctx → Ctx) : (s.setCtx c f).groups = s.groups := rfl
@[simp] theorem State.setCtx_gwaits (s : State) (c : CtxId) (f : Ctx → Ctx) : (s.setCtx c f).gwaits = s.gwaits := rfl
@[simp] theorem State.setCtx_parts (s : State) (c : CtxId) (f : Ctx → Ctx) : (s.setCtx c f).parts = s.parts := rfl
@[simp] theorem State.setCtx_gmsgs (s : State) (c : CtxId) (f : Ctx → Ctx) : (s.setCtx c f).gmsgs = s.gmsgs := rfl

/-! ### setMe -/

@[simp] theorem State.setMe_now (s : State) (f : Ctx → Ctx) : (s.setMe f).now = s.now := rfl
@[simp] theorem State.setMe_cur (s : State) (f : Ctx → Ctx) : (s.setMe f).cur = s.cur := rfl
@[simp] theorem State.setMe_pk (s : State) (f : Ctx → Ctx) : (s.setMe f).pk = s.pk := rfl
@[simp] theorem State.setMe_agenda (s : State) (f : Ctx → Ctx) : (s.setMe f).agenda = s.agenda := rfl
@[simp] theorem State.setMe_nextId (s : State) (f : Ctx → Ctx) : (s.setMe f).nextId = s.nextId := rfl
@[simp] theorem State.setMe_draws (s : State) (f : Ctx → Ctx) : (s.setMe f).draws = s.draws := rfl
@[simp] theorem State.setMe_pkgs (s : State) (f : Ctx → Ctx) : (s.setMe f).pkgs = s.pkgs := rfl
@[simp] theorem State.setMe_mem (s : State) (f : Ctx → Ctx) : (s.setMe f).mem = s.mem := rfl
@[simp] theorem State.setMe_keys (s : State) (f : Ctx → Ctx) : (s.setMe f).keys = s.keys := rfl
@[simp] theorem State.setMe_packs (s : State) (f : Ctx → Ctx) : (s.setMe f).packs = s.packs := rfl
@[simp] theorem State.setMe_full (s : State) (f : Ctx → Ctx) : (s.setMe f).full = s.full := rfl
@[simp] theorem State.setMe_owned (s : State) (f : Ctx → Ctx) : (s.setMe f).owned = s.owned := rfl
@[simp] theorem State.setMe_rels (s : State) (f : Ctx → Ctx) : (s.setMe f).rels = s.rels := rfl
@[simp] theorem State.setMe_poison (s : State) (f : Ctx → Ctx) : (s.setMe f).poison = s.poison := rfl
@[simp] theorem State.setMe_monitors (s : State) (f : Ctx → Ctx) : (s.setMe f).monitors = s.monitors := rfl
@[simp] theorem State.setMe_tokens (s : State) (f : Ctx → Ctx) : (s.setMe f).tokens = s.tokens := rfl
@[simp] theorem State.setMe_hostHeld (s : State) (f : Ctx → Ctx) : (s.setMe f).hostHeld = s.hostHeld := rfl
@[simp] theorem State.setMe_slices (s : State) (f : Ctx → Ctx) : (s.setMe f).slices = s.slices := rfl
@[simp] theorem State.setMe_accs (s : State) (f : Ctx → Ctx) : (s.setMe f).accs = s.accs := rfl
@[simp] theorem State.setMe_copies (s : State) (f : Ctx → Ctx) : (s.setMe f).copies = s.copies := rfl
@[simp] theorem State.setMe_streams (s : State) (f : Ctx → Ctx) : (s.setMe f).streams = s.streams := rfl
@[simp] theorem State.setMe_msgs (s : State) (f : Ctx → Ctx) : (s.setMe f).msgs = s.msgs := rfl
@[simp] theorem State.setMe_mcsts (s : State) (f : Ctx → Ctx) : (s.setMe f).mcsts = s.mcsts := rfl
@[simp] theorem State.setMe_gsts (s : State) (f : Ctx → Ctx) : (s.setMe f).gsts = s.gsts := rfl
@[simp] theorem State.setMe_nodeOps (s : State) (f : Ctx → Ctx) : (s.setMe f).nodeOps = s.nodeOps := rfl
@[simp] theorem State.setMe_fires (s : State) (f : Ctx → Ctx) : (s.setMe f).fires = s.fires := rfl
@[simp] theorem State.setMe_claims (s : State) (f : Ctx → Ctx) : (s.setMe f).claims = s.claims := rfl
@[simp] theorem State.setMe_hubs (s : State) (f : Ctx → Ctx) : (s.setMe f).hubs = s.hubs := rfl
@[simp] theorem State.setMe_returns (s : State) (f : Ctx → Ctx) : (s.setMe f).returns = s.returns := rfl
@[simp] theorem State.setMe_tasks (s : State) (f : Ctx → Ctx) : (s.setMe f).tasks = s.tasks := rfl
@[simp] theorem State.setMe_units (s : State) (f : Ctx → Ctx) : (s.setMe f).units = s.units := rfl
@[simp] theorem State.setMe_audits (s : State) (f : Ctx → Ctx) : (s.setMe f).audits = s.audits := rfl
@[simp] theorem State.setMe_ras (s : State) (f : Ctx → Ctx) : (s.setMe f).ras = s.ras := rfl
@[simp] theorem State.setMe_quads (s : State) (f : Ctx → Ctx) : (s.setMe f).quads = s.quads := rfl
@[simp] theorem State.setMe_groups (s : State) (f : Ctx → Ctx) : (s.setMe f).groups = s.groups := rfl
@[simp] theorem State.setMe_gwaits (s : State) (f : Ctx → Ctx) : (s.setMe f).gwaits = s.gwaits := rfl
@[simp] theorem State.setMe_parts (s : State) (f : Ctx → Ctx) : (s.setMe f).parts = s.parts := rfl
@[simp] theorem State.setMe_gmsgs (s : State) (f : Ctx → Ctx) : (s.setMe f).gmsgs = s.gmsgs := rfl

/-! ### setMyTc -/

@[simp] theorem State.setMyTc_now (s : State) (f : TaskCore → TaskCore) : (s.setMyTc f).now = s.now := rfl
@[simp] theorem State.setMyTc_cur (s : State) (f : TaskCore → TaskCore) : (s.setMyTc f).cur = s.cur := rfl
@[simp] theorem State.setMyTc_pk (s : State) (f : TaskCore → TaskCore) : (s.setMyTc f).pk = s.pk := rfl
@[simp] theorem State.setMyTc_agenda (s : State) (f : TaskCore → TaskCore) : (s.setMyTc f).agenda = s.agenda := rfl
@[simp] theorem State.setMyTc_nextId (s : State) (f : TaskCore → TaskCore) : (s.setMyTc f).nextId = s.nextId := rfl
@[simp] theorem State.setMyTc_draws (s : State) (f : TaskCore → TaskCore) : (s.setMyTc f).draws = s.draws := rfl
@[simp] theorem State.setMyTc_pkgs (s : State) (f : TaskCore → TaskCore) : (s.setMyTc f).pkgs = s.pkgs := rfl
@[simp] theorem State.setMyTc_mem (s : State) (f : TaskCore → TaskCore) : (s.setMyTc f).mem = s.mem := rfl
@[simp] theorem State.setMyTc_keys (s : State) (f : TaskCore → TaskCore) : (s.setMyTc f).keys = s.keys := rfl
@[simp] theorem State.setMyTc_packs (s : State) (f : TaskCore → TaskCore) : (s.setMyTc f).packs = s.packs := rfl
@[simp] theorem State.setMyTc_full (s : State) (f : TaskCore → TaskCore) : (s.setMyTc f).full = s.full := rfl
@[simp] theorem State.setMyTc_owned (s : State) (f : TaskCore → TaskCore) : (s.setMyTc f).owned = s.owned := rfl
@[simp] theorem State.setMyTc_rels (s : State) (f : TaskCore → TaskCore) : (s.setMyTc f).rels = s.rels := rfl
@[simp] theorem State.setMyTc_poison (s : State) (f : TaskCore → TaskCore) : (s.setMyTc f).poison = s.poison := rfl
@[simp] theorem State.setMyTc_monitors (s : State) (f : TaskCore → TaskCore) : (s.setMyTc f).monitors = s.monitors := rfl
@[simp] theorem State.setMyTc_tokens (s : State) (f : TaskCore → TaskCore) : (s.setMyTc f).tokens = s.tokens := rfl
@[simp] theorem State.setMyTc_hostHeld (s : State) (f : TaskCore → TaskCore) : (s.setMyTc f).hostHeld = s.hostHeld := rfl
@[simp] theorem State.setMyTc_slices (s : State) (f : TaskCore → TaskCore) : (s.setMyTc f).slices = s.slices := rfl
@[simp] theorem State.setMyTc_accs (s : State) (f : TaskCore → TaskCore) : (s.setMyTc f).accs = s.accs := rfl
@[simp] theorem State.setMyTc_copies (s : State) (f : TaskCore → TaskCore) : (s.setMyTc f).copies = s.copies := rfl
@[simp] theorem State.setMyTc_streams (s : State) (f : TaskCore → TaskCore) : (s.setMyTc f).streams = s.streams := rfl
@[simp] theorem State.setMyTc_msgs (s : State) (f : TaskCore → TaskCore) : (s.setMyTc f).msgs = s.msgs := rfl
@[simp] theorem State.setMyTc_mcsts (s : State) (f : TaskCore → TaskCore) : (s.setMyTc f).mcsts = s.mcsts := rfl
@[simp] theorem State.setMyTc_gsts (s : State) (f : TaskCore → TaskCore) : (s.setMyTc f).gsts = s.gsts := rfl
@[simp] theorem State.setMyTc_nodeOps (s : State) (f : TaskCore → TaskCore) : (s.setMyTc f).nodeOps = s.nodeOps := rfl
@[simp] theorem State.setMyTc_fires (s : State) (f : TaskCore → TaskCore) : (s.setMyTc f).fires = s.fires := rfl
@[simp] theorem State.setMyTc_claims (s : State) (f : TaskCore → TaskCore) : (s.setMyTc f).claims = s.claims := rfl
@[simp] theorem State.setMyTc_hubs (s : State) (f : TaskCore → TaskCore) : (s.setMyTc f).hubs = s.hubs := rfl
@[simp] theorem State.setMyTc_returns (s : State) (f : TaskCore → TaskCore) : (s.setMyTc f).returns = s.returns := rfl
@[simp] theorem State.setMyTc_tasks (s : State) (f : TaskCore → TaskCore) : (s.setMyTc f).tasks = s.tasks := rfl
@[simp] theorem State.setMyTc_units (s : State) (f : TaskCore → TaskCore) : (s.setMyTc f).units = s.units := rfl
@[simp] theorem State.setMyTc_audits (s : State) (f : TaskCore → TaskCore) : (s.setMyTc f).audits = s.audits := rfl
@[simp] theorem State.setMyTc_ras (s : State) (f : TaskCore → TaskCore) : (s.setMyTc f).ras = s.ras := rfl
@[simp] theorem State.setMyTc_quads (s : State) (f : TaskCore → TaskCore) : (s.setMyTc f).quads = s.quads := rfl
@[simp] theorem State.setMyTc_groups (s : State) (f : TaskCore → TaskCore) : (s.setMyTc f).groups = s.groups := rfl
@[simp] theorem State.setMyTc_gwaits (s : State) (f : TaskCore → TaskCore) : (s.setMyTc f).gwaits = s.gwaits := rfl
@[simp] theorem State.setMyTc_parts (s : State) (f : TaskCore → TaskCore) : (s.setMyTc f).parts = s.parts := rfl
@[simp] theorem State.setMyTc_gmsgs (s : State) (f : TaskCore → TaskCore) : (s.setMyTc f).gmsgs = s.gmsgs := rfl

/-! ### say -/

@[simp] theorem State.say_now (s : State) (v : Verdict) : (s.say v).now = s.now := rfl
@[simp] theorem State.say_cur (s : State) (v : Verdict) : (s.say v).cur = s.cur := rfl
@[simp] theorem State.say_agenda (s : State) (v : Verdict) : (s.say v).agenda = s.agenda := rfl
@[simp] theorem State.say_nextId (s : State) (v : Verdict) : (s.say v).nextId = s.nextId := rfl
@[simp] theorem State.say_draws (s : State) (v : Verdict) : (s.say v).draws = s.draws := rfl
@[simp] theorem State.say_pkgs (s : State) (v : Verdict) : (s.say v).pkgs = s.pkgs := rfl
@[simp] theorem State.say_cores (s : State) (v : Verdict) : (s.say v).cores = s.cores := rfl
@[simp] theorem State.say_mem (s : State) (v : Verdict) : (s.say v).mem = s.mem := rfl
@[simp] theorem State.say_keys (s : State) (v : Verdict) : (s.say v).keys = s.keys := rfl
@[simp] theorem State.say_packs (s : State) (v : Verdict) : (s.say v).packs = s.packs := rfl
@[simp] theorem State.say_full (s : State) (v : Verdict) : (s.say v).full = s.full := rfl
@[simp] theorem State.say_owned (s : State) (v : Verdict) : (s.say v).owned = s.owned := rfl
@[simp] theorem State.say_rels (s : State) (v : Verdict) : (s.say v).rels = s.rels := rfl
@[simp] theorem State.say_poison (s : State) (v : Verdict) : (s.say v).poison = s.poison := rfl
@[simp] theorem State.say_monitors (s : State) (v : Verdict) : (s.say v).monitors = s.monitors := rfl
@[simp] theorem State.say_tokens (s : State) (v : Verdict) : (s.say v).tokens = s.tokens := rfl
@[simp] theorem State.say_hostHeld (s : State) (v : Verdict) : (s.say v).hostHeld = s.hostHeld := rfl
@[simp] theorem State.say_slices (s : State) (v : Verdict) : (s.say v).slices = s.slices := rfl
@[simp] theorem State.say_accs (s : State) (v : Verdict) : (s.say v).accs = s.accs := rfl
@[simp] theorem State.say_copies (s : State) (v : Verdict) : (s.say v).copies = s.copies := rfl
@[simp] theorem State.say_streams (s : State) (v : Verdict) : (s.say v).streams = s.streams := rfl
@[simp] theorem State.say_msgs (s : State) (v : Verdict) : (s.say v).msgs = s.msgs := rfl
@[simp] theorem State.say_mcsts (s : State) (v : Verdict) : (s.say v).mcsts = s.mcsts := rfl
@[simp] theorem State.say_gsts (s : State) (v : Verdict) : (s.say v).gsts = s.gsts := rfl
@[simp] theorem State.say_nodeOps (s : State) (v : Verdict) : (s.say v).nodeOps = s.nodeOps := rfl
@[simp] theorem State.say_fires (s : State) (v : Verdict) : (s.say v).fires = s.fires := rfl
@[simp] theorem State.say_claims (s : State) (v : Verdict) : (s.say v).claims = s.claims := rfl
@[simp] theorem State.say_hubs (s : State) (v : Verdict) : (s.say v).hubs = s.hubs := rfl
@[simp] theorem State.say_returns (s : State) (v : Verdict) : (s.say v).returns = s.returns := rfl
@[simp] theorem State.say_tasks (s : State) (v : Verdict) : (s.say v).tasks = s.tasks := rfl
@[simp] theorem State.say_units (s : State) (v : Verdict) : (s.say v).units = s.units := rfl
@[simp] theorem State.say_audits (s : State) (v : Verdict) : (s.say v).audits = s.audits := rfl
@[simp] theorem State.say_ras (s : State) (v : Verdict) : (s.say v).ras = s.ras := rfl
@[simp] theorem State.say_quads (s : State) (v : Verdict) : (s.say v).quads = s.quads := rfl
@[simp] theorem State.say_groups (s : State) (v : Verdict) : (s.say v).groups = s.groups := rfl
@[simp] theorem State.say_gwaits (s : State) (v : Verdict) : (s.say v).gwaits = s.gwaits := rfl
@[simp] theorem State.say_parts (s : State) (v : Verdict) : (s.say v).parts = s.parts := rfl
@[simp] theorem State.say_gmsgs (s : State) (v : Verdict) : (s.say v).gmsgs = s.gmsgs := rfl

/-! ### The verdict -/

@[simp] theorem State.say_pk_phase (s : State) (v : Verdict) : (s.say v).pk.phase = s.pk.phase := rfl
@[simp] theorem State.say_verdict (s : State) (v : Verdict) : (s.say v).pk.verdict = v := rfl
@[simp] theorem State.say_pk_pos (s : State) (v : Verdict) : (s.say v).pk.pos = s.pk.pos := rfl
@[simp] theorem State.say_pk_before (s : State) (v : Verdict) : (s.say v).pk.before = s.pk.before := rfl
@[simp] theorem State.say_pk_target (s : State) (v : Verdict) : (s.say v).pk.target = s.pk.target := rfl
@[simp] theorem State.say_pk_link (s : State) (v : Verdict) : (s.say v).pk.link = s.pk.link := rfl
@[simp] theorem State.say_pk_linkAt (s : State) (v : Verdict) : (s.say v).pk.linkAt = s.pk.linkAt := rfl
@[simp] theorem State.say_pk_annul (s : State) (v : Verdict) : (s.say v).pk.annul = s.pk.annul := rfl
@[simp] theorem State.say_pk_branch (s : State) (v : Verdict) : (s.say v).pk.branch = s.pk.branch := rfl
@[simp] theorem State.say_pk_rep (s : State) (v : Verdict) : (s.say v).pk.rep = s.pk.rep := rfl
@[simp] theorem State.say_pk_after (s : State) (v : Verdict) : (s.say v).pk.after = s.pk.after := rfl
@[simp] theorem State.say_pk_follow (s : State) (v : Verdict) : (s.say v).pk.follow = s.pk.follow := rfl
@[simp] theorem State.say_pk_cmds (s : State) (v : Verdict) : (s.say v).pk.cmds = s.pk.cmds := rfl
@[simp] theorem State.say_pk_leave (s : State) (v : Verdict) : (s.say v).pk.leave = s.pk.leave := rfl
@[simp] theorem State.say_pk_stay (s : State) (v : Verdict) : (s.say v).pk.stay = s.pk.stay := rfl
@[simp] theorem State.say_pk_record (s : State) (v : Verdict) : (s.say v).pk.record = s.pk.record := rfl

/-! ### Accessors after updates -/

@[simp] theorem State.setCore_core (s : State) (k : CoreId) (f : Core → Core) : (s.setCore k f).core k = f (s.core k) := by
  simp [State.core, State.setCore]

theorem State.setCore_core_other (s : State) (k j : CoreId) (f : Core → Core) (h : k ≠ j) :
    (s.setCore k f).core j = s.core j := by
  simp [State.core, State.setCore, Map.get_set_other _ _ _ _ _ h]

@[simp] theorem State.setTc_tc (s : State) (k : CoreId) (f : TaskCore → TaskCore) : (s.setTc k f).tc k = f (s.tc k) := by
  simp [State.tc, State.setTc]

theorem State.setTc_core_other (s : State) (k j : CoreId) (f : TaskCore → TaskCore) (h : k ≠ j) :
    (s.setTc k f).core j = s.core j := State.setCore_core_other s k j _ h

@[simp] theorem State.setTc_task (s : State) (k j : CoreId) (f : TaskCore → TaskCore) :
    ((s.setTc k f).core j).task = (s.core j).task := by
  by_cases h : k = j
  · subst h; simp [State.setTc]
  · rw [State.setTc_core_other _ _ _ _ h]

@[simp] theorem TaskCore.setCtx_ctx (t : TaskCore) (n : Nat) (f : Ctx → Ctx) : (t.setCtx n f).ctx n = f (t.ctx n) := by
  simp [TaskCore.ctx, TaskCore.setCtx]

theorem TaskCore.setCtx_ctx_other (t : TaskCore) (n m : Nat) (f : Ctx → Ctx) (h : n ≠ m) :
    (t.setCtx n f).ctx m = t.ctx m := by
  simp [TaskCore.ctx, TaskCore.setCtx, Map.get_set_other _ _ _ _ _ h]

@[simp] theorem State.setCtx_ctx (s : State) (c : CtxId) (f : Ctx → Ctx) : (s.setCtx c f).ctx c = f (s.ctx c) := by
  simp [State.ctx, State.setCtx]

theorem State.setCtx_ctx_other (s : State) (c d : CtxId) (f : Ctx → Ctx) (h : c ≠ d) :
    (s.setCtx c f).ctx d = s.ctx d := by
  obtain ⟨k, n⟩ := c
  obtain ⟨j, m⟩ := d
  unfold State.ctx State.setCtx State.tc
  by_cases hk : k = j
  · subst hk
    have hn : n ≠ m := fun e => h (by rw [e])
    simpa [State.setTc] using TaskCore.setCtx_ctx_other (s.core k).tc n m f hn
  · simp [State.setTc_core_other s k j _ hk]

@[simp] theorem State.setMe_me (s : State) (f : Ctx → Ctx) : (s.setMe f).me = f s.me :=
  State.setCtx_ctx s s.cur f

@[simp] theorem State.setMyTc_myTc (s : State) (f : TaskCore → TaskCore) : (s.setMyTc f).myTc = f s.myTc :=
  State.setTc_tc s s.cur.core f

theorem State.setMyTc_me (s : State) (f : TaskCore → TaskCore) : (s.setMyTc f).me = (f s.myTc).ctx s.cur.ctx := by
  show ((s.setTc s.cur.core f).tc s.cur.core).ctx s.cur.ctx = _
  rw [State.setTc_tc]; rfl

theorem State.setMe_myTc (s : State) (f : Ctx → Ctx) : (s.setMe f).myTc = s.myTc.setCtx s.cur.ctx f :=
  State.setTc_tc s s.cur.core _

theorem State.setTc_tc_other (s : State) (k j : CoreId) (f : TaskCore → TaskCore) (h : k ≠ j) :
    (s.setTc k f).tc j = s.tc j := by
  simp [State.tc, State.setTc_core_other s k j f h]

theorem State.setTc_ctx_other (s : State) (k : CoreId) (c : CtxId) (f : TaskCore → TaskCore) (h : k ≠ c.core) :
    (s.setTc k f).ctx c = s.ctx c := by
  simp [State.ctx, State.setTc_tc_other s k c.core f h]

@[simp] theorem State.setMe_myTask (s : State) (f : Ctx → Ctx) : (s.setMe f).myTask = s.myTask :=
  State.setTc_task s s.cur.core s.cur.core _

@[simp] theorem State.setMyTc_myTask (s : State) (f : TaskCore → TaskCore) : (s.setMyTc f).myTask = s.myTask :=
  State.setTc_task s s.cur.core s.cur.core _

@[simp] theorem State.say_me (s : State) (v : Verdict) : (s.say v).me = s.me := rfl
@[simp] theorem State.say_myTc (s : State) (v : Verdict) : (s.say v).myTc = s.myTc := rfl
@[simp] theorem State.say_myTask (s : State) (v : Verdict) : (s.say v).myTask = s.myTask := rfl
@[simp] theorem State.say_ctx (s : State) (v : Verdict) (c : CtxId) : (s.say v).ctx c = s.ctx c := rfl
@[simp] theorem State.say_core (s : State) (v : Verdict) (k : CoreId) : (s.say v).core k = s.core k := rfl
@[simp] theorem State.say_tc (s : State) (v : Verdict) (k : CoreId) : (s.say v).tc k = s.tc k := rfl

/-! ### Reset -/

/-- The memory after reset has the canonical form. -/
theorem State.reset_mem_wf : State.reset.mem.wf = true := rfl

/-! ### How a meaning runs -/

/-- By itself, an instruction that can issue takes its effect. -/
theorem run_ok (i : Instr) (f : Fields) (e : Entry) (s : State) (hp : s.pk.phase = .alone) (hj : judge i f e s = .ok) :
    run i f e s = .next ((effect i f e s).say .ok) := by
  simp [run, hp, hj]

/-- An instruction of a packet that has passed takes its effect. -/
theorem run_effect (i : Instr) (f : Fields) (e : Entry) (s : State) (hp : s.pk.phase = .effect) :
    run i f e s = .next (effect i f e s) := by
  simp [run, hp]

/-- By itself, an instruction that faults freezes its context. -/
theorem run_fault (i : Instr) (f : Fields) (e : Entry) (s : State) (cls : Nat) (fi : FaultInfo) (hp : s.pk.phase = .alone)
    (hj : judge i f e s = .fault cls fi) : run i f e s = .next ((s.freezeWith cls fi).say (.fault cls fi)) := by
  simp [run, hp, hj]

/-- A meaning always answers a next state: an instruction neither stops the machine nor is refused. -/
theorem run_next (i : Instr) (f : Fields) (e : Entry) (s : State) : ∃ t, run i f e s = .next t := by
  unfold run
  split
  · exact ⟨_, rfl⟩
  · exact ⟨_, rfl⟩
  · simp only
    split <;> exact ⟨_, rfl⟩

/-- An event that is enabled takes its effect. -/
theorem happen_true (act : State → State) (s : State) (hp : s.pk.phase = .alone) :
    happen true act s = .next ((act s).say .ok) := by
  simp [happen, hp]

/-- An event that is not enabled changes nothing. -/
theorem happen_false (act : State → State) (s : State) : happen false act s = .next (s.say .idle) := rfl

/-- A step of the device always answers a next state. -/
theorem happen_next (b : Bool) (act : State → State) (s : State) : ∃ t, happen b act s = .next t := ⟨_, rfl⟩

/-! ### Results -/

/-- A result of fixed latency is one more in-flight record of the issuing context. -/
theorem State.later_me (s : State) (d : Dest) (lat : Nat) (v : RVal) (h : d ≠ .none) :
    (s.later d lat v).me = { s.me with inflight := ⟨d, v, s.me.pipe + lat, none⟩ :: s.me.inflight } := by
  simp [State.later, h]

/-- A result without a destination is discarded. -/
@[simp] theorem State.later_none (s : State) (lat : Nat) (v : RVal) : s.later .none lat v = s := rfl

end Sys2Proof.Machine
end

