-- ==== Sys2Proof/Laws/Run.lean ====
section
/-! SUPPORT. What a meaning does, said once: the verdict of a word that is ready, its effect, and what the shared operations
of a result leave alone. -/

namespace Sys2Proof.Machine

open Sys2Proof Sys2Proof.Lanes

/-! ### The verdict of a ready word -/

theorem List.any_false_of_cons {α : Type} {p : α → Bool} {x : α} {l : List α} (h : (x :: l).any p = false) :
    p x = false ∧ l.any p = false := by
  simpa using h

theorem any_append_false {α : Type} (p : α → Bool) (l m : List α) (h1 : l.any p = false) (h2 : m.any p = false) :
    (l ++ m).any p = false := by
  rw [List.any_append, h1, h2]; rfl

theorem ready_guard {i : Instr} {f : Fields} {s : State} (h : ready i f s = true) : s.guardTrue f = true := by
  simp only [ready, Bool.and_eq_true] at h
  exact h.1.2

/-- A ready word whose entry adds no freeze and reads nothing else is judged by its entry's gate. -/
theorem judge_ready {i : Instr} {f : Fields} {s : State} (e : Entry) (h : ready i f s = true) (hf : e.frozen s = none)
    (hp : (e.also s).any s.me.poisoned = false) (hq : (e.also s).any s.me.pending = false) : judge i f e s = e.gate s := by
  simp only [ready, Bool.and_eq_true] at h
  obtain ⟨⟨⟨⟨hr, hc⟩, hs⟩, hg⟩, he⟩ := h
  have hr' : rankChecks i f s = none := by simpa [rankOk] using hr
  have hc' : (Dest.p f.guard.p :: sources i.shape f).any s.me.poisoned = false := by
    simpa only [cleanSources, Bool.not_eq_true'] using hc
  have hc1 := (List.any_false_of_cons hc').1
  have hc2 := (List.any_false_of_cons hc').2
  simp only [settled, Bool.and_eq_true, Bool.not_eq_true'] at hs
  obtain ⟨hs1, hs2⟩ := hs
  have hsrc : (sources i.shape f ++ e.also s).any s.me.poisoned = false := any_append_false _ _ _ hc2 hp
  have hen : (if (i.key.getD ⟨0, 0, 0⟩).cl = 2 then s.engineFreeze else none) = none := by
    split
    · rename_i h2
      simpa [h2] using he
    · rfl
  simp only [judge, hr', hc1, hs1, hg, hsrc, hs2, hq, hf, hen]
  simp

theorem effect_ready {i : Instr} {f : Fields} {s : State} (e : Entry) (h : ready i f s = true) :
    effect i f e s = popLinks i.shape f (e.act s) := by
  simp [effect, ready_guard h]

/-- A ready word whose gate is open completes with its effect. -/
theorem run_completes {i : Instr} {f : Fields} {s : State} (e : Entry) (P : State → Prop) (h : ready i f s = true)
    (hg : e.gate s = .ok) (hf : e.frozen s = none) (hp : (e.also s).any s.me.poisoned = false)
    (hq : (e.also s).any s.me.pending = false) (hx : exec i s = run i f e s)
    (h1 : P (popLinks i.shape f (e.act s))) (h2 : P ((popLinks i.shape f (e.act s)).say .ok)) : Completes i s P := by
  have hj := (judge_ready e h hf hp hq).trans hg
  unfold Completes
  rw [hx]
  cases hph : s.pk.phase with
  | alone => exact ⟨_, run_ok i f e s hph hj, fun _ => rfl, fun _ => by rw [effect_ready e h]; exact h2⟩
  | check => exact ⟨_, by simp only [run, hph, hj]; rfl, fun _ => rfl, fun h => absurd rfl h⟩
  | effect => exact ⟨_, run_effect i f e s hph, fun h => absurd rfl h, fun _ => by rw [effect_ready e h]; exact h1⟩

/-- A ready word whose gate names a fault takes it. -/
theorem run_faults {i : Instr} {f : Fields} {s : State} (e : Entry) (cls : Nat) (fi : FaultInfo) (h : ready i f s = true)
    (hg : e.gate s = .fault cls fi) (hf : e.frozen s = none) (hp : (e.also s).any s.me.poisoned = false)
    (hq : (e.also s).any s.me.pending = false) (hx : exec i s = run i f e s) : Faults i s cls fi := by
  have hj := (judge_ready e h hf hp hq).trans hg
  unfold Faults
  rw [hx]
  cases hph : s.pk.phase with
  | alone => exact ⟨_, run_fault i f e s cls fi hph hj, fun _ => rfl, fun _ => rfl⟩
  | check => exact ⟨s.say (.fault cls fi), by simp [run, hph, hj], fun _ => rfl, fun h => by cases h⟩
  | effect => exact ⟨_, run_effect i f e s hph, fun h => absurd rfl h, fun h => by cases h⟩

/-- A ready word whose gate stalls waits. -/
theorem run_stalls {i : Instr} {f : Fields} {s : State} (e : Entry) (h : ready i f s = true) (hg : e.gate s = .stall)
    (hf : e.frozen s = none) (hp : (e.also s).any s.me.poisoned = false) (hq : (e.also s).any s.me.pending = false)
    (hx : exec i s = run i f e s) : Stays i s .stall := by
  have hj := (judge_ready e h hf hp hq).trans hg
  intro hne
  rw [hx]
  cases hph : s.pk.phase with
  | alone => simp [run, hph, hj]
  | check => simp [run, hph, hj]
  | effect => exact absurd hph hne

/-- A ready word whose gate holds waits, where waiting changes nothing. -/
theorem run_holds {i : Instr} {f : Fields} {s : State} (e : Entry) (h : ready i f s = true) (hg : e.gate s = .hold)
    (hf : e.frozen s = none) (hp : (e.also s).any s.me.poisoned = false) (hq : (e.also s).any s.me.pending = false)
    (hw : e.wait s = s) (hx : exec i s = run i f e s) : Stays i s .hold := by
  have hj := (judge_ready e h hf hp hq).trans hg
  intro hne
  rw [hx]
  cases hph : s.pk.phase with
  | alone => simp [run, hph, hj, hw]
  | check => simp [run, hph, hj, hw]
  | effect => exact absurd hph hne

/-- A ready word of a plain entry completes with its effect. -/
theorem run_plain {i : Instr} {f : Fields} {s : State} (act : State → State) (P : State → Prop) (h : ready i f s = true)
    (hx : exec i s = run i f { act := act } s) (h1 : P (popLinks i.shape f (act s)))
    (h2 : P ((popLinks i.shape f (act s)).say .ok)) : Completes i s P :=
  run_completes { act := act } P h rfl rfl rfl rfl hx h1 h2

/-- An event that is enabled completes with its effect. -/
theorem happen_completes {i : Instr} {s : State} (act : State → State) (P : State → Prop) (hx : exec i s = happen true act s)
    (h2 : P ((act s).say .ok)) : Completes i s P := by
  unfold Completes
  rw [hx]
  cases hph : s.pk.phase with
  | alone => exact ⟨_, by simp only [happen, hph]; rfl, fun _ => rfl, fun _ => h2⟩
  | check => exact ⟨_, by simp only [happen, hph]; rfl, fun _ => rfl, fun h => absurd rfl h⟩
  | effect => exact ⟨_, by simp only [happen, hph]; rfl, fun h => absurd rfl h, fun _ => h2⟩

/-! ### Links -/

/-- Only the entries of links differ. -/
def LinksOnly (s t : State) : Prop :=
  CoresOnly s t ∧ t.pk = s.pk ∧ ∀ k, ∃ l, t.core k = { s.core k with tc := { (s.core k).tc with links := l } }

theorem LinksOnly.refl (s : State) : LinksOnly s s := ⟨rfl, rfl, fun _ => ⟨_, rfl⟩⟩

theorem LinksOnly.trans {s t u : State} (h : LinksOnly s t) (k : LinksOnly t u) : LinksOnly s u := by
  obtain ⟨h1, h2, h3⟩ := h
  obtain ⟨k1, k2, k3⟩ := k
  refine ⟨?_, k2.trans h2, fun c => ?_⟩
  · unfold CoresOnly at *
    rw [k1, h1]
  · obtain ⟨l, hl⟩ := h3 c
    obtain ⟨m, hm⟩ := k3 c
    exact ⟨m, by rw [hm, hl]⟩

theorem LinksOnly.cur {s t : State} (h : LinksOnly s t) : t.cur = s.cur := by rw [h.1]

theorem LinksOnly.ctx {s t : State} (h : LinksOnly s t) (c : CtxId) : t.ctx c = s.ctx c := by
  obtain ⟨l, hl⟩ := h.2.2 c.core
  simp only [State.ctx, State.tc, hl]
  rfl

theorem LinksOnly.me {s t : State} (h : LinksOnly s t) : t.me = s.me := by
  simp only [State.me, h.cur, h.ctx]

theorem LinksOnly.task {s t : State} (h : LinksOnly s t) (k : CoreId) : (t.core k).task = (s.core k).task := by
  obtain ⟨l, hl⟩ := h.2.2 k
  rw [hl]

theorem LinksOnly.myTask {s t : State} (h : LinksOnly s t) : t.myTask = s.myTask := by
  simp only [State.myTask, h.cur, h.task]

theorem LinksOnly.part {s t : State} (h : LinksOnly s t) : SamePart s.myTc t.myTc := by
  obtain ⟨l, hl⟩ := h.2.2 s.cur.core
  simp only [SamePart, State.myTc, State.tc, h.cur, hl]

theorem linksOnly_setTc (s : State) (k : CoreId) (g : TaskCore → Links) :
    LinksOnly s (s.setTc k (fun t => { t with links := g t })) := by
  refine ⟨rfl, rfl, fun j => ?_⟩
  by_cases h : k = j
  · subst h
    exact ⟨g (s.core k).tc, by simp [State.setTc]⟩
  · exact ⟨_, State.setTc_core_other s k j _ h⟩

theorem linksOnly_setPart (s : State) (n : Option Nat) (k : CoreId) (g : TaskCore → Links) :
    LinksOnly s (s.setPart n k (fun t => { t with links := g t })) := by
  unfold State.setPart
  split
  · exact linksOnly_setTc s k g
  · split
    · split
      · exact linksOnly_setTc s _ g
      · exact ⟨rfl, rfl, fun _ => ⟨_, rfl⟩⟩
    · exact LinksOnly.refl s

theorem linksOnly_next (s : State) (n : Nat) : LinksOnly s { s with nextId := n } := ⟨rfl, rfl, fun _ => ⟨_, rfl⟩⟩

/-- Taking entries from links changes links alone. -/
theorem linksOnly_popLinks (sh : Shape) (f : Fields) (s : State) : LinksOnly s (popLinks sh f s) := by
  unfold popLinks
  generalize linksIn sh f = l
  induction l generalizing s with
  | nil => exact LinksOnly.refl s
  | cons x l ih =>
    rw [List.foldl_cons]
    exact (linksOnly_setTc s s.cur.core (fun t => t.links.setChan x.1 x.2 (List.drop 1))).trans (ih _)

/-- Reserving the entry of a result changes links alone. -/
theorem linksOnly_destOf (s : State) (vec : Bool) (d : Sel) : LinksOnly s (s.destOf vec d).2 := by
  cases d with
  | link dir =>
    simp only [State.destOf, State.reserve]
    split
    · exact LinksOnly.refl s
    · refine LinksOnly.trans (linksOnly_next s (s.nextId + 1)) ?_
      exact linksOnly_setPart _ (some _) s.cur.core
        (fun t => t.links.setChan vec dir.opposite (fun es => es ++ [(⟨s.nextId, none⟩ : LinkEntry)]))
  | reg n => cases vec <;> exact LinksOnly.refl s
  | zero => cases vec <;> exact LinksOnly.refl s
  | imm => cases vec <;> exact LinksOnly.refl s

/-- A word that passes its link check has a neighbour to write to. -/
theorem ready_neighbour {i : Instr} {f : Fields} {s : State} (h : ready i f s = true) (dir : Dir) (hd : f.d = .link dir) :
    (s.neighbour s.myTask dir).isSome = true := by
  simp only [ready, Bool.and_eq_true] at h
  have hr : rankChecks i f s = none := by simpa [rankOk] using h.1.1.1.1
  cases hn : s.neighbour s.myTask dir with
  | some n => rfl
  | none =>
    simp only [rankChecks, linkOut, hd, hn] at hr
    split at hr
    · cases hr
    · split at hr
      · cases hr
      · simp at hr

/-! ### What a result leaves -/

theorem CoresOnly.trans {s t u : State} (h : CoresOnly s t) (k : CoresOnly t u) : CoresOnly s u := by
  unfold CoresOnly at *
  rw [k, h]

theorem CoresOnly.cur {s t : State} (h : CoresOnly s t) : t.cur = s.cur := by rw [h]

theorem later_coresOnly (s : State) (d : Dest) (lat : Nat) (v : RVal) : CoresOnly s (s.later d lat v) := by
  unfold State.later
  split <;> rfl

theorem later_pk (s : State) (d : Dest) (lat : Nat) (v : RVal) : (s.later d lat v).pk = s.pk := by
  unfold State.later
  split <;> rfl

theorem setMe_ctx_other (s : State) (g : Ctx → Ctx) (c : CtxId) (h : c ≠ s.cur) : (s.setMe g).ctx c = s.ctx c :=
  State.setCtx_ctx_other s s.cur c g (Ne.symm h)

theorem SamePart.refl (t : TaskCore) : SamePart t t := rfl

theorem SamePart.trans {a b c : TaskCore} (h : SamePart a b) (k : SamePart b c) : SamePart a c := by
  unfold SamePart at *
  rw [k, h]

theorem SameRegisters.trans {a b c : Ctx} (h : SameRegisters a b) (k : SameRegisters b c) : SameRegisters a c := by
  unfold SameRegisters at *
  rw [k, h]

theorem ResultFrame.trans {s t u : State} (h : ResultFrame s t) (k : ResultFrame t u) : ResultFrame s u := by
  obtain ⟨h1, h2, h3, h4, h5⟩ := h
  obtain ⟨k1, k2, k3, k4, k5⟩ := k
  exact ⟨h1.trans k1, h2.trans k2, h3.trans k3,
    fun c hc => (k4 c (by rw [h1.cur]; exact hc)).trans (h4 c hc), fun a => (k5 a).trans (h5 a)⟩

theorem LinksOnly.frame {s t : State} (h : LinksOnly s t) : ResultFrame s t :=
  ⟨h.1, by rw [h.me]; rfl, h.part, fun c _ => h.ctx c, fun a => by rw [h.1]⟩

/-- A change of the in-flight records, the scoreboard and the divider of the issuing context keeps the frame. -/
theorem setMe_frame (s : State) (g : Ctx → Ctx) (hg : SameRegisters s.me (g s.me)) : ResultFrame s (s.setMe g) :=
  ⟨rfl, by rw [State.setMe_me]; exact hg, by rw [State.setMe_myTc]; rfl, fun c hc => setMe_ctx_other s g c hc, fun _ => rfl⟩

theorem say_frame (s : State) (v : Verdict) : ResultFrame s (s.say v) := ⟨rfl, rfl, rfl, fun _ _ => rfl, fun _ => rfl⟩

theorem later_frame (s : State) (d : Dest) (lat : Nat) (v : RVal) : ResultFrame s (s.later d lat v) := by
  unfold State.later
  split
  · exact (LinksOnly.refl s).frame
  · exact setMe_frame s _ rfl

theorem resultG_frame (s : State) (d : Sel) (lat : Nat) (x : W64) : ResultFrame s (s.resultG d lat x) :=
  (linksOnly_destOf s false d).frame.trans (later_frame _ _ _ _)

theorem resultV_frame (s : State) (d : Sel) (lat : Nat) (x : VReg) : ResultFrame s (s.resultV d lat x) :=
  (linksOnly_destOf s true d).frame.trans (later_frame _ _ _ _)

theorem resultP_frame (s : State) (d : Sel) (lat : Nat) (x : PBits) : ResultFrame s (s.resultP d lat x) :=
  later_frame _ _ _ _

theorem popLinks_frame (sh : Shape) (f : Fields) (s : State) : ResultFrame s (popLinks sh f s) :=
  (linksOnly_popLinks sh f s).frame

/-- The destination of a link is a reserved entry. -/
theorem destOf_link (s : State) (vec : Bool) (dir : Dir) (h : (s.neighbour s.myTask dir).isSome = true) :
    (s.destOf vec (.link dir)).1 = .link dir vec s.nextId := by
  obtain ⟨n, hn⟩ := Option.isSome_iff_exists.mp h
  simp [State.destOf, State.reserve, hn]

theorem later_flies (s : State) (d : Dest) (lat : Nat) (v : RVal) (h : d ≠ .none) : Flies s (s.later d lat v) d lat v :=
  State.later_me _ _ _ _ h

/-- A g result: its record, or nothing for ZERO. -/
theorem resultG_result (s : State) (d : Sel) (lat : Nat) (x : W64)
    (h : ∀ dir, d = .link dir → (s.neighbour s.myTask dir).isSome = true) : ResultG s (s.resultG d lat x) d lat x := by
  cases d with
  | reg n => exact later_flies s (.g n) lat (.g x) (by simp)
  | link dir =>
    refine ⟨s.nextId, ?_⟩
    have hl := linksOnly_destOf s false (.link dir)
    unfold Flies State.resultG
    simp only [destOf_link s false dir (h dir rfl)]
    rw [State.later_me _ _ _ _ (by simp), hl.me]
  | zero => rfl
  | imm => rfl

/-- A v result: its record, or nothing for ZERO. -/
theorem resultV_result (s : State) (d : Sel) (lat : Nat) (x : VReg)
    (h : ∀ dir, d = .link dir → (s.neighbour s.myTask dir).isSome = true) :
    ResultV s (s.resultV d lat x) d lat x.canon := by
  cases d with
  | reg n => exact later_flies s (.v n) lat (.v x.canon) (by simp)
  | link dir =>
    refine ⟨s.nextId, ?_⟩
    have hl := linksOnly_destOf s true (.link dir)
    unfold Flies State.resultV
    simp only [destOf_link s true dir (h dir rfl)]
    rw [State.later_me _ _ _ _ (by simp), hl.me]
  | zero => rfl
  | imm => rfl

/-- A predicate result: its record, or nothing for p0. -/
theorem resultP_result (s : State) (d : Sel) (lat : Nat) (x : PBits) : ResultP s (s.resultP d lat x) d lat x := by
  cases d with
  | reg n =>
    unfold ResultP
    simp only [State.resultP, Dest.ofP]
    split
    · rfl
    · exact later_flies s _ lat (.p x) (by simp)
  | link dir => rfl
  | zero => rfl
  | imm => rfl

theorem Flies.after {s t u : State} {d : Dest} {lat : Nat} {v : RVal} (h : Flies s t d lat v) (hu : u.me = t.me) :
    Flies s u d lat v := hu.trans h

theorem ResultG.after {s t u : State} {d : Sel} {lat : Nat} {x : W64} (h : ResultG s t d lat x) (hu : u.me = t.me) :
    ResultG s u d lat x := by
  cases d with
  | reg n => exact hu.trans h
  | link dir => exact ⟨h.choose, h.choose_spec.after hu⟩
  | zero => exact hu.trans h
  | imm => exact hu.trans h

theorem ResultV.after {s t u : State} {d : Sel} {lat : Nat} {x : VReg} (h : ResultV s t d lat x) (hu : u.me = t.me) :
    ResultV s u d lat x := by
  cases d with
  | reg n => exact hu.trans h
  | link dir => exact ⟨h.choose, h.choose_spec.after hu⟩
  | zero => exact hu.trans h
  | imm => exact hu.trans h

theorem ResultP.after {s t u : State} {d : Sel} {lat : Nat} {x : PBits} (h : ResultP s t d lat x) (hu : u.me = t.me) :
    ResultP s u d lat x := by
  unfold ResultP at *
  simp only [Flies, hu] at *
  exact h

/-- A ready word whose effect is a g result completes with it. -/
theorem completes_resultG {i : Instr} {f : Fields} {s : State} (lat : Nat) (x : State → W64) (h : ready i f s = true)
    (hx : exec i s = run i f { act := fun s => s.resultG f.d lat (x s) } s) :
    Completes i s (fun t => ResultG s t f.d lat (x s)) := by
  have hr := (resultG_result s f.d lat (x s) (fun dir hd => ready_neighbour h dir hd)).after (linksOnly_popLinks i.shape f _).me
  exact run_plain _ _ h hx hr hr

/-- A ready word whose effect is a predicate result completes with it. -/
theorem completes_resultP {i : Instr} {f : Fields} {s : State} (lat : Nat) (x : State → PBits) (h : ready i f s = true)
    (hx : exec i s = run i f { act := fun s => s.resultP f.d lat (x s) } s) :
    Completes i s (fun t => ResultP s t f.d lat (x s)) := by
  have hr := (resultP_result s f.d lat (x s)).after (linksOnly_popLinks i.shape f _).me
  exact run_plain _ _ h hx hr hr

/-- A ready word whose effect is a v result completes with it. -/
theorem completes_resultV {i : Instr} {f : Fields} {s : State} (e : Entry) (lat : Nat) (x : VReg)
    (h : ready i f s = true) (ha : e.act s = s.resultV f.d lat x) (hg : e.gate s = .ok) (hf : e.frozen s = none)
    (hp : (e.also s).any s.me.poisoned = false) (hq : (e.also s).any s.me.pending = false) (hx : exec i s = run i f e s) :
    Completes i s (fun t => ResultV s t f.d lat x.canon) := by
  have hr := (resultV_result s f.d lat x (fun dir hd => ready_neighbour h dir hd)).after (linksOnly_popLinks i.shape f _).me
  refine run_completes e _ h hg hf hp hq hx ?_ ?_ <;> rw [ha] <;> exact hr

/-- Every word runs as `run` runs its entry, and its false guard changes no more than the packet's record. -/
theorem exec_run (i : Instr) (f : Fields) (h : i.fields = some f) (s : State) :
    ∃ e : Entry, exec i s = run i f e s ∧ ∃ pk, e.skip s = { s with pk := pk } := by
  cases i <;> first
    | (exfalso; simp only [Instr.fields, reduceCtorEq] at h; done)
    | (simp only [Instr.fields, Option.some.injEq] at h; subst h; refine ⟨_, rfl, ?_⟩; first
        | exact ⟨s.pk, rfl⟩
        | exact ⟨_, rfl⟩)

end Sys2Proof.Machine
end

