-- ==== Sys2Proof/Laws/Space.lean ====
section
/-! SUPPORT. What the writes of the device do to memory: every operation that changes memory keeps its canonical form, and events
leave it alone. -/

namespace Sys2Proof.Machine

open Sys2Proof

/-- A list of steps each of which keeps a property keeps it. -/
theorem foldl_keeps {α β : Type} (P : α → Prop) (f : α → β → α) (hf : ∀ a b, P a → P (f a b)) : ∀ (l : List β) (a : α), P a → P (l.foldl f a)
  | [], _, h => h
  | b :: l, a, h => foldl_keeps P f hf l (f a b) (hf a b h)

theorem pushEvent_mem (s : State) (q : QuadId) (isFault : Bool) (bs : List Byte) : (s.pushEvent q isFault bs).mem = s.mem := by
  unfold State.pushEvent
  dsimp only
  split
  · rfl
  · split <;> rfl

theorem takeFault_mem (s : State) (c : CtxId) (fi : FaultInfo) : (s.takeFault c fi).mem = s.mem := by
  unfold State.takeFault
  dsimp only
  split
  · rw [pushEvent_mem]; rfl
  · rfl

/-- A context that is not running takes no fault. -/
theorem takeFault_idle (s : State) (c : CtxId) (fi : FaultInfo) (h : (s.ctx c).life ≠ .running) : s.takeFault c fi = s := by
  unfold State.takeFault
  exact if_neg h

theorem watchPart_mem (s : State) (w : Writer) (part : Nat) (bs : List (Option Byte)) : (s.watchPart w part bs).mem = s.mem :=
  foldl_keeps (fun t : State => t.mem = s.mem) _
    (fun t e h => by
      dsimp only
      split
      · rw [pushEvent_mem]; exact h
      · exact h) _ s rfl

theorem watchLine_mem (s : State) (w : Writer) (line off : Nat) (bs : List (Option Byte)) : (s.watchLine w line off bs).mem = s.mem := by
  unfold State.watchLine
  split
  · rfl
  · exact foldl_keeps (fun t : State => t.mem = s.mem) _ (fun t i h => by rw [watchPart_mem]; exact h) _ s rfl

theorem rekey_wf (s : State) (tenant word : Nat) (h : s.mem.wf = true) : (s.rekey tenant word).mem.wf = true := by
  simp only [State.rekey]
  split
  · exact h
  · split
    · exact h
    · split
      · exact h
      · exact Memory.wf_write _ _ _ h

theorem pack_mem (s : State) (pa : Nat) : (s.pack pa).mem = s.mem := by
  unfold State.pack
  split <;> rfl

theorem packAll_mem (s : State) (cmp : Bool) (pa n : Nat) : (s.packAll cmp pa n).mem = s.mem := by
  unfold State.packAll
  split
  · exact foldl_keeps (fun t : State => t.mem = s.mem) _ (fun t x h => by rw [pack_mem]; exact h) _ s rfl
  · rfl

theorem otherTags_mem (s : State) (l : Option CluId) (k : Option CoreId) (f : Map (Nat × Nat) LineTag → Map (Nat × Nat) LineTag) :
    (s.otherTags l k f).mem = s.mem := rfl

theorem recall_mem (s : State) (w : Writer) (line : Nat) : (s.recall w line).mem = s.mem := rfl

theorem putLine_wf (s : State) (w : Writer) (line off : Nat) (bs : List (Option Byte)) (h : s.mem.wf = true) :
    (s.putLine w line off bs).mem.wf = true := by
  unfold State.putLine
  split
  · exact h
  · dsimp only
    rw [watchLine_mem, recall_mem, packAll_mem]
    exact Memory.wf_writeMasked _ _ _ (foldl_keeps (fun t : State => t.mem.wf = true) _ (fun t x ht => rekey_wf t _ _ ht) _ s h)

/-- A write at a home keeps the canonical form. -/
theorem perform_wf (s : State) (w : Writer) (pa : Nat) (bs : List (Option Byte)) (h : s.mem.wf = true) :
    (s.perform w pa bs).mem.wf = true :=
  foldl_keeps (fun t : State => t.mem.wf = true) _ (fun t _ ht => putLine_wf t _ _ _ _ ht) _ s h

/-- The loss of a package keeps the canonical form. -/
theorem darken_wf (s : State) (p : Nat) (h : s.mem.wf = true) : (s.darken p).mem.wf = true := Memory.wf_filter _ _ h

end Sys2Proof.Machine
end

