-- ==== Sys2Proof/Tests/Slice0.lean ====
section
/-! SUPPORT. Tests: words written out from the spec's encodings, an ill-formed term for each check, one step of the
instructions against results that the spec gives, and for every statement with hypotheses a state that meets them. -/

namespace Sys2Proof.Tests

open Sys2Proof Sys2Proof.Machine Sys2Proof.Lanes

/- One theorem after another: each is evaluated by the kernel, and a waiting one would hold a thread. -/
set_option Elab.async false
/-! ## Decoding: words written out from the encodings of the spec -/

/-- The word of a class, an opcode and the fields below them, each already at its place (02 R29: CL in [95:93], OP in
[92:85], GD in [84:81], D in [80:75], A in [74:69], B in [68:63], C in [62:57], MOD in [56:51], LA in [50:45], LB in
[44:39], X in [38:32], IMM in [31:0]). -/
def wordOf (cl op rest : Nat) : W96 := BitVec.ofNat 96 (cl <<< 93 + op <<< 85 + rest)

/-- The decoder reads this instruction from the word, and the encoder writes that word again. -/
def reads (w : W96) (i : Instr) : Bool := (decode w).toOption == some i && encode i == some w

/-- Rows of an opcode map (02 R42-R46), every field below CL and OP zero. -/
def mapReads (cl : Nat) (rows : List (Nat × (Fields → Instr))) : Bool :=
  rows.all (fun r => reads (wordOf cl r.1 0) (r.2 Fields.zero))

theorem test_decode_scalar_map_low : mapReads 0
    [(0x00, .add), (0x01, .sub), (0x02, .mul), (0x03, .mulh), (0x04, .mulhu), (0x05, .div), (0x06, .divu), (0x07, .rem),
     (0x08, .remu), (0x09, .and), (0x0A, .or), (0x0B, .xor), (0x0C, .andn), (0x0D, .shl), (0x0E, .shr), (0x0F, .sra),
     (0x10, .rol), (0x11, .min), (0x12, .minu), (0x13, .max), (0x14, .maxu), (0x15, .sel), (0x16, .mov),
     (0x17, .movh)] = true := by decide +kernel

theorem test_decode_scalar_map_high : mapReads 0
    [(0x18, .lea), (0x19, .ext), (0x1A, .extu), (0x1B, .ins), (0x1C, .sext), (0x1D, .zext), (0x1E, .clz), (0x1F, .ctz),
     (0x20, .ffs), (0x21, .popc), (0x22, .bswap), (0x23, .brev), (0x24, .cmp), (0x25, .cmpf), (0x26, .fadd),
     (0x27, .fmul), (0x28, .ffma), (0x29, .fmin), (0x2A, .fmax), (0x2B, .fcvt), (0x2C, .pset), (0x2D, .mrd),
     (0x2F, .rdtime)] = true := by decide +kernel

theorem test_decode_vector_map_low : mapReads 1
    [(0x00, .vadd), (0x01, .vsub), (0x02, .vmul), (0x03, .vfma), (0x04, .vfms), (0x05, .vfnma), (0x06, .vmin),
     (0x07, .vmax), (0x08, .vabs), (0x09, .vneg), (0x0A, .vand), (0x0B, .vor), (0x0C, .vxor), (0x0D, .vandn),
     (0x0E, .vshl), (0x0F, .vshr), (0x10, .vsra), (0x11, .vmulh), (0x12, .vavg), (0x13, .vabd), (0x14, .vcmp),
     (0x15, .vsel), (0x16, .vmov)] = true := by decide +kernel

theorem test_decode_vector_map_high : mapReads 1
    [(0x18, .vget), (0x19, .vset), (0x1A, .vperm), (0x1B, .vcomp), (0x1C, .vexpd), (0x1D, .vred), (0x1E, .vscan),
     (0x1F, .vdot4), (0x20, .vclz), (0x21, .vpopc), (0x22, .vffs), (0x23, .vexp2), (0x24, .vlog2), (0x25, .vrcp),
     (0x26, .vrsq), (0x27, .vsin), (0x28, .vcos), (0x29, .vtanh), (0x2B, .vtag)] = true := by decide +kernel

theorem test_decode_matrix_map : mapReads 2
    [(0x01, .mlda), (0x02, .mldb), (0x03, .mgat), (0x04, .mmul), (0x05, .mmuls), (0x06, .mcom), (0x07, .mdis),
     (0x08, .mscq), (0x0A, .mrow), (0x0B, .mst), (0x0C, .mcnt), (0x0D, .mthr), (0x0E, .mwt),
     (0x0F, .mstat)] = true := by decide +kernel

theorem test_decode_envelope_map : mapReads 2
    [(0x20, .eclr), (0x21, .eins), (0x22, .eevl), (0x23, .esum), (0x24, .emax), (0x25, .einf), (0x26, .econj),
     (0x27, .esimp), (0x28, .eld), (0x29, .est), (0x2A, .eadd), (0x2B, .ecnt), (0x2C, .edom),
     (0x2D, .ewt)] = true := by decide +kernel

theorem test_decode_communication_map_low : mapReads 3
    [(0x00, .ldl), (0x01, .stl), (0x08, .stmap), (0x09, .stfl), (0x0A, .stinv), (0x0B, .rres), (0x0C, .rtake),
     (0x0D, .rrel), (0x0E, .rcfg), (0x0F, .rstat), (0x10, .ld), (0x11, .st), (0x1B, .pf), (0x1C, .wb),
     (0x1D, .inv)] = true := by decide +kernel

theorem test_decode_communication_map_high : mapReads 3
    [(0x20, .cp), (0x21, .cps), (0x22, .cpw), (0x23, .streamSub), (0x24, .unsub), (0x25, .drn), (0x26, .cpq),
     (0x27, .msg), (0x30, .mcst), (0x31, .gopen), (0x32, .gst), (0x33, .gcom), (0x34, .gab),
     (0x35, .gstt)] = true := by decide +kernel

theorem test_decode_control_map : mapReads 4
    [(0x00, .nop), (0x01, .b), (0x02, .ba), (0x03, .bl), (0x04, .br), (0x05, .brl), (0x06, .rep), (0x07, .lpin),
     (0x08, .lfree), (0x09, .tick), (0x0A, .bkpt), (0x11, .bar), (0x12, .mon), (0x13, .mwait)] = true := by
  decide +kernel

theorem test_decode_task_and_system_map : mapReads 4
    [(0x20, .sopen), (0x21, .sclose), (0x22, .scnl), (0x23, .sshd), (0x24, .sunsh), (0x25, .claim), (0x26, .spawn),
     (0x27, .spwg), (0x28, .start), (0x29, .exit), (0x2A, .yield), (0x2B, .poll), (0x2C, .tgnode), (0x2D, .tgdec),
     (0x2E, .sinfo), (0x32, .prmt), (0x33, .resm), (0x34, .plbw), (0x35, .plbi), (0x37, .pgok), (0x38, .wpt),
     (0x39, .auds)] = true := by decide +kernel

/-- The rows whose entry asks for a size, a tag, a line count or a cause, each with the field it asks for: the register
numbers 1 to 4 at D, A, B, C where the entry has them, MOD[53:51] the size, X[35:32] or [42:39] the tag or the operation
(07 R138-R143, 08 R159, 09 R183-R187, 10 R220, R231, 12 R269-R275). -/
theorem test_decode_rows_with_a_format :
    ([(1, 0x17, 1 <<< 75 + 2 <<< 69 + 10 <<< 32, .vbc { Fields.zero with d := .reg 1, a := .reg 2, x := 10 }),
      (1, 0x2A, 1 <<< 75 + 2 <<< 69 + 4 <<< 32 + 3, .vcvt { Fields.zero with d := .reg 1, a := .reg 2, x := 4, imm := 3 }),
      (1, 0x2C, 1 <<< 75 + 2 <<< 69 + 3 <<< 63 + 12 <<< 32 + 1,
        .vqnt { Fields.zero with d := .reg 1, a := .reg 2, b := .reg 3, x := 12, imm := 1 }),
      (1, 0x2D, 1 <<< 75 + 2 <<< 69 + 3 <<< 63 + 9 <<< 32,
        .vdqt { Fields.zero with d := .reg 1, a := .reg 2, b := .reg 3, x := 9 }),
      (1, 0x2E, 1 <<< 75 + 2 <<< 69 + 7 <<< 32, .vbmax { Fields.zero with d := .reg 1, a := .reg 2, x := 7 }),
      (1, 0x2F, 1 <<< 75 + 2 <<< 69 + 11 <<< 32, .vsat { Fields.zero with d := .reg 1, a := .reg 2, x := 11 }),
      (2, 0x00, 3 <<< 75 + 10 <<< 32, .mzero { Fields.zero with d := .reg 3, x := 10 }),
      (2, 0x09, 1 <<< 75 + 4 <<< 69 + 8 <<< 32, .mfin { Fields.zero with d := .reg 1, a := .reg 4, x := 8 }),
      (2, 0x2C, 7 <<< 75 + 3 <<< 69 + 1 <<< 51, .edomGet { Fields.zero with d := .reg 7, a := .reg 3, mod := 1 }),
      (0, 0x2E, 2 <<< 69 + 3, .mwr { Fields.zero with a := .reg 2, imm := 3 })]
      : List (Nat × Nat × Nat × Instr)).all (fun r => reads (wordOf r.1 r.2.1 r.2.2.1) r.2.2.2) = true := by
  decide +kernel

theorem test_decode_local_rows_with_a_size :
    ([(3, 0x02, 1 <<< 75 + 2 <<< 69 + 6 <<< 51 + 1 <<< 39,
        .vldl { Fields.zero with d := .reg 1, a := .reg 2, mod := 6, lb := 1 }),
      (3, 0x03, 2 <<< 69 + 3 <<< 63 + 6 <<< 51, .vstl { Fields.zero with a := .reg 2, b := .reg 3, mod := 6 }),
      (3, 0x04, 1 <<< 75 + 2 <<< 69 + 3 <<< 63 + 6 <<< 51 + 10 <<< 39,
        .vgl { Fields.zero with d := .reg 1, a := .reg 2, b := .reg 3, mod := 6, lb := 10 }),
      (3, 0x05, 2 <<< 69 + 3 <<< 63 + 4 <<< 57 + 6 <<< 51,
        .vsl { Fields.zero with a := .reg 2, b := .reg 3, c := .reg 4, mod := 6 }),
      (3, 0x06, 1 <<< 75 + 2 <<< 69 + 3 <<< 63 + 3 <<< 51 + 5 <<< 39,
        .ala { Fields.zero with d := .reg 1, a := .reg 2, b := .reg 3, mod := 3, lb := 5 }),
      (3, 0x07, 1 <<< 75 + 2 <<< 69 + 3 <<< 63 + 2 <<< 51 + 10 <<< 39,
        .alf { Fields.zero with d := .reg 1, a := .reg 2, b := .reg 3, mod := 2, lb := 10 })]
      : List (Nat × Nat × Nat × Instr)).all (fun r => reads (wordOf r.1 r.2.1 r.2.2.1) r.2.2.2) = true := by
  decide +kernel

theorem test_decode_global_rows_with_a_size :
    ([(3, 0x12, 1 <<< 75 + 1 <<< 69 + 0b011110 <<< 51 + 1 <<< 39 + 4 <<< 34,
        .vld { Fields.zero with d := .reg 1, a := .reg 1, mod := 0b011110, lb := 1, x := 0x10 }),
      (3, 0x13, 2 <<< 69 + 3 <<< 63 + 6 <<< 51, .vst { Fields.zero with a := .reg 2, b := .reg 3, mod := 6 }),
      (3, 0x14, 1 <<< 75 + 2 <<< 69 + 3 <<< 63 + 6 <<< 51,
        .vgg { Fields.zero with d := .reg 1, a := .reg 2, b := .reg 3, mod := 6 }),
      (3, 0x15, 2 <<< 69 + 3 <<< 63 + 4 <<< 57 + 6 <<< 51,
        .vsg { Fields.zero with a := .reg 2, b := .reg 3, c := .reg 4, mod := 6 }),
      (3, 0x16, 2 <<< 75 + 7 <<< 69 + 9 <<< 63 + 0b011011 <<< 51 + 5 <<< 39 + 31 <<< 34,
        .amo { Fields.zero with d := .reg 2, a := .reg 7, b := .reg 9, mod := 0b011011, lb := 5, x := 0x7C }),
      (3, 0x17, 1 <<< 75 + 2 <<< 69 + 3 <<< 63 + 4 <<< 57 + 2 <<< 51,
        .cas { Fields.zero with d := .reg 1, a := .reg 2, b := .reg 3, c := .reg 4, mod := 2 }),
      (3, 0x18, 1 <<< 75 + 2 <<< 69 + 3 <<< 63 + 1 <<< 51 + 8 <<< 39,
        .famo { Fields.zero with d := .reg 1, a := .reg 2, b := .reg 3, mod := 1, lb := 8 }),
      (3, 0x19, 2 <<< 69 + 3 <<< 63 + 0b100011 <<< 51,
        .fset { Fields.zero with a := .reg 2, b := .reg 3, mod := 0b100011 }),
      (3, 0x1A, 5 <<< 75 + 6 <<< 69 + 2 <<< 57 + 0b100011 <<< 51 + 31 <<< 34,
        .fget { Fields.zero with d := .reg 5, a := .reg 6, c := .reg 2, mod := 0b100011, x := 0x7C })]
      : List (Nat × Nat × Nat × Instr)).all (fun r => reads (wordOf r.1 r.2.1 r.2.2.1) r.2.2.2) = true := by
  decide +kernel

/-- The worked words of 13 R298 and 19 R409-R418. -/
theorem test_decode_worked_system_words :
    ([(0x820000000118000000000000, .fence { Fields.zero with mod := 0b100011 }),
      (0x860000800000000000000011, .trap { Fields.zero with a := .reg 4, imm := 0x11 }),
      (0x86200482800800000000000A, .killDom { Fields.zero with a := .zero, b := .reg 5, mod := 1, imm := 0x0A }),
      (0x866000800008000000000000, .resm { Fields.zero with a := .reg 4, mod := 1 }),
      (0x868000418800000000000005, .plbw { Fields.zero with a := .reg 2, b := .reg 3, c := .reg 4, imm := 5 }),
      (0x86C0006200C0000000000000, .xlti { Fields.zero with a := .reg 3, b := .reg 4, mod := 0b011000 }),
      (0x86E000E00000000000000000, .pgok { Fields.zero with a := .reg 7 })]
      : List (W96 × Instr)).all (fun r => reads r.1 r.2) = true := by
  decide +kernel

theorem test_decode_kill_and_plbi_dom :
    (reads (wordOf 4 0x31 (5 <<< 69 + 0x17)) (.kill { Fields.zero with a := .reg 5, imm := 0x17 })
      && reads (wordOf 4 0x35 (36 <<< 69 + 6 <<< 63 + 1 <<< 51))
        (.plbiDom { Fields.zero with a := .zero, b := .reg 6, mod := 1 })) = true := by
  decide +kernel

/-- Worked words of 02 R39, 05, 06, 07 and 08: branches with a guard, immediates, link and lane selectors. -/
theorem test_decode_worked_core_words :
    ([(0x80240000 * 2 ^ 64 + 0xFFFFFFF8, .b { Fields.zero with guard := ⟨false, 2⟩, imm := 0xFFFFFFF8 }),
      (0x80460000 * 2 ^ 64 + 0x12, .ba { Fields.zero with guard := ⟨false, 3⟩, imm := 0x12 }),
      (0x0320085280000000 * 2 ^ 32 + 0x1008, .ext { Fields.zero with d := .reg 1, a := .reg 2, b := .imm, imm := 0x1008 }),
      (0x0480193280100000 * 2 ^ 32 + 4, .cmp { Fields.zero with d := .reg 3, a := .reg 9, b := .imm, mod := 2, imm := 4 }),
      (0x20003C6380012000 * 2 ^ 32, .vadd { Fields.zero with d := .reg 7, a := .link .w, b := .reg 7, la := 0b001001 }),
      (0x0560084000200000 * 2 ^ 32, .fcvt { Fields.zero with d := .reg 1, a := .reg 2, mod := 4 }),
      (0x6460004280000000 * 2 ^ 32, .streamSub { Fields.zero with a := .reg 2, b := .reg 5 }),
      (0x80C004A000000001 * 2 ^ 32 + 100, .rep { Fields.zero with a := .imm, x := 1, imm := 100 })]
      : List (Nat × Instr)).all (fun r => reads (BitVec.ofNat 96 r.1) r.2) = true := by
  decide +kernel

/-- The decoder rejects the word under this name. -/
def rejects (w : W96) (r : Reject) : Bool :=
  match decode w with
  | .error x => x == r
  | .ok _ => false

/-- Each way a word can fail to be an instruction (02 R47): class 101, an opcode missing from its class, the guard
0b1000, a selector of 38, a field that the entry does not assign, too few bytes. -/
theorem test_decode_rejects_by_name :
    (rejects (wordOf 5 0 0) (.unassignedClass 5) && rejects (wordOf 0 0x30 0) (.unassignedOpcode 0 0x30)
      && rejects (wordOf 0 0 (1 <<< 84)) .guardNever && rejects (wordOf 0 0 (38 <<< 75)) (.unassignedSelector 38)
      && rejects (wordOf 4 0 1) .unassignedField
      && (match decodeBytes [0, 0, 0] with | .error r => r == .tooShort 3 | .ok _ => false)) = true := by decide +kernel

/-- The bytes of a position are little-endian: byte 0 holds bits [7:0], byte 11 bits [95:88] (02 R19). -/
theorem test_decode_bytes_little_endian :
    (decodeBytes [1, 0, 0, 0, 0, 0, 0, 0x80, 0x92, 0x20, 0, 0, 0x55]).toOption
      = some (.add { Fields.zero with d := .reg 4, a := .reg 4, b := .imm, imm := 1 }, [0x55]) := by decide +kernel

/-! ## Well-formed terms: an ill-formed one for each check -/

/-- None of these instructions is well formed. -/
def illFormed (is : List Instr) : Bool := is.all (fun i => !i.wellFormed)

/-- The guard 0b1000, and a step of the device, which has no word. -/
theorem test_illformed_guard_and_event :
    illFormed [.add { Fields.zero with guard := ⟨true, 0⟩ }, .eccrClr (.slice ⟨0, 0, 0⟩)] = true := by decide

/-- A selector the entry does not accept, one for each kind of selector (02 R31, R47). -/
theorem test_illformed_selectors :
    illFormed
      [.nop { Fields.zero with d := .reg 1 }, .add { Fields.zero with d := .imm },
       .ldl { Fields.zero with d := .link .n }, .sclose { Fields.zero with a := .imm },
       .vbc { Fields.zero with a := .link .n, x := 10 }, .ldl { Fields.zero with a := .zero },
       .plbi { Fields.zero with a := .imm }, .mmuls { Fields.zero with b := .reg 3 },
       .claim { Fields.zero with a := .link .s },
       .killDom { Fields.zero with a := .reg 1, b := .reg 5, mod := 1, imm := 1 },
       .cmp { Fields.zero with d := .reg 8 }, .sel { Fields.zero with c := .reg 9 },
       .vadd { Fields.zero with d := .imm }, .vldl { Fields.zero with d := .link .w, mod := 6 },
       .vld { Fields.zero with d := .zero, mod := 6 }, .vset { Fields.zero with d := .link .n },
       .vbmax { Fields.zero with a := .zero, x := 7 }, .vtag { Fields.zero with a := .imm },
       .vstl { Fields.zero with b := .zero, mod := 6 }, .eevl { Fields.zero with b := .link .n },
       .mzero { Fields.zero with d := .reg 4, x := 10 }, .mst { Fields.zero with b := .zero },
       .mwt { Fields.zero with a := .link .n }, .eclr { Fields.zero with d := .reg 8 },
       .eevl { Fields.zero with a := .zero }, .ewt { Fields.zero with a := .imm },
       .rres { Fields.zero with a := .reg 8 }, .cp { Fields.zero with a := .reg 8, lb := 1 }] = true := by
  decide

/-- The same words with a selector the entry accepts are well formed, so each refusal above is the selector's. -/
theorem test_wellformed_selectors :
    ([.nop Fields.zero, .add { Fields.zero with d := .link .n }, .ldl { Fields.zero with d := .zero },
      .sclose { Fields.zero with a := .zero }, .vbc { Fields.zero with a := .imm, x := 10 }, .plbi Fields.zero,
      .mmuls { Fields.zero with b := .reg 3, mod := 0b010000 }, .claim { Fields.zero with a := .zero },
      .killDom { Fields.zero with a := .zero, b := .reg 5, mod := 1, imm := 1 }, .cmp { Fields.zero with d := .zero },
      .sel { Fields.zero with c := .zero }, .vadd { Fields.zero with d := .link .n },
      .vldl { Fields.zero with d := .zero, mod := 6 }, .vld { Fields.zero with mod := 6 },
      .vset { Fields.zero with d := .zero }, .vbmax { Fields.zero with a := .link .n, x := 7 },
      .vtag { Fields.zero with a := .link .n }, .vstl { Fields.zero with mod := 6 },
      .eevl { Fields.zero with b := .zero }, .mzero { Fields.zero with d := .reg 3, x := 10 },
      .mst { Fields.zero with b := .reg 3 }, .mwt { Fields.zero with a := .zero }, .eclr { Fields.zero with d := .reg 7 },
      .ewt { Fields.zero with a := .zero }, .rres { Fields.zero with a := .reg 7 },
      .cp { Fields.zero with a := .reg 7, lb := 1 }] : List Instr).all Instr.wellFormed = true := by decide

/-- A bit of MOD, X, LA, LB or IMM that the entry does not assign, and a lane pattern with no vector operand or no
assigned kind (02 R32-R36, R47). -/
theorem test_illformed_fields :
    illFormed
      [.nop { Fields.zero with mod := 1 }, .add { Fields.zero with x := 1 }, .add { Fields.zero with la := 8 },
       .vadd { Fields.zero with la := 1 }, .vadd { Fields.zero with la := 0b101000 },
       .vadd { Fields.zero with b := .zero, lb := 8 }, .ldl { Fields.zero with lb := 0x10 },
       .add { Fields.zero with imm := 1 }, .trap { Fields.zero with a := .reg 4, imm := 0x111 }] = true := by
  decide

/-- A value that the instruction's own entry leaves unassigned. -/
theorem test_illformed_entries :
    illFormed
      [.cmp { Fields.zero with mod := 6 }, .mwr { Fields.zero with imm := 0xFFF }, .mrd { Fields.zero with imm := 0xFFF },
       .vbc Fields.zero, .vsat Fields.zero, .vbmax { Fields.zero with x := 10 }, .vqnt { Fields.zero with x := 10 },
       .vdqt { Fields.zero with x := 7 }, .mzero { Fields.zero with x := 9 }, .mfin { Fields.zero with x := 15 },
       .vldl Fields.zero, .vldl { Fields.zero with mod := 7, lb := 1 }, .vstl Fields.zero, .vgl Fields.zero,
       .vsl Fields.zero, .ala Fields.zero, .ala { Fields.zero with mod := 2, lb := 9 },
       .alf { Fields.zero with mod := 2, lb := 8 }, .ld { Fields.zero with mod := 0b111000 }, .vld Fields.zero,
       .amo Fields.zero, .cas Fields.zero, .famo { Fields.zero with mod := 1, lb := 10 }, .fset Fields.zero,
       .fget { Fields.zero with mod := 2 }, .fence { Fields.zero with mod := 0b001000 }, .trap Fields.zero,
       .kill { Fields.zero with imm := 0x18 }, .xlti { Fields.zero with mod := 0b100000 + 0b001000 },
       .xlti { Fields.zero with mod := 0b010000 }] = true := by decide
/-! ## A small state -/

/-- A die whose first sites are workers. -/
def someDie : DieState :=
  { DieState.fresh with
    workers := [(0, 1), (1, 2), (2, 3), (3, 4), (4, 32), (5, 33), (6, 34), (7, 35)]
    sups := [(0, 0), (1, 16), (2, 512), (3, 528)], ok := true }

/-- A package that has booted, with tenant 5 set up. -/
def somePkg : Pkg :=
  { Pkg.fresh with
    powered := true, st := .ready, dies := [(0, someDie), (1, someDie), (2, someDie), (3, someDie)]
    tenants := [(5, { Tenant.fresh with valid := true, poolBase := 0x4000000, poolSize := 0x1000000 })] }

/-- Worker 0 of die 0. -/
def k0 : CoreId := ⟨0, 0, 0⟩
/-- Its lead context. -/
def lead : CtxId := ⟨k0, 0⟩
/-- Supervisor 0 of die 0. -/
def sup0 : CoreId := ⟨0, 0, 992⟩

/-- A running context of domain 0x0500. -/
def someCtx : Ctx := { Ctx.fresh with life := .running, domain := 0x0500 }

/-- The task bound to worker 0. -/
def someTask : Task where
  pkg := 0
  dom := 0x0500
  entry := 0x400000
  args := []
  prio := 1
  level := 1
  reach := 3
  foot := 16
  gang := none
  scope := 0
  share := 4294967296
  origin := (0, 0, 1)
  clu := ⟨0, 0, 0⟩
  order := 0
  since := 0
  life := .running
  core := some k0
  frame := none
  header := none
  shadow := none
  spilled := false
  pooled := 0
  node := none
  waits := []
  started := 0
  starts := 1
  lastCore := none
  incarn := 1
  rooted := false
  fetches := []
  ousted := false
  seen := []

/-- Worker 0 runs a task of tenant 5 whose PLB grants all of the first 2^47 bytes; the page at 0 of cluster 0 is cached. -/
def base : State :=
  { State.reset with
    cur := lead, nextId := 10, pkgs := [(0, somePkg)]
    cores := [(k0, { Core.fresh with
      task := some 7, tc := { TaskCore.fresh with ctxs := [(0, someCtx)] }, plb := [(0, (47, 0x050000000000007F))] })]
    tasks := [(7, someTask)]
    slices := [(⟨0, 0, 0⟩, { Slice.fresh with tlb := [⟨0, 0, false, false, false⟩] })] }

/-- Change the running context. -/
def onCtx (h : Ctx → Ctx) (s : State) : State := s.setCtx s.cur h
/-- Change the core's part. -/
def onTc (h : TaskCore → TaskCore) (s : State) : State := s.setTc s.cur.core h
/-- Put values into g registers. -/
def withG (vs : List (Fin 32 × W64)) (s : State) : State :=
  onCtx (fun c => { c with g := vs.foldl (fun v e => v.set e.1 e.2) c.g }) s
/-- Put values into v registers. -/
def withV (vs : List (Fin 32 × VReg)) (s : State) : State :=
  onCtx (fun c => { c with v := vs.foldl (fun v e => v.set e.1 e.2) c.v }) s
/-- Put values into predicates. -/
def withP (vs : List (Fin 8 × PBits)) (s : State) : State :=
  onCtx (fun c => { c with p := vs.foldl (fun v e => v.set e.1 e.2) c.p }) s
/-- The next packet stands in phase `ph`. -/
def inPhase (ph : Phase) (s : State) : State := { s with pk := { s.pk with phase := ph } }
/-- The supervisor of quadrant 0 is the issuer. -/
def asSup (s : State) : State :=
  let c : CtxId := ⟨sup0, 0⟩
  let t : State := { s with cur := c }
  t.setCtx c (fun k => { k with life := .running })

/-- D, A, B, C at registers 1, 2, 3, 4 as far as the entry has them. -/
def f3 : Fields := { Fields.zero with d := .reg 1, a := .reg 2, b := .reg 3 }
/-- D and A. -/
def f2 : Fields := { Fields.zero with d := .reg 1, a := .reg 2 }

/-- The state that one instruction answers. -/
def after (i : Instr) (s : State) : State :=
  match exec i s with
  | .next t => t
  | _ => s

/-- The newest result in flight after one instruction. -/
def flown (i : Instr) (s : State) : Option (Dest × RVal × Nat) :=
  match exec i s with
  | .next t => t.me.inflight.head?.map (fun r => (r.dest, r.val, r.due))
  | _ => none

/-- The instruction flies `x` to g1, due `lat` later. -/
def gives (i : Instr) (s : State) (lat : Nat) (x : W64) : Bool := flown i s == some (.g 1, .g x, lat)

/-- g2 and g3 hold these. -/
def st2 (a b : W64) : State := withG [(2, a), (3, b)] base

/-- p1 receives a predicate. -/
def givesP (i : Instr) (s : State) (lat : Nat) (x : PBits) : Bool := flown i s == some (.p 1, .p x, lat)

/-- Every row may issue, whatever its phase. -/
def allReady (s : State) (rows : List (Fields → Instr)) (f : Fields) : Bool := rows.all (fun c => ready (c f) f s)

/-- A register of a tag whose lane `i` is `xs i`. -/
def vecBy (t : Tag) (xs : Nat → Nat) : VReg :=
  ⟨BitVec.ofNat 2048 ((List.range t.lanes).foldl (fun a i => a + (xs i % 2 ^ t.width) * 2 ^ (t.width * i)) 0), t⟩

/-- A register of a tag whose first lanes are listed; the others are zero. -/
def vecOfList (t : Tag) (xs : List Nat) : VReg := vecBy t (fun i => xs.getD i 0)

/-- The newest result in flight is a v register of this tag with these first lanes, due `lat` later. -/
def givesV (i : Instr) (s : State) (lat : Nat) (t : Tag) (xs : List Nat) : Bool :=
  match flown i s with
  | some (.v 1, .v r, n) => n == lat && r.tag == t && (List.range xs.length).all (fun j => laneAt t.width r.bits j == xs.getD j 0)
  | _ => false

/-- v2, v3 and v4 begin with these lanes. -/
def stV (t : Tag) (a b : List Nat) (c : List Nat := []) : State :=
  withV [(2, vecOfList t a), (3, vecOfList t b), (4, vecOfList t c)] base


/-- A table listed by consecutive numbers holds each of them. -/
theorem find_listed {κ ν : Type} [DecidableEq κ] (f : Nat → κ) (hf : ∀ i j, f i = f j → i = j) (g : Nat → ν) : ∀ (n a i : Nat),
    a ≤ i → i < a + n → Map.find ((List.range' a n).map (fun j => (f j, g j))) (f i) = some (g i) := by
  intro n
  induction n with
  | zero => intro a i h h'; omega
  | succ n ih =>
    intro a i h h'
    simp only [List.range'_succ, List.map_cons, Map.find]
    split
    · next e => rw [hf a i e]
    · next hne =>
      have h1 : a ≠ i := fun e => hne (by rw [e])
      have h2 : a + 1 ≤ i := by omega
      exact ih (a + 1) i h2 (by omega)

/-! ## Scalar instructions (06) -/

/-- Expected values by hand from 06 R104. -/
theorem test_two_source_results :
    ([(.add f3, 0xFFFFFFFFFFFFFFFF, 2, 1, 1), (.sub f3, 1, 2, 1, 0xFFFFFFFFFFFFFFFF), (.mul f3, 0x8000000000000001, 3, 3, 0x8000000000000003),
      (.mulh f3, 0xFFFFFFFFFFFFFFFF, 2, 3, 0xFFFFFFFFFFFFFFFF), (.mulhu f3, 0xFFFFFFFFFFFFFFFF, 2, 3, 1),
      (.and f3, 0b1100, 0b1010, 1, 0b1000), (.or f3, 0b1100, 0b1010, 1, 0b1110), (.xor f3, 0b1100, 0b1010, 1, 0b0110),
      (.andn f3, 0b1100, 0b1010, 1, 0b0100), (.shl f3, 3, 65, 1, 6), (.shr f3, 0x8000000000000000, 63, 1, 1),
      (.sra f3, 0x8000000000000000, 63, 1, 0xFFFFFFFFFFFFFFFF), (.rol f3, 0x8000000000000001, 1, 1, 3),
      (.min f3, 0xFFFFFFFFFFFFFFFF, 1, 1, 0xFFFFFFFFFFFFFFFF), (.minu f3, 0xFFFFFFFFFFFFFFFF, 1, 1, 1),
      (.max f3, 0xFFFFFFFFFFFFFFFF, 1, 1, 1), (.maxu f3, 0xFFFFFFFFFFFFFFFF, 1, 1, 0xFFFFFFFFFFFFFFFF)]
      : List (Instr × W64 × W64 × Nat × W64)).all
        (fun r => gives r.1 (st2 r.2.1 r.2.2.1) r.2.2.2.1 r.2.2.2.2) = true := by decide +kernel

/-- 06 R105: a zero divisor, the one overflow, truncation toward zero; R106: 12 cycles at least. -/
theorem test_divides :
    ([(.div f3, 0xFFFFFFFFFFFFFFF9, 2, 12, 0xFFFFFFFFFFFFFFFD), (.rem f3, 0xFFFFFFFFFFFFFFF9, 2, 12, 0xFFFFFFFFFFFFFFFF),
      (.div f3, 0x8000000000000000, 0xFFFFFFFFFFFFFFFF, 40, 0x8000000000000000),
      (.rem f3, 0x8000000000000000, 0xFFFFFFFFFFFFFFFF, 40, 0),
      (.divu f3, 7, 0, 12, 0xFFFFFFFFFFFFFFFF), (.remu f3, 7, 0, 12, 7),
      (.divu f3, 0xFFFFFFFFFFFFFFFF, 16, 40, 0x0FFFFFFFFFFFFFFF)]
      : List (Instr × W64 × W64 × Nat × W64)).all
        (fun r => (after r.1 (st2 r.2.1 r.2.2.1)).me.divide.map (fun d => (d.landAt, d.val))
          == some (r.2.2.2.1, r.2.2.2.2)) = true := by decide +kernel

/-- The examples of 06 R108-R112, the others by hand. -/
theorem test_moves_fields_and_counts :
    (gives (.ext { f3 with b := .imm, imm := 0x1008 }) (st2 0x0000000000803400 0) 1 0xFFFFFFFFFFFF8034
      && gives (.extu { f3 with b := .imm, imm := 0x1008 }) (st2 0x0000000000803400 0) 1 0x0000000000008034
      && gives (.movh { f3 with b := .imm, imm := 0x12345678 }) (st2 0xFFFFFFFF9ABCDEF0 0) 1 0x123456789ABCDEF0
      && gives (.mov { f2 with a := .imm, imm := 0x80000000 }) base 1 0xFFFFFFFF80000000
      && gives (.lea { f3 with imm := 0xFFFFFFF8 }) (st2 0x100 2) 1 0xFA
      && gives (.sel { f3 with c := .zero }) (st2 5 6) 1 6
      && gives (.ins { f3 with c := .imm, imm := 0x083C }) (st2 1 0xAB) 1 0xB000000000000001
      && gives (.sext { f3 with b := .imm, imm := 8 }) (st2 0x180 0) 1 0xFFFFFFFFFFFFFF80
      && gives (.zext { f3 with b := .imm, imm := 8 }) (st2 0x180 0) 1 0x80
      && gives (.clz { f3 with b := .imm, imm := 32 }) (st2 0x100 0) 1 23 && gives (.clz { f3 with b := .zero }) (st2 0x100 0) 1 55
      && gives (.ctz { f3 with b := .zero }) (st2 0 0) 1 64 && gives (.ffs { f3 with b := .zero }) (st2 0x100 0) 1 9
      && gives (.popc { f3 with b := .imm, imm := 4 }) (st2 0xFF 0) 1 4
      && gives (.bswap { f3 with b := .imm, imm := 32 }) (st2 0x11223344 0) 1 0x44332211
      && gives (.brev { f3 with b := .imm, imm := 8 }) (st2 0x01 0) 1 0x80) = true := by decide +kernel

/-- 06 R113, R115, R116: signed and unsigned compares, an unordered float compare, predicate logic. -/
theorem test_compares :
    (givesP (.cmp { f3 with mod := 2 }) (st2 0xFFFFFFFFFFFFFFFF 1) 1 (BitVec.allOnes 512)
      && givesP (.cmp { f3 with mod := 0b010010 }) (st2 0xFFFFFFFFFFFFFFFF 1) 1 0
      && givesP (.cmpf { f3 with mod := 2 }) (st2 0x7FC00000 0x3F800000) 4 0
      && givesP (.cmpf { f3 with mod := 2 }) (st2 0x3F800000 0x40000000) 4 (BitVec.allOnes 512)
      && givesP (.pset { f3 with mod := 2 }) (withP [(2, 0b1100), (3, 0b1010)] base) 1 0b0110
      && givesP (.pset { f3 with mod := 3 }) (withP [(2, 0b1100), (3, 0b1010)] base) 1 0b0100) = true := by decide +kernel

/-- 06 R116 and 07 R144 on binary32 and binary64. -/
theorem test_scalar_floats :
    (gives (.fadd f3) (st2 0x3F800000 0x3F800000) 4 0x40000000 && gives (.fadd f3) (st2 0x7F800000 0xFF800000) 4 0x7FC00000
      && gives (.fmul { f3 with mod := 0b100000 }) (st2 0x4000000000000000 0x4008000000000000) 4 0x4018000000000000
      && gives (.ffma { f3 with c := .reg 2 }) (st2 0x40000000 0x40400000) 4 0x41000000
      && gives (.fmin f3) (st2 0x7FC00000 0x3F800000) 4 0x3F800000 && gives (.fmax f3) (st2 0xBF800000 0x3F800000) 4 0x3F800000
      && gives (.fcvt { f2 with mod := 0b000100 }) (st2 0x3FF8000000000000 0) 4 0x3FC00000) = true := by decide +kernel

/-- 06 R118-R120: fctl as reset leaves it, a write of it in flight, the time counter. -/
theorem test_special_registers :
    (gives (.mrd { Fields.zero with d := .reg 1, imm := 2 }) base 1 0x0400
      && flown (.mwr { Fields.zero with a := .reg 2, imm := 3 }) (st2 1 0) == some (.spr 3, .g 1, 1)
      && gives (.rdtime { Fields.zero with d := .reg 1 }) { base with now := 1234 } 1 1234) = true := by decide +kernel

theorem witness_ScalarTwoSourceResults :
    (allReady base (twoSourceRows.map (·.1)) f3 && allReady (inPhase .check base) (twoSourceRows.map (·.1)) f3) = true := by
  decide +kernel

theorem witness_DivideAndDueResults :
    (allReady base (divideRows.map (·.1)) f3 && base.me.divide == none
      && (onCtx (fun c => { c with divide := some ⟨9, 1, 5⟩ }) base).me.divide != none) = true := by decide +kernel

theorem witness_DivideAndDueResults_cycles : DivideCycles true (-7) 2 12 := by
  refine ⟨3, by decide, ?_, by decide⟩
  intro k hk
  refine Nat.le_of_not_lt (fun h => ?_)
  have h4 : (2 : Nat) ^ k ≤ 2 ^ 2 := Nat.pow_le_pow_right (by decide) (by omega)
  have : ((-7 : W64).toInt.natAbs) = 7 := by decide
  simp only [if_true] at hk
  omega

/-- A divide whose cycle has come, in a core without a task, for a g register that waits for it alone. -/
theorem witness_DivideAndDueResults_lands :
    let s := State.reset.setCtx lead (fun c => { c with divide := some ⟨9, 1, 0⟩, pend := [⟨.g 1, 9⟩] })
    (s.ctx lead).divide = some ⟨9, 1, 0⟩ ∧ (0 : Nat) ≤ s.now ∧ (s.core lead.core).task = none
      ∧ (s.ctx lead).pend = [⟨.g 1, 9⟩] ∧ (s.ctx lead).inflight = [] := by decide +kernel

/-- A divide whose cycle has come, in the saved frame of the one task that left worker 0. -/
theorem witness_DivideAndDueResults_frame :
    let fr : TaskCore := { TaskCore.fresh with ctxs := [(0, { someCtx with divide := some ⟨9, 1, 0⟩, pend := [⟨.g 1, 9⟩] })] }
    let s : State := { base with
      cores := [(k0, Core.fresh)], tasks := [(7, { someTask with life := .queued, core := none, lastCore := some k0, frame := some fr })] }
    let t := after (.divideLand lead) s
    (s.ctxOf (some 7) lead).divide = some ⟨9, 1, 0⟩ ∧ (s.core k0).task = none ∧ (s.ctxOf none lead).divide = none
      ∧ (t.ctxOf (some 7) lead).divide = none ∧ (t.ctxOf (some 7) lead).getG 1 = 1 ∧ (t.ctxOf (some 7) lead).pend = [] := by decide +kernel

theorem witness_DivideAndDueResults_due :
    let r (d : Dest) (v : RVal) (n : Nat) (s : State) : State := onCtx (fun c => { c with inflight := [⟨d, v, n, none⟩] }) s
    ((r (.g 1) (.g 5) 0 base).ctxOf (some 7) lead).inflight = [⟨.g 1, .g 5, 0, none⟩]
      ∧ ((r (.v 1) (.v ⟨5, .f32⟩) 0 base).ctxOf (some 7) lead).inflight = [⟨.v 1, .v ⟨5, .f32⟩, 0, none⟩]
      ∧ ((r (.p 1) (.p 5) 0 base).ctxOf (some 7) lead).inflight = [⟨.p 1, .p 5, 0, none⟩]
      ∧ ((r (.p 1) (.p 5) 3 base).ctxOf (some 7) lead).inflight = [⟨.p 1, .p 5, 3, none⟩]
      ∧ (base.ctxOf (some 7) lead).pipe = 0 := by decide +kernel

theorem witness_ScalarMovesComplete : allReady base [.sel, .mov, .movh, .lea] f3 = true := by decide +kernel

theorem witness_BitfieldResults : allReady base [.ext, .extu, .ins, .sext, .zext] f3 = true := by decide +kernel

/-- For `ins`: a of zero, b of 0xAB, four bits at 60. -/
theorem witness_BitfieldResults_ins :
    ∀ i : Nat, i < 64 → (0xB000000000000000 : W64).getLsbD i
      = if 0x083C % 64 ≤ i ∧ i < 0x083C % 64 + sixBitWidth (0x083C / 256) then (0xAB : W64).getLsbD (i - 0x083C % 64)
        else (0 : W64).getLsbD i := by decide +kernel

theorem witness_BitCountResults : allReady base [.clz, .ctz, .ffs, .popc, .bswap, .brev] f3 = true := by decide +kernel

/-- On x = 0x11223344 within 32 bits: the counts and the reversals that the clauses ask for. -/
theorem witness_BitCountResults_values :
    let x : Nat := 0x11223344
    let w := sixBitWidth 32
    (x < 2 ^ (w - 3) ∧ 2 ^ (w - 3 - 1) ≤ x)
      ∧ (x.testBit 2 = true ∧ ∀ m : Nat, m < 2 → x.testBit m = false)
      ∧ ((0x44332211 : W64).toNat < 256 ^ (w / 8)
        ∧ ∀ k : Nat, k < w / 8 → (0x44332211 : W64).toNat / 256 ^ k % 256 = x / 256 ^ (w / 8 - 1 - k) % 256)
      ∧ ∀ i : Nat, i < 64 → (0x22CC4488 : W64).getLsbD i = (decide (i < w) && x.testBit (w - 1 - i)) := by decide +kernel

theorem witness_CompareResults : allReady base [.cmp, .pset] f3 = true := by decide +kernel

theorem witness_CompareResults_pset :
    ∀ i : Nat, i < 512 → (0b0110 : PBits).getLsbD i = ((0b1100 : PBits).getLsbD i != (0b1010 : PBits).getLsbD i) := by
  decide +kernel

theorem witness_ScalarFloatResults :
    allReady base [.fadd, .fmul, .ffma, .fmin, .fmax, .fcvt, .cmpf] f3 = true
      ∧ ¬ 0x7F800000 < (0x80000001 : W64).toNat % 2 ^ 31 ∧ Alu.fminmax false false 4 0x7FC00000 0x80000001 = 0x80000000
      ∧ 0x7F800000 < (0xFFC00000 : W64).toNat % 2 ^ 31 ∧ 0x7FF0000000000000 < (0x7FF8000000000000 : W64).toNat % 2 ^ 63 := by
  decide +kernel

/-- The lead's write and a helper's write of a core-scoped register. -/
theorem witness_SpecialRegisterMoves :
    let f : Fields := { Fields.zero with a := .reg 2, imm := 4 }
    let h : State := { base with cur := ⟨k0, 1⟩ }
    (allReady base [.mrd, .rdtime] { Fields.zero with d := .reg 1 } && ready (.mwr f) f base
      && ready (.mwr f) f (onCtx (fun _ => someCtx) h) && f.sprNum == 4 && h.cur.ctx != 0) = true := by decide +kernel

/-! ## Vector instructions (07, 08) -/

/-- 08 R151 on i8 and i32: wrap, signed and unsigned order, high half, rounded average, difference; by hand. -/
theorem test_vector_integers :
    (givesV (.vadd f3) (stV .i8 [0x7F, 0xFF] [1, 2]) 2 .i8 [0x80, 1]
      && givesV (.vsub f3) (stV .i32 [0, 5] [1, 7]) 2 .i32 [0xFFFFFFFF, 0xFFFFFFFE]
      && givesV (.vmul f3) (stV .i8 [0x81] [3]) 4 .i8 [0x83] && givesV (.vmulh f3) (stV .i8 [0x80] [2]) 4 .i8 [0xFF]
      && givesV (.vmulh { f3 with mod := 0b010000 }) (stV .i8 [0x80] [2]) 4 .i8 [1]
      && givesV (.vmin f3) (stV .i8 [0xFF] [1]) 2 .i8 [0xFF] && givesV (.vmax f3) (stV .i8 [0xFF] [1]) 2 .i8 [1]
      && givesV (.vavg f3) (stV .i8 [0xFF, 1] [0xFE, 2]) 2 .i8 [0xFF, 2]
      && givesV (.vabd f3) (stV .i8 [0xFF] [1]) 2 .i8 [2]) = true := by decide +kernel

/-- 08 R151-R153 on binary32: 1 + 2, 3 · 0.5, fused forms on 2, 3 and 1, absolute value and negation. -/
theorem test_vector_floats :
    (givesV (.vadd f3) (stV .f32 [0x3F800000] [0x40000000]) 4 .f32 [0x40400000]
      && givesV (.vmul f3) (stV .f32 [0x40400000] [0x3F000000]) 4 .f32 [0x3FC00000]
      && givesV (.vfma { f3 with c := .reg 4 }) (stV .f32 [0x40000000] [0x40400000] [0x3F800000]) 4 .f32 [0x40E00000]
      && givesV (.vfms { f3 with c := .reg 4 }) (stV .f32 [0x40000000] [0x40400000] [0x3F800000]) 4 .f32 [0x40A00000]
      && givesV (.vfnma { f3 with c := .reg 4 }) (stV .f32 [0x40000000] [0x40400000] [0x3F800000]) 4 .f32 [0xC0A00000]
      && givesV (.vabs f2) (stV .f32 [0xBF800000] []) 2 .f32 [0x3F800000]
      && givesV (.vneg f2) (stV .f32 [0x3F800000] []) 2 .f32 [0xBF800000]) = true := by decide +kernel

/-- 08 R154, R155, R166: bit patterns, shift amounts mod the lane width, counts. -/
theorem test_vector_bits :
    (givesV (.vand f3) (stV .i16 [0xF0F0] [0xFF00]) 2 .i16 [0xF000] && givesV (.vor f3) (stV .i16 [0xF0F0] [0xFF00]) 2 .i16 [0xFFF0]
      && givesV (.vxor f3) (stV .i16 [0xF0F0] [0xFF00]) 2 .i16 [0x0FF0] && givesV (.vandn f3) (stV .i16 [0xF0F0] [0xFF00]) 2 .i16 [0x00F0]
      && givesV (.vshl f3) (stV .i16 [0x8001] [17]) 2 .i16 [2] && givesV (.vshr f3) (stV .i16 [0x8000] [15]) 2 .i16 [1]
      && givesV (.vsra f3) (stV .i16 [0x8000] [15]) 2 .i16 [0xFFFF] && givesV (.vclz f2) (stV .i16 [1, 0] []) 2 .i16 [15, 16]
      && givesV (.vpopc f2) (stV .i16 [0xF0F] []) 2 .i16 [8] && givesV (.vffs f2) (stV .i16 [8, 0] []) 2 .i16 [4, 0]) = true := by
  decide +kernel

/-- 08 R156-R165 on i32. Lane `i` of 32 bits answers to bit 8 · i of a predicate (08 R148). -/
theorem test_vector_lanes :
    (flown (.vcmp { f3 with mod := 2 }) (stV .i32 [1, 5] [3, 3]) == some (.p 1, .p 0xFF, 2)
      && givesV (.vsel { f3 with c := .reg 2 }) (withP [(2, 0x100)] (stV .i32 [1, 2, 3] [4, 5, 6])) 2 .i32 [4, 2, 6]
      && givesV (.vmov f2) (stV .i32 [7, 8] []) 2 .i32 [7, 8]
      && givesV (.vbc { f2 with x := 14 }) (withG [(2, 0x123456789)] base) 2 .i32 [0x23456789, 0x23456789]
      && givesV (.vset f3) (withV [(1, vecOfList .i32 [1, 2, 3])] (withG [(2, 9), (3, 65)] base)) 2 .i32 [1, 9, 3]
      && flown (.vget f3) (withG [(3, 1)] (stV .i32 [1, 0xFFFFFFFE] [])) == some (.g 1, .g 0xFFFFFFFFFFFFFFFE, 2)
      && givesV (.vperm f3) (stV .i32 [10, 11, 12] [2, 64, 1]) 3 .i32 [12, 10, 11]
      && givesV (.vcomp { f2 with c := .reg 2 }) (withP [(2, 0x10100)] (stV .i32 [1, 2, 3, 4] [])) 3 .i32 [2, 3, 0]
      && givesV (.vexpd { f2 with c := .reg 2 }) (withP [(2, 0x10100)] (stV .i32 [1, 2, 3, 4] [])) 3 .i32 [0, 1, 2, 0]) = true := by
  decide +kernel

/-- 08 R163-R165: a sum and a minimum over all 64 lanes of i32, a prefix sum, dot products of i8. -/
theorem test_vector_reductions :
    (givesV (.vred f2) (withV [(2, vecBy .i32 (fun i => i))] base) 6 .i64 [2016, 0, 0]
      && givesV (.vred { f2 with mod := 1 }) (stV .i32 [5, 0xFFFFFFFF] []) 6 .i32 [0xFFFFFFFF, 0]
      && givesV (.vscan f2) (stV .i32 [1, 2, 3, 4] []) 8 .i32 [1, 3, 6, 10, 10]
      && givesV (.vdot4 { f3 with c := .reg 4 })
        (withV [(4, vecOfList .i32 [100])] (stV .i8 [1, 2, 3, 0xFF] [1, 1, 1, 2])) 4 .i32 [104, 0]) = true := by decide +kernel

/-- Special inputs of 08 R168 on binary32: 0, +∞, −∞, -1 (or 2.5 for `vsin`, 3 for `vcos`). -/
theorem test_transcendental_specials :
    (givesV (.vexp2 f2) (stV .f32 [0, 0x7F800000, 0xFF800000, 0x40400000] []) 8 .f32 [0x3F800000, 0x7F800000, 0, 0x41000000]
      && givesV (.vlog2 f2) (stV .f32 [0, 0x7F800000, 0xFF800000, 0x3F800000] []) 8 .f32 [0xFF800000, 0x7F800000, 0x7FC00000, 0]
      && givesV (.vrcp f2) (stV .f32 [0x80000000, 0x7F800000, 0xFF800000, 0x40000000] []) 8 .f32 [0xFF800000, 0, 0x80000000, 0x3F000000]
      && givesV (.vrsq f2) (stV .f32 [0, 0x7F800000, 0xFF800000, 0x40800000] []) 8 .f32 [0x7F800000, 0, 0x7FC00000, 0x3F000000]
      && givesV (.vsin f2) (stV .f32 [0x80000000, 0x7F800000, 0x40400000, 0x40200000] []) 8 .f32 [0x80000000, 0x7FC00000, 0, 0x3F800000]
      && givesV (.vcos f2) (stV .f32 [0, 0x7F800000, 0x40400000, 0x40200000] []) 8 .f32 [0x3F800000, 0x7FC00000, 0xBF800000, 0]
      && givesV (.vtanh f2) (stV .f32 [0x80000000, 0x7F800000, 0xFF800000] []) 8 .f32 [0x80000000, 0x3F800000, 0xBF800000]) = true := by
  decide +kernel

/-- The inputs of the table of 07 R136 as binary32: 1.03125, 1.09375, 2.5, 3000, 60000, 65536, 2^-10, 2^-14, -0, ∞, NaN. -/
def convertInputs : List Nat :=
  [0x3F840000, 0x3F8C0000, 0x40200000, 0x453B8000, 0x476A6000, 0x47800000, 0x3A800000, 0x38800000, 0x80000000, 0x7F800000,
   0x7FC00000]

/-- The table of 07 R136, column by column. -/
theorem test_convert_table :
    let s := stV .f32 convertInputs []
    (givesV (.vcvt { f2 with x := 1 }) s 3 .t8 [0x40, 0x42, 0x54, 0x7F, 0x7F, 0x7F, 0x02, 0x01, 0x00, 0x7F, 0x80]
      && givesV (.vcvt { f2 with x := 4 }) s 3 .f8a [0x38, 0x39, 0x42, 0x7E, 0x7E, 0x7E, 0x00, 0x00, 0x80, 0x7E, 0x7F]
      && givesV (.vcvt { f2 with x := 5 }) s 3 .f8b [0x3C, 0x3C, 0x41, 0x6A, 0x7B, 0x7B, 0x14, 0x04, 0x80, 0x7B, 0x7E]
      && givesV (.vcvt { f2 with x := 5, mod := 2 }) s 3 .f8b [0x3C, 0x3C, 0x41, 0x6A, 0x7B, 0x7C, 0x14, 0x04, 0x80, 0x7C, 0x7E]
      && givesV (.vcvt { f2 with x := 7 }) s 3 .f4 [2, 2, 4, 7, 7, 7, 0, 0, 8, 7, 0]
      && givesV (.vcvt { f2 with x := 11 }) s 3 .i8 [1, 1, 2, 127, 127, 127, 0, 0, 0, 127, 0]) = true := by decide +kernel

/-- The worked round trip of 07 R143, `vsat` and `vtag`: 3.5, 0.01 and -0.5 in one F32 block. -/
theorem test_quantise_round_trip :
    (givesV (.vbmax { f2 with x := 4 }) (stV .f32 [0x40600000, 0x3C23D70A, 0xBF000000] []) 4 .raw [0x7F78]
      && givesV (.vqnt { f3 with x := 4 }) (withV [(3, vecBy .i8 (fun _ => 0x78))] (stV .f32 [0x40600000, 0x3C23D70A, 0xBF000000] [])) 6
        .f8a [0x7E, 0x3A, 0xE8]
      && givesV (.vdqt { f3 with x := 10 }) (withV [(3, vecBy .i8 (fun _ => 0x78))] (stV .f8a [0x7E, 0x3A, 0xE8] [])) 4
        .f32 [0x40600000, 0x3C200000, 0xBF000000]
      && givesV (.vsat { f2 with x := 11 }) (stV .i16 [0x0100, 0xFF00, 5] []) 2 .i16 [0x7F, 0xFF80, 5]
      && givesV (.vtag { f2 with x := 14 }) (stV .f32 [0x3F800000] []) 1 .i32 [0x3F800000]) = true := by decide +kernel

/-- Operands of no tag and of two tags raise FORMAT and freeze the context (07 R126, 20 R415). -/
theorem test_vector_faults :
    ((after (.vadd f3) (stV .raw [1] [2])).pk.verdict == .fault 4 ⟨0x07, 0, 0⟩
      && (after (.vadd f3) (withV [(3, vecOfList .i16 [1])] (stV .i8 [1] []))).pk.verdict == .fault 4 ⟨0x07, 0, 0⟩
      && ((after (.vadd f3) (stV .raw [1] [2])).ctx lead).life == .frozen) = true := by decide +kernel

theorem witness_VectorIntegerLanes :
    (allReady (stV .i8 [0x7F] [1]) (vectorIntRows.map (·.1)) f3 && allReady base (bitwiseRows.map (·.1)) f3
      && allReady (stV .i8 [0x7F] [9]) (shiftRows.map (·.1)) f3) = true
    ∧ (stV .i8 [0x7F] [1]).va f3 = .val (vecOfList .i8 [0x7F]) ∧ (stV .i8 [0x7F] [1]).vb f3 = .val (vecOfList .i8 [1])
    ∧ (∀ i : Nat, i < 256 → (laneAt 8 (vecOfList .i8 [0x80]).bits i : Int)
        = (laneInt 8 false (vecOfList .i8 [0x7F]).bits i + laneInt 8 false (vecOfList .i8 [1]).bits i) % 2 ^ 8)
    ∧ (stV .f32 [1] [2]).va f3 = .val (vecOfList .f32 [1]) ∧ ready (.vshl f3) f3 (stV .f32 [1] [2]) = true := by decide +kernel

theorem witness_VectorIntegerLanes_bitwise :
    let s := stV .i8 [0b1100] [0b1010]
    (vecOfList .i8 [0b1000]).tag = s.tag2 f3 ∧ ∀ i : Nat, i < 2048 → (vecOfList .i8 [0b1000]).bits.getLsbD i
      = (((s.va f3).bitsAt 8).getLsbD i && ((s.vb f3).bitsAt 8).getLsbD i) := by decide +kernel

theorem witness_VectorArithmeticCompletes :
    let s := stV .f32 [1] [2] [3]
    (allReady s (vectorRows.map (·.1)) f3 && allReady s (fusedRows.map (·.1)) { f3 with c := .reg 4 }
      && allReady s [.vabs, .vneg] f2) = true
    ∧ operandTag false [s.va f3, s.vb f3] (s.dTag f3.d) = some .f32
    ∧ operandTag false [base.va f3, base.vb f3] (base.dTag f3.d) = none ∧ allReady base (vectorRows.map (·.1)) f3 = true
    ∧ allReady base (fusedRows.map (·.1)) { f3 with c := .reg 4 } = true ∧ allReady base [.vabs, .vneg] f2 = true
    ∧ operandTag false [(stV .i8 [1] [2]).va f3, (stV .i8 [1] [2]).vb f3] .raw = some .i8 := by decide +kernel

theorem witness_VectorSelectAndMove :
    let s := withV [(1, vecOfList .i32 [7])] (withG [(3, 1)] (stV .i32 [1, 2] [3, 4]))
    (allReady s [.vsel, .vmov, .vbc, .vget, .vset] f3 && oldReadable s (.reg 1)) = true
    ∧ s.va f3 = .val (vecOfList .i32 [1, 2]) ∧ s.va { f3 with a := .zero } = .zero ∧ s.va { f3 with a := .imm, imm := 5 } = .imm 5
    ∧ s.me.getV 1 = vecOfList .i32 [7] := by decide +kernel

theorem witness_VectorPermuteAndReduce :
    let s := stV .i8 [1] [2] []
    let w := stV .f32 [1] [2] []
    (allReady s [.vcmp, .vperm, .vcomp, .vexpd, .vred, .vscan, .vdot4] { f3 with c := .zero } && allReady s (countRows.map (·.1)) f2
      && allReady w (fnRows.map (·.1)) f2) = true
    ∧ operandTag false [s.va f3] (s.dTag f3.d) = some .i8 ∧ operandTag false [w.va f3] (w.dTag f3.d) = some .f32
    ∧ operandTag false [s.va f3, s.vb f3] (s.dTag f3.d) = some .i8 ∧ dotTag .i8 = some .i32 ∧ isWideTag .f32 = true := by
  decide +kernel

theorem witness_ConversionsComplete :
    let s := stV .f32 [1] [2] []
    let t := stV .f8a [1] [2] []
    (allReady s [.vcvt, .vqnt, .vbmax, .vsat, .vtag] { f3 with x := 4 } && allReady t [.vdqt] { f3 with x := 10 }
      && allReady base [.vcvt, .vqnt, .vdqt, .vbmax, .vsat] { f3 with x := 4 } && oldReadable s (.reg 1)) = true
    ∧ (convertSource s f3).tag = .f32 ∧ (convertSource t f3).tag = .f8a ∧ (convertSource base f3).tag = .raw
    ∧ partOk .f32 .f8a 0 = true ∧ partOk .f8a .f32 0 = true ∧ partOk .f32 .f8a 4 = false := by decide +kernel

theorem witness_ScalarAndVectorFrame :
    (match exec (.add f3) base with | .next t => t.pk.verdict == .ok | _ => false) = true
      ∧ (Instr.add f3).key = some ⟨0, 0, 0⟩ ∧ (Instr.add f3).fields = some f3 := by decide +kernel

/-- The values that the clauses on lanes ask for. -/
theorem witness_vector_lane_values :
    let s := withP [(2, 0x100)] (withG [(2, 0x123456789), (3, 1)] (stV .i32 [1, 2, 3] [2, 64, 1]))
    let f : Fields := { f3 with c := .reg 2, x := 14 }
    let perm := vecOfList .i32 ([3, 1, 2] ++ List.replicate 61 1)
    (s.va f = .val (vecOfList .i32 [1, 2, 3]) ∧ s.vb f = .val (vecOfList .i32 [2, 64, 1]) ∧ ready (.vperm f) f s = true
        ∧ ∀ i : Nat, i < 64 → laneAt 32 perm.bits i
          = laneAt 32 (vecOfList .i32 [1, 2, 3]).bits (laneAt 32 (vecOfList .i32 [2, 64, 1]).bits i % 64))
      ∧ (ready (.vsel f) f s = true ∧ s.tag2 f = .i32 ∧ ∀ i : Nat, i < 64 → laneAt 32 (vecOfList .i32 [2, 2, 1]).bits i
          = if (s.pval f.c).getLsbD (i * 8) then laneAt 32 ((s.va f).bitsAt 32) i else laneAt 32 ((s.vb f).bitsAt 32) i)
      ∧ (ready (.vbc f) f s = true ∧ f.xTag = .i32 ∧ ∀ i : Nat, i < 64 → laneAt 32 (vecBy .i32 (fun _ => 0x23456789)).bits i
          = (s.gval f f.a).toNat % 2 ^ 32) := by decide +kernel

/-! ## Local memory, stashes and rings (09) -/

/-- Bytes in the scratchpad from an offset on. -/
def spadAt (o : Nat) (bs : List Byte) (s : State) : State := onTc (fun t => { t with spad := t.spad.write o bs }) s
/-- `n` bytes of the scratchpad as a number after one instruction. -/
def spadAfter (i : Instr) (s : State) (o n : Nat) : Nat := spadNat (after i s) o n
/-- Ring `n` configured at 0x1000 with slots of 64 bytes in these states. -/
def ringAt (n : Nat) (slots : List SlotTag) (s : State) : State :=
  let r : Ring := ⟨0x1000, 64, slots.length, 0, 0, slots.map (fun x => (x, 0)), false, false, [], [], []⟩
  onTc (fun t => { t with rings := t.rings.setIfInBounds n r }) s

/-- A local word of size `sz` at [g2 + 0x10]: g1 the result, g3 the value. -/
def fl (sz : Nat) (ext : Nat := 0) : Fields :=
  { Fields.zero with d := .reg 1, a := .reg 2, b := .reg 3, mod := BitVec.ofNat 6 sz, lb := BitVec.ofNat 6 ext, imm := 0x10 }
/-- g2 holds 0xF0, so the address is 0x100. -/
def stl0 (v : W64) (bs : List Byte) : State := spadAt 0x100 bs (withG [(2, 0xF0), (3, v)] base)

/-- 09 R183, R186, R187: sign extension, the bytes stored, the old value returned and the new one left. -/
theorem test_local_scalars :
    (gives (.ldl (fl 2)) (stl0 0 [0x80, 0, 0, 0x80, 0xFF]) 4 0xFFFFFFFF80000080
      && spadAfter (.stl (fl 1)) (stl0 0x123456 [1, 2, 3]) 0x100 3 == 0x033456
      && gives (.ala (fl 2 0)) (stl0 1 [0xFF, 0xFF, 0xFF, 0xFF, 7]) 6 0xFFFFFFFFFFFFFFFF
      && spadAfter (.ala (fl 2 0)) (stl0 1 [0xFF, 0xFF, 0xFF, 0xFF, 7]) 0x100 5 == 0x0700000000
      && spadAfter (.ala (fl 3 5)) (stl0 1 [0xFF, 0xFF, 0xFF, 0xFF, 0xFF, 0xFF, 0xFF, 0xFF]) 0x100 8 == 1
      && gives (.alf (fl 2 10)) (stl0 0x3F800000 [0, 0, 0x80, 0x3F]) 6 0x3F800000
      && spadAfter (.alf (fl 2 10)) (stl0 0x3F800000 [0, 0, 0x80, 0x3F]) 0x100 4 == 0x40000000) = true := by decide +kernel

/-- 09 R169: the second address form, an address of neither form, a misaligned one. -/
theorem test_local_addresses :
    (gives (.ldl (fl 0)) (withG [(2, 0xF0000000000000F0)] (stl0 0 [5])) 4 5
      && (after (.ldl (fl 0)) (withG [(2, 0x100000)] base)).pk.verdict == .fault 5 ⟨0x0A, 0, 0x100010⟩
      && (after (.stl (fl 2)) (withG [(2, 1)] base)).pk.verdict == .fault 5 ⟨0x10, 0, 0x11⟩) = true := by decide +kernel

/-- 09 R184, R185: a vector load and store, a gather, a scatter whose two last lanes meet. -/
theorem test_local_vectors :
    (givesV (.vldl { fl 6 14 with imm := 0 }) (spadAt 0x20 [1, 0, 0, 0, 2] (withG [(2, 0x20)] base)) 5 .i32 [1, 2, 0]
      && spadAfter (.vstl { fl 6 with imm := 0 }) (withG [(2, 0x20)] (stV .i32 [] [0x01020304, 5])) 0x20 5 == 0x0501020304
      && givesV (.vgl (fl 6 14)) (withV [(3, vecOfList .i32 [4, 0, 4])] (stl0 0 [9, 0, 0, 0, 8])) 8 .i32 [8, 9, 8, 9]
      && spadAfter (.vsl { fl 6 with c := .reg 4 })
          (withV [(3, vecBy .i32 (fun i => i)), (4, vecBy .i32 (fun i => if i < 62 then 4 * i else 0))] (stl0 0 []))
          0x100 8 == 0x000000010000003F) = true := by decide +kernel

/-- 09 R193-R199: a reservation and a take are served in order, a release empties; `rstat` counts as in steps 4
and 5 of the example of R199. -/
theorem test_rings :
    let s := ringAt 2 [.empty, .full] base
    let r1 := after (.ringReservationServed k0 2) { after (.rres { f2 with a := .reg 2 }) s with pk := Pk.fresh }
    let s2 := ringAt 2 [.full, .empty] base
    let r2 := after (.ringTakeServed k0 2) { after (.rtake { f2 with a := .reg 2 }) s2 with pk := Pk.fresh }
    ((r1.tc k0).ring 2).slots == [(.filling, 0), (.full, 0)] && ((r1.tc k0).ring 2).tail == 1 && r1.me.getG 1 == 0x1000
      && ((r2.tc k0).ring 2).slots == [(.draining, 0), (.empty, 0)] && ((r2.tc k0).ring 2).head == 1
      && (((after (.rrel { f2 with a := .reg 2, b := .zero }) r2).tc k0).ring 2).slots == [(.empty, 0), (.empty, 0)]
      && gives (.rstat { f2 with a := .reg 2 }) (ringAt 2 [.filling, .full, .empty, .empty] base) 1 0x0002000000000002
      && gives (.rstat { f2 with a := .reg 2 }) (ringAt 2 [.full, .full, .empty, .empty] base) 1 0x0002000000020002
      && (after (.rres { f2 with a := .reg 3 }) base).pk.verdict == .fault 5 ⟨0x17, 0, 0⟩ := by decide +kernel

/-- 09 R194: four slots of 128 bytes at 0x2000; a count of 0 unconfigures. -/
theorem test_ring_configuration :
    let s := withG [(3, 0x2000), (4, 0x20004)] base
    let f : Fields := { Fields.zero with a := .reg 1, b := .reg 3, c := .reg 4 }
    let r := ((after (.rcfg f) s).tc k0).ring 1
    (r.base == 0x2000 && r.z == 128 && r.c == 4 && r.slots == List.replicate 4 (.empty, 0)
      && ((after (.rcfg { f with c := .zero }) (ringAt 1 [.empty] s)).tc k0).ring 1 == Ring.fresh) = true := by decide +kernel

/-- 09 R189-R191: a stash of 4 KiB at 0x1000 over 64 KiB from 0x10000, flushed and dropped. -/
theorem test_stash :
    let f : Fields := { Fields.zero with a := .reg 2, b := .reg 3, c := .reg 4, mod := 1 }
    let s := withG [(2, 0x10000), (3, 0x1000), (4, 12 + 256 * 16)] base
    let t := after (.stmap f) s
    let withLine : State := onTc (fun c => { c with stash := c.stash.map (fun o => o.map (fun st =>
      { st with lines := [((0, 0), ⟨0x400, 5, none, false, true, false, false⟩)] })) }) { t with pk := Pk.fresh }
    ((t.tc k0).stash[1] == some ⟨0x10000, 16, 0x1000, 12, []⟩
      && (((after (.stfl { Fields.zero with mod := 1 }) withLine).tc k0).stash[1]).map (fun st => st.lines.map (·.2.dirty)) == some [false]
      && (((after (.stinv { Fields.zero with mod := 1 }) withLine).tc k0).stash[1]).map (·.lines) == some []
      && (((after (.stashRecall k0 1 0x400 true) withLine).tc k0).stash[1]).map (·.lines) == some []) = true := by decide +kernel

theorem witness_LocalScalarAccess :
    let s := stl0 0x3F800000 [0, 0, 0x80, 0x3F]
    (allReady s [.ldl, .stl, .ala] (fl 2) && ready (.alf (fl 2 10)) (fl 2 10) s && localPasses s (localEa s (fl 2)) 4 4 true true
      && localPasses s (localEa s (fl 2)) 4 4 true false && localPasses s (localEa s (fl 2)) 4 4 false true
      && spadClean s (localOff s (fl 2)) 4 && s.myTc.spad.wf) = true := by decide +kernel

/-- An address just past both forms, a misaligned one, the last word of a full footprint and the first past a smaller one. -/
theorem witness_LocalScalarAccess_faults :
    let s := withG [(2, 0x80000 - 0x10)] base
    let t := withG [(2, 0x7FFFD - 0x10)] base
    let u := withG [(2, 0x7FFFC - 0x10)] { base with tasks := [(7, { someTask with foot := 15 })] }
    (¬ LocalForm (localEa s (fl 2))) ∧ ready (.ldl (fl 2)) (fl 2) s = true
      ∧ LocalForm (localEa t (fl 2)) ∧ localOff t (fl 2) % 4 ≠ 0 ∧ ready (.stl (fl 2)) (fl 2) t = true
      ∧ LocalForm (localEa u (fl 2)) ∧ localOff u (fl 2) % 4 = 0 ∧ u.foot < localOff u (fl 2) + 4
      ∧ ready (.ala (fl 2)) (fl 2) u = true := by
  refine ⟨by unfold LocalForm; decide +kernel, by decide +kernel, by unfold LocalForm; decide +kernel, by decide +kernel,
    by decide +kernel, by unfold LocalForm; decide +kernel, by decide +kernel, by decide +kernel, by decide +kernel⟩

theorem witness_LocalVectorAccess :
    let s := withV [(4, vecBy .i32 (fun i => 4 * i))] (withG [(2, 0x20)] (stV .i32 [] []))
    let f : Fields := { fl 6 14 with imm := 0, c := .reg 4 }
    let at_ (v : VReg) (j : Nat) : W64 := localEa s f + BitVec.ofNat 64 (v.bits.toNat / 2 ^ (32 * j) % 2 ^ 32)
    (s.myTc.spad.wf && allReady s [.vldl, .vstl, .vgl, .vsl] f && localPasses s (localEa s f) 256 32 true false
      && localPasses s (localEa s f) 256 32 false true && spadClean s (localOff s f) 256
      && (List.range 64).all (fun j => localPasses s (at_ (s.vreg f.b) j) 4 4 true false && spadClean s ((at_ (s.vreg f.b) j).toNat % 2 ^ 19) 4
        && localPasses s (at_ (s.vreg f.c) j) 4 4 false true)) = true
    ∧ (∀ j k : Nat, j < 64 → k < 4 → (vecOfList .i32 []).bits.toNat / 256 ^ (4 * j + k) % 256
        = (s.myTc.spad.byte ((at_ (s.vreg f.b) j).toNat % 2 ^ 19 + k)).toNat) := by
  refine ⟨by decide +kernel, ?_⟩
  intro j k _ _
  have h : (withV [(4, vecBy .i32 (fun i => 4 * i))] (withG [(2, 0x20)] (stV .i32 [] []))).myTc.spad = [] := by decide +kernel
  have h0 : (vecOfList .i32 []).bits = 0 := by decide +kernel
  rw [h, h0]
  simp [Memory.byte, unlisted, -Nat.reducePow]

theorem witness_StashInstructions :
    let f : Fields := { Fields.zero with a := .reg 2, b := .reg 3, c := .reg 4, mod := 1 }
    let s := withG [(2, 0x10000), (3, 0x1000), (4, 12 + 256 * 16)] base
    let g : Fields := { Fields.zero with mod := 1 }
    (ready (.stmap f) f s && ready (.stfl g) g s && ready (.stinv g) g s && !s.stashBusy k0 1
      && s.stashOk 1 (s.ea f) (s.gval f f.b) (s.gval f f.c) == .ok) = true := by decide +kernel

/-- A stash with a filled line; and a core with an access to it under way. -/
def stashed (s : State) : State :=
  onTc (fun c => { c with stash := c.stash.set 1 (some ⟨0x10000, 16, 0x1000, 12, [((0, 0), ⟨0x400, 5, none, false, true, false, false⟩)]⟩) }) s

theorem witness_StashInstructions_recall :
    let s := stashed base
    (s.tc k0).stash[1] = some ⟨0x10000, 16, 0x1000, 12, [((0, 0), ⟨0x400, 5, none, false, true, false, false⟩)]⟩ := by decide +kernel

theorem witness_RingInstructions :
    let s := ringAt 2 [.full, .filling, .draining, .empty] (withG [(3, 0x1040)] base)
    let s := onTc (fun t => { t with rings := t.rings.set 2 { t.rings[2] with taken := [2] } }) s
    let f : Fields := { f2 with a := .reg 2, b := .reg 3, c := .reg 4 }
    (allReady s [.rres, .rtake, .rrel, .rcfg, .rstat] f && !(s.attachedAs 2 false) && !(s.attachedAs 2 true)) = true
      ∧ ((s.myTc.ring 2).c ≠ 0 ∧ (s.myTc.ring 2).err = false) ∧ (s.myTc.ring 3).c = 0
      ∧ (s.myTc.ring 2).taken.head? = some 2
      ∧ (s.myTc.ring 2).base + BitVec.ofNat 64 (1 * (s.myTc.ring 2).z) = s.gval f f.b
      ∧ (∀ j : Nat, j < 1 → (s.myTc.ring 2).base + BitVec.ofNat 64 (j * (s.myTc.ring 2).z) ≠ s.gval f f.b)
      ∧ ((s.myTc.ring 2).tag 0 = .full ∧ (s.myTc.ring 2).tag 1 = .filling ∧ (s.myTc.ring 2).tag 2 = .draining
        ∧ (s.myTc.ring 2).tag 3 = .empty)
      ∧ ((s.myTc.ring 3).inUse = false ∧ s.rcfgOk 3 0x2000 4 2 = .ok) := by decide +kernel

theorem witness_RingInstructions_served :
    let s := ringAt 2 [.empty, .full] base
    let r := onTc (fun t => { t with rings := t.rings.set 2 { t.rings[2] with res := [⟨9, 0, none⟩], takes := [⟨8, 0, none⟩], head := 1 } }) s
    let x := (r.tc k0).ring 2
    partHere r k0 = true ∧ x.res = [⟨9, 0, none⟩] ∧ x.takes = [⟨8, 0, none⟩] ∧ x.c ≠ 0 ∧ x.tag x.tail = .empty
      ∧ x.tag x.head = .full := by decide +kernel

/-! ## The matrix engine and the envelope unit (10, 11) -/

/-- Change the matrix engine; the envelope unit. -/
def onMat (h : Matrix → Matrix) (s : State) : State := onTc (fun t => { t with mat := h t.mat }) s
@[inherit_doc onMat] def onEnv (h : EnvState → EnvState) (s : State) : State := onTc (fun t => { t with env := h t.env }) s
/-- One command at the head of the queue. -/
def mHead (c : MCmd) (tok : Option Nat) (s : State) : State := onMat (fun m => { m with queue := [⟨c, 0, 0, 0, tok, none⟩] }) s
@[inherit_doc mHead] def eHead (c : ECmd) (tok : Option Nat) (s : State) : State :=
  onEnv (fun u => { u with queue := [⟨c, 0, 0, tok, none⟩] }) s

/-- Latches of F8A at depth 64 with the operands of the example of 10 R232 in rows 0, 1 of A and columns 0, 1 of B. -/
def exampleLatches (m : Matrix) : Matrix :=
  let a (i k : Nat) : Nat := if i = 0 ∧ (k = 0 ∨ k = 32 ∨ k = 33) then 0x38 else if i = 1 ∧ k < 32 then 0x7E else 0
  let b (k j : Nat) : Nat := if j = 0 ∧ (k = 0 ∨ k = 32 ∨ k = 33) then 0x38 else if j = 1 ∧ k < 32 then 0x7E else 0
  let bitsOfA := (List.range 128).foldl (fun x n => x + a (n / 64) (n % 64) * 2 ^ (8 * n)) 0
  let bitsOfB := (List.range 64).foldl (fun x k => x + (b k 0 + b k 1 * 256) * 2 ^ (512 * k)) 0
  { m with a := ⟨BitVec.ofNat 131072 bitsOfA, .f8a, 64⟩, b := ⟨BitVec.ofNat 131072 bitsOfB, .f8a, 64⟩ }

/-- Element (i, j) after block `b` of the example of 10 R232, from `old` and the two scale bytes. -/
def exampleElem (zs : Bool) (i j b sa sb old : Nat) : Nat :=
  let m := exampleLatches Matrix.fresh
  (blockElem zs (latchElems m.a (64 * i + 32 * b) 1 32) (latchElems m.b (2048 * b + j) 64 32) sa sb old).1

/-- The worked example at the end of chapter 10: elements (0,0), (0,1), (1,0), (1,1), (2,1) after blocks 0 and 1. -/
theorem test_macro_op_elements :
    (exampleElem false 0 0 0 0x97 0x7F 0 == 0x4B800000 && exampleElem false 0 0 1 0x7F 0x7F 0x4B800000 == 0x4B800001
      && exampleElem false 0 1 0 0x97 0x7F 0 == 0x4FE00000 && exampleElem false 0 1 1 0x7F 0xFF 0x4FE00000 == 0x7FC00000
      && exampleElem true 0 1 1 0x7F 0xFF 0x4FE00000 == 0x4FE00000
      && exampleElem false 1 0 0 0xFE 0x7F 0 == 0x7F7FFFFF && exampleElem false 1 1 0 0xFE 0x7F 0 == 0x7F7FFFFF
      && exampleElem false 2 1 1 0x7F 0xFF 0 == 0x7FC00000 && exampleElem true 2 1 1 0x7F 0xFF 0 == 0) = true := by
  decide +kernel

/-- The same example: `mfin.h16` with 2^-12. -/
theorem test_final_rounding_elements :
    ((finElem .f32 .h16 0x39800000 0x4B800001).1 == 0x6C00 && (finElem .f32 .h16 0x39800000 0x7FC00000).1 == 0x7E00
      && (finElem .f32 .h16 0x39800000 0x7F7FFFFF).1 == 0x7BFF && (finElem .f32 .h16 0x39800000 0x4FE00000).1 == 0x7BFF) = true := by
  decide +kernel

/-- 10 R220, R224, R225, R229, R230: one command each. Tile 0 holds 5 in element (0,0) and has a shadow that holds 9. -/
def tiled : State :=
  onMat (fun m => { m with acc := m.acc.set 0 ⟨⟨5, .i32⟩, ⟨1, 2, 3⟩, false, some (⟨9, .i32⟩, ⟨0, 0, 0⟩)⟩
                           scq := List.replicate 192 0x7F }) base
/-- Tile 0 after the head of the queue has run. -/
def tileAfter (c : MCmd) : Tile := (((after (.matrixCommandRun k0) (mHead c none tiled)).tc k0).mat.acc)[0]

theorem test_matrix_commands :
    (tileAfter (.mzero 0 .f32)).data = ⟨0, .f32⟩ ∧ (tileAfter (.com 0)).data = ⟨9, .i32⟩ ∧ (tileAfter (.com 0)).shadow = none
      ∧ (tileAfter (.dis 0)).data = ⟨5, .i32⟩ ∧ (tileAfter (.dis 0)).shadow = none
      ∧ ((after (.matrixCommandRun k0) (mHead (.thr 77) none tiled)).tc k0).mthr = 77
      ∧ ((after (.matrixCommandRun k0) (mHead (.scq 1) none tiled)).tc k0).mat.scq.length = 96 := by decide +kernel

/-- Lines of slope and intercept as binary32, of layers 0 and 1 of the program of chapter 11, over [0, 8]. -/
def layer0 : List (Nat × Nat) := [(0xC1000000, 0x42200000), (0xC0800000, 0x42000000), (0xC0000000, 0x41D00000), (0, 0x41900000)]
@[inherit_doc layer0] def layer1 : List (Nat × Nat) := [(0xC0C00000, 0x41F00000), (0xC0400000, 0x41D80000), (0xBF800000, 0x41A80000), (0, 0x41800000)]
/-- The registers before: every one empty over [0, 8]. -/
def emptyEight : Vector Env 8 := Vector.replicate 8 ⟨[], 0, 0x41000000, false⟩
/-- The value of a command. -/
def envOf (c : ECmd) (e : Vector Env 8) : Env := (c.value e 0).getD ⟨[], 0, 0, true⟩
/-- e0 and e1 of that program. -/
def layered : Vector Env 8 := (emptyEight.set 0 (envOf (.ins 0 layer0 false) emptyEight)).set 1 (envOf (.ins 1 layer1 false) emptyEight)

/-- The breakpoints and slopes of `eins e0` and of `einf e4` in that program. -/
theorem test_envelope_commands :
    (layered[0].pieces.map (fun p => (p.x, p.m))
        == [(0, 0xC1000000), (0x40000000, 0xC0800000), (0x40400000, 0xC0000000), (0x40800000, 0)]
      && (envOf (.inf 4 0 1 false) layered).pieces.map (fun p => (p.x, p.m, p.c))
        == [(0, 0xC1000000, 0x428C0000), (0x40000000, 0xC0C00000, 0x42840000), (0x40400000, 0xC0800000, 0x42700000),
            (0x40800000, 0xC0400000, 0x42600000), (0x40C00000, 0xC0000000, 0x42480000), (0x40E00000, 0xBF800000, 0x422C0000),
            (0x41100000, 0, 0x42080000)]
      && (envOf (.inf 4 0 1 false) layered).hi == 0x41800000
      && EnvUnit.evalLane layered[0] 0x40000000 == 0x41C00000) = true := by decide +kernel

/-- Every check that the matrix statements ask for, on latches of I8 at depth 32 and tiles of I32 without shadows. -/
def readyMatrix (s : State) : State :=
  onMat (fun m => { m with recd := ⟨Vector.replicate 4 .i32, Vector.replicate 4 false, .i8, 32, .i8, 32⟩ }) s

/-- Sixteen commands are queued. -/
def fullQueue (s : State) : State := onMat (fun m => { m with queue := List.replicate 16 ⟨.thr 0, 0, 0, 0, none, none⟩ }) s

theorem witness_MatrixInstructionsQueue :
    let s := readyMatrix (withG [(2, 32)] base)
    let f : Fields := { Fields.zero with d := .reg 0, a := .reg 2, x := 10 }
    (allReady s [.mzero, .mmul, .mmuls, .mcom, .mdis, .mscq, .mfin, .mrow, .mcnt, .mthr] f
      && allReady (fullQueue s) [.mcom, .mdis, .mscq, .mthr] f
      && ready (.mzero f) f (onMat (fun m => { m with recd := { m.recd with shadows := Vector.replicate 4 true } }) s)
      && allReady (mHead (.mzero 2 .f32) none s) [.mrow, .mcnt] f) = true
    ∧ s.myTc.mat.queue.length < 16 ∧ ¬ (fullQueue s).myTc.mat.queue.length < 16
    ∧ (s.myTc.mat.recd.aTag = s.myTc.mat.recd.bTag ∧ s.myTc.mat.recd.tiles[tileNo f.d] = .i32 ∧ (s.gval f f.a).toNat = 32
      ∧ s.myTc.mat.recd.shadows[tileNo f.d] = false)
    ∧ s.myTc.mat.busy (tileNo f.a) = false ∧ (mHead (.mzero 2 .f32) none s).myTc.mat.busy (tileNo f.a) = true := by
  decide +kernel

theorem witness_MatrixLoadsAndStoresQueue :
    let s := readyMatrix (withG [(2, 0x1000), (3, 0), (4, 32)] base)
    let f : Fields := { Fields.zero with a := .reg 2, b := .reg 3, c := .reg 4, x := 11 }
    let rowAt (x : W64) (i : Nat) : W64 := s.gval f f.a + BitVec.ofNat 64 i * x
    (allReady s [.mlda, .mldb, .mgat, .mst] f && allReady s [.mwt, .mstat] { f2 with a := .reg 2 }
      && (List.range 32).all (fun i => s.localOk (rowAt 32 i) 32 32 == .ok && s.localOk (rowAt 64 i) 64 32 == .ok
        && s.localOk (rowAt 256 i) 256 32 == .ok && s.localOk (s.gval f f.a + BitVec.ofNat 64 0) 32 32 == .ok)) = true
    ∧ (aRow .i8 32 = 32 ∧ bRow .i8 = 64 ∧ bRow .i32 = 256 ∧ kMax .i8 = 256)
    ∧ (s.myTc.mat.queue.length < 16 ∧ s.myTc.mat.busy (tileNo f.b) = false ∧ s.myTc.mat.recd.tiles[tileNo f.b] = .i32)
    ∧ (mHead (.mzero 3 .f32) none s).myTc.mat.busy (tileNo f.b) = true
    ∧ (mHead (.mzero 2 .f32) none s).myTc.mat.pending (tileNo f.a) = true := by decide +kernel

/-- The dense rows of a 4-bit A latch of depth 32 lie 16 B apart: 0 as the stride passes its check (10 R221). -/
theorem test_mlda_dense_rows :
    let st := strideOf 0 (aRow .f4 32)
    (st.toNat, base.denseRowsOk (rowEas 0x1000 st 32) 16 == .ok, base.denseRowsOk (rowEas 0x1010 st 32) 16 == .ok) = (16, true, false) := by
  decide +kernel

theorem witness_MatrixEngineRuns :
    let h (c : MCmd) (tok : Option Nat) : State := mHead c tok tiled
    ([h (.mzero 0 .f32) none, h (.com 0) none, h (.dis 0) none, h (.fin 0 .h16 0) none, h (.scq 1) (some 9), h (.cnt 0 7) (some 9),
        h (.row 0 0) (some 9), h (.thr 5) none, h (.store 0 [0, 256] 1) none, h (.load false ⟨.i8, 32, 0, [some 0, none]⟩) none, h (.mul 0 32 false none false) none]
      : List State).all (fun s => partHere s k0 && !(s.tc k0).matrixStopped && !(s.stopped k0 .matrix)
        && !((s.tc k0).misLaid 0 0 32) && !((s.tc k0).engineRotten 0 0 32) && decide (96 ≤ (s.tc k0).mat.scq.length)
        && (s.tc k0).spad.wf && !((s.tc k0).logsFull (s.leadReplay k0) ([0, 256].flatMap (fun o => placed 1 o 256)))) = true := by
  decide +kernel

theorem witness_EnvelopeInstructionsQueue :
    let s := withV [(0, ⟨0, .f32⟩), (2, ⟨0, .f32⟩)] base
    let f : Fields := { f2 with d := .reg 1, a := .reg 2, c := .reg 3 }
    let full := onEnv (fun u => { u with queue := List.replicate 8 ⟨.cnt 0, 0, 0, none, none⟩ }) s
    (allReady s [.eclr, .eins, .eevl, .esum, .emax, .einf, .econj, .esimp, .eld, .est, .eadd, .ecnt, .edom, .ewt] f
      && ready (.edomGet { f with mod := 1 }) { f with mod := 1 } s && allReady full [.eclr, .eins, .esum, .emax, .einf] f
      && allReady (eHead (.clr 2) none s) [.eevl, .esum, .ewt] f && ready (.eins f) f base
      && s.localOk (s.gval f f.a) 4112 16 == .ok) = true
    ∧ (s.me.getV 2).tag = .f32 ∧ (s.me.getV 0).tag = .f32 ∧ (base.me.getV 2).tag ≠ .f32
    ∧ (s.myTc.env.busy 2 = false ∧ s.myTc.env.busy 0 = false ∧ (eHead (.clr 2) none s).myTc.env.busy 2 = true
      ∧ (eHead (.clr 2) none s).myTc.env.pending 2 = true ∧ ¬ full.myTc.env.queue.length < 8) := by decide +kernel

theorem witness_EnvelopeUnitRuns :
    let h (c : ECmd) (tok : Option Nat) : State := eHead c tok (onEnv (fun u => { u with e := layered }) base)
    ([h (.clr 0) none, h (.inf 4 0 1 false) none, h (.evl 0 [0]) (some 9), h (.cnt 0) (some 9), h (.getDom 0) (some 9), h (.st 0 0) none,
        h (.ld 0 64) none]
      : List State).all (fun s => partHere s k0 && !(s.tc k0).envStopped && !(s.stopped k0 .envelope) && (s.tc k0).spad.wf && (s.tc k0).poisonRows.isEmpty
        && !((s.tc k0).logFull (s.leadReplay k0) 0 (EnvUnit.image (s.tc k0).env.e[0]).length)
        && (s.tc k0).env.queue.all (fun e => !e.cmd.badSource (s.tc k0).env.e)) = true := by decide +kernel

/-- 256 pieces over [0, 8] whose breakpoints and slopes rise by units of the last place. -/
def widePieces : Env :=
  ⟨(List.range 256).map (fun (k : Nat) => (⟨if k = 0 then 0 else 0x3F800000 + 2 * k, 0x3F800000 + 2 * k, 0⟩ : Piece)), 0, 0x41000000, false⟩

/-- The conjugate of 256 pieces has 257 and so no value without `.simp`; a register whose hi is NaN is a bad source. -/
theorem witness_EnvelopeUnitRuns_overflow :
    let e := layered.set 0 widePieces
    ((ECmd.conj 4 0 false).badSource e == false && ((ECmd.conj 4 0 false).value e 0).isNone
      && (ECmd.simp 4 0).badSource (layered.set 0 ⟨[], 0, 0x7FC00000, false⟩)) = true := by decide +kernel

/-! ## Global memory (12, 13, 18 R386-R388, 20 R423-R445) -/

/-- An access of worker 0's lead to VA `ea`, of `n` bytes, at PA `ea`. -/
def someAccess (op : AccOp) (ea n : Nat) (bytes : List Byte := []) : Access where
  ctx := lead
  incarn := 0
  task := some 7
  op := op
  ea := BitVec.ofNat 64 ea
  pc := 0x400000
  dom := 0x0500
  nud := 31
  cad := 0x0400
  reach := 3
  ord := false
  sel := 1
  tok := some 9
  seq := 0
  parts := [⟨ea, bytes.map some, n, some ea, false, [], false, false, none⟩]
  stage := .placed
  granted := false
  since := 0
  abandoned := false
  scope := 0
  bad := none

/-- The access 3 is under way, and g1 waits for it. -/
def underWay (a : Access) (s : State) : State :=
  onCtx (fun c => { c with pend := [⟨.g 1, 9⟩] }) { s with accs := [(3, a)] }
/-- Bytes in memory from a physical address on, written under tenant 5's key. -/
def memAt (pa : Nat) (bs : List Byte) (s : State) : State :=
  { s with mem := s.mem.write pa bs, keys := (List.range ((bs.length + 7) / 8)).foldl (fun m i => m.set (pa / 8 + i) (MemKey.slot 5)) s.keys }
/-- The part of access 3 after an event. -/
def dataAfter (i : Instr) (s : State) : Option (List Byte) := ((after i s).acc 3).map (fun a => a.parts.flatMap (·.data))
/-- `n` bytes of memory as tenant 5 reads them, after an event. -/
def memAfter (i : Instr) (s : State) (pa n : Nat) : Nat := leNat ((after i s).readMem 5 pa n)

/-- 12 R280, R281: a load and a store set out; the load's register waits; the store takes a sequence number. -/
theorem test_accesses_set_out :
    let s := withG [(2, 0x1000), (3, 0x55)] base
    let l := after (.ld { f2 with mod := 0b011011 }) s
    let w := after (.st { f3 with d := .reg 0, mod := 0b011010 }) s
    (l.accs.length == 1 && l.accs.all (fun e => e.2.op == .ld 8 && e.2.ea == 0x1000) && l.me.pend.map (·.dest) == [.g 1]
      && w.me.storeSeq == 1 && w.accs.all (fun e => e.2.op == .st && (e.2.parts.map (·.bytes)) == [[some 0x55, some 0, some 0, some 0]])
      && (after (.ld { f2 with mod := 0b011011 }) (withG [(2, 0x1001)] base)).pk.verdict == .fault 5 ⟨0x10, 0, 0x1001⟩
      && (after (.ld { f2 with mod := 0b011011 }) (withG [(2, 0x8000000000000000)] base)).pk.verdict
          == .fault 5 ⟨0x0A, 0, 0x8000000000000000⟩
      && (after (.ld { f2 with mod := 0b011011 }) (withG [(2, 0x800000000000)] base)).pk.verdict
          == .fault 5 ⟨0x0A, 2, 0x800000000000⟩) = true := by decide +kernel

/-- 12 R277, R283-R288: what is read and written at the home. -/
theorem test_accesses_at_home :
    (dataAfter (.homeAccess 3 0) (memAt 0x1000 [1, 2, 3, 4] (underWay (someAccess (.ld 4) 0x1000 4) base)) == some [1, 2, 3, 4]
      && memAfter (.storePerformed 3 0) (underWay (someAccess .st 0x1001 2 [0xAA, 0xBB]) (memAt 0x1000 [1, 2, 3, 4] base)) 0x1000 4
          == 0x04BBAA01
      && memAfter (.atomicAtHome 3) (underWay (someAccess (.amo 5 4 0xFFFFFFFF) 0x1000 4) (memAt 0x1000 [1, 0, 0, 0] base)) 0x1000 4 == 1
      && memAfter (.atomicAtHome 3) (underWay (someAccess (.amo 7 4 0xFFFFFFFF) 0x1000 4) (memAt 0x1000 [1, 0, 0, 0] base)) 0x1000 4
          == 0xFFFFFFFF
      && memAfter (.atomicAtHome 3) (underWay (someAccess (.cas 4 1 7) 0x1000 4) (memAt 0x1000 [1, 0, 0, 0] base)) 0x1000 4 == 7
      && memAfter (.atomicAtHome 3) (underWay (someAccess (.cas 4 2 7) 0x1000 4) (memAt 0x1000 [1, 0, 0, 0] base)) 0x1000 4 == 1
      && memAfter (.atomicAtHome 3) (underWay (someAccess (.famo .f32 0x3F800000) 0x1000 4) (memAt 0x1000 [0, 0, 0x80, 0x3F] base)) 0x1000 4
          == 0x40000000) = true := by decide +kernel

/-- 12 R286-R289: a future filled, read when FULL, deferred when EMPTY. -/
theorem test_futures :
    ((after (.fsetAtHome 3) (underWay (someAccess (.fset 6) 0x1000 8) base)).full == [0x200]
      && dataAfter (.fgetAtHome 3) (memAt 0x1000 [6, 0, 0, 0, 0, 0, 0, 0] { underWay (someAccess .fget 0x1000 8) base with full := [0x200] })
          == some [6, 0, 0, 0, 0, 0, 0, 0]
      && ((after (.fgetAtHome 3) (underWay (someAccess .fget 0x1000 8) base)).acc 3).map (·.stage) == some .deferred) = true := by
  decide +kernel

/-- 12 R280: `ld.sz` sign-extends where it lands. -/
theorem test_load_lands :
    let a := someAccess (.ld 2) 0x1000 2
    let s := underWay { a with parts := a.parts.map (fun p => { p with done := true, data := [0x34, 0x92] }) } base
    ((after (.globalAccessLand 3) s).me.getG 1 == 0xFFFFFFFFFFFF9234 && (after (.globalAccessLand 3) s).me.pend == []) = true := by
  decide +kernel

theorem witness_GlobalReadsSetOut :
    let s := withV [(3, vecBy .i32 (fun i => 4 * i))] (withG [(2, 0x1000)] base)
    let f : Fields := { f3 with mod := 2, lb := 10, c := .reg 4 }
    let eas := (List.range 64).map (fun j => (0x1000 : W64) + BitVec.ofNat 64 (4 * j))
    (allReady s [.ld, .vld, .vgg, .amo, .cas, .famo, .fget] f
      && loadPasses s [0x1000] 4 4 rightR true true false false && loadPasses s [0x1000] 256 32 rightR true true false false
      && loadPasses s eas 4 4 rightR true false false false && loadPasses s [0x1000] 4 4 rightA true false true true
      && loadPasses s [0x1000] 8 8 rightR false false true false && s.ea f == 0x1000
      && (List.range 64).all (fun j => (s.vreg f.b).bits.toNat / 2 ^ (32 * j) % 2 ^ 32 == 4 * j)) = true := by decide +kernel

/-- 32 loads of the context are out; and an acquire is. -/
theorem witness_GlobalReadsSetOut_stalls :
    let s : State := { base with accs := (List.range 32).map (fun i => (i, someAccess (.ld 4) 0 4)) }
    let q : State := { base with accs := [(3, { someAccess (.ld 4) 0 4 with ord := true })] }
    (32 ≤ s.mine AccOp.isLoad) ∧ q.acquiring = true ∧ allReady s [.ld, .vld, .vgg, .amo, .cas, .famo, .fget] f3 = true
      ∧ allReady q [.ld, .vld, .vgg, .amo, .cas, .famo, .fget] f3 = true := by decide +kernel

/-- Package 5's stream of the core holds 4,096 packets that it has not acknowledged. -/
theorem witness_GlobalReadsSetOut_stream :
    let g : Gst := ⟨lead, 0, some 7, 0x0500, 0, 0, 0, [], none, none, .issued, none, 0, 0⟩
    let s : State := withG [(2, 0xC028000000000000)] { base with gsts := (List.range 4096).map (fun i => (i, { g with stream := some (5, i) })) }
    let f : Fields := { f3 with mod := 3 }
    (allReady s [.st, .amo, .cas, .famo, .fset] f && s.loadRoom == .ok && s.storeRoom == .ok) = true
      ∧ s.sendOk [s.ea f] 8 = .stall := by decide +kernel

/-- Addresses of class 8, of class 0 misaligned, denied (no R right is granted) and without an entry. -/
theorem witness_GlobalReadsSetOut_faults :
    let s (x : W64) : State := withG [(2, x)] base
    let f : Fields := { f3 with mod := 3 }
    let denied : State := { s 0x1000 with cores := (s 0x1000).cores.map (fun e => (e.1, { e.2 with plb := [(0, (47, 0x0500000000000040))] })) }
    (allReady (s 0x8000000000000000) [.ld, .st, .amo, .cas, .famo, .fset, .fget] f
        && (s 0x1001).loadRoom == .ok && (s 0x1001).storeRoom == .ok && (s 0x1001).sendOk [0x1001] 8 == .ok
        && (s 0x8000000000000000).sendOk [0x8000000000000000] 8 == .ok && allReady denied [.ld, .st, .amo, .cas, .famo, .fset, .fget] f) = true
      ∧ bitsOf ((s 0x8000000000000000).ea f) 63 60 = 8 ∧ bitsOf ((s 0xD000000000000000).ea f) 63 60 = 13
      ∧ (s 0xD000000000000000).privileged = false
      ∧ bitsOf ((s 0x1001).ea f) 63 60 = 0 ∧ ((s 0x1001).ea f).toNat % 8 ≠ 0
      ∧ (s 0x800000000000).plb k0 0x0500 0x800000000000 8 rightR = .miss ∧ denied.plb k0 0x0500 0x1000 8 rightR = .denied
      ∧ bitsOf ((s 0x800000000000).ea f) 63 60 = 0 ∧ ((s 0x800000000000).ea f).toNat % 8 = 0 := by decide +kernel

/-- Worker 0's lead holds a replay scope whose group is 0x123. -/
def replaying (s : State) : State :=
  let h := handleOf ⟨0, 0, 0⟩ 0 1
  onCtx (fun c => { c with spr := { c.spr with csc := h }, stack := [⟨h, 4096, true⟩] })
    { s with hubs := [((⟨0, 0, 0⟩, 0), { Hub.fresh with state := 1, rp := true, group := 0x123, tenant := 5 })] }

theorem witness_GlobalWritesSetOut :
    let s := withV [(4, vecBy .i32 (fun i => 4 * i))] (withG [(2, 0x1000)] base)
    let f : Fields := { f3 with d := .reg 0, mod := 6, c := .reg 4 }
    let g : Fields := { f3 with d := .reg 0, mod := 2 }
    let eas := (List.range 64).map (fun j => (0x1000 : W64) + BitVec.ofNat 64 (4 * j))
    (allReady s [.vst, .vsg, .fset] f && allReady s [.st, .pf, .wb, .inv] g && noReplay s
      && storePasses s [0x1000] 4 4 true true false && storePasses s [0x1000] 256 32 true true false
      && storePasses s eas 4 4 true false false && storePasses s [0x1000] 8 8 false false true && !s.acquiring
      && s.wbLine g == none && s.me.holdC == none) = true ∧ s.coreWide (· == .pf) < 64 := by decide +kernel

/-- A store in a replay scope; 64 lines of `pf` out; a line that the slice holds; a hold whose access has ended. -/
theorem witness_GlobalWritesSetOut_others :
    let g : Fields := { f3 with d := .reg 0, mod := 2 }
    let r := replaying (withG [(2, 0x1000)] base)
    let full : State := { base with accs := (List.range 64).map (fun i => (i, someAccess .pf 0 64)) }
    let held : State := { withG [(2, 0x1000)] base with
      slices := [(⟨0, 0, 0⟩, { Slice.fresh with
        lines := [((64, 0), ⟨64, 5, none, false, true, false, false⟩)], tlb := [⟨0, 0, false, false, false⟩] })] }
    let ended := onCtx (fun c => { c with holdC := some ⟨.own, 0, [3], none⟩ }) base
    (ready (.st g) g r && storePasses r [0x1000] 4 4 true true false && r.replayGroup == some 0x123
      && allReady full [.pf] g && allReady held [.wb, .inv] g && held.wbLine g == some 64 && allReady ended [.wb, .inv] g
      && !([3].any ended.accs.has)
      && r.plb k0 r.me.domain 0x800000000000 64 rightR == .miss
      && ((after (.pf g) (withG [(2, 0x800000000000)] base)).accs == [])) = true ∧ 64 ≤ full.coreWide (· == .pf)
      ∧ 7 < bitsOf ((withG [(2, 0x8000000000000000)] base).ea g) 63 60 := by decide +kernel

/-- A part on its way to translation. -/
def fresh1 (op : AccOp) (ea n : Nat) : Access :=
  { someAccess op ea n with stage := .issued, parts := [⟨ea, [], n, none, false, [], false, false, none⟩] }
/-- A walk entry of slot 0 for page 2, kind 1, of domain 0x0500. -/
def someWalk (up : Bool) : Walk := ⟨0, 1, 2, 1, 0x0500, up, true⟩
/-- Cluster 0's slice with a walk. -/
def walking (w : Walk) (s : State) : State :=
  { s with slices := [(⟨0, 0, 0⟩, { Slice.fresh with walks := [w], tlb := [⟨0, 0, false, true, false⟩] })] }

theorem witness_AccessMeetsItsSlice :
    let s := underWay (fresh1 (.ld 8) 0x1000 8) base
    let far := underWay (fresh1 (.ld 8) 0x1000000000000 8) base
    let rro := underWay (fresh1 .fget 0x1000 8) (walking (someWalk false) base)
    let miss := underWay (fresh1 (.ld 8) 0x20000 8) base
    (s.clu lead.core == ⟨0, 0, 0⟩ && ((s.slice ⟨0, 0, 0⟩).tlbFind 0x1000).map (fun te => (te.pa, te.rro)) == some (0, false)
      && (s.touchLine (fresh1 (.ld 8) 0x1000 8) 0x1000 0x1000 false).isSome
      && !s.outOfTurn 3 { fresh1 (.ld 8) 0x1000 8 with parts := [⟨0x1000, [], 8, some 0x1000, false, [], false, false, none⟩] }
      && ((rro.slice ⟨0, 0, 0⟩).tlbFind 0x1000).map (·.rro) == some true
      && ((miss.slice ⟨0, 0, 0⟩).tlbFind 0x20000).isNone && (miss.slice ⟨0, 0, 0⟩).walks.isEmpty
      && natBits 0x1000000000000 48 15 != 0 && (far.acc 3).isSome) = true := by decide +kernel

/-- A store to a page of package 5, which may be numbered; one whose core has an older store on its way may not. -/
theorem witness_AccessMeetsItsSlice_foreign :
    let a := { fresh1 .st 0x1000 2 with parts := [⟨0x1000, [some 1, some 2], 2, none, false, [], false, false, none⟩] }
    let s : State := { underWay a base with slices := [(⟨0, 0, 0⟩, { Slice.fresh with tlb := [⟨0, 5 * 2 ^ 47, false, false, true⟩] })] }
    let placed : Part := ⟨0x1000, [some 1, some 2], 2, some (5 * 2 ^ 47 + 0x1000), false, [], false, true, none⟩
    let t := after (.sliceAccess 3) s
    (s.mayNumber 3 { a with parts := [placed] } && !s.outOfTurn 3 { a with parts := [placed] } && (s.touchLine a 0x1000 (5 * 2 ^ 47 + 0x1000) false).isSome
      && (t.acc 3).map (·.parts) == some [{ placed with seqNo := some (5, 0) }] && (t.core k0).streamSeq.get 5 0 == 1
      && !({ s with accs := (1, a) :: s.accs } : State).mayNumber 3 { a with parts := [placed] }) = true := by decide +kernel

/-- Four table levels at PA 0x100000 to 0x103000 whose leaf maps page 2 to PA 0x50000 (20 R424), and a pager table at
0x200000 whose first entry names worker 1 of tenant 5 (20 R426). -/
def mapped (s : State) : State :=
  let m := s.mem.write 0x100000 (leBytes 8 0x101001)
  let m := m.write 0x101000 (leBytes 8 0x102001)
  let m := m.write 0x102000 (leBytes 8 0x103001)
  let m := m.write 0x103010 (leBytes 8 0x50003)
  { s with mem := m.write 0x200000 (leBytes 8 (0x0500 + 0x10000 + 1 * 2 ^ (32 + 11)))
           pkgs := [(0, { somePkg with ttbr := 0x100000, pgtbase := 0x200000 })] }
/-- Only the pager table. -/
def unmapped (s : State) : State :=
  { s with mem := s.mem.write 0x200000 (leBytes 8 (0x0500 + 0x10000 + 1 * 2 ^ (32 + 11)))
           pkgs := [(0, { somePkg with ttbr := 0x100000, pgtbase := 0x200000 })] }

/-- 20 R424-R427: the walk finds the leaf and lets the access go on; without one the pager's core is called. -/
theorem test_walks :
    let a := { fresh1 (.ld 8) 0x20010 8 with stage := .walking }
    let t := after (.translationWalk ⟨0, 0, 0⟩ 0) (mapped (underWay a (walking (someWalk false) base)))
    let u := after (.translationWalk ⟨0, 0, 0⟩ 0) (unmapped (underWay a (walking (someWalk false) base)))
    ((t.slice ⟨0, 0, 0⟩).tlbFind 0x20000 == some ⟨2, 0x50000, false, false, false⟩ && (t.acc 3).map (·.stage) == some .issued
      && u.msgs.map (fun e => (e.2.dst, e.2.payload.take 8)) == [(⟨0, 0, 1⟩, leBytes 8 0x20000)]
      && (u.slice ⟨0, 0, 0⟩).walks.map (·.upcall) == [true]) = true := by decide +kernel

/-- 20 R426, R427: an access of a tenant that the pager does not serve fails, though the walk is an upcall for another's. -/
theorem test_walk_of_two_tenants :
    let a := { fresh1 (.ld 8) 0x20010 8 with stage := .walking }
    let b := { a with dom := 0x0600, task := some 8 }
    let t := after (.translationWalk ⟨0, 0, 0⟩ 0) (unmapped { walking (someWalk false) base with accs := [(3, a), (4, b)] })
    ((t.acc 3).map (·.stage) == some .walking && (t.acc 4).bind (·.bad) == some (0x0B, 0x20010)
      && (t.slice ⟨0, 0, 0⟩).walks.map (·.upcall) == [true]) = true := by decide +kernel

theorem witness_AccessMeetsItsSlice_walk :
    let s := mapped (walking (someWalk false) base)
    let u := unmapped (walking (someWalk false) base)
    let token := walkToken ⟨0, 0, 0⟩ (someWalk true)
    let g : State := { mapped (walking (someWalk true) base) with tokens := [token] }
    s.walk 0 (2 * 65536) = .leaf ⟨2, 0x50000, false, false, false⟩ ∧ u.walk 0 (2 * 65536) = .missing 4
      ∧ s.walkReady ⟨0, 0, 0⟩ (2 * 65536) = true ∧ u.walkReady ⟨0, 0, 0⟩ (2 * 65536) = true ∧ g.walkReady ⟨0, 0, 0⟩ (2 * 65536) = true
      ∧ u.served 0 (2 * 65536) 5 = some ⟨0, 0, 1⟩ ∧ u.served 0 (2 * 65536) 6 = none
      ∧ (s.slice ⟨0, 0, 0⟩).walks.find? (fun v => v.slot == 0) = some (someWalk false)
      ∧ g.tokens.contains token = true ∧ (bitsOf token 63 55 = 0 ∧ bitsOf token 54 53 = 0 ∧ bitsOf token 52 47 = 0)
      ∧ (g.slice ⟨0, 0, 0⟩).walks.find? (fun w => w.upcall && walkToken ⟨0, 0, 0⟩ w == token) = some (someWalk true) := by
  decide +kernel

/-- Two loads of one line: the slice takes the later one only after the earlier. -/
theorem test_sliceTakesALineInTurn :
    let p : Part := ⟨0x1000, [], 8, some 0x1000, false, [], false, false, none⟩
    let s := underWay (fresh1 (.ld 8) 0x1000 8) base
    let two : State := { s with accs := s.accs ++ [(4, fresh1 (.ld 8) 0x1000 8)] }
    (two.outOfTurn 4 { fresh1 (.ld 8) 0x1000 8 with parts := [p] } && !two.outOfTurn 3 { fresh1 (.ld 8) 0x1000 8 with parts := [p] }) = true := by
  decide +kernel

theorem witness_AccessMeetsItsSlice_lines :
    let s := underWay (someAccess (.ld 8) 0x1000 8) base
    let due : State := { base with slices := [(⟨0, 0, 0⟩, { Slice.fresh with n := 65536, ev := [(5, 100)], ov := [(5, 10)], ts := [(5, 3)] })] }
    s.acc 3 = some (someAccess (.ld 8) 0x1000 8) ∧ s.engineOwns 64 = false ∧ (s.slice ⟨0, 0, 0⟩).n < 65536 ∧ (s.slice ⟨0, 0, 0⟩).lines = []
      ∧ 65536 ≤ (due.slice ⟨0, 0, 0⟩).n ∧ ((due.slice ⟨0, 0, 0⟩).ev.map (·.1)).Nodup
      ∧ (((after (.trustShiftUpdate ⟨0, 0, 0⟩) due).slice ⟨0, 0, 0⟩).ts.get 5 0) = 3
      ∧ ((after (.victimChoice ⟨0, 0, 0⟩ 64 3) s).slice ⟨0, 0, 0⟩).lines.map (fun e => (e.1, e.2.line)) = [((64, 0), 64)] := by
  decide +kernel

theorem witness_MemoryServesReadsAndWrites :
    let l := underWay (someAccess (.ld 4) 0x1000 4) base
    let w := underWay (someAccess .st 0x1000 2 [1, 2]) base
    let b := underWay (someAccess .wb 0x1000 64) base
    let i := underWay (someAccess .inv 0x1000 64) base
    let p (s : State) (a : Access) : Bool := s.partReady 3 0 a
    (p l (someAccess (.ld 4) 0x1000 4) && p b (someAccess .wb 0x1000 64) && p i (someAccess .inv 0x1000 64)
      && p w (someAccess .st 0x1000 2 [1, 2]) && w.storeReady 3 0 (someAccess .st 0x1000 2 [1, 2])
      && !l.rottenLine 0x1000 4 && w.mem.wf) = true := by decide +kernel

/-- A write packet of its core's stream to package 0, whose number is the next to arrive. -/
theorem witness_MemoryServesReadsAndWrites_packet :
    let a := { someAccess .st 0x1000 2 with parts := [⟨0x1000, [some 1, some 2], 2, some 0x1000, false, [], false, false, some (0, 0)⟩] }
    let s := underWay a base
    (s.storeReady 3 0 a && (a.parts.all (·.seqNo.isSome)) && memAfter (.writePacketArrival 3) s 0x1000 2 == 0x0201) = true := by
  decide +kernel

theorem witness_AtomicsAndFuturesAtHome :
    let am := underWay (someAccess (.amo 0 4 1) 0x1000 4) base
    let fs := underWay (someAccess (.fset 6) 0x1000 8) base
    let fg := underWay (someAccess .fget 0x1000 8) base
    let deferredFull : State := { fg with slices := [(paClu 0x1000, { Slice.fresh with deferred := List.range 256 })] }
    (am.writeReady 3 0 (someAccess (.amo 0 4 1) 0x1000 4) && fs.writeReady 3 0 (someAccess (.fset 6) 0x1000 8)
      && fg.partReady 3 0 (someAccess .fget 0x1000 8) && deferredFull.partReady 3 0 (someAccess .fget 0x1000 8)
      && !am.rottenLine 0x1000 4 && am.mem.wf) = true
    ∧ 256 ≤ (deferredFull.slice (paClu 0x1000)).deferred.length ∧ 0x1000 / 8 ∉ fg.full := by decide +kernel

/-- Accesses whose parts have all been read. -/
theorem witness_AtomicsAndFuturesAtHome_lands :
    let d (op : AccOp) (n : Nat) : Access :=
      { someAccess op 0x1000 n with parts := [⟨0x1000, [], n, some 0x1000, true, List.replicate n 1, false, false, none⟩] }
    ([d (.ld 4) 4, d (.amo 0 4 1) 4, d (.cas 4 1 2) 4, d (.famo .f32 0) 4, d (.vld .f32 false) 256, d (.vgg .f32 4) 4, d .fget 8]
      : List Access).all (fun a => landsHere (underWay a base) a && a.failure.isNone && (underWay a base).answered a && a.parts.all (·.done)
        && (a.parts.flatMap (·.data)).length == (match a.parts with | [p] => p.len | _ => 0)) = true := by decide +kernel

/-- A forced publish: an acquire of worker 5 meets the record of an earlier store of the lead at core reach. -/
theorem witness_MemoryServesReadsAndWrites_forced :
    let st := { someAccess .st 0x1000 2 [1, 2] with seq := 1 }
    let ld := { someAccess (.ld 4) 0x1000 4 with ctx := ⟨⟨0, 0, 5⟩, 0⟩, task := some 8, ord := true }
    let r : RelRecord := ⟨lead, some 7, 0, 1⟩
    let s : State := { base with accs := [(3, st), (4, ld)], rels := [(64, [r])], cores := base.cores ++ [(⟨0, 0, 5⟩, Core.fresh)] }
    s.crossed ld 64 = [r] ∧ s.recordsFull ld 64 = false ∧ s.storeReady 3 0 st = true
      ∧ s.accs.filter (fun e => sameCtx e.2.task r.task e.2.ctx r.ctx && decide (e.2.seq ≤ r.seq)) = [(3, st)]
      ∧ memAfter (.forcedPublish 4) s 0x1000 2 = 0x0201 := by decide +kernel

theorem witness_AccessesAtOtherUnits :
    let at_ (op : AccOp) (bytes : List Byte) : Access :=
      { someAccess op 0 4 bytes with parts := [⟨0xC000008000000100, bytes.map some, 4, none, false, [], false, false, none⟩] }
    let there (a : Access) (win : W64) : State :=
      let tc := { TaskCore.fresh with win := Vector.replicate 4 win }
      { underWay a base with
        cores := base.cores ++ [(⟨0, 0, 1⟩, { Core.fresh with task := some 8, tc := tc })]
        tasks := [(7, someTask), (8, { someTask with core := some ⟨0, 0, 1⟩ })] }
    let grant : W64 := 0x0500CF0000000000
    let ld := at_ (.ld 4) []
    let st := at_ .st [1, 2, 3, 4]
    ((there ld grant).bankReady 3 0 ld == some (⟨0, 0, 1⟩, 0x100) && (there st grant).bankReady 3 0 st == some (⟨0, 0, 1⟩, 0x100)
      && (there ld grant).windowOk ⟨0, 0, 1⟩ 0x0500 0x100 4 42 && (there st grant).windowOk ⟨0, 0, 1⟩ 0x0500 0x100 4 41
      && !(there ld 0).windowOk ⟨0, 0, 1⟩ 0x0500 0x100 4 42
      && ((after (.remoteAccess 3) (there ld 0)).acc 3).map (·.stage) == some .nacked
      && ((after (.remoteAccess 3) (there { ld with granted := true } 0)).acc 3).map (·.stage) == some .placed
      && (ld.granular == false) && (at_ (.vgg .i32 4) []).granular
      && ((after (.remoteAccess 3) (there (at_ (.vgg .i32 4) []) 0)).acc 3).bind (·.bad) == some (0x09, 0xC000008000000100)
      && (let own : Access := { at_ (.ld 4) [] with parts := [⟨0xC000000000000100, [], 4, none, false, [], false, false, none⟩] }
          (there own 0).bankReady 3 0 own == some (k0, 0x100) && landsHere (there own 0) own)
      && ((after (.remoteAccess 3) (there st grant)).tc ⟨0, 0, 1⟩).spad.read 0x100 4 == [1, 2, 3, 4]) = true := by decide +kernel

/-- A store to the debug window of worker 1's lead: g4, and PCQ0 (20 R416-R418). -/
theorem witness_AccessesAtOtherUnits_window :
    let ea (o : Nat) : Nat := 0xD000008000000000 + o
    let st (o : Nat) : Access :=
      { someAccess .st 0 8 with parts := [⟨ea o, (leBytes 8 0x400000).map some, 8, none, false, [], false, false, none⟩] }
    let s (o : Nat) (l : CtxLife) : State := (underWay (st o) base).setCtx ⟨⟨0, 0, 1⟩, 0⟩ (fun c => { c with life := l })
    ((s 32 .frozen).controlReady 3 (st 32) ⟨ea 32, (leBytes 8 0x400000).map some, 8, none, false, [], false, false, none⟩
      && natBits (ea 32) 60 4 == 13 && natBits (ea 32) 39 10 == 1 && natBits (ea 0x320) 0 16 == 0x320
      && ((after (.debugWindowWrite 3) (s 32 .frozen)).ctx ⟨⟨0, 0, 1⟩, 0⟩).getG 4 == 0x400000
      && ((after (.debugWindowWrite 3) (s 0x320 .frozen)).ctx ⟨⟨0, 0, 1⟩, 0⟩).pcq0.pc == 0x400000
      && ((after (.debugWindowWrite 3) (s 32 .running)).acc 3).bind (·.bad) == some (0x0A, BitVec.ofNat 64 (ea 32))) = true := by
  decide +kernel

theorem witness_AccessesAtOtherUnits_poison :
    let a := someAccess (.ld 4) 0x1000 4
    let s : State := { underWay a base with poison := [64] }
    (s.partReady 3 0 a && s.rottenLine 0x1000 4 && s.replayOf a.scope == none
      && ((after (.poisonConsumed (.access 3)) s).acc 3).bind (·.bad) == some (0x13, 0x1000)) = true := by decide +kernel

/-- 22 R470, R473: a tenant's page over a firmware region does not translate; a fetch from a silent expander freezes, and its port is down. -/
theorem test_firmware_and_expander :
    let a (ea : Nat) : Access := { someAccess (.ld 4) ea 4 with parts := [⟨ea, [], 4, none, false, [], false, false, none⟩], stage := .issued }
    let s : State := { onCtx (fun c => { c with pcq0 := ⟨0x10000, false, false, false⟩ }) base with
      now := tFail, slices := [(⟨0, 0, 0⟩, { Slice.fresh with tlb := [⟨1, 3 * 2 ^ 44, false, false, false⟩] })] }
    let t := after (.expanderTimeout (.fetch lead)) s
    (((after (.sliceAccess 3) (underWay (a 0x40) base)).acc 3).bind (·.failure) == some (0x0B, 0x40)
      && ((after (.sliceAccess 3) (underWay (a 0x1040) base)).acc 3).map (·.stage) == some .placed
      && (t.ctx lead).life == .frozen && (t.ctx lead).cause == 0x15 && (t.pkg 0).memDown == [2]) = true := by decide +kernel

/-- The ways to fail: refused, a package that is not there, an expander, a confidential page elsewhere; then the record. -/
theorem witness_AccessesFail :
    let n := { someAccess (.ld 4) 0x1000 4 with stage := .nacked }
    let part (pa : Nat) (conf : Bool) : Access := { someAccess (.ld 4) 0x1000 4 with parts := [⟨0x1000, [], 4, some pa, false, [], conf, false, none⟩] }
    let s (a : Access) (now : Nat) : State := { underWay a base with now := now }
    let failed := { someAccess (.ld 4) 0x1000 4 with stage := .failed 0x15 }
    let t := after (.asyncFaultRecord 3) (s failed 0)
    (((after (.windowNack 3) (s n 0)).acc 3).map (·.stage) == some (.failed 0x09)
      && (part (3 * 2 ^ 47) false).failure.isNone && !(s (part (3 * 2 ^ 47) false) 0).alive 0 3
      && ((after (.peerAccessTimeout 3) (s (part (3 * 2 ^ 47) false) 0)).acc 3).map (·.stage) == some (.failed 0x15)
      && ((after (.expanderTimeout (.op 3)) (s (part (1 * 2 ^ 44) false) tFail)).acc 3).map (·.stage) == some (.failed 0x15)
      && ((after (.authenticationFailure (.op 3)) (s (part (3 * 2 ^ 47) true) 0)).acc 3).map (·.stage) == some (.failed 0x0A)
      && failed.failure == some (0x15, 0x1000) && landsHere (s failed 0) failed
      && t.me.afr.map (fun r => (r.ea, r.cause)) == some (0x1000, 0x15) && t.me.pend == [] && t.me.poisoned (.g 1)) = true := by
  decide +kernel

theorem witness_AccessesFail_wb :
    let a := someAccess .wb 0x1000 64
    let s := onCtx (fun c => { c with holdC := some ⟨.own, 0, [3], none⟩ }) { underWay a base with now := tFail }
    (s.ctx lead).holdC = some ⟨.own, 0, [3], none⟩ ∧ s.acc 3 = some a ∧ 0 + tFail ≤ s.now
      ∧ (after (.wbTimeout lead) s).acc 3 = none := by decide +kernel

/-! ## Packets, control and ordering (02, 05, 13) -/

/-- The worked fetch line of chapter 02: two adds, a vadd and a nop. -/
def exampleLine : Nat :=
  0x000008418000000000000000 + 0x200008418000000000000000 <<< 96 + 0x000020928000000000000001 <<< 192
    + 0x800000000000000000000000 <<< 384 + 0x12001045 <<< 480

theorem test_worked_line :
    parityOk exampleLine = true ∧ packetEnd exampleLine 0 = 1 ∧ packetPositions exampleLine 0 = [0, 1]
      ∧ packetPositions exampleLine 2 = [2, 4] ∧ tmBit exampleLine 2 = true ∧ tmBit exampleLine 1 = false
      ∧ instrAt exampleLine 2 = some (.add { Fields.zero with d := .reg 4, a := .reg 4, b := .imm, imm := 1 }) := by decide +kernel

/-- Line 64 holds `bits` in the loop buffer, and the lead's chain stands at its first packet, then there, then there. -/
def inLine (bits : Nat) (s : State) : State :=
  onTc (fun t => { t with pins := [⟨64, bits, 0, false⟩] })
    (onCtx (fun c => { c with pcq0 := .at 0x1000, pcq1 := .at 0x1002, pcq2 := .at 0x1002 }) s)

/-- The `vadd` of the packet finds RAW sources (07 R126): the whole packet has no effect (02 R27). -/
theorem test_packet_faults_whole :
    let s : State := { inLine exampleLine (withG [(2, 5), (3, 6)] base) with agenda := [.core k0] }
    (match step s with
      | .next t => (t.ctx lead).life == .frozen && (t.ctx lead).cause == 0x07 && (t.ctx lead).inflight == []
      | _ => false) = true := by decide +kernel

/-- With tagged sources both positions issue. -/
theorem test_packet_issues_both :
    let s : State := { inLine exampleLine (withG [(2, 5), (3, 6)] (stV .i8 [1] [2])) with agenda := [.core k0] }
    (match step s with
      | .next t => (t.ctx lead).inflight.map (fun r => (r.dest, r.due)) == [(.v 1, 2), (.g 1, 1)] && t.now == 1
          && (t.ctx lead).pipe == 1 && (t.ctx lead).pcq0.pc == 0x1002
      | _ => false) = true := by decide +kernel

/-- A branch's packet leaves its target in PCQ2 with TGT (05 R82); a count of 0 skips a `rep` body (05 R93). -/
theorem test_branch_and_repeat :
    let after1 (w : Nat) : Option State := match step (State.reset.withFetchWord 96 w) with | .next t => some t | _ => none
    ((after1 0x802000000000000000000019).map (fun t => (t.ctx bootSup).pcq2) == some ⟨0xC1, false, true, false⟩
      && (after1 0x80C004A00000000100000000).map (fun t => (t.ctx bootSup).pcq0.pc) == some 0xC0
      && (after1 0x814000000000000000000000).map (fun t => ((t.ctx bootSup).life, (t.ctx bootSup).cause)) == some (.frozen, 0x11)
      && (after1 0x812000000000000000000000).map (fun t => (t.ctx bootSup).spr.rclk) == some 1) = true := by decide +kernel

theorem witness_StepRunsDecodedInstruction :
    let w := 0x000008418000000000000000
    let s := State.reset.withFetchWord 96 w
    let s0 : State := { s with agenda := [] }
    let p := ({ s0 with cur := bootSup, pk := Pk.fresh } : State).fetch bootSup
    s.agenda = [.core bootSup.core] ∧ s.hasCore bootSup.core = true
      ∧ (∀ n : Nat, n < 11 → 1 ≤ n → (s.ctx ⟨bootSup.core, n⟩).life ≠ .running) ∧ s0.canTry bootSup = true
      ∧ p.1 = .line (oneWordLine w) ∧ (p.2.ctx bootSup).pcq0.anl = false ∧ (p.2.ctx bootSup).pcq0.tgt = false
      ∧ packetPositions (oneWordLine w) (pcPos (p.2.ctx bootSup).pcq0.pc) = [0]
      ∧ instrAt (oneWordLine w) 0 = some (.add f3) := by decide +kernel

theorem witness_StepRunsDecodedInstruction_issues :
    let w := 0x000008418000000000000000
    let s0 : State := { State.reset.withFetchWord 96 w with agenda := [] }
    let s1 := (({ s0 with cur := bootSup, pk := Pk.fresh } : State).fetch bootSup).2
    let s2 := s1.commitDue (s1.core bootSup.core).task bootSup
    placeOk (s2.ctx bootSup) (pcLine (s2.ctx bootSup).pcq0.pc) (packetEnd (oneWordLine w) (pcPos (s2.ctx bootSup).pcq0.pc)) (.add f3) = true
      ∧ (s2.ctx bootSup).breaksAt (pcAt (pcLine (s1.ctx bootSup).pcq0.pc) 0) = false
      ∧ (match exec (.add f3) { s2 with pk := { Pk.fresh with phase := .check, pos := 0 } } with
        | .next u => u.pk.verdict == .ok | _ => false) = true
      ∧ (match exec (.add f3) { s2 with pk := { Pk.fresh with phase := .effect, pos := 0, before := some (s2.tc bootSup.core) } } with
        | .next _ => true | _ => false) = true := by decide +kernel

theorem witness_ControlInstructions :
    let s := withG [(2, 0x1000)] (inLine exampleLine base)
    let big := withG [(2, 65537)] base
    (allReady s [.nop, .b, .ba, .bl, .br, .brl, .rep, .tick, .bkpt, .lpin, .lfree] f2 && ready (.rep f2) f2 big
      && ready (.lpin f2) f2 (withG [(2, 0x1001)] base) && ready (.lfree f2) f2 (withG [(2, 0x1001)] base)
      && !(s.guardTrue { f2 with guard := ⟨false, 1⟩ })) = true
    ∧ (s.gval f2 f2.a).toNat ≤ 65536 ∧ 65536 < (big.gval f2 f2.a).toNat ∧ (s.ea f2).toNat % 64 = 0
    ∧ ((withG [(2, 0x1001)] base).ea f2).toNat % 64 ≠ 0 ∧ (base.myTc.pins = [])
    ∧ ((withG [(2, 0x1000)] base).pinRead 64).1 = .ok 0 := by decide +kernel

theorem witness_ChainMovesAtTheBoundary :
    let s := inLine exampleLine base
    let k := s.ctx lead
    (s.pk.leave = false ∧ s.pk.record = none ∧ s.pk.rep = none ∧ s.pk.after = none ∧ k.stepOnce = false ∧ k.pcq1.sq = false
        ∧ k.pcq2.sq = false ∧ k.rep.left = 0 ∧ s.peekLine lead k.pcq2.pc = some exampleLine)
      ∧ ((s.finish lead).ctx lead).pcq2.pc = 0x1040 ∧ (k.pcq0.pc.toNat / 64 + 2 + 1 < 2 ^ 58) ∧ k.life = .running := by
  decide +kernel

/-- An annulled packet, a packet all of whose positions are empty, and an unresolved PCQ1. -/
theorem witness_ChainMovesAtTheBoundary_packets :
    let empty : Nat := (0b11111 <<< 9 + 1) <<< 480
    let line : Nat := empty + (parity 24 (0b11111 <<< 9 + 1)).toNat <<< 509
    let e := inLine line base
    let a := onCtx (fun c => { c with pcq0 := { c.pcq0 with anl := true } }) (inLine exampleLine base)
    let u := onCtx (fun c => { c with pcq0 := ⟨0x1000, true, false, false⟩ }) (inLine exampleLine base)
    let q := onCtx (fun c => { c with pcq1 := ⟨0x1000, true, false, false⟩, pcq2 := ⟨0x1000, true, false, false⟩ }) (inLine exampleLine base)
    let r := onCtx (fun c => { c with pcq2 := .at 0x1004, rep := ⟨2, 64, 64, true, []⟩ }) (inLine exampleLine base)
    (a.canTry lead && (a.issueOrder k0).head? == some 0 && (e.issueOrder k0).head? == some 0 && !(a.ctx lead).leaving
      && ((a.fetch lead).1 == .line exampleLine) && ((a.fetch lead).2.ctx lead).pcq0.anl && e.canTry lead
      && ((e.fetch lead).1 == .line line) && e.headPacket lead == some [] && packetPositions line 0 == []
      && (u.ctx lead).pcq0.sq && u.peekLine lead 0x1000 == some exampleLine
      && ((after (.sequentialResolve lead) u).ctx lead).pcq0 == .at 0x1002
      && ((q.finish lead).ctx lead).pcq0 == .at 0x1002 && ((q.finish lead).ctx lead).pcq1 == ⟨0x1002, true, false, false⟩
      && packetEnd exampleLine 4 == 4 && ((r.finish lead).ctx lead).pcq2 == .at 0x1000 && ((r.finish lead).ctx lead).rep.left == 1
      && ((after (.emptyPacket lead) e).ctx lead).pipe == 1 && ((after (.annulledPacket lead) a).ctx lead).pipe == 1) = true := by
  decide +kernel

/-- Nothing is under way; a load and a store are; a fault stands in the asynchronous record. -/
theorem witness_FencesAndBarriers :
    let f : Fields := { Fields.zero with mod := 0b011111 }
    let busy := underWay { someAccess (.ld 4) 0x1000 4 with ctx := lead } base
    let afr := onCtx (fun c => { c with afr := some ⟨0x1000, 0, 0x15, 1, 0, 0⟩ }) base
    (ready (.fence f) f base && base.writesDone f.reachCode && base.loadsDone && base.enginesDone && base.engineFreeze.isNone
      && ready (.fence f) f busy && !busy.loadsDone && ready (.fence f) f afr && ready (.bar f) f base && base.myGang.isNone
      && !base.me.barHere && base.writesDone (base.barReach f) && ready (.mon f2) f2 (withG [(2, 0x1000)] base) && !base.acquiring && (withG [(2, 0x1000)] base).ea f2 == 0x1000
      && base.plb k0 base.me.domain 0x1000 64 rightR == .granted && (base.findPage ⟨0, 0, 0⟩ 0x1000 0 0x0500).1 == .page ⟨0, 0, false, false, false⟩
      && ready (.mwait f) f base && !base.braked) = true ∧ afr.me.afr = some ⟨0x1000, 0, 0x15, 1, 0, 0⟩ := by decide +kernel

/-- Two members of a gang: this one has arrived; the other has, or has not. -/
def inGang (here there : Bool) (s : State) : State :=
  let t (x : Nat) (k : CoreId) : Task := { someTask with gang := some ⟨1, x, 0, 2, 1⟩, core := some k }
  let other : Core := { Core.fresh with task := some 8, tc := { TaskCore.fresh with ctxs := [(0, { someCtx with barHere := there })] } }
  onCtx (fun c => { c with barHere := here })
    { s with tasks := [(7, t 0 k0), (8, t 1 ⟨0, 0, 1⟩)], cores := s.cores ++ [(⟨0, 0, 1⟩, other)] }

theorem witness_FencesAndBarriers_gang :
    let f : Fields := { Fields.zero with mod := 0b011000 }
    ((inGang false false base).myGang.isSome && ready (.bar f) f (inGang false false base) && !(inGang false false base).me.barHere
      && (inGang true true base).allArrived && !(inGang true false base).allArrived && (inGang true true base).me.barHere
      && ready (.bar f) f (inGang true true base) && ready (.bar f) f (inGang true false base)
      && (after (.bar f) (inGang true true base)).me.barCount == 1) = true := by decide +kernel

theorem witness_FencesAndBarriers_monitor :
    let m (hit : Bool) : State := onCtx (fun c => { c with monitor := some 4 }) { base with monitors := [(4, ⟨64, hit⟩)] }
    let w := onCtx (fun c => { c with hold := some ⟨.mwait, 0, [], none⟩, monitor := some 4 }) { base with now := 2 ^ 20 }
    let st := someAccess .st (5 * 2 ^ 47) 4 [1, 2, 3, 4]
    let ab := onCtx (fun c => { c with hold := some ⟨.fence, 0, [3], none⟩ }) { underWay st base with now := tFail }
    (ready (.mwait f2) f2 (m true) && ((m true).monitors.find 4).map (·.hit) == some true && ready (.mwait f2) f2 (m false)
      && ((m false).monitors.find 4).map (·.hit) == some false && (w.ctx lead).hold == some ⟨.mwait, 0, [], none⟩
      && ((after (.mwaitTimeout lead) w).ctx lead).monitor == none && ((after (.monitorLost lead) (m false)).ctx lead).monitor == none
      && (ab.acc 3 == some st) && ((after (.fenceAbandon lead 3) ab).ctx lead).spr.lost == [5]
      && bitsOf ((after (.fenceAbandon lead 3) ab).ctx lead).spr.fstat 36 28 == 5) = true := by decide +kernel

/-- A page that no translation can name, inside a granted region. -/
theorem witness_FencesAndBarriers_untranslatable :
    let s : State := withG [(2, 0x1000000000000)] { base with cores := base.cores.map (fun e =>
      (e.1, { e.2 with plb := [(0, (0x1000000000000 + 47, 0x050000000000007F))] })) }
    (ready (.mon f2) f2 s && s.plb k0 s.me.domain 0x1000000000000 64 rightR == .granted
      && (s.findPage ⟨0, 0, 0⟩ 0x1000000000000 0 0x0500).1 == .none && (after (.mon f2) s).me.monitor == none) = true := by decide +kernel

/-! ## Copies, streams, messages, multicasts (14, 18) -/

/-- The lead holds a scope with shares enough. -/
def inScope (s : State) : State :=
  let h := handleOf ⟨0, 0, 0⟩ 0 1
  onCtx (fun c => { c with spr := { c.spr with csc := h }, stack := [⟨h, 4294967296, true⟩] })
    { s with hubs := [((⟨0, 0, 0⟩, 0), { Hub.fresh with state := 1, reach := 3, tenant := 5, r := 0, t := 0 })] }

/-- A copy of 8 bytes from 0x100 to 0x200 of the scratchpad, whose one chunk is in flight or done. -/
def someCopy (flying : List (Nat × Nat)) (written : Nat) : Copy where
  core := k0
  task := some 7
  ctx := 0
  handle := 1
  pc := 0x400000
  dom := 0x0500
  incarn := 0
  dst := .spad 0x200
  src := .spad 0x100
  rowBytes := 8
  rows := 1
  ds := 0
  ss := 0
  swz := 0
  nud := 31
  cad := 0x0400
  reach := 3
  scope := 0
  share := 16
  free := true
  started := if flying.isEmpty && written == 0 then 0 else 8
  flying := flying
  written := written
  ended := .running
  slot := none
  waiting := false
  saved := false
  since := 0

/-- Copy 3 is under way. -/
def copying (c : Copy) (s : State) : State := { s with copies := [(3, c)] }

/-- 14 R316-R324: issue, start, move, end. -/
theorem test_copies :
    let f : Fields := { Fields.zero with d := .reg 9, a := .reg 2, b := .reg 3, c := .imm, mod := 0b100000, x := 0x7C, imm := 1024 }
    let s := inScope (withG [(2, 0x200), (3, 0x100)] base)
    let t := after (.cp f) s
    let m := after (.copyChunkEnd 3 0) (copying (someCopy [(0, 8)] 0) (spadAt 0x100 [1, 2, 3, 4, 5, 6, 7, 8, 9] base))
    (t.copies.map (fun e => (e.2.dst, e.2.src, e.2.rowBytes, e.2.handle)) == [(.spad 0x200, .spad 0x100, 1024, 1)]
      && (after (.copyChunkStart 3) (copying (someCopy [] 0) base)).copies.map (fun e => e.2.flying) == [[(0, 8)]]
      && (m.tc k0).spad.read 0x200 9 == [1, 2, 3, 4, 5, 6, 7, 8, 0]
      && ((after (.copyFinish 3) (copying (someCopy [] 8) base)).tc k0).statuses == [(1, BitVec.ofNat 64 (8 * 2 ^ 24 + 1))]) = true := by
  decide +kernel

theorem witness_CopiesIssueAndFinish :
    let f : Fields := { Fields.zero with d := .reg 9, a := .reg 2, b := .reg 3, c := .imm, mod := 0b100000, x := 0x7C, imm := 1024 }
    let s := inScope (withG [(2, 0x200), (3, 0x100)] base)
    let j : CopyJob := ⟨none, 0x200, 0x100, 1024, 1, 0, 0⟩
    let g : Fields := { f with c := .reg 4, imm := 0 }
    let r := inScope (withG [(2, 0x200), (3, 0x100), (4, 0x0001000100100010)] base)
    let full : State := { s with copies := (List.range 16).map (fun i => (i, someCopy [] 0)) }
    (ready (.cp f) f s && !s.acquiring && s.copyOk j == .ok && s.carveHold == .ok && ready (.cps g) g r
      && r.copyOk ⟨none, 0x200, 0x100, 16, 2, 16, 16⟩ == .ok && ready (.cp f) f full && ready (.cpq f2) f2 base && ready (.cpw f2) f2 base
      && !(base.copyRuns (base.gval f2 f2.a)) && base.copyStatus (base.gval f2 f2.a) == 4
      && (copying (someCopy [] 0) (withG [(2, 1)] base)).copyRuns 1 && ready (.cpw f2) f2 (copying (someCopy [] 0) (withG [(2, 1)] base))) = true
    ∧ s.copySlots k0 < 16 ∧ 16 ≤ full.copySlots k0 := by decide +kernel

theorem witness_CopiesIssueAndFinish_runs :
    let s := copying (someCopy [] 0) base
    let b := copying { someCopy [] 0 with free := false, scope := handleOf ⟨0, 0, 0⟩ 0 1 }
      { base with hubs := [((⟨0, 0, 0⟩, 0), { Hub.fresh with state := 1, tenant := 5, brake := true })] }
    let q := copying { someCopy [] 0 with dst := .ring 2, waiting := true } (ringAt 2 [.empty] base)
    let q := onTc (fun t => { t with rings := t.rings.set 2 { t.rings[2] with res := [⟨9, 0, some 3⟩] } }) q
    (partHere s k0 && s.replayOf 0 == none && b.brakeOf (handleOf ⟨0, 0, 0⟩ 0 1) && (s.core k0).switch.isNone
      && (let m := copying (someCopy [(0, 8)] 0) base
          !m.behind 3 (someCopy [(0, 8)] 0) true (.spad 0x200, 8) && !m.behind 3 (someCopy [(0, 8)] 0) false (.spad 0x100, 8))
      && !(copying (someCopy [] 8) base).stagedBy 3
      && ((after (.copyChunkStart 3) b).copy 3).map (·.ended) == some .braked
      && ((after (.copySlotReserve 3) q).copy 3).map (·.slot) == some (some 0)) = true
      ∧ ((q.tc k0).ring 2).res = [⟨9, 0, some 3⟩] ∧ ((q.tc k0).ring 2).tag 0 = .empty ∧ ((q.tc k0).ring 2).c ≠ 0 := by decide +kernel

/-- A stream record at 0x1000: tiles of 64 bytes in one row from 0x2000 on, without end. -/
def recordBytes : List Byte :=
  leBytes 8 0x2000 ++ leBytes 4 64 ++ leBytes 4 1 ++ leBytes 8 64 ++ leBytes 8 64 ++ leBytes 32 0

/-- A stream on ring 2 of worker 0 with that record. -/
def someStream (drain : Bool) (slot : Option Nat) (wrote unsub : Bool) : Stream where
  core := k0
  task := some 7
  drain := drain
  ring := 2
  recd := ⟨0x2000, 64, 1, 64, 64, 0, 0, 0, 0, 0⟩
  dom := 0x0500
  cad := 0x0400
  scope := 0
  share := 16
  free := true
  tile := 0
  slot := slot
  wrote := wrote
  unsub := unsub

/-- Stream 3 stands on ring 2. -/
def streaming (x : Stream) (s : State) : State := { ringAt 2 [.filling, .draining] s with streams := [(3, x)] }

/-- 14 R334, R335: a tile moves from memory into its slot, and from its slot to memory. -/
theorem test_stream_tiles :
    let i := streaming (someStream false (some 0) false false) (memAt 0x2000 [1, 2, 3] base)
    let o := streaming (someStream true (some 1) false false) (spadAt 0x1040 [7, 8, 9] base)
    (((after (.streamTileWrite 3) i).tc k0).spad.read 0x1000 4 == [1, 2, 3, 0] && ((after (.streamTileWrite 3) i).stream 3).map (·.tile) == some 1
      && memAfter (.drainTile 3) o 0x2000 4 == 0x090807) = true := by decide +kernel

theorem witness_StreamsRun :
    let f : Fields := { Fields.zero with a := .reg 2, b := .reg 3 }
    let s := inScope (withG [(3, 0x1000)] (ringAt 2 [.empty, .empty] (memAt 0x1000 recordBytes base)))
    (ready (.streamSub f) f s && ready (.drn f) f s && !s.acquiring && s.writesDone 3 && s.recordOk (s.gval f f.b) == .ok
      && s.attachOk f == .ok && !s.streamsFull && s.carveHold == .ok
      && s.recordAt (s.gval f f.b) == some ⟨0x2000, 64, 1, 64, 64, 0, 0, 0, 0, 0⟩
      && ((s.myTc.ring 2).c, (s.myTc.ring 2).att, (s.myTc.ring 2).err, (s.myTc.ring 2).z) == (2, false, false, 64)
      && ready (.unsub f) f base && (base.streamOn 2).isNone
      && (streaming (someStream false none false false) base).streamOn 2 == some (3, someStream false none false false)
      && ready (.unsub f) f (streaming (someStream false none false false) base)) = true := by decide +kernel

theorem witness_StreamsRun_events :
    let w := streaming (someStream false (some 0) false false) base
    let d := streaming (someStream true (some 1) true false) base
    let o := streaming (someStream false none false true) base
    let e := onTc (fun t => { t with rings := t.rings.set 2 { t.rings[2] with err := true } }) w
    (partHere w k0 && !d.stagedBy 3 && w.slotSpan (someStream false (some 0) false false) == [(.spad 0x1000, 64)]
      && (w.tileBytes (someStream false (some 0) false false)).length == 64 && (w.tileWay 3 (someStream false (some 0) false false)).1 == .clear
      && ((after (.drainSlotEmpty 3) d).stream 3).map (fun x => (x.tile, x.slot)) == some (1, none)
      && (o.core k0).switch.isNone && ((after (.streamDetach 3) o).stream 3).isNone
      && (e.streamFault 3 (someStream false (some 0) false false)).isSome && (e.streamFault 3 (someStream false (some 0) false false)) != some 0x13
      && ((e.streamFault 3 (someStream false (some 0) false false)).map (fun c =>
          ((after (.streamError 3 c) e).stream 3).isNone)) == some true) = true := by decide +kernel

/-- A message from worker 0's lead to worker 1, of 64 bytes of 5. -/
def someMessage (scq : Bool) : Message where
  src := lead
  task := some 7
  incarn := 0
  dst := ⟨0, 0, 1⟩
  scq := scq
  payload := List.replicate 64 5
  dom := 0x0500
  ea := 0x100
  pc := 0x400000
  scope := 0
  share := 16
  free := true
  upcall := false
  since := 0
  nacked := false
  held := false

/-- Message 3 is on its way to worker 1, whose task (if any) has this part. -/
def sending (m : Message) (tc : Option TaskCore) (s : State) : State :=
  { s with
    msgs := [(3, m)]
    cores := s.cores ++ [(⟨0, 0, 1⟩, { Core.fresh with task := tc.map (fun _ => 8), tc := tc.getD TaskCore.fresh })]
    tasks := s.tasks ++ (match tc with
      | some _ => [(8, { someTask with core := some ⟨0, 0, 1⟩ })]
      | none => []) }
/-- Ring 7 of one slot at 0x1000. -/
def ring7 (t : SlotTag) : TaskCore :=
  { TaskCore.fresh with rings := TaskCore.fresh.rings.set 7 ⟨0x1000, 64, 1, 0, 0, [(t, 0)], false, false, [], [], []⟩ }

/-- 14 R339, R340: into ring 7, into the scale queue, into the spill ring, refused. -/
theorem test_messages :
    let d (s : State) : State := after (.messageDelivery 3) s
    (((d (sending (someMessage false) (some (ring7 .empty)) base)).tc ⟨0, 0, 1⟩).spad.read 0x1000 2 == [5, 5]
      && ((d (sending (someMessage true) (some TaskCore.fresh) base)).tc ⟨0, 0, 1⟩).mat.scq == List.replicate 64 5
      && ((d (sending (someMessage false) (some (ring7 .full)) base)).core ⟨0, 0, 1⟩).spill == [3]
      && ((d (sending (someMessage false) none base)).ctx lead).afr.map (·.cause) == some 0x0A) = true := by decide +kernel

theorem witness_MessagesTravel :
    let f : Fields := { Fields.zero with a := .reg 2, b := .reg 3 }
    let s := inScope (withG [(2, 0x100), (3, 0xC000008000000000)] base)
    let n := inScope (withG [(2, 0x100), (3, 0)] base)
    let p := onTc (fun t => { t with poisonRows := [8] }) s
    let m := (after (.msg f) s).msgs
    (ready (.msg f) f s && !s.acquiring && m.map (fun e => e.2.dst) == [⟨0, 0, 1⟩]
      && s.routerAt k0 != s.routerAt ⟨0, 0, 1⟩ && ((after (.msg f) s).pkg 0).torus.map (fun q => q.cargo) == m.map (fun e => .message e.1)
      && s.localOk (s.ea f) 64 64 == .ok && s.replayOk [s.gval f f.b] false == .ok && s.carveHold == .ok
      && messageTarget k0 (s.gval f f.b) == some ⟨0, 0, 1⟩ && messageTarget k0 (n.gval f f.b) == none && ready (.msg f) f n
      && !s.myTc.rotten 0x100 64 && p.myTc.rotten 0x100 64 && ready (.msg f) f p) = true := by decide +kernel

theorem witness_MessagesTravel_events :
    let a := sending (someMessage true) (some TaskCore.fresh) base
    let far : Message := { someMessage true with dst := ⟨3, 0, 1⟩ }
    let gone : State := { sending far none base with now := tFail }
    let back := sending { someMessage true with nacked := true } none base
    let h := sending { someMessage true with held := true } (some TaskCore.fresh) base
    let h : State := { h with cores := h.cores.map (fun e => if e.1 = ⟨0, 0, 1⟩ then (e.1, { e.2 with spill := [3] }) else e) }
    (a.mayArrive 3 (someMessage true) && (a.core ⟨0, 0, 1⟩).spill.isEmpty && (a.core ⟨0, 0, 1⟩).switch.isNone
      && partHere a k0 && (sending (someMessage false) none base).preempted ⟨0, 0, 1⟩ 5 == none && (a.ctx lead).afr.isNone
      && !gone.alive 0 3 && ((after (.messageTimeout 3) gone).ctx lead).afr.map (·.cause) == some 0x15
      && (after (.messageResend 3) back).msgs.map (fun e => e.2.nacked) == [false]
      && h.fate { someMessage true with held := true } == .deliver && ((after (.spillReplay ⟨0, 0, 1⟩) h).core ⟨0, 0, 1⟩).spill == []) = true := by
  decide +kernel

/-- The group entry of the example of 18 R391: KIND 0, tenant 0x12, BASE 0x4000_0000_0000, PSTR 2^32. -/
def exampleEntry : BitVec 1024 :=
  BitVec.ofNat 1024 (2 ^ 3 + 2 ^ 17 + 2 ^ 130 + 2 ^ 511 + 0x0000400000000000 * 2 ^ 512 + 0x0000000100000000 * 2 ^ 576 + 1 * 2 ^ 640 + 0x12 * 2 ^ 648)

/-- Member 130's target with OFF 0x1C0, and the members. -/
theorem test_group_entry :
    entryTarget exampleEntry 130 0x1C0 = .inl 0x0000_4082_0000_01C0 ∧ entryMembers exampleEntry = [3, 17, 130, 511]
      ∧ entryUsable exampleEntry 0x12 = true ∧ entryUsable exampleEntry 5 = false := by decide +kernel

/-- A multicast of 64 bytes to worker 1 of package 0 (KIND 1, offset 0x200), sent and unanswered. -/
def someMcst (a : McstAnswer) : Mcst where
  ctx := lead
  incarn := 0
  task := some 7
  dom := 0x0500
  ea := 0x100
  pc := 0x400000
  grp := 1
  off := 0
  payload := List.replicate 64 5
  reach := 3
  waits := []
  sent := true
  entry := BitVec.ofNat 1024 (1 + 0x200 * 2 ^ 512 + 3 * 2 ^ 640 + 5 * 2 ^ 648 + 4 * 2 ^ 656)
  answers := [(0, a)]
  sel := 1
  tok := some 9
  scope := 0
  share := 16
  free := true
  since := 0

/-- Multicast 3 is under way; worker 1 has a window word. -/
def casting (m : Mcst) (win : W64) (s : State) : State :=
  let tc := { TaskCore.fresh with win := Vector.replicate 4 win }
  { s with
    mcsts := [(3, m)], cores := s.cores ++ [(⟨0, 0, 1⟩, { Core.fresh with task := some 8, tc := tc })]
    tasks := s.tasks ++ [(8, { someTask with core := some ⟨0, 0, 1⟩ })] }

theorem witness_MulticastAndFabricLinks :
    let f : Fields := { Fields.zero with d := .reg 9, a := .reg 2, b := .reg 3, mod := 0b100000 }
    let s := inScope (withG [(2, 0x100), (3, 0x0040_0001)] base)
    let w := casting (someMcst .waiting) 0x0500CF0000000000 base
    let n := casting (someMcst .waiting) 0 base
    let late : State := { n with now := tFail }
    let r := onCtx (fun c => { c with pend := [⟨.v 9, 9⟩] }) (casting (someMcst .ok) 0 base)
    (ready (.mcst f) f s && !s.acquiring && s.mcstRoom == .ok && s.myReplay.isNone && s.localOk (s.ea f) 64 64 == .ok && s.carveHold == .ok
      && bitsOf (s.gval f f.b) 63 16 % 64 == 0 && !s.myTc.rotten 0x100 64
      && w.mcstOpen (someMcst .waiting) 0 && entryTarget (someMcst .waiting).entry 0 0 == .inr (⟨0, 0, 1⟩, 0x200) && w.alive 0 0
      && w.windowOk ⟨0, 0, 1⟩ 0x0500 0x200 64 41 && !n.windowOk ⟨0, 0, 1⟩ 0x0500 0x200 64 41
      && ((after (.multicastMemberWrite 3 0) w).tc ⟨0, 0, 1⟩).spad.read 0x200 1 == [5]
      && (after (.multicastMemberWrite 3 0) n).mcsts.map (fun e => e.2.answers) == [[(0, .nack)]]
      && (after (.multicastMemberTimeout 3 0) late).mcsts.map (fun e => e.2.answers) == [[(0, .lost)]]
      && partHere r k0 && (laneAt 32 ((after (.multicastReply 3) r).ctx lead).v[9].bits 0) == 1
      && (laneAt 32 ((after (.multicastReply 3) r).ctx lead).v[9].bits 3) == 0xFFFFFFFF) = true := by decide +kernel

/-- A member of KIND 0, with its page and without it. -/
theorem witness_MulticastAndFabricLinks_memory :
    let m : Mcst := { someMcst .waiting with entry := BitVec.ofNat 1024 (1 + 0x1000 * 2 ^ 512 + 1 * 2 ^ 640 + 5 * 2 ^ 648) }
    let w := casting m 0 base
    let n : State := { w with slices := [] }
    (w.mcstOpen m 0 && entryTarget m.entry 0 m.off == .inl 0x1000 && w.alive 0 0 && w.mem.wf && w.lineOpen 0x40
      && (w.pageFor ⟨0, 0, 0⟩ 0x1000).map (fun te => (te.pa, te.rro)) == some (0, false) && mayMap m.dom 0x1000
      && w.plb (w.anyCore 0) m.dom 0x1000 64 rightW == .granted && w.plb (w.anyCore 0) m.dom 0x1000 64 rightM == .granted
      && (after (.multicastMemberWrite 3 0) w).readByte 5 0x103F == 5
      && (after (.multicastMemberWrite 3 0) w).mcsts.map (fun e => e.2.answers) == [[(0, .ok)]]
      && (n.pageFor ⟨0, 0, 0⟩ 0x1000).isNone
      && (after (.multicastMemberWrite 3 0) n).mcsts.map (fun e => e.2.answers) == [[(0, .nack)]]) = true := by decide +kernel

/-- 18 R382: an access to another core's scratchpad sets out in a packet, is not served while that rides, and is there three hops on. -/
theorem test_access_rides :
    let p : Part := ⟨0xC000018000000100, [], 4, none, false, [], false, false, none⟩
    let a : Access := { someAccess (.ld 4) 0xC000018000000100 4 with parts := [p], stage := .issued }
    let s := after (.sliceAccess 3) { underWay a base with cores := base.cores ++ [(⟨0, 0, 3⟩, Core.fresh)] }
    let hop (s : State) : State := { s.routersTurn with now := s.now + 1 }
    let there := hop (hop (hop s))
    ((s.pkg 0).torus.map (·.cargo) == [.request 3 (0xC000018000000100 / 64)] && (s.bankReady 3 0 { a with stage := .placed }).isNone
      && (there.pkg 0).torus.map (·.at_) == [some (s.routerAt ⟨0, 0, 3⟩)]
      && (there.routersTurn.bankReady 3 0 { a with stage := .placed }).isSome) = true := by decide +kernel

theorem witness_MulticastAndFabricLinks_links :
    let p : TorusPacket := ⟨(0, 0), (2, 0), some (63, 0), .w, 0, 0, .message 3⟩
    let s : State := { base with now := 1, pkgs := [(0, { somePkg with torus := [p] })] }
    let e : State := { base with now := 1, pkgs := [(0, { somePkg with torus := [{ p with at_ := some (2, 0) }] })] }
    (((after (.routerCycle 0 63 0) s).pkg 0).torus.map (fun q => (q.at_, q.age)) == [(some (0, 0), 1)]
      && ((after (.routerCycle 0 2 0) e).pkg 0).torus == []
      && e.riding 0 (.message 3) && !(after (.routerCycle 0 2 0) e).riding 0 (.message 3) && !(base.port 0 3).down
      && ((after (.flitCrcReplay 0 3) base).port 0 3).resent == 1 && ((after (.laneRetrain 0 3 4) base).port 0 3).bad == [4]) = true := by
  decide +kernel

/-! ## Groups and scopes (15, 18) -/

/-- Group 0 of tenant 5 at package 0, generation 1. -/
def grp : W64 := groupHandle 0 5 1 0
/-- The group in this phase, with these participants, reasons and confirmations, at time `now`. -/
def grouped (ph : GroupPhase) (parts : List Nat) (reasons : Nat) (confirmed : List Nat) (now : Nat) (s : State) : State :=
  { s with now := now, groups := [((0, 5, 0), { Group.fresh with phase := ph, parts := parts, reasons := reasons, confirmed := confirmed })] }
/-- A participant of the group at package 0. -/
def joined (ph : PartPhase) (lines : Map Nat (List (Option Byte))) (s : State) : State :=
  { s with parts := [((0, grp), ⟨ph, lines, 2, [0, 1], 0, []⟩)] }
/-- A staged store of two bytes at 0x1001 of worker 0's lead. -/
def someGst (st : GstStage) (pa : Option Nat) : Gst where
  ctx := lead
  incarn := 0
  task := some 7
  dom := 0x0500
  h := grp
  ea := 0x1001
  pc := 0x400000
  bytes := [7, 8]
  pa := pa
  stream := none
  stage := st
  engine := none
  asked := 0
  since := 0

/-- 18 R402-R406, R399: a group is opened, staged, prepared, published; memory changes only then. -/
theorem test_groups :
    let o := after (.gopen { Fields.zero with d := .reg 20 }) base
    let st := after (.gstStage 3) (joined .staging [] { base with gsts := [(3, someGst .issued (some 0x1001))] })
    let pub : State := { joined .prepared [(64, (List.replicate 63 none) ++ [some 9])] base with gmsgs := [(.publish grp 0, 0)] }
    (o.groups.map (fun e => (e.1, e.2.phase)) == [((0, 5, 0), .opened)]
      && (st.participant 0 grp).map (fun q => ((q.lines.get 64 []).getD 1 none, (q.lines.get 64 []).getD 2 none)) == some (some 7, some 8)
      && st.mem == [] && ((after (.groupPublish 0 grp) pub).readByte 5 0x103F) == 9
      && (after (.groupPublish 0 grp) pub).gmsgs == [(.confirm grp 0, 0)]) = true := by decide +kernel

theorem witness_GroupInstructionsAndCoordinator :
    let f : Fields := { Fields.zero with d := .reg 20, a := .reg 2, b := .reg 3, mod := 3 }
    let s := withG [(20, grp), (2, 0x1000)] base
    let i := withG [(2, grp)] (grouped .opened [0] 0 [] 0 base)
    let u : State := { base with groups := (List.range 64).map (fun n => ((0, 5, n), { Group.fresh with phase := .opened })) }
    (ready (.gopen f) f base && (base.group (0, 5, 0)).phase == .free && (List.range 64).all (fun n => (u.group (0, 5, n)).phase != .free)
      && ready (.gopen f) f u && ready (.gst f) f s && s.storeRoom == .ok && s.sendOk [0x1000] 8 == .ok && bitsOf (s.gval f f.d) 23 16 == 5 && bitsOf grp 54 24 == 0
      && bitsOf grp 7 6 == 0 && s.plb k0 s.me.domain 0x1000 8 rightW == .granted && s.plb k0 s.me.domain 0x1000 8 rightG == .granted
      && ready (.gst f) f base && bitsOf (base.gval f f.d) 23 16 == 0 && ready (.gcom f) f base && ready (.gab f) f base
      && ready (.gstt f) f base && bitsOf (base.gval f f.a) 23 16 != 5
      && ready (.gcom f) f i && ready (.gab f) f i && ready (.gstt f) f i && bitsOf (i.gval f f.a) 23 16 == 5 && i.alive 0 0
      && i.groupLive grp && (i.group (groupKey grp)).phase == .opened && !(withG [(2, grp)] base).groupLive grp
      && !(withG [(2, groupHandle 3 5 1 0)] base).alive 0 3 && bitsOf (groupHandle 3 5 1 0) 63 55 == 3) = true := by decide +kernel

theorem witness_GroupInstructionsAndCoordinator_addresses :
    let f : Fields := { Fields.zero with d := .reg 20, a := .reg 2, b := .reg 3, mod := 3 }
    let s (x : W64) := withG [(20, grp), (2, x)] base
    ready (.gst f) f (s 0x8000000000000000) = true ∧ (s 0x8000000000000000).sendOk [0x8000000000000000] 8 = .ok ∧ (s 0x1001).sendOk [0x1001] 8 = .ok ∧ 2 ^ 63 ≤ ((s 0x8000000000000000).ea f).toNat
      ∧ ((s 0x1001).ea f).toNat < 2 ^ 63 ∧ ((s 0x1001).ea f).toNat % 8 ≠ 0 := by decide +kernel

theorem witness_GroupInstructionsAndCoordinator_events :
    let w : GroupWait := ⟨grp, lead, 0, some 7, some 9, false, false, [], 0⟩
    let waiting (s : State) : State := { s with gwaits := [((0, 5, 0), [w])] }
    let asked (g : Group) : Group := { g with asked := true }
    let o (ps : List Nat) : State := waiting (let s := grouped .opened ps 0 [] 0 base; { s with groups := s.groups.map (fun e => (e.1, asked e.2)) })
    let told (m : GroupMsg) (s : State) : State := { s with gmsgs := [(m, 0)] }
    let v := told (.vote grp 0 true 0) (grouped .preparing [0] 0 [] 0 base)
    let n := told (.vote grp 0 false 2) (grouped .preparing [0] 0 [] 0 base)
    let c1 := told (.confirm grp 0) (grouped .publishing [0, 1] 0 [] 0 base)
    let c2 := told (.confirm grp 0) (grouped .aborting [0, 1] 0 [1] 0 base)
    let ph (i : Instr) (s : State) : GroupPhase := ((after i s).group (0, 5, 0)).phase
    ((o [0]).groupLive grp && (o [0]).commitsReady grp && (o []).commitsReady grp && ((o [0]).pkg 0).powered && partHere (o []) k0
      && ph (.groupPrepare grp) (o [0]) == .preparing && ph (.groupPrepare grp) (o []) == .free
      && ph (.groupVote grp 0 true 0) (told (.vote grp 0 true 0) (grouped .preparing [0] 0 [] 130000 base)) == .aborting
      && ph (.groupVote grp 0 true 0) (told (.vote grp 0 true 0) (grouped .preparing [0] 4 [] 0 base)) == .aborting
      && ph (.groupVote grp 0 true 0) v == .publishing && ph (.groupVote grp 0 false 2) n == .aborting
      && ph (.tVoteExpiry grp) (grouped .preparing [0] 0 [] 130000 base) == .aborting
      && ph (.groupConfirm grp 0) c1 == .publishing && ph (.groupConfirm grp 0) c2 == .free
      && ph (.tCommitExpiry grp) (grouped .publishing [0] 0 [] 260000 base) == .free
      && ((after (.groupReasonReport grp 0 1) { grouped .opened [0] 0 [] 0 base with gsts := [(3, someGst (.dropped 1) none)] }).group (0, 5, 0)).reasons == 2
      && ((after (.groupJoin 3) { grouped .opened [] 0 [] 0 base with gsts := [(3, someGst .joining (some 0x1001))] }).group (0, 5, 0)).parts == [0]
      && ((after (.groupJoin 3) { grouped .opened (List.range' 1 64) 0 [] 0 base with gsts := [(3, someGst .joining (some 0x1001))] }).group (0, 5, 0)).reasons == 32
      && ((after (.groupJoin 3) { grouped .preparing [] 0 [] 0 base with gsts := [(3, someGst .joining (some 0x1001))] }).ctx lead).afr.map (·.cause)
          == some 0x16) = true := by decide +kernel

theorem witness_GroupParticipantsResolve :
    let u : State := { base with gsts := [(3, someGst .issued none)] }
    let away : State := { u with slices := [(⟨0, 0, 0⟩, { Slice.fresh with tlb := [⟨0, 5 * 2 ^ 47, false, false, false⟩] })] }
    let g : State := { base with gsts := [(3, someGst .issued (some 0x1001))] }
    let told (m : GroupMsg) (s : State) : State := { s with gmsgs := [(m, 0)] }
    let at_ (now : Nat) (s : State) : State := { s with now := now }
    let ph (i : Instr) (s : State) : Option PartPhase := ((after i s).participant 0 grp).map (·.phase)
    (g.gstTurn 3 (someGst .issued (some 0x1001)) && u.gstMayGo 3 (someGst .issued none) 0
      && (after (.gstStage 3) u).gsts.map (fun e => (e.2.pa, e.2.stream)) == [(some 0x1001, none)]
      && (after (.gstStage 3) away).gsts.map (fun e => (e.2.pa, e.2.stream)) == [(some (5 * 2 ^ 47 + 0x1001), some (5, 0))]
      && away.gstMayGo 3 (someGst .issued none) 5 && g.clu k0 == ⟨0, 0, 0⟩ && ((g.slice ⟨0, 0, 0⟩).tlbFind 0x1001).isSome
      && ((after (.gstStage 3) g).gsts.map (fun e => e.2.stage)) == [.joining]
      && !(joined .staging [] g).stagingFull ⟨.staging, [], 2, [0, 1], 0, []⟩ 0x1001
      && ph (.participantPrepare 0 grp) (told (.prepare grp 0 [0, 1]) (joined .staging [(64, [])] base)) == some .prepared
      && ph (.participantPrepare 0 grp) (told (.prepare grp 0 [0, 1]) (joined .doomed [] base)) == some .doomed
      && ph (.groupPublish 0 grp) (told (.publish grp 0) (joined .prepared [] base)) == some .published
      && ph (.groupAbort 0 grp) (told (.abort grp 0) (joined .prepared [] base)) == some .aborted
      && ph (.participantQuery 0 grp) (at_ 260000 (joined .prepared [] base)) == some .resolving
      && ph (.resolveTimeout 0 grp) (at_ 52000 (joined .resolving [] base)) == some .aborted
      && ph (.finalStateExpiry 0 grp) (at_ 520000 (joined .published [] base)) == none) = true := by decide +kernel

/-- Two lines, each staged in part, and other messages on their way; and what a failed peer leaves. -/
theorem witness_GroupParticipantsResolve_several :
    let ls : Map Nat (List (Option Byte)) := [(64, some 9 :: List.replicate 63 none), (66, List.replicate 63 none ++ [some 8])]
    let pub : State := { joined .prepared ls base with gmsgs := [(.confirm grp 1, 0), (.publish grp 0, 0)] }
    let two (s : State) : State := { s with pkgs := [(0, somePkg), (1, somePkg)] }
    let far : W64 := groupHandle 1 5 1 0
    let held : State := two { grouped .preparing [0, 1] 0 [] 0 base with parts := [((0, far), ⟨.doomed, ls, 2, [], 0, []⟩)] }
    let t := after (.groupPublish 0 grp) pub
    ((ls.map (·.1)).Nodup ∧ (ls.all (fun l => l.2.length == 64) && pub.mem.wf && pub.posted (.publish grp 0)
      && t.readByte 5 0x1000 == 9 && t.readByte 5 0x10BF == 8 && t.readByte 5 0x1001 == 0
      && t.gmsgs == [(.confirm grp 1, 0), (.confirm grp 0, 0)]) = true)
      ∧ ((held.groups.map (·.1)).Nodup ∧ (groupKey grp == (0, 5, 0) && ((after (.failureNotice 0 1) held).group (0, 5, 0)).phase == .aborting
        && ((after (.failureNotice 0 1) held).participant 0 far).map (·.phase) == some .aborted) = true) := by decide +kernel

/-- Two packages: package 1 asks package 0; and package 3, which is not there, coordinates. -/
theorem witness_GroupParticipantsResolve_peers :
    let two (s : State) : State := { s with pkgs := [(0, somePkg), (1, somePkg)] }
    let q : State := two { joined .staging [] base with gmsgs := [(.query grp 1 0, 0)] }
    let p : State := two { base with
      parts := [((0, grp), ⟨.published, [], 0, [0, 1], 0, []⟩), ((1, grp), ⟨.resolving, [], 0, [0, 1], 0, []⟩)], gmsgs := [(.query grp 1 0, 0)] }
    let far : W64 := groupHandle 3 5 1 0
    let late : Gst := { someGst .joining (some 0x1001) with h := far }
    let j : State := { base with now := 130000, gsts := [(3, late)], parts := [((0, far), ⟨.staging, [], 0, [], 0, []⟩)] }
    let w : State := { base with gwaits := [((3, 5, 0), [⟨far, lead, 0, some 7, some 9, false, false, [], 0⟩])] }
    let silent : State := { underWay { someAccess (.ld 4) 0 4 with parts := [⟨0, [], 4, some (1 * 2 ^ 47), false, [], false, false, none⟩] } base with
      now := tFail, pkgs := [(0, somePkg), (1, { somePkg with powered := false })] }
    (q.alive 1 0 && ((after (.queryAnswer 1 0 grp) q).participant 0 grp).map (·.phase) == some .aborted
      && ((after (.queryAnswer 1 0 grp) p).participant 1 grp).map (·.phase) == some .published
      && !j.alive 0 3 && ((after (.joinTimeout 0 far) j).participant 0 far).map (·.phase) == some .aborted
      && late.place == 0 && (after (.joinTimeout 0 far) j).gsts == [] && ((after (.joinTimeout 0 far) j).ctx lead).afr.map (·.cause) == some 0x16
      && w.waitSent ⟨far, lead, 0, some 7, some 9, false, false, [], 0⟩
      && partHere w k0 && ((after (.gsttTimeout 9) w).gwaits.get (3, 5, 0) []) == []
      && ((after (.failureNotice 0 1) (two base)).pkg 0).failed == [1]
      && ((after (.peerSilenceTimeout 0 1 3) silent).pkg 0).failed == [1]) = true := by decide +kernel

/-- 15 R347-R350: open, close, brake, claim. -/
theorem test_scopes :
    let h := handleOf ⟨0, 0, 0⟩ 0 1
    let o := after (.sopen { Fields.zero with d := .reg 10, mod := 0b010000 }) base
    let c := after (.sclose { Fields.zero with d := .reg 13, a := .reg 10, c := .zero }) (inScope (withG [(10, h)] base))
    (o.me.stack == [⟨h, 4294967296, true⟩] && (o.hub h).map (fun b => (b.state, b.reach)) == some (1, 2)
      && c.me.stack == [] && c.returns == [⟨h, 4294967296, true, none⟩]
      && ((after (.scnl { Fields.zero with a := .reg 10 }) (inScope (withG [(10, h)] base))).hub h).map (·.brake) == some true
      && (after (.sshd Fields.zero) base).me.freewheel == 1) = true := by decide +kernel

/-- A table of hubs every slot of which is in use. -/
def fullHubs : Map (CluId × Nat) Hub := (List.range' 0 4096).map (fun i => (((⟨0, 0, 0⟩ : CluId), i), { Hub.fresh with state := 1 }))

theorem fullHubs_find (i : Nat) (h : i < 4096) : fullHubs.find (⟨0, 0, 0⟩, i) = some { Hub.fresh with state := 1 } := by
  unfold fullHubs
  generalize 4096 = n at h ⊢
  exact find_listed (fun j => ((⟨0, 0, 0⟩ : CluId), j)) (fun _ _ e => (Prod.mk.inj e).2) (fun _ => { Hub.fresh with state := 1 })
    n 0 i (by omega) (by omega)

theorem witness_ScopeInstructions_full :
    ∀ i : Nat, i < 4096 → ∃ b, fullHubs.find (⟨0, 0, 0⟩, i) = some b ∧ b.state ≠ 0 :=
  fun i h => ⟨{ Hub.fresh with state := 1 }, fullHubs_find i h, by decide⟩

theorem witness_ScopeInstructions :
    let f : Fields := { Fields.zero with d := .reg 10, a := .zero, c := .reg 1, mod := 0b010000 }
    let s := inScope base
    let h := handleOf ⟨0, 0, 0⟩ 0 1
    let deep := onCtx (fun c => { c with stack := List.replicate 16 ⟨h, 2, false⟩ }) base
    let holding (a : Option (W64 × W64)) : State := onCtx (fun c => { c with hold := some ⟨.own, 0, [h.toNat], a⟩ }) base
    (allReady s [.sopen, .sclose, .scnl, .sshd, .sunsh, .claim, .poll, .sinfo] f && allReady base [.sopen, .sclose, .scnl, .sunsh, .sinfo] f
      && ready (.sopen f) f deep && canCarve s.me && s.me.stack.length == 1 && s.closing.isNone && s.me.top.own
      && (s.hub h).map (·.tenant) == some 5 && (s.hub 0).isNone && s.me.spr.csc == h && !s.braked
      && ((holding (some (1, 2))).closing).map (·.answer) == some (some (1, 2)) && ((holding none).closing).map (·.answer) == some none
      && (holding none).sees 3 && !({ holding none with accs := [(3, { someAccess .st 0x1000 4 [1, 2, 3, 4] with ctx := ⟨⟨0, 0, 3⟩, 0⟩ })] } : State).sees 3
      && ready (.sclose f) f (holding none) && base.me.stack == []
      && ready (.sshd f) f (onCtx (fun c => { c with freewheel := 15 }) base)
      && (after (.poll { Fields.zero with d := .reg 1 }) base).pk.verdict == .ok) = true := by decide +kernel

theorem witness_HubsCollectShares :
    let h := handleOf ⟨0, 0, 0⟩ 0 1
    let b : Hub := { Hub.fresh with state := 1, tenant := 5, t := 32, r := 16, opener := some (some 7, lead) }
    let w := onCtx (fun c => { c with hold := some ⟨.own, 0, [h.toNat], none⟩ })
    let s (e : SpokeBack) : State := w { base with hubs := [((⟨0, 0, 0⟩, 0), b)], returns := [e] }
    let t := after (.hubSpokeReturn h 16 true) (s ⟨h, 16, true, none⟩)
    let u := after (.hubSpokeReturn h 4 false) (s ⟨h, 4, false, none⟩)
    ((s ⟨h, 16, true, none⟩).hub h == some b && partHere (s ⟨h, 16, true, none⟩) k0
      && (t.hubs.find (⟨0, 0, 0⟩, 0)).map (fun x => (x.state, x.gen)) == some (0, 2) && (t.ctx lead).hold.map (·.answer) == some (some (b.word 0, 0))
      && (u.hub h).map (fun x => (x.state, x.r)) == some (1, 20)) = true := by decide +kernel

theorem witness_HubsCollectShares_others :
    let h := handleOf ⟨0, 0, 0⟩ 0 1
    let one := onCtx (fun c => { c with stack := [⟨h, 1, true⟩] }) (inScope (inLine (oneWordLine (4 <<< 93 + 0x20 <<< 85)) base))
    let child : State := { base with hubs := [((⟨0, 0, 0⟩, 0), { Hub.fresh with state := 1, tenant := 5, brake := true }),
      ((⟨0, 0, 0⟩, 1), { Hub.fresh with state := 1, tenant := 5, parent := h })] }
    let claim (held : Bool) : State := { onCtx (fun c => { c with pend := [⟨.p 2, 9⟩] }) (inScope base) with
      claims := [(3, ⟨lead, some 7, h, 77, 9, held⟩)] }
    let a : Access := { someAccess .st 0x1000 8 with
      ea := 0xF000000000000500, scope := h, parts := [⟨0xF000000000000500, (leBytes 8 1).map some, 8, none, false, [], false, false, none⟩] }
    let log := onTc (fun t => { t with undo := [⟨h, []⟩] }) (underWay a (replaying base))
    (one.carvePends lead && !(inScope base).carvePends lead && ((after (.borrow h lead) one).hub h).map (·.t) == some 65536 && ((after (.borrow h lead) one).ctx lead).stack == [⟨h, 65537, true⟩]
      && child.brakeOf h && ((after (.hubBrake h) child).hubs.find (⟨0, 0, 0⟩, 1)).map (·.brake) == some true
      && ((after (.claimAtHub 3) (claim true)).hub h).map (fun b => (b.claimv, b.brake)) == some (77, true)
      && ((after (.claimAtHub 3) (claim true)).ctx lead).getP 2 == BitVec.allOnes 512
      && ((after (.claimAtHub 3) (claim false)).hub h).map (·.claimed) == some false && partHere (claim true) k0
      && log.writesBlock h k0 5 && !log.writesBlock h k0 4 && ((after (.undoLogWrite k0 4) log).tc k0).undo.map (fun u => u.blocks.length) == [0]
      && ((after (.undoLogWrite k0 5) log).tc k0).undo.map (fun u => u.blocks.map (·.1)) == [[5]]) = true := by decide +kernel

/-- A consumed error in a replay scope that a supervisor's context has opened, and its restoration. -/
theorem witness_HubsCollectShares_replay :
    let h := handleOf ⟨0, 0, 0⟩ 0 1
    let c : CtxId := ⟨⟨0, 0, 1⟩, 0⟩
    let b (contained : Bool) (runs : Nat) : Hub :=
      { Hub.fresh with state := 1, rp := true, tenant := 5, replaying := true, contained := contained, runs := runs, opener := some (none, c) }
    let tc : TaskCore := { TaskCore.fresh with
      ctxs := [(0, { someCtx with life := .running, stack := [⟨h, 8, true⟩] })], undo := [⟨h, [(1, List.replicate 256 5)]⟩]
      recorded := [(h, 1, { someCtx with pcq0 := .at 0x400000 })] }
    let s (contained : Bool) (runs : Nat) : State :=
      { State.reset with pkgs := [(0, somePkg)], hubs := [((⟨0, 0, 0⟩, 0), b contained runs)], cores := [(⟨0, 0, 1⟩, { Core.fresh with tc := tc })] }
    let waiting (s : State) : State := s.setCtx c (fun k => { k with stack := [], hold := some ⟨.own, 0, [h.toNat], none⟩ })
    let r := after (.replayRestore h) (s true 0)
    ((s false 0).hub h == some (b false 0) && !(s false 0).groupLive 0 && partHere (s false 0) ⟨0, 0, 1⟩
      && ((after (.replayContain h) (s false 0)).ctx c).life == .frozen && ((after (.replayContain h) (s false 0)).ctx c).cause == 0
      && ((after (.replayContain h) (s false 0)).hub h).map (·.r) == some 8
      && ((s true 0).openGroup 0 5).isSome && (r.tc ⟨0, 0, 1⟩).spad.read 256 2 == [5, 5] && (r.ctx c).pcq0.pc == 0x400000
      && (r.ctx c).stack == [⟨h, 2 ^ 32, true⟩]
      && ((after (.replayRestore h) (waiting (s true 2))).hub h).isNone && !((waiting (s true 2)).ctx c).holds h
      && (waiting (s true 2)).replayOf h == some h
      && ((after (.replayRestore h) (s true 2)).hub h).map (fun b => (b.fault, b.cause)) == some (true, 0x13)
      && ((s true 2).ctx c).holds h) = true := by decide +kernel

/-- 15 R346, R352: an opener that is ended in its replay leaves the scope to end with its FAULT, every share counted once. -/
theorem test_replay_without_its_opener :
    let h := handleOf ⟨0, 0, 0⟩ 0 1
    let c : CtxId := ⟨⟨0, 0, 1⟩, 0⟩
    let b : Hub := { Hub.fresh with
      state := 1, rp := true, tenant := 5, replaying := true, t := 16, r := 8, opener := some (none, c) }
    let tc : TaskCore := { TaskCore.fresh with
      ctxs := [(0, { someCtx with life := .running, stack := [⟨h, 8, true⟩] })], undo := [⟨h, [(1, List.replicate 256 5)]⟩] }
    let s : State := { State.reset with
      pkgs := [(0, somePkg)], hubs := [((⟨0, 0, 0⟩, 0), b)], cores := [(⟨0, 0, 1⟩, { Core.fresh with tc := tc })] }
    let t := after (.replayContain h) s
    let u := (t.returnStack (t.ctx c) (some 9)).setCtx c Ctx.renew
    let v := after (.replayRestore h) (after (.hubSpokeReturn h 0 true) u)
    (u.returns == [⟨h, 0, true, some 9⟩] && ((after (.hubSpokeReturn h 0 true) u).hub h).map (fun b => (b.state, b.r)) == some (2, 16)
      && (v.hub h).isNone && (v.tc ⟨0, 0, 1⟩).spad.read 256 2 == [5, 5]) = true := by decide +kernel

/-- A replay scope closes: it asks for its group's commit, and ends as that ends. -/
theorem witness_HubsCollectShares_close :
    let h := handleOf ⟨0, 0, 0⟩ 0 1
    let g := groupHandle 0 5 1 0
    let b (r : Nat) : Hub := { Hub.fresh with
      state := 2, rp := true, tenant := 5, group := g, t := 16, r := r, opener := some (some 7, lead) }
    let x : Hold := ⟨.own, 0, [h.toNat], none⟩
    let gr (p : GroupPhase) (asked : Bool) : Group := { Group.fresh with gen := 1, phase := p, asked := asked }
    let s (p : GroupPhase) (asked : Bool) (r : Nat) : State :=
      { onTc (fun t => { t with undo := [⟨h, [(1, List.replicate 256 5)]⟩] }) (onCtx (fun c => { c with hold := some x }) base) with
        hubs := [((⟨0, 0, 0⟩, 0), b r)], groups := [((0, 5, 0), gr p asked)], returns := [⟨h, 8, false, none⟩], now := 300000 }
    let asks := after (.hubSpokeReturn h 8 false) (s .opened false 8)
    let ends := after (.groupPrepare g) (s .opened true 16)
    let aborts := after (.tCommitExpiry g) (s .aborting true 16)
    ((s .opened false 8).groupLive g && (s .opened false 8).replayOf h == some h && partHere base k0 && hubKey h == (⟨0, 0, 0⟩, 0)
      && handleOf ⟨0, 0, 0⟩ 0 (b 8).gen == h
      && (asks.group (0, 5, 0)).asked && (asks.hub h).map (fun b => (b.state, b.r)) == some (2, 16)
      && (ends.hub h).isNone && (ends.ctx lead).hold.bind (·.answer) == some ((b 16).word 0, 0) && (ends.tc k0).undo == []
      && (ends.tc k0).spad == (base.tc k0).spad && (aborts.hub h).isNone && (aborts.tc k0).spad.read 256 2 == [5, 5]
      && ((aborts.ctx lead).hold.bind (·.answer)).map (fun w => bitsOf w.1 23 16) == some 0x16) = true := by decide +kernel

/-- A root scope ends: its word is stored for its tenant, or its vector raised. -/
theorem witness_HubsCollectShares_root :
    let h := handleOf ⟨0, 0, 0⟩ 0 1
    let b : Hub := { Hub.fresh with state := 2, tenant := 5, t := 16, r := 8, root := some (0, 0x2000) }
    let s (plb : Map Nat (W64 × W64)) : State := { (base.setCore (base.coreIn ⟨0, 0, 0⟩) (fun c => { c with plb := plb })) with
      hubs := [((⟨0, 0, 0⟩, 0), b)], returns := [⟨h, 8, false, none⟩] }
    let plb := (base.core k0).plb
    let stored := after (.hubSpokeReturn h 8 false) (s plb)
    let refused := after (.hubSpokeReturn h 8 false) (s [])
    ((s plb).hub h == some b && (s plb).replayOf h == none && (s plb).plb ((s plb).coreIn ⟨0, 0, 0⟩) 0x0500 0x2000 8 rightW == .granted
      && (s []).plb ((s []).coreIn ⟨0, 0, 0⟩) 0x0500 0x2000 8 rightW != .granted
      && (stored.hub h).isNone && stored.accs.map (fun e => (e.2.op, e.2.ea)) == [(.complete 5, 0x2000)]
      && (refused.pkg 0).msix == [5] && refused.accs == []) = true := by decide +kernel

/-- 21 R457: a recorded frame that cannot be read ends the replay with FAULT and UNCORRECTABLE, and the log's blocks are restored. -/
theorem test_replay_without_its_record :
    let h := handleOf ⟨0, 0, 0⟩ 0 1
    let c : CtxId := ⟨⟨0, 0, 1⟩, 0⟩
    let b : Hub := { Hub.fresh with
      state := 1, rp := true, tenant := 5, replaying := true, contained := true, opener := some (none, c) }
    let tc : TaskCore := { TaskCore.fresh with
      ctxs := [(0, { someCtx with life := .frozen, stack := [⟨h, 0, true⟩] })], undo := [⟨h, [(1, List.replicate 256 5)]⟩] }
    let s : State := { State.reset with
      pkgs := [(0, somePkg)], hubs := [((⟨0, 0, 0⟩, 0), b)], cores := [(⟨0, 0, 1⟩, { Core.fresh with tc := tc })] }
    let t := after (.replayRestore h) (after (.poisonConsumed (.record h)) s)
    ((t.hub h).map (fun b => (b.fault, b.cause, b.runs)) == some (true, 0x13, 0)
      && (t.tc ⟨0, 0, 1⟩).spad.read 256 2 == [5, 5]) = true := by decide +kernel


/-! ## Tasks, graphs and launches (15, 20) -/

/-- A task record: entry 0x400000, arguments 1 to 6, priority 1, reach 3, footprint 16. -/
def recBytes : List Byte :=
  leBytes 8 0x400000 ++ (List.range 6).flatMap (fun i => leBytes 8 (i + 1)) ++ [25, 16, 0, 0, 0, 0, 0, 0]
/-- The scope of `inScope`. -/
def h0 : W64 := handleOf ⟨0, 0, 0⟩ 0 1
/-- Its hub with the brake set. -/
def brakedScope (s : State) : State :=
  let t := inScope s
  { t with hubs := t.hubs.map (fun e => (e.1, { e.2 with brake := true })) }
/-- The lead was born in the scope. -/
def born (s : State) : State := onCtx (fun c => { c with stack := [⟨h0, 4096, false⟩] }) (inScope s)
/-- Helper 1 runs, and issues. -/
def asHelper (s : State) : State := { onTc (fun t => { t with ctxs := t.ctxs.set 1 { someCtx with stack := [⟨h0, 16, false⟩] } }) s with cur := ⟨k0, 1⟩ }
/-- Helpers 1 to 10 all run. -/
def noHelper (s : State) : State :=
  onTc (fun t => { t with ctxs := (List.range' 1 10).foldl (fun m n => m.set n someCtx) t.ctxs }) s
/-- Task 8 waits, at priority 1. -/
def queuedTask : Task := { someTask with life := .queued, core := none, order := 3 }
/-- It waits at cluster 0. -/
def withQueued (s : State) : State := { s with tasks := s.tasks.set 8 queuedTask }

/-- 15 R353, R371: a record read makes a task; a helper starts at the lowest free number. -/
theorem test_tasks :
    let a : Access := { someAccess (.task false 16) 0x1000 64 recBytes with parts := [⟨0x1000, [], 64, some 0x1000, true, recBytes, false, false, none⟩], scope := h0 }
    let t := after (.globalAccessLand 3) (underWay a (inScope base))
    let u := after (.start { f3 with d := .reg 0, a := .reg 2 }) (withG [(2, 0x4000), (3, 99)] (inScope base))
    ((t.tasks.find 10).map (fun k => (k.entry, k.args, k.prio, k.reach, k.foot, k.share, k.life)) == some (0x400000, [1, 2, 3, 4, 5, 6], 1, 3, 16, 16, .queued)
      && t.me.getG 1 == 10 && (u.ctx ⟨k0, 1⟩).pcq0.pc == 0x4000 && (u.ctx ⟨k0, 1⟩).getG 1 == 99
      && u.me.stack.map (·.share) == [2147483648] && (after (.exit Fields.zero) (born base)).tasks == []) = true := by decide +kernel

theorem witness_TaskInstructions :
    let f : Fields := { Fields.zero with d := .reg 1, a := .reg 2 }
    let s := inScope (withG [(2, 0x1000)] base)
    let b := brakedScope (withG [(2, 0x1000)] base)
    let passes (s : State) : Bool := noReplay s && s.loadRoom == .ok && s.globalOk [s.ea f] 64 64 rightR true false == .ok
      && s.watch (s.ea f) 64 true false == .ok
    let e := born base
    let h := asHelper (inScope base)
    (allReady s [.spawn, .spwg, .start, .exit, .yield] f && passes s && !s.braked && canCarve s.me
      && passes b && b.braked && allReady b [.spawn, .spwg, .start] f
      && allReady (replaying base) [.spawn, .spwg] f && !noReplay (replaying base)
      && ready (.start f) f h && (s.myTc.ctx 1).life == .free
      && (List.range' 1 10).all (fun n => ((noHelper s).myTc.ctx n).life != .free) && !(noHelper s).braked
      && ready (.start { f with mod := 1 }) { f with mod := 1 } (noHelper s) && ready (.start f) f (noHelper s) && ({ f with mod := 1 } : Fields).mod0
      && ready (.exit f) f e && e.me.afr.isNone && e.engineFreeze.isNone && e.exitQuiet && e.exitStreams && e.writesDone (e.reachOf h0)
      && e.accs == [] && partHere e k0 && e.myTask == some 7 && (e.tasks.find 7).map (·.node) == some none
      && !(inPhase .effect { e with accs := [(3, someAccess .st 0x1000 4 [1, 2, 3, 4])] }).exitReady
      && (after (.exit f) (inPhase .effect { e with accs := [(3, someAccess .st 0x1000 4 [1, 2, 3, 4])] })).pk.stay
      && ready (.exit f) f h && h.writesDone (h.reachOf h0) && partHere h k0 && h.me.afr.isNone
      && ready (.exit f) f (onCtx (fun c => { c with stack := c.stack ++ c.stack }) e)
      && ready (.exit f) f (onCtx (fun c => { c with afr := some ⟨0, 0, 1, 0, 0, 0⟩ }) e)
      && (withQueued base).yieldsTo && ready (.yield f) f (withQueued base) && !base.yieldsTo) = true := by decide +kernel

theorem witness_TaskInstructions_records :
    let a : Access := { someAccess (.task false 16) 0x1000 64 with parts := [⟨0x1000, [], 64, some 0x1000, true, recBytes, false, false, none⟩], scope := h0 }
    let bad : Access := { a with parts := [⟨0x1000, [], 64, some 0x1000, true, List.replicate 64 0xFF, false, false, none⟩] }
    let s := underWay a (inScope base)
    let t := underWay bad (inScope base)
    ((taskRec recBytes).map (fun r => (r.w, r.h)) == some (1, 1) && taskRec (List.replicate 64 0xFF) == none
      && landsHere s a && landsHere t bad && a.failure.isNone && s.answered a && bad.failure.isNone && t.answered bad && (t.ctx lead).afr.isNone && s.nextId == 10
      && ((after (.globalAccessLand 3) t).ctx lead).afr.map (·.cause) == some 1) = true := by decide +kernel

/-- A node: count, initial count, kind, number of successors, flags, ARG, LIMIT, offsets, SCOPE. -/
def nodeBytes (cnt init kind nsa nsb flags arg limit : Nat) (scope : W64) : List Byte :=
  leBytes 2 cnt ++ leBytes 2 init ++ [BitVec.ofNat 8 kind, BitVec.ofNat 8 (nsa + 16 * nsb), 0, BitVec.ofNat 8 flags]
    ++ leBytes 8 arg ++ leBytes 8 limit ++ [1, 0, 2, 0, 0, 0, 0, 0, 0, 0, 0, 0, 0, 0, 0, 0]
    ++ [3, 0, 0, 0, 0, 0, 0, 0, 0, 0, 0, 0, 0, 0, 0, 0] ++ leBytes 8 scope.toNat
/-- A request of the lead about the node at 0x1000. -/
def someReq (op : NodeOp) : NodeReq where
  op := op
  clu := ⟨0, 0, 0⟩
  ea := 0x1000
  ctx := some lead
  incarn := 0
  task := some 7
  tok := some 9
  dom := 0x0500
  csc := h0
  share := 16
  pc := 0x400000
  waits := []
  reach := 3
  sel := 1
  since := 0
/-- The request 3 is under way about these bytes. -/
def asked (op : NodeOp) (bs : List Byte) (s : State) : State :=
  onCtx (fun c => { c with pend := [⟨.p 1, 9⟩] }) (memAt 0x1000 bs (inScope { s with nodeOps := [(3, someReq op)] }))
/-- The node at 0x40, whose home is cluster 0, fires as 3 with these bytes. -/
def firing (bs : List Byte) (s : State) : State :=
  memAt 0x40 bs (inScope { s with fires := [(3, ⟨0x40, 0x40, h0 ||| 0x0500, h0, 16⟩)] })

/-- 15 R357, R358: a node is installed, counts down, and fires along its branch. -/
theorem test_graph_nodes :
    let i := after (.nodeDecrement 3) (asked .install (nodeBytes 2 2 4 2 0 0 0 0 0) base)
    let d := after (.nodeDecrement 3) (asked .dec (nodeBytes 1 5 4 2 0 1 0 0 (h0 ||| 0x0500)) base)
    let f := after (.nodeFire 3) (firing (nodeBytes 0 5 1 2 1 1 0x2000 0 (h0 ||| 0x0500)) base)
    (i.readByte 5 0x1007 == 1 && leNat (i.readMem 5 0x1038 8) == (h0 ||| 0x0500).toNat && (i.ctx lead).getP 1 == BitVec.allOnes 512
      && i.fires == [] && d.fires.map (·.2) == [⟨0x1000, 0x1000, h0 ||| 0x0500, h0, 16⟩] && d.readMem 5 0x1000 2 == [0, 0]
      && f.readMem 5 0x40 2 == [5, 0] && f.nodeOps.map (·.2.ea) == [0x100]) = true := by decide +kernel

theorem witness_GraphNodes :
    let f : Fields := { Fields.zero with d := .reg 1, a := .reg 2, b := .reg 3 }
    let s (x : W64) := inScope (withG [(2, x)] base)
    let b := brakedScope (withG [(2, 0x1000)] base)
    (allReady (s 0x1000) [.tgnode, .tgdec] f && noReplay (s 0x1000) && !(s 0x1000).acquiring && !(s 0x1000).braked && canCarve (s 0x1000).me
      && (s 0x1000).globalOk [(s 0x1000).ea f] 64 64 rightW false false == .ok
      && allReady (s 0x1020) [.tgnode, .tgdec] f && ((s 0x1020).ea f).toNat % 64 == 32 && noReplay (s 0x1020) && !(s 0x1020).acquiring
      && ready (.tgnode f) f (replaying base) && !noReplay (replaying base)
      && ready (.tgnode f) f b && b.braked && noReplay b && !b.acquiring && b.globalOk [b.ea f] 64 64 rightW false false == .ok) = true := by
  decide +kernel

theorem witness_GraphNodes_requests :
    let q := asked .dec (nodeBytes 1 5 4 2 0 1 0 0 (h0 ||| 0x0500)) base
    let far : State := { inScope base with
      nodeOps := [(3, someReq .dec)], slices := [(⟨0, 0, 0⟩, { Slice.fresh with tlb := [⟨0, 2 ^ 44, false, false, false⟩] })] }
    let zero := after (.nodeDecrement 3) (asked .dec (nodeBytes 0 5 4 2 0 1 0 0 (h0 ||| 0x0500)) base)
    partHere q k0 = true ∧ (q.core k0).task = some 7 ∧ hbmAt q ⟨0, 0, 0⟩ 0x0500 0x1000 0x1000
      ∧ (zero.hub h0).map (·.depu) = some true
      ∧ (zero.ctx lead).getP 1 = 0 ∧ (far.slice ⟨0, 0, 0⟩).tlbFind 0x1000 = some ⟨0, 2 ^ 44, false, false, false⟩
      ∧ natBits (2 ^ 44 + 0x1000) 44 3 ≠ 0 ∧ far.lineOpen ((2 ^ 44 + 0x1000) / 64) = true ∧ (far.ctx lead).afr = none
      ∧ ((after (.nodeDecrement 3) far).ctx lead).afr.map (·.cause) = some 0x0A
      ∧ ((after (.nodeDecrement 3) (asked .install (nodeBytes 0 2 5 2 0 0 0 0 0) base)).ctx lead).getP 1 = 0
      ∧ ((after (.nodeDecrement 3) (asked .install (nodeBytes 0 2 4 2 0 0 0 0 0) base)).fires.length = 1) := by
  refine ⟨by decide +kernel, by decide +kernel, ⟨by decide, by decide, ⟨⟨0, 0, false, false, false⟩, by decide +kernel, by decide, by decide⟩,
    by decide, by decide +kernel, by decide +kernel, by decide, by decide +kernel, by decide +kernel⟩, ?_⟩
  decide +kernel

theorem witness_GraphNodes_fires :
    let s (kind nsa nsb arg limit : Nat) := firing (nodeBytes 0 5 kind nsa nsb 1 arg limit (h0 ||| 0x0500)) base
    let sent (s : State) : List Nat := (after (.nodeFire 3) s).nodeOps.map (·.2.ea)
    let word (x : Nat) (s : State) : State := memAt 0x2000 (leBytes 8 x) s
    (sent (s 4 2 0 0 0) == [0x80, 0xC0] && sent (word 1 (s 1 2 1 0x2000 0)) == [0x80, 0xC0]
      && sent (word 1 (s 3 2 1 0x2000 0)) == [0xC0] && sent (word 7 (s 3 2 1 0x2000 0)) == []
      && sent (word 4 (s 2 1 1 0x2000 5)) == [0x80] && sent (word 5 (s 2 1 1 0x2000 5)) == [0x100]
      && leNat ((after (.nodeFire 3) (word 4 (s 2 1 1 0x2000 5))).readMem 5 0x2000 8) == 5
      && (after (.nodeFire 3) (memAt 0x2000 recBytes (s 0 2 0 0x2000 0))).tasks.any (fun e => e.2.node == some (h0 ||| 0x0500, [0x80, 0xC0]))
      && ((after (.nodeFire 3) (memAt 0x2000 (List.replicate 64 0xFF) (s 0 2 0 0x2000 0))).hub h0).map (fun b => (b.fault, b.cause)) == some (true, 1)
      && (s 4 2 0 0 0).brakeOf h0 == false && ((s 4 2 0 0 0).hub h0).isSome
      && (s 4 2 0 0 0).plb ((s 4 2 0 0 0).coreIn (paClu 0x40)) 0x0500 0x2000 8 rightW == .granted
      && ((s 4 2 0 0 0).slice (paClu 0x40)).tlbFind 0x2000 == some ⟨0, 0, false, false, false⟩
      && ({ s 4 2 0 0 0 with hubs := [] } : State).hub h0 == none && (brakedScope (s 4 2 0 0 0)).brakeOf h0
      && (s 4 2 0 0 0).lineOpen 1 && (s 4 2 0 0 0).mem.wf && ((s 4 2 0 0 0).pkg 0).watches == []) = true := by decide +kernel

/-- Bytes as a launch packet. -/
def packet (bs : List Byte) : BitVec 512 := BitVec.ofNat 512 (leNat bs)
/-- A launch of the entry 0x400000 with the completion word at `done`, at priority 1, reach 3, footprint 16. -/
def launchBytes (done byte0 : Nat) : List Byte :=
  leBytes 8 0x400000 ++ List.replicate 32 1 ++ leBytes 8 done ++ leBytes 8 0 ++ [BitVec.ofNat 8 byte0, 16, 0, 0, 0, 0, 0, 0]
/-- Packets wait at the port of tenant 5. -/
def ported (ps : List (BitVec 512)) (s : State) : State :=
  { s with pkgs := s.pkgs.map (fun e => (e.1, { e.2 with tenants := [(5, { Tenant.fresh with valid := true, poolBase := 0x4000000, poolSize := 0x1000000, queue := ps })] })) }
/-- Worker 1 is free, and tasks wait. -/
def waiting (ts : List (Nat × Task)) (s : State) : State := { s with tasks := s.tasks ++ ts }
/-- Worker 1 of die 0. -/
def k1 : CoreId := ⟨0, 0, 1⟩

/-- 15 R356, R360, R361: a launch opens a root scope; the highest level is dispatched first. -/
theorem test_launch_and_dispatch :
    let t := after (.launchTake 0 5 ⟨0, 0, 0⟩) (ported [packet (launchBytes 0x2000 25)] base)
    let d := after (.dispatch k1) (waiting [(8, queuedTask), (9, { queuedTask with level := 4, order := 9 })] base)
    ((t.hubs.find (⟨0, 0, 0⟩, 0)).map (fun b => (b.state, b.t, b.root)) == some (2, 4294967296, some (0, 0x2000))
      && (t.tasks.find 10).map (fun k => (k.entry, k.share, k.scope == h0)) == some (0x400000, 4294967296, true)
      && (d.core k1).task == some 9 && (d.tasks.find 9).map (·.level) == some 1) = true := by decide +kernel

theorem witness_LaunchesAndDispatch :
    let s := ported [packet (launchBytes 0x2000 25)] base
    let bad := ported [packet (launchBytes 0x2000 0xFF)] base
    let lost := ported [packet (launchBytes 0x2004 25)] base
    let w := after (.launchPacketWrite 0 5 (packet (launchBytes 0x2000 25)) true)
    ((launchRec (launchBytes 0x2000 25)).isSome && launchRec (launchBytes 0x2000 0xFF) == none
      && (launchRec (leBytes 64 (packet (launchBytes 0x2000 25)).toNat)).any (fun r => s.hosts s.coreFree r ⟨0, 0, 0⟩)
      && (base.pkg 0).powered && ((w (ported [] base)).tenant 0 5).queue.length == 1
      && ((w (ported (List.replicate 16 0) base)).tenant 0 5).drops == 1
      && s.hubs == [] && bad.plb (bad.coreIn ⟨0, 0, 0⟩) 0x0500 0x2000 8 rightW == .granted
      && ((after (.launchTake 0 5 ⟨0, 0, 0⟩) bad).accs.map (fun e => e.2.ea)) == [0x2000]
      && ((after (.launchTake 0 5 ⟨0, 0, 0⟩) lost).pkg 0).msix == [5]) = true := by decide +kernel

theorem witness_LaunchesAndDispatch_tasks :
    let old : State := { waiting [(8, queuedTask)] base with now := 2 ^ 20 }
    let g (x : Nat) : Task := { queuedTask with gang := some ⟨8, x, 0, 2, 1⟩, order := 3 + x }
    let gang : State := waiting [(8, g 0), (9, g 1)] base
    let back := waiting [(8, { queuedTask with shadow := some (k1, 0), frame := some { TaskCore.fresh with ctxs := [(0, someCtx)] } })] base
    let t := after (.dispatch ⟨0, 0, 2⟩) gang
    ((queuedTask.level < queuedTask.prio + (old.now - queuedTask.since) / 2 ^ 20)
      ∧ (after (.priorityAging 8) old).tasks.find 8 = some { queuedTask with level := 2 })
    ∧ ((back.eligible back.coreFree k1).map (·.1) = [8] ∧ (back.tasks.map (·.1)).Nodup
      ∧ ((after (.dispatch k1) back).ctx ⟨k1, 0⟩).life = .running)
    ∧ ((gang.eligible gang.coreFree ⟨0, 0, 2⟩).map (·.1) = [8]
      ∧ gang.placesFor gang.coreFree ⟨0, 0, 2⟩ 8 (g 0) = some [⟨0, 0, 2⟩, ⟨0, 0, 3⟩]
      ∧ ({ gang with tasks := gang.tasks.map (fun e => (e.1, { e.2 with rooted := true, starts := 0 })) } : State).placesFor gang.coreFree
          ⟨0, 0, 2⟩ 8 { g 0 with rooted := true, starts := 0 } = some [⟨0, 0, 2⟩, ⟨0, 0, 3⟩]
      ∧ (t.core ⟨0, 0, 2⟩).task = some 8 ∧ (t.core ⟨0, 0, 3⟩).task = some 9) := by decide +kernel

/-- Task 7 fills its footprint on worker 0. -/
def fillingTask : Task := { someTask with life := .filling, args := [1, 2, 3, 4, 5, 6], scope := h0, share := 16 }
/-- The image table of tenant 5 has one entry: code at 0x400000 of 0x1000 bytes, its data of 64 bytes at `a`. -/
def imaged (a : Nat) (s : State) : State :=
  { s with
    tasks := [(7, fillingTask)]
    pkgs := s.pkgs.map (fun e => (e.1, { e.2 with images := [((5, 0), BitVec.ofNat 512 (0x400000 + 0x1000 * 2 ^ 64 + a * 2 ^ 128 + 64 * 2 ^ 192 + 2 ^ 224))] })) }

theorem witness_LaunchesAndDispatch_fills :
    let bare : State := { base with tasks := [(7, fillingTask)] }
    let s := memAt 0x2000 [7] (imaged 0x2000 base)
    let far := imaged (2 ^ 48) base
    let t := after (.footprintFillDone k0) s
    (fillingTask.args.length == 6 && (bare.core k0).task == some 7 && (bare.imageOf fillingTask).2 == 0
      && ((after (.footprintFillDone k0) bare).ctx lead).pcq0.pc == 0x400000
      && s.imageOf fillingTask == (0x2000, 64) && (s.slice (s.clu k0)).tlbFind 0x2000 == some ⟨0, 0, false, false, false⟩ && s.alive 0 0
      && (s.plbAnswers k0 0x0500 0x2000 64 rightR).all (fun x => x.2 == .granted) && s.poison == [] && s.owned == [] && s.parts == []
      && (t.tc k0).spad.byte 0 == 7 && (t.tc k0).spad.byte 1 == 0 && (t.ctx lead).life == .running && (t.ctx lead).getG 6 == 6
      && far.imageOf fillingTask == (2 ^ 48, 64) && ((after (.footprintFillDone k0) far).ctx lead).cause == 0x0B
      && (s.pkg 0).images.get (5, 0) 0 == BitVec.ofNat 512 (0x400000 + 0x1000 * 2 ^ 64 + 0x2000 * 2 ^ 128 + 64 * 2 ^ 192 + 2 ^ 224)) = true := by
  decide +kernel

/-- Every engine of worker 0 has acknowledged a switch. -/
def switching (why : SwitchWhy) (s : State) : State :=
  { s with cores := s.cores.map (fun e => (e.1, { e.2 with switch := some ⟨[.issue, .matrix, .gather, .copy, .envelope, .stack, .network], why, 0, none, none⟩ })) }

/-- 15 R362, R363: the pre-empted task keeps its registers in its frame, and resumes with them. -/
theorem test_switches :
    let s := switching .preempt (withG [(2, 0x1234)] base)
    let t := after (.frameSwap k0) s
    let w := after (.frameBackgroundWrite k1 7) (after (.frameBackgroundWrite k0 7) t)
    let u := after (.dispatch k1) w
    ((t.core k0).task == none && (t.tasks.find 7).map (fun k => (k.life, k.core)) == some (.queued, none)
      && (u.ctx ⟨k1, 0⟩).getG 2 == 0x1234 && (u.core k1).task == some 7) = true := by decide +kernel

theorem witness_SwitchesAndFrames :
    let own : Task := { queuedTask with reach := 0, prio := 3, level := 3, origin := (0, 0, 1) }
    let s : State := { waiting [(8, own)] base with now := 2 ^ 16 }
    let near (j : CoreId) : Bool := (s.workerCores 0).contains j && s.reaches 0 (0, 0, 1) j
    let sw := switching .yield base
    let out := after (.frameSwap k0) sw
    let idle : State := { sw with tasks := [], cores := sw.cores.map (fun x => (x.1, { x.2 with task := none })) }
    (own.since + 2 ^ 16 ≤ s.now ∧ near k0 = true ∧ (s.workerCores 0).filter near = [k0] ∧ s.runningOn k0 = some (7, someTask)
        ∧ someTask.prio < own.level ∧ s.coreFree k0 = false ∧ partHere s k0 = true
        ∧ ((after (.preemptTrigger 8) s).core k0).switch = some ⟨[], .preempt, 2 ^ 16, none, none⟩)
      ∧ (∀ e ∈ [Engine.issue, .matrix, .gather, .copy, .envelope, .stack, .network],
          (((after (.preemptAck k0 e) { base with cores := base.cores.map (fun x => (x.1, { x.2 with switch := some ⟨[], .yield, 0, none, none⟩ })) }).core k0).switch)
            = some ⟨[e], .yield, 0, none, none⟩)
      ∧ ((sw.core k0).task = some 7 ∧ (out.tasks.find 7).map (fun k => (k.life, k.order)) = some (.queued, 10)
        ∧ (out.tasks.find 7).map (fun k => (k.frame.isSome, k.spilled, k.lastCore)) = some (true, false, some k0))
      ∧ ((out.core k0).switch.isSome = true ∧ out.nextComes k0 = true)
      ∧ (idle.nextComes k0 = false ∧ ((after (.frameSwap k0) idle).core k0).switch = none)
      ∧ ((after (.frameBackgroundWrite k0 7) out).tasks.find 7).map (·.spilled) = some true
      ∧ ((after (.frameSwap k0) (switching .park base)).tasks.find 7).map (·.life) = some .parked
      ∧ ((after (.frameSwap k0) (switching .prmt base)).tasks.find 7).map (·.life) = some .queued := by decide +kernel

/-- 10 R218: the command at the head of the matrix queue runs to its end before the engine acknowledges. -/
theorem test_head_before_ack :
    let z : MEntry := ⟨.mzero 0 .f32, 5, 0, 0, none, none⟩
    let s : State := onTc (fun t => { t with mat := { t.mat with queue := [z] } }) { base with
      cores := base.cores.map (fun x => (x.1, { x.2 with switch := some ⟨[], .yield, 0, some 5, none⟩ })) }
    let acked (s : State) : Option (List Engine) := ((after (.preemptAck k0 .matrix) s).core k0).switch.map (·.acked)
    (acked s == some [] && acked (after (.matrixCommandRun k0) s) == some [.matrix]) = true := by decide +kernel

/-- The lead stalls at its fence on access 3, which a pager must serve; task 8 is parked for an access that is gone. -/
theorem witness_SwitchesAndFrames_parks :
    let a := { someAccess (.ld 4) 0x1000 4 with stage := .walking, parts := [⟨0x1000, [], 4, none, false, [], false, false, none⟩] }
    let s : State := onCtx (fun c => { c with hold := some ⟨.acquire, 0, [], none⟩ }) { base with
      accs := [(3, a)], slices := [(⟨0, 0, 0⟩, { Slice.fresh with walks := [⟨0, 0, 0, 0, 0x0500, true, false⟩] })] }
    let p : State := waiting [(8, { queuedTask with life := .parked, waits := [3] })] base
    let w : State := { base with slices := [(⟨0, 0, 0⟩, { Slice.fresh with walks := [⟨0, 0, 0, 0, 0x0500, true, false⟩] })] }
    let q := waiting [(8, { queuedTask with life := .parked, fetches := [64], lastCore := some k0 })] base
    let g := waiting [(8, { queuedTask with life := .parked, waits := [3], gang := some ⟨5, 0, 0, 2, 1⟩ }),
      (9, { queuedTask with life := .parked, gang := some ⟨5, 1, 0, 2, 1⟩ })] base
    (s.heldBy 7 == [3] && s.stallsOnHeld lead (s.heldBy 7) && (s.tc k0).ctxs.map (·.1) == [0]
      && ((after (.taskPark 7) s).core k0).switch == some ⟨[], .park, 0, none, none⟩
      && w.fetchesHeld k0 == [0] && ((after (.taskPark 7) w).core k0).switch == some ⟨[], .park, 0, none, none⟩
      && !q.asked (q.clu k0) 64 && ((after (.taskPark 8) q).tasks.find 8).map (fun k => (k.life, k.fetches)) == some (.queued, [])
      && (after (.taskPark 8) g).tasks.filterMap (fun k => if 8 ≤ k.1 then some k.2.life else none) == [.queued, .queued]
      && p.heldBy 8 == [] && ((after (.taskPark 8) p).tasks.find 8).map (·.life) == some .queued) = true := by decide +kernel

/-! ## Privileged instructions, translation control, reliability (20, 21) -/

/-- The supervisor of quadrant 0 holds these values in g2, g3, g4. -/
def sup (a b c : W64) (s : State) : State := withG [(2, a), (3, b), (4, c)] (asSup s)
/-- Context `n` of worker 0 by its address. -/
def winOf (n : Nat) : W64 := 0xD000000000000000 + BitVec.ofNat 64 (n * 2 ^ 35)
/-- The operands at g2, g3, g4. -/
def fs : Fields := { Fields.zero with a := .reg 2, b := .reg 3, c := .reg 4 }
/-- The lead of worker 0 is frozen. -/
def frozenLead (s : State) : State := s.setCtx lead (fun c => { c with life := .frozen, cause := 0x10 })
/-- Task 7 stands in its frame, frozen, having left worker 0 last. -/
def framed (life : TaskLife) (s : State) : State :=
  { s with
    cores := s.cores.map (fun e => (e.1, { e.2 with task := none, tc := TaskCore.fresh }))
    tasks := [(7, { someTask with
      life := life, core := none, lastCore := some k0, frame := some { TaskCore.fresh with ctxs := [(0, { someCtx with life := .frozen })] } })] }

/-- 20 R434-R437: trap freezes, resm resumes, prmt switches, kill removes. -/
theorem test_privileged :
    let s := sup (winOf 0) 0 0 base
    let t := after (.trap { fs with imm := 0x42 }) s
    let r := after (.resm { fs with mod := 1 }) (sup (winOf 0) 0 0 (frozenLead base))
    let k := after (.kill fs) s
    let m := after (.prmt fs) s
    ((t.ctx lead).life == .frozen && (t.ctx lead).cause == 0x42 && (r.ctx lead).life == .running && (r.ctx lead).stepOnce
      && k.tasks == [] && (k.core k0).task == none && k.pk.verdict == .hold
      && (m.core k0).switch == some ⟨[], .prmt, 0, none, none⟩
      && (after (.trap fs) (withG [(2, winOf 0)] base)).pk.verdict == .fault 1 ⟨0x14, 0, 0⟩) = true := by decide +kernel

/-- 20 R438-R443: a PLB entry, its invalidation, a home watchpoint, an auditor. -/
theorem test_device_control :
    let t := after (.plbw { fs with imm := 3 }) (sup (winOf 0) 0x1000C 0x050000000000007F base)
    let u := after (.plbi { fs with imm := 0 }) (sup (winOf 0) 0 0 base)
    let v := after (.plbiDom fs) (sup (winOf 0) 0x0500 0 base)
    let w := after (.wpt { fs with a := .reg 2, b := .reg 3, imm := 1 }) (sup 0x1234 0x5 0 base)
    let a := after (.auds fs) (sup (winOf 0) 0x108 0 base)
    ((t.core k0).plb.find 3 == some (0x1000C, 0x050000000000007F) && (u.core k0).plb.find 0 == some (47, 0x050000000000003F)
      && (v.core k0).plb.find 0 == some (47, 0x050000000000003F)
      && (w.pkg 0).watches == [(1, ⟨0x1200, 64, ⟨0, 0, 0⟩⟩)]
      && (a.audit ⟨0, 0, 0⟩).k == 8 && (a.audit ⟨0, 0, 0⟩).en) = true := by decide +kernel

theorem witness_SystemInstructions :
    let s := sup (winOf 0) 0x0500 0 base
    let off := sup 0x1000 0 0 base
    let h := sup (winOf 1) 0 0 (noHelper base)
    let rows : List (Fields → Instr) := [.trap, .resm, .kill, .prmt, .plbw, .plbi, .plbiDom, .auds, .killDom, .wpt]
    (allReady s rows fs && allReady off rows fs && s.target (winOf 0) == some (k0, 0) && off.target 0x1000 == none
      && s.target (winOf 11) == some (k0, 11) && bitsOf (winOf 0) 63 60 == 13 && bitsOf (winOf 0) 34 16 == 0 && s.isWorker k0 && s.cur.core != k0
      && (s.ctx lead).life == .running && (s.ctx ⟨k0, 1⟩).life == .free
      && allReady (sup (winOf 0) 0 0 (frozenLead base)) [.resm] fs && ((frozenLead base).ctx lead).life == .frozen
      && !s.eventWaits lead && ({ s with quads := [(⟨0, 0, 0⟩, ⟨0, [], [leBytes 2 (srcCode lead) ++ List.replicate 62 0]⟩)] } : State).eventWaits lead
      && s.me.hold.isNone && (s.core k0).task == some 7 && partHere s k0 && tenantOf (s.ctx lead).domain == 5
      && ((after (.kill fs) s).pkg 0).kills.length == 1
      && allReady h [.kill] fs && ((after (.kill fs) h).ctx ⟨k0, 1⟩).life == .free && ((after (.kill fs) h).tasks.find 7).isSome
      && allReady (s.setCtx ⟨sup0, 0⟩ (fun c => { c with hold := some ⟨.own, 0, [], none⟩ })) rows fs) = true := by decide +kernel

theorem witness_SystemInstructions_held :
    let held (ids : List Nat) (s : State) : State := s.setCtx ⟨sup0, 0⟩ (fun c => { c with hold := some ⟨.own, 0, ids, none⟩ })
    let s := sup (winOf 0) 0x0500 0 base
    let swept : State := let t := held [10] s; { t with
      pkgs := t.pkgs.map (fun e => (e.1, { e.2 with kills := [⟨some ⟨sup0, 0⟩, 0, [], List.range 4096, [10], []⟩] })) }
    let fr := sup (winOf 0) 0 0 (framed .parked base)
    ((after (.kill fs) swept).pk.verdict == .ok && allReady swept [.kill, .killDom] fs
      && allReady (held [10] s) [.kill, .killDom] fs && ((s.pkg 0).kills == [])
      && allReady (held [7] s) [.prmt] fs && allReady (held [8] s) [.prmt] fs
      && allReady (held [10] (sup (winOf 0) 0x0600 0 base)) [.killDom] fs
      && (after (.killDom fs) s).tasks == [] && (s.tasks.map (·.1)) == [7] && s.myTask == none && selects 0x0500 0x0500 && !selects 0x0600 0x0500
      && (after (.killDom fs) (sup 0 0 0 base)).tasks.length == 1
      && allReady fr [.resm] fs && (fr.ctx lead).life != .frozen && (fr.tasks.map (·.1)) == [7]
      && ((after (.resm fs) fr).tasks.find 7).map (·.life) == some .queued
      && (after (.auds fs) (sup (winOf 0) 17 0 base)).pk.verdict == .fault 5 ⟨0x01, 0, 0⟩) = true := by decide +kernel

/-- The domain 0x0500 serves region 0 as the pager of worker 0's package. -/
def pager (s : State) : State :=
  { s with mem := s.mem.write 0x8000 [0x00, 0x05, 1], pkgs := s.pkgs.map (fun e => (e.1, { e.2 with pgtbase := 0x8000 })) }

/-- 20 R444: `xlti` drops the pages of its range. -/
theorem test_xlti :
    let s := sup 0x10000 2 0 { base with slices := [(⟨0, 0, 0⟩, { Slice.fresh with
      tlb := [⟨0, 0, false, false, false⟩, ⟨1, 0, false, false, false⟩, ⟨2, 0, false, false, false⟩, ⟨3, 0, false, false, false⟩] })] }
    (((after (.xlti fs) s).slice ⟨0, 0, 0⟩).tlb.map (·.page) == [0, 3]) = true := by decide +kernel

theorem witness_TranslationControl :
    let s := sup 0x10000 1 0 base
    let writing : State := { s with accs := [(3, { someAccess .st 0 4 [1] with ctx := s.cur, task := none })] }
    let reading : State := { s with accs := [(3, someAccess (.ld 4) 0x10000 4)] }
    let p := withG [(2, 0), (3, 1)] (pager base)
    let own (ids : List Nat) (s : State) : State := s.setCtx s.cur (fun c => { c with hold := some ⟨.own, 0, ids, none⟩ })
    let l : CluId := ⟨0, 0, 0⟩
    let tok := walkToken l ⟨2, 1, 0x4000, 0, 0x0500, true, false⟩
    let g : State := { withG [(2, tok)] (pager base) with slices := [(l, { Slice.fresh with walks := [⟨2, 1, 0x4000, 0, 0x0500, true, false⟩] })] }
    let mine : State := { withG [(2, walkToken l ⟨2, 1, 0x10, 0, 0x0500, true, false⟩)] (pager base) with
      slices := [(l, { Slice.fresh with walks := [⟨2, 1, 0x10, 0, 0x0500, true, false⟩] })] }
    (allReady s [.xlti, .pgok] fs && s.me.afr.isNone && s.writesDone 0 && s.writesDone 4 && s.xltiHeld fs == [] && !s.pagerContext
      && allReady writing [.xlti, .pgok] { fs with mod := 24 } && ({ fs with mod := 24 } : Fields).reachCode == 3 && !writing.writesDone 3 && !writing.writesDone 4
      && allReady reading [.xlti] fs && reading.writesDone 0 && reading.xltiHeld fs == [3]
      && allReady (own [3] reading) [.xlti] fs && allReady (own [4] reading) [.xlti] fs
      && allReady (sup 0 0 0 base) [.xlti] fs
      && p.pagerContext && p.servesAll 0 1 && allReady p [.xlti, .pgok] fs
      && !(withG [(2, 0x40000000)] p).servesAll 0x4000 1 && allReady (withG [(2, 0x40000000)] p) [.xlti] fs
      && mine.pagerContext && (mine.tokenWalk (walkToken l ⟨2, 1, 0x10, 0, 0x0500, true, false⟩)).isSome && mine.serves 0 0x10
      && allReady mine [.pgok] fs && (after (.pgok fs) mine).tokens.length == 1
      && g.pagerContext && (g.tokenWalk tok).isSome && !g.serves 0 0x4000 && allReady g [.pgok] fs
      && allReady (onCtx (fun c => { c with afr := some ⟨0, 0, 1, 0, 0, 0⟩ }) s) [.xlti, .pgok] fs) = true := by decide +kernel

/-- 20 R435: a killed context's store on its way stays, with no one to answer to, until the last router's sweep is over. -/
theorem test_kill_leaves_a_store_to_the_sweep :
    let a := someAccess .st 0x1000 8 [1, 2, 3, 4, 5, 6, 7, 8]
    let t := after (.kill fs) (sup (winOf 0) 0 0 { base with accs := [(3, a)] })
    let u : State := { t with now := 8192, pkgs := t.pkgs.map (fun e => (e.1, { e.2 with
      kills := [⟨some ⟨sup0, 0⟩, 0, [(0, 0)], List.range' 1 4095, [10], [3]⟩] })) }
    ((t.acc 3).map (fun b => (b.abandoned, b.tok)) == some (true, none) && (t.pkg 0).kills.map (·.strays) == [[3]]
      && ((after (.killSweepExpiry 0 0) u).acc 3).isNone) = true := by decide +kernel

/-- Die 0 changed. -/
def onDie (h : DieState → DieState) (s : State) : State := s.setDie 0 0 h
/-- A slice that holds line `n`, stamped 0. -/
def holding (n : Nat) (dirty : Bool) (s : State) : State :=
  { s with slices := [(⟨0, 0, 0⟩, { Slice.fresh with
    lines := [((n, 0), ⟨n, 5, some 0, false, dirty, false, false⟩)], tlb := [⟨0, 0, false, false, false⟩] })] }
/-- The spare site 40 of die 0, and REMAP naming worker 1 to it. -/
def remapping (id : Nat) (move : Option (Nat × Nat)) (s : State) : State :=
  onDie (fun d => { d with spares := [40], remap := ⟨0, id, 1, 8, false, move⟩ }) s
/-- An audit entry of empty operands whose CRC does not match. -/
def staleEntry : AuditEntry :=
  let a : LatchSrc := ⟨.i8, 1, 0, []⟩
  ⟨k0, 0, 32, false, a, a, [], none, ⟨0, .i32⟩, crc64 [] + 1, 0⟩

/-- 21 R449-R454: errors are counted, reported once, and poison what they hit. -/
theorem test_error_counts :
    let u : RasUnit := .site 0 0 1
    let l : RasUnit := .slice ⟨0, 0, 0⟩
    let s : State := { base with ras := [(u, { Ras.fresh with ceth := 0 })] }
    let c := after (.sweepVisit u 7 ⟨1, 1⟩) s
    let e := after (.sweepVisit u 7 ⟨2, 0⟩) base
    ((c.rasOf u).ce == 1 && (c.rasOf u).reported && (c.quadEvents ⟨0, 0, 0⟩).buffer.length == 1
      && (e.rasOf u).ue == 1 && (e.tc k0).poisonRows == [3]
      && (after (.sweepVisit l 257 ⟨0, 2⟩) (holding 64 true base)).poison == [64]
      && (after (.sweepVisit l 257 ⟨0, 2⟩) (holding 64 false base)).poison == []
      && ((after (.sweepVisit l 257 ⟨0, 2⟩) (holding 64 false base)).slice ⟨0, 0, 0⟩).lines == []
      && ((after (.eccrClr u) c).rasOf u).ce == 0) = true := by decide +kernel

/-- 21 R448, R453: DONE returns once the four granules of the slice's one line have been visited; then two flipped bits of a granule are
corrected, which SECDED only detects. -/
theorem test_reencode :
    let l : RasUnit := .slice ⟨0, 0, 0⟩
    let s := after (.eccrStrong l true) (holding 64 true base)
    let v := [256, 257, 258].foldl (fun (s : State) g => after (.sweepVisit l g ⟨0, 0⟩) s) s
    let d := after (.reencodeDone l) (after (.sweepVisit l 259 ⟨0, 0⟩) v)
    (!((after (.reencodeDone l) v).rasOf l).done && (d.rasOf l).done
      && ((after (.sweepVisit l 257 ⟨2, 0⟩) d).rasOf l).ce == 1 && ((after (.sweepVisit l 257 ⟨2, 0⟩) s).rasOf l).ue == 1) = true := by
  decide +kernel

/-- 21 R464-R466: a worker's id and a supervisor's role move to a spare. -/
theorem test_remap :
    let g := after (.remapGo 0 0) (remapping 1 none base)
    let t := after (.remapGo 0 0) (remapping 1 (some (1, 40)) base)
    let p := after (.remapSup 0 0) (remapping 0 none base)
    ((g.die 0 0).remap.st == 1 && (g.die 0 0).remap.move == some (1, 40)
      && (t.die 0 0).workers.find 1 == some 40 && (t.die 0 0).fused == [2] && (t.die 0 0).spares == [] && (t.die 0 0).remap.st == 2
      && (p.die 0 0).sups.find 0 == some 40 && (p.die 0 0).remap.st == 2) = true := by decide +kernel

theorem witness_ReliabilityEvents :
    let kill (reached : Map Nat Nat) (now : Nat) : State := { base with
      now := now, pkgs := base.pkgs.map (fun e => (e.1, { e.2 with kills := [⟨none, 0, reached, [], [1], []⟩] })) }
    let w : KillSweep := ⟨none, 0, [(0, 0)], [], [1], []⟩
    let q : QuadId := ⟨0, 0, 0⟩
    let ev (held : List (List Byte)) : State := { ringAt 6 [.empty, .empty] (asSup base) with
      quads := [(q, ⟨2, [List.replicate 64 7], held⟩)] }
    let r := ((ev []).tc (supOf q)).ring 6
    let d := after (.faultEventDeliver q) (ev [])
    let u : RasUnit := .site 0 0 1
    let l : RasUnit := .slice ⟨0, 0, 0⟩
    let od := holding 64 true { base with now := 0x200000 }
    (w.near 1 && !w.reached.has 1 && ((after (.killFlood 0 1) (kill [(0, 0)] 5)).pkg 0).kills.map (·.reached) == [w.reached.set 1 5]
      && ((after (.killSweepExpiry 0 0) (kill [(0, 0)] 8192)).pkg 0).kills.map (·.swept) == [[0]]
      && r.z == 64 && !r.err && r.res == [] && r.tail < r.c && r.slots.length == r.c && r.tag r.tail == .empty
      && decide (r.base.toNat + 64 * r.c ≤ 2 ^ 19) && ((ev []).tc (supOf q)).spad.wf
      && ((d.tc (supOf q)).ring 6).tag 0 == .full && (d.tc (supOf q)).spad.byte 0x1000 == 7 && (d.quadEvents q).buffer == []
      && ((after (.faultEventDeliver q) (ev [List.replicate 64 9])).quadEvents q).buffer.length == 1
      && base.granule u 7 && (holding 64 false base).granule l 257 && base.coreOfSite 0 0 1 == some k0
      && ((after (.sweepVisit l 257 ⟨0, 0⟩) od).slice ⟨0, 0, 0⟩).lines.map (fun e => e.2.od) == [true]
      && ((after (.eccrStrong u true) base).rasOf u).strong && !((after (.eccrStrong u true) base).rasOf u).done
      && !((after (.reencodeDone u) (after (.eccrStrong u true) base)).rasOf u).done) = true := by decide +kernel

/-- (How many spare rows a slice has is left open, so the clause of L2_ROW_SPARE has no concrete witness.) -/
theorem witness_ReliabilityEvents_others :
    let l : CluId := ⟨0, 0, 0⟩
    let s : State := { base with audits := [(l, { Audit.fresh with buffer := [staleEntry] })] }
    let g := remapping 1 none base
    let busy := after (.remapGo 0 0) (remapping 0 none base)
    ((staleEntry.verdict (s.tc k0)).1 == none && ((after (.auditReplay l) s).audit l).void == 1
      && ((after (.auditClr l) { base with audits := [(l, { Audit.fresh with void := 3 })] }).audit l).void == 0
      && (g.die 0 0).remap.move.isNone && (g.die 0 0).workers.has 1 && !g.frozenOn k1 && (g.die 0 0).spares.contains (32 * 1 + 8)
      && siteQuad 40 == 0 && ((after (.remapGo 0 0) (remapping 99 none base)).die 0 0).remap.st == 3
      && (busy.core k0).switch.isSome && ((after (.remapSup 0 0) (remapping 1 none base)).die 0 0).remap.st == 3
      && (g.core k1).task.isNone && (g.core k1).switch.isNone) = true := by decide +kernel

theorem witness_RegisterWriteEvents :
    let k : CoreId := k0
    let s : State := onTc (fun t => { t with sctl := 3, layout := [(5, 9)] }) base
    let c := onCtx (fun c => { c with spr := { c.spr with fstat := 1 } }) base
    let g : State := { base with pkgs := base.pkgs.map (fun e => (e.1, { e.2 with groupTable := [((0, 4), 77)] })) }
    let w (r : DevReg) (v : W64) := (after (.registerWrite r v) base).regWord r
    (((after (.sctlSncz k) s).tc k).sctl == 1 && ((after (.sctlLtz k) s).tc k).layout == []
      && !bitAt ((after (.fstatFailedClear lead) c).ctx lead).spr.fstat 0
      && (g.pkg 0).groupTable.get (0, 4) 0 != (g.pkg 0).groupTable.get (1, 4) 0
      && ((after (.groupTableWrite 0 0 4) g).pkg 0).groupTable.get (1, 4) 0 == 77
      && w (.ttbr 0) 0x123400 == 0x123400 && w (.tenantValid 0 6) 3 == 1 && w (.quota ⟨0, 0, 0⟩ 5) 0x120 == 0x20
      && w (.imageWord 0 5 2 3) 99 == 99 && w (.groupTableWord 0 3 8) 0x1234 == 0x1200 && w (.fwaddr 0) 0x12345 == 0x12000
      && w (.attn 0 2) 55 == 55
      && ((after (.registerWrite (.remap 0 0) (0x500000000 + 0x880000)) base).die 0 0).remap == ⟨0, 5, 2, 8, false, none⟩) = true := by
  decide +kernel

/-! ## Boot, power, attestation, the host (22) -/

/-- Die 0 of R472's worked example: eleven fused sites, the boot core at (1,0). -/
def workedFused : List Nat :=
  [(0, 0), (16, 0), (3, 1), (8, 8), (20, 9), (7, 16), (30, 17), (12, 25), (25, 25), (2, 31), (31, 31)].map (fun p => 32 * p.2 + p.1)
/-- A die all of whose sites have been reached, and have reported what `good` says; the boot core is at (1,0). -/
def reported (good : Nat → Bool) : DieState :=
  { DieState.fresh with
    fused := workedFused, bootCore := 1
    marks := (List.range' 0 1024).map (fun n => (n, ⟨siteX n, siteY n, none, 0⟩))
    reports := (List.range' 0 1024).map (fun n => (n, good n)) }
/-- The die of the worked example. -/
def workedDie : DieState := reported (fun n => !workedFused.contains n)

theorem reported_find (good : Nat → Bool) (n : Nat) (h : n < 1024) : (reported good).reports.find n = some (good n) :=
  find_listed id (fun _ _ e => e) good 1024 0 n (by omega) (by omega)

theorem reported_goodSites (good : Nat → Bool) : (reported good).goodSites = (List.range 1024).filter (fun n => n == 1 || good n) := by
  unfold DieState.goodSites
  refine List.filter_congr (fun n hn => ?_)
  show (n == 1 || ((reported good).reports.find n).getD false) = _
  rw [reported_find good n (List.mem_range.mp hn)]
  rfl

theorem reported_over (good : Nat → Bool) : (reported good).floodOver = true := by
  have h : (reported good).marks.all (fun e => e.1 == (reported good).bootCore || (reported good).reports.has e.1) = true := by
    refine List.all_eq_true.mpr (fun e he => ?_)
    obtain ⟨n, hn, rfl⟩ := List.mem_map.mp he
    have hlt : n < 1024 := by
      have := List.mem_range'_1.mp hn
      omega
    simp [Map.has, reported_find good n hlt]
  have hl : (reported good).marks.length = 1024 := by simp [reported]
  unfold DieState.floodOver
  rw [h, hl]
  rfl

/-- Package 0 in a boot state, its four dies as given. -/
def booting (st : BootSt) (d : DieState) (others : DieState) : State :=
  { State.reset with pkgs := [(0, { Pkg.fresh with powered := true, st := st, dies := [(0, d), (1, others), (2, others), (3, others)] })] }

/-- 22 R472's table of roles. -/
theorem test_roles_worked_example :
    let d := workedDie.assign
    (workedDie.goodSites.length = 1013 ∧ d.sups = [(0, 1), (1, 17), (2, 512), (3, 528)])
      ∧ (d.workers.find 0 = some 2 ∧ d.workers.find 14 = some 18 ∧ d.workers.find 31 = some 36 ∧ d.workers.find 505 = some 513)
      ∧ d.workers.find 991 = some 1005 ∧ d.spares = List.range' 1006 17 := by
  have h := reported_goodSites (fun n => !workedFused.contains n)
  refine ⟨?_, ?_, ?_, ?_⟩ <;> (simp only [DieState.assign, workedDie, h]; decide +kernel)

/-- 22 R469-R471: PKGID, FWGO, the flood's coordinates. -/
theorem test_boot :
    let s := after (.pkgidWrite 0 7) State.reset
    let t := after (.fwgo 0 1) s
    let x := booting .discover { DieState.fresh with bootCore := 1, flood := [⟨2, .w, 1, 0, 0⟩] } DieState.fresh
    let u := after (.discoveryPacket 0 0 2 .w) x
    ((s.pkg 0).pkgid == 7 && (t.pkg 7).st == .fetch && !(t.pkg 0).powered
      && (u.die 0 0).marks.find 2 == some ⟨2, 0, some .w, 1⟩ && (u.die 0 0).flood.map (·.site) == [34, 3]) = true := by decide +kernel

/-- An image header in host memory at 0x1000: body of 64 bytes at 64, core part of 32, signature at 128. -/
def headed (s : State) : State :=
  { s with
    mem := s.mem.write (7 * 2 ^ 44 + 0x1000) (leBytes 4 0x4B574731 ++ leBytes 4 0 ++ leBytes 8 64 ++ leBytes 8 32 ++ leBytes 8 64 ++ leBytes 8 128)
    pkgs := s.pkgs.map (fun e => (e.1, { e.2 with fwaddr := 0x1000, fwsize := 4096 })) }

/-- (Whether a signature is good is left open: of the clauses for a good one and a wrong one, one holds of this image.) -/
theorem witness_BootSequence :
    let x : DieState := { DieState.fresh with flood := [⟨1, .w, 0, 0, 0⟩] }
    let again := booting .discover { x with marks := [(1, ⟨1, 0, none, 0⟩)] } x
    let h := headed (booting .fetch DieState.fresh DieState.fresh)
    let empty := booting .fetch DieState.fresh DieState.fresh
    let due : DieState := { DieState.fresh with marks := [(0, ⟨0, 0, none, 0⟩), (1, ⟨1, 0, some .w, 1⟩)] }
    (!(State.reset.pkg 1).powered && (State.reset.pkg 0).powered && ((after (.powerUp [1, 0, 0, 0]) State.reset).die 1 0).bootCore == 1
      && State.reset.pkgs.length == 1 && ((after (.fwgo 0 0) State.reset).pkg 0).st == .idle
      && (h.hostImage 0).length == 4096 && (fwHeader (h.hostImage 0)).isSome && (fwHeader (empty.hostImage 0)).isNone
      && (h.die 0 0).verified.isNone && ((after (.firmwareFetchDone 0 0 true) h).pkg 0).code == 1
      && ((after (.firmwareFetchDone 0 0 false) empty).pkg 0).code == 2
      && !((booting .discover x x).die 0 0).marks.has 1 && (again.die 0 0).marks.has 1
      && ((after (.discoveryPacket 0 0 1 .w) again).die 0 0).flood == []
      && due.reportDue 1 && ((after (.discoveryReport 0 0 1 true) (booting .discover due due)).die 0 0).reports == [(1, true)]
      && !due.floodOver && ((after (.discoveryTimeout 0 0) { booting .discover due due with now := 65537 }).pkg 0).code == 4) = true := by
  decide +kernel

/-- Every die whose sites have all reported, with enough good sites and with too few. -/
theorem witness_BootSequence_roles :
    let s := booting .discover workedDie workedDie
    let bad := reported (fun _ => false)
    workedDie.floodOver = true ∧ workedDie.workers = [] ∧ 996 ≤ workedDie.goodSites.length ∧ (s.die 0 0) = workedDie
      ∧ bad.floodOver = true ∧ bad.goodSites.length < 996 :=
  ⟨reported_over _, rfl, by rw [workedDie, reported_goodSites]; decide +kernel, rfl, reported_over _,
    by rw [reported_goodSites]; decide +kernel⟩

theorem witness_BootSequence_load :
    let d : DieState := { someDie with marks := [(1, ⟨1, 0, none, 0⟩)], bootCore := 1, ok := false, image := some ((List.range 128).map (BitVec.ofNat 8)) }
    let s := booting .load d d
    let a := booting .load { d with acks := [1] } d
    let last := booting .load { d with acks := [1] } { d with ok := true }
    ((s.die 0 0).marks.has 1 && ((s.die 0 0).children 1) == [] && s.coreOfSite 0 0 1 == some k0 && (s.tc k0).spad == []
      && ((after (.imageMulticastAck 0 0 1) s).die 0 0).acks == [1]
      && (a.die 0 0).acks.contains (a.die 0 0).bootCore && ((after (.dieBootDone 0 0) a).pkg 0).st == .load
      && ((after (.dieBootDone 0 0) last).pkg 0).st == .ready
      && ((after (.dieBootDone 0 0) last).ctx ⟨sup0, 0⟩).life == .running) = true := by decide +kernel

/-- 22 R469, R474, R475: the limit is clamped; a report keeps the nonce. -/
theorem test_power_and_attestation :
    let a := after (.attgo 0 1) (after (.registerWrite (.attn 0 0) 0x77) base)
    (((after (.pwrlimWrite 0 5) base).pkg 0).pwrlim == 600000 && ((after (.pwrlimWrite 0 3000000) base).pkg 0).pwrlim == 2400000
      && (a.pkg 0).attst == 1 && (a.pkg 0).attHeld.map (fun h => h.1[0]) == some 0x77) = true := by decide +kernel

theorem witness_PowerAttestationAndHost :
    let att : State := { base with pkgs := base.pkgs.map (fun e => (e.1, { e.2 with
      attst := 1, attHeld := some (Vector.replicate 4 9, 3), digest := List.replicate 64 1 })) }
    let line := (7 * 2 ^ 44 + 0x1000) / 64
    let sn := holding line true base
    let w := after (.hostCxlMemAccess 0 8 (.write [1, 2])) base
    let two : State := { base with pkgs := [(0, { somePkg with failed := [1] }), (1, somePkg)], mem := Memory.write [] (2 ^ 47 + 5) [9] }
    ((base.pkg 0).powered && (base.pkg 0).attst == 0 && ((after (.powerThrottle 0 3 1000 400) base).pkg 0).islands == [(3, (1000, 400))]
      && 8 * 0 + 2 * siteQuad 272 + siteY 272 / 8 % 2 == 3
      && ((after (.powerThrottle 0 3 1000 400) base).pkg 0).clockAt 0 272 == some (1000, 400)
      && (att.pkg 0).digest.length == 64 && ((after (.attestDone 0) att).pkg 0).attst == 2
      && natBits (64 * line) 44 3 == 7 && ((after (.cxlCacheHostSnoop 0 line true) sn).slice ⟨0, 0, 0⟩).lines == []
      && base.owned == [] && base.parts == [] && inFirmware 8 && !inFirmware 0x40000000 && w.mem == []
      && (after (.hostCxlMemAccess 0 0x40000000 (.write [1, 2])) base).readMem 0 0x40000000 2 == [1, 2]
      && (after (.hostCxlMemAccess 0 0x40000000 (.read 2)) base).hostHeld == [0x1000000]
      && ((after (.peerRestore 0 1) two).pkg 0).failed == []
      && (after (.slotPowerLoss 1) two).mem == [] && ((after (.slotPowerLoss 1) two).pkg 0).powered && two.mem.wf) = true := by decide +kernel

/-! ## Issue, faults, reset (02, 06, 20) -/

/-- 20 R412-R414: the fault of a load from class 8 freezes its context and tells the supervisor. -/
theorem test_fault_is_taken :
    let s := inPhase .alone (withG [(2, 0x8000000000000000)] base)
    let t := after (.ld { f2 with mod := 0b011011 }) s
    let b := (t.quadEvents ⟨0, 0, 0⟩).buffer.headD []
    ((t.ctx lead).life == .frozen && (t.ctx lead).cause == 0x0A && (t.ctx lead).getG 2 == 0x8000000000000000
      && b.take 8 == [0, 0, 0x0A, 1, 0, 5, 0, 0] && (b.drop 8).take 8 == [0, 0, 0, 0, 0, 0, 0, 0x80]) = true := by decide +kernel

theorem witness_ChecksBeforeIssue :
    let f : Fields := { f3 with guard := ⟨true, 0⟩ }
    let g : Fields := { f3 with guard := ⟨false, 1⟩ }
    let rec_ (s : State) : State := onCtx (fun c => { c with afr := some ⟨0x99, 0, 1, 0, 0, 0⟩ }) s
    let pois (s : State) : State := onCtx (fun c => { c with poisonG := 4, poisonP := 2 }) s
    let waits (d : Dest) (s : State) : State := onCtx (fun c => { c with pend := [⟨d, 9⟩] }) s
    let h := asHelper (inScope base)
    (h.cur.ctx == 1 && (Instr.key (.mmul f3)).map (·.cl) == some 2 && (after (.mmul f3) h).pk.verdict == .fault 1 ⟨0x06, 0, 0⟩
      && (Instr.key (.kill f3)).map (fun k => (k.cl, k.op)) == some (4, 0x31) && !base.privileged
      && rankOk (.add f) f base && !base.guardTrue f && !base.me.poisoned (.p 0)
      && rankOk (.add g) g (pois (rec_ base)) && (pois (rec_ base)).me.poisoned (.p 1)
      && base.guardTrue f3 && (sources (Instr.shape (.add f3)) f3).any (pois (rec_ base)).me.poisoned
      && (waits (.p 1) base).me.pending (.p 1) && (waits (.p 1) base).engineFreeze.isNone
      && wordStalls (Instr.shape (.add f3)) f3 (waits (.g 2) base) && (after (.add f3) (waits (.g 2) base)).pk.verdict == .stall) = true := by
  decide +kernel

theorem witness_TakingAFault :
    let q : QuadId := ⟨0, 0, 0⟩
    let full : State := { base with quads := [(q, ⟨0, List.replicate 256 [], []⟩)] }
    ((base.ctx lead).life == .running && (base.ctx ⟨k0, 1⟩).life != .running && base.quad k0 == q && (base.quadEvents q).buffer.length < 256
      && decide (256 ≤ (full.quadEvents q).buffer.length)
      && ((full.takeFault lead ⟨1, 0, 0⟩).quadEvents q).held.length == 1) = true := by decide +kernel

theorem witness_StepKeepsMemoryCanonical : ∃ s t : State, MemoryCanonical s ∧ s.mem ≠ [] ∧ step s = .next t :=
  ⟨{ memAt 0x1000 [1, 2] base with agenda := [.wait 1] }, _, by show Memory.wf _ = true; decide +kernel, by decide +kernel, rfl⟩

/-- log 4: a step runs the event at the head of the agenda and takes it off. -/
theorem test_step_runs_its_event :
    (match step { base with agenda := [.event (.scnl Fields.zero), .wait 5] } with
      | .next t => t.agenda == [.wait 5]
      | _ => false) = true := by decide +kernel

end Sys2Proof.Tests
end

section
/-! Writes to registers of the device, the packages and the cores (00 R5, 20 R433): what the accessors of packages, dies, tenants,
slices and units read after an update, the words of long values, and the effect of each register write. -/

namespace Sys2Proof.Machine

open Sys2Proof

/-! ### Packages, dies, tenants, slices and units after updates -/

@[simp] theorem State.setPkg_pkg (s : State) (p : Nat) (f : Pkg → Pkg) : (s.setPkg p f).pkg p = f (s.pkg p) :=
  Map.get_set_same _ _ _ _

@[simp] theorem State.setDie_die (s : State) (p d : Nat) (f : DieState → DieState) : (s.setDie p d f).die p d = f (s.die p d) := by
  simp [State.die, State.setDie]

@[simp] theorem State.setTenant_tenant (s : State) (p t : Nat) (f : Tenant → Tenant) :
    (s.setTenant p t f).tenant p t = f (s.tenant p t) := by
  simp [State.tenant, State.setTenant]

@[simp] theorem State.setSlice_slice (s : State) (l : CluId) (f : Slice → Slice) : (s.setSlice l f).slice l = f (s.slice l) :=
  Map.get_set_same _ _ _ _

@[simp] theorem State.setRas_rasOf (s : State) (u : RasUnit) (f : Ras → Ras) : (s.setRas u f).rasOf u = f (s.rasOf u) :=
  Map.get_set_same _ _ _ _

@[simp] theorem State.say_pkg (s : State) (v : Verdict) (p : Nat) : (s.say v).pkg p = s.pkg p := rfl
@[simp] theorem State.say_die (s : State) (v : Verdict) (p d : Nat) : (s.say v).die p d = s.die p d := rfl
@[simp] theorem State.say_rasOf (s : State) (v : Verdict) (u : RasUnit) : (s.say v).rasOf u = s.rasOf u := rfl
@[simp] theorem State.say_regWord (s : State) (v : Verdict) (r : DevReg) : (s.say v).regWord r = s.regWord r := by
  cases r <;> rfl

@[simp] theorem State.setSite_ras (s : State) (p d n : Nat) (f : TaskCore → TaskCore) : (s.setSite p d n f).ras = s.ras := by
  unfold State.setSite
  split
  · rfl
  · split <;> rfl

/-- The codes of granules stand apart from ECCR. -/
@[simp] theorem State.setCodes_rasOf (s : State) (u v : RasUnit) (f : Codes → Codes) : (s.setCodes u f).rasOf v = s.rasOf v := by
  cases u with
  | slice l => rfl
  | site p d n => simp [State.rasOf, State.setCodes]

@[simp] theorem State.nameCode_rasOf (s : State) (u : RasUnit) (strong : Bool) :
    (s.nameCode u strong).rasOf u = { s.rasOf u with strong := strong, done := false } := by
  simp [State.nameCode]

/-! ### Words of long values -/

theorem testBit_natBits (x lo n i : Nat) : (natBits x lo n).testBit i = (decide (i < n) && x.testBit (lo + i)) := by
  simp [natBits, Nat.testBit_mod_two_pow, Nat.testBit_shiftRight]

/-- A number is what stands above a bit field, the field, and what stands below it. -/
theorem split_at_field (x lo n : Nat) : x = 2 ^ lo * (2 ^ n * (x >>> lo >>> n)) + natBits x lo n <<< lo + x % 2 ^ lo := by
  have hlow := Nat.div_add_mod x (2 ^ lo)
  have hfield := Nat.div_add_mod (x / 2 ^ lo) (2 ^ n)
  simp only [natBits, Nat.shiftRight_eq_div_pow, Nat.shiftLeft_eq]
  rw [Nat.mul_comm _ (2 ^ lo), ← Nat.mul_add, hfield, hlow]

/-- Replacing a bit field keeps what stands above it and what stands below it. -/
theorem natSet_eq (x lo n v : Nat) : natSet x lo n v = 2 ^ lo * (2 ^ n * (x >>> lo >>> n) + v % 2 ^ n) + x % 2 ^ lo := by
  have hx := split_at_field x lo n
  rw [Nat.mul_add, Nat.mul_comm _ (v % 2 ^ n), ← Nat.shiftLeft_eq (v % 2 ^ n)]
  dsimp only [natSet]
  omega

theorem testBit_natSet (x lo n v i : Nat) :
    (natSet x lo n v).testBit i = if lo ≤ i ∧ i < lo + n then v.testBit (i - lo) else x.testBit i := by
  rw [natSet_eq, Nat.testBit_two_pow_mul_add _ (Nat.mod_lt _ (Nat.two_pow_pos lo)),
    Nat.testBit_two_pow_mul_add _ (Nat.mod_lt _ (Nat.two_pow_pos n))]
  rcases Nat.lt_or_ge i lo with hlo | hlo
  · simp [hlo, Nat.not_le.mpr hlo, Nat.testBit_mod_two_pow]
  · rcases Nat.lt_or_ge i (lo + n) with hn | hn
    · have h1 : ¬i < lo := by omega
      have h2 : i - lo < n := by omega
      simp [h1, h2, hlo, hn, Nat.testBit_mod_two_pow]
    · have h1 : ¬i < lo := by omega
      have h2 : ¬i - lo < n := by omega
      have h3 : lo + (n + (i - lo - n)) = i := by omega
      simp [h1, h2, Nat.not_lt.mpr hn, Nat.testBit_shiftRight, h3]

/-- A word that was written into an entry of `width` bits reads as the word that was written. -/
theorem wordOf_setWord_same (width x i v : Nat) (hi : 64 * i + 64 ≤ width) (hv : v < 2 ^ 64) :
    wordOf (BitVec.ofNat width (setWord x i v)).toNat i = v := by
  refine Nat.eq_of_testBit_eq (fun b => ?_)
  simp only [wordOf, setWord, testBit_natBits, BitVec.toNat_ofNat, Nat.testBit_mod_two_pow, testBit_natSet]
  by_cases hb : b < 64
  · have h1 : 64 * i + b < width := by omega
    simp [hb, h1]
  · simp [hb, Nat.testBit_lt_two_pow (Nat.lt_of_lt_of_le hv (Nat.pow_le_pow_right (by decide) (Nat.not_lt.mp hb)))]

/-- The other words of the entry read as before. -/
theorem wordOf_setWord_other (width x i j v : Nat) (hj : 64 * j + 64 ≤ width) (hij : j ≠ i) :
    wordOf (BitVec.ofNat width (setWord x i v)).toNat j = wordOf x j := by
  refine Nat.eq_of_testBit_eq (fun b => ?_)
  simp only [wordOf, setWord, testBit_natBits, BitVec.toNat_ofNat, Nat.testBit_mod_two_pow, testBit_natSet]
  by_cases hb : b < 64
  · have h1 : 64 * j + b < width := by omega
    have h2 : ¬(64 * i ≤ 64 * j + b ∧ 64 * j + b < 64 * i + 64) := by omega
    simp only [hb, h1, h2, decide_true, Bool.true_and, if_false]
  · simp [hb]

/-- A mask of the bits from `k` on clears the bits below. -/
theorem and_mask_from (x k n : Nat) (hk : k ≤ n) (hx : x < 2 ^ n) : x &&& (2 ^ n - 2 ^ k) = x / 2 ^ k * 2 ^ k := by
  have hpow : 2 ^ k ≤ 2 ^ n := Nat.pow_le_pow_right (by decide) hk
  have hpos := Nat.two_pow_pos k
  refine Nat.eq_of_testBit_eq (fun b => ?_)
  rw [show 2 ^ n - 2 ^ k = 2 ^ n - (2 ^ k - 1 + 1) by omega, Nat.testBit_and, Nat.testBit_two_pow_sub_succ (by omega),
    Nat.testBit_two_pow_sub_one, ← Nat.shiftRight_eq_div_pow, ← Nat.shiftLeft_eq, Nat.testBit_shiftLeft, Nat.testBit_shiftRight]
  rcases Nat.lt_or_ge b k with hb | hb
  · simp [hb, Nat.not_le.mpr hb]
  · rcases Nat.lt_or_ge b n with hn | hn
    · simp [hb, hn, Nat.not_lt.mpr hb]
    · have := Nat.testBit_lt_two_pow (Nat.lt_of_lt_of_le hx (Nat.pow_le_pow_right (by decide) hn))
      simp [hb, this]

/-! ### Register writes (00 R5, 20 R433) -/

/-- What a word of a group table entry keeps of a written value (18 R389, log 39). -/
theorem and_groupMask (x w : Nat) (hx : x < 2 ^ 64) :
    x &&& groupMask w = if w < 8 then x else if w = 8 ∨ w = 9 then x / 64 * 64 else if w = 10 then x &&& 0x0FFFFF03 else 0 := by
  have hall : x &&& (2 ^ 64 - 1) = x := by rw [Nat.and_two_pow_sub_one_eq_mod, Nat.mod_eq_of_lt hx]
  have hfrom : x &&& (2 ^ 64 - 64) = x / 64 * 64 := and_mask_from x 6 64 (by decide) hx
  unfold groupMask
  by_cases h8 : w = 8
  · simpa [h8] using hfrom
  · by_cases h9 : w = 9
    · simpa [h9] using hfrom
    · simp only [h8, h9, if_false, or_self]
      split
      · exact hall
      · split
        · rfl
        · exact Nat.and_zero x

/-- A register write completes with its effect on the state. -/
theorem registerWrite_completes {s : State} {r : DevReg} {v : W64} (P : State → Prop)
    (h : P ((s.regWrite r v.toNat).say .ok)) : Completes (.registerWrite r v) s P :=
  happen_completes (fun s => s.regWrite r v.toNat) P rfl h

/-- A register write after which the register reads as `n`, and which leaves memory alone. -/
theorem registerWrite_reads {s : State} {r : DevReg} {v : W64} {n : Nat} (hn : (s.regWrite r v.toNat).regWord r = n)
    (hm : (s.regWrite r v.toNat).mem = s.mem) : Completes (.registerWrite r v) s (fun t => t.regWord r = n ∧ t.mem = s.mem) :=
  registerWrite_completes _ ⟨by simpa using hn, by simpa using hm⟩

section

variable (s : State) (v : W64)

theorem regWord_regWrite_ttbr (p : Nat) : (s.regWrite (.ttbr p) v.toNat).regWord (.ttbr p) = v.toNat := by
  simp [State.regWrite, State.regWord]

theorem regWord_regWrite_pgtbase (p : Nat) : (s.regWrite (.pgtbase p) v.toNat).regWord (.pgtbase p) = v.toNat := by
  simp [State.regWrite, State.regWord]

theorem regWord_regWrite_tenantValid (p t : Nat) :
    (s.regWrite (.tenantValid p t) v.toNat).regWord (.tenantValid p t) = v.toNat % 2 := by
  simp only [State.regWrite, State.regWord, State.setTenant_tenant, Nat.toNat_testBit, Nat.pow_zero, Nat.div_one]

theorem regWord_regWrite_framePoolBase (p t : Nat) :
    (s.regWrite (.framePoolBase p t) v.toNat).regWord (.framePoolBase p t) = v.toNat := by
  simp [State.regWrite, State.regWord]

theorem regWord_regWrite_framePoolSize (p t : Nat) :
    (s.regWrite (.framePoolSize p t) v.toNat).regWord (.framePoolSize p t) = v.toNat := by
  simp [State.regWrite, State.regWord]

theorem regWord_regWrite_quota (l : CluId) (t : Nat) :
    (s.regWrite (.quota l t) v.toNat).regWord (.quota l t) = v.toNat % 256 := by
  simp [State.regWrite, State.regWord]

/-- The word of an image entry that is written is stored whole (log 39). -/
theorem regWord_regWrite_imageWord (p n e w : Nat) (hw : w < 8) :
    (s.regWrite (.imageWord p n e w) v.toNat).regWord (.imageWord p n e w) = v.toNat := by
  simp only [State.regWord, State.regWrite, State.setPkg_pkg, Map.get_set_same]
  exact wordOf_setWord_same 512 _ w _ (by omega) v.isLt

theorem regWord_regWrite_imageWord_other (p n e w j : Nat) (hj : j < 8) (hne : j ≠ w) :
    (s.regWrite (.imageWord p n e w) v.toNat).regWord (.imageWord p n e j) = s.regWord (.imageWord p n e j) := by
  simp only [State.regWord, State.regWrite, State.setPkg_pkg, Map.get_set_same]
  exact wordOf_setWord_other 512 _ w j _ (by omega) hne

/-- The word of a group table entry that is written takes its writable bits (18 R389). -/
theorem regWord_regWrite_groupTableWord (p e w : Nat) (hw : w < 16) :
    (s.regWrite (.groupTableWord p e w) v.toNat).regWord (.groupTableWord p e w) = v.toNat &&& groupMask w := by
  simp only [State.regWord, State.regWrite, State.setPkg_pkg, Map.get_set_same]
  exact wordOf_setWord_same 1024 _ w _ (by omega) (Nat.lt_of_le_of_lt Nat.and_le_left v.isLt)

theorem regWord_regWrite_groupTableWord_other (p e w j : Nat) (hj : j < 16) (hne : j ≠ w) :
    (s.regWrite (.groupTableWord p e w) v.toNat).regWord (.groupTableWord p e j) = s.regWord (.groupTableWord p e j) := by
  simp only [State.regWord, State.regWrite, State.setPkg_pkg, Map.get_set_same]
  exact wordOf_setWord_other 1024 _ w j _ (by omega) hne

/-- TTBR, PGTBASE, a tenant's valid bit and pool, and a quota take what their width holds (20 R433). -/
theorem registerWrite_plain (p n : Nat) (l : CluId) :
    ∀ r ∈ [((.ttbr p : DevReg), v.toNat), (.pgtbase p, v.toNat), (.tenantValid p n, v.toNat % 2), (.framePoolBase p n, v.toNat),
      (.framePoolSize p n, v.toNat), (.quota l n, v.toNat % 256)],
      Completes (.registerWrite r.1 v) s (fun t => t.regWord r.1 = r.2 ∧ t.mem = s.mem) := by
  simp only [List.forall_mem_cons]
  exact ⟨registerWrite_reads (regWord_regWrite_ttbr s v p) rfl, registerWrite_reads (regWord_regWrite_pgtbase s v p) rfl,
    registerWrite_reads (regWord_regWrite_tenantValid s v p n) rfl, registerWrite_reads (regWord_regWrite_framePoolBase s v p n) rfl,
    registerWrite_reads (regWord_regWrite_framePoolSize s v p n) rfl, registerWrite_reads (regWord_regWrite_quota s v l n) rfl,
    fun _ h => absurd h List.not_mem_nil⟩

/-- A word of an image entry is stored whole, and the entry's other words stay (15 R355, log 39). -/
theorem registerWrite_imageWord (p n e w : Nat) (hw : w < 8) :
    Completes (.registerWrite (.imageWord p n e w) v) s (fun t => t.regWord (.imageWord p n e w) = v.toNat
      ∧ ∀ j, j < 8 → j ≠ w → t.regWord (.imageWord p n e j) = s.regWord (.imageWord p n e j)) := by
  refine registerWrite_completes _ ?_
  simp only [State.say_regWord]
  exact ⟨regWord_regWrite_imageWord s v p n e w hw, regWord_regWrite_imageWord_other s v p n e w⟩

/-- A word of a group table entry takes its writable bits, and the entry's other words stay (18 R389). -/
theorem registerWrite_groupTableWord (p e w : Nat) (hw : w < 16) :
    Completes (.registerWrite (.groupTableWord p e w) v) s (fun t => t.regWord (.groupTableWord p e w)
        = (if w < 8 then v.toNat else if w = 8 ∨ w = 9 then v.toNat / 64 * 64 else if w = 10 then v.toNat &&& 0x0FFFFF03 else 0)
      ∧ ∀ j, j < 16 → j ≠ w → t.regWord (.groupTableWord p e j) = s.regWord (.groupTableWord p e j)) := by
  refine registerWrite_completes _ ?_
  simp only [State.say_regWord]
  exact ⟨(regWord_regWrite_groupTableWord s v p e w hw).trans (and_groupMask _ w v.isLt),
    regWord_regWrite_groupTableWord_other s v p e w⟩

/-- The next word of a memory key follows the words before it (20 R432, log 22). -/
theorem registerWrite_memoryKey (p n : Nat) : Completes (.registerWrite (.memoryKey p n) v) s (fun t => (t.pkg p).memKeys.find n
    = some ((s.pkg p).memKeys.get n 0 <<< 64 ||| BitVec.setWidth 512 v)) := by
  refine registerWrite_completes _ ?_
  simp [State.regWrite, Map.find_set_same, Nat.mod_eq_of_lt v.isLt]

/-- The next word of a link key follows the words before it (18 R388, log 22). -/
theorem registerWrite_linkKey (p n e : Nat) : Completes (.registerWrite (.linkKey p n e) v) s (fun t => (t.pkg p).linkKeys.find (n, e)
    = some ((s.pkg p).linkKeys.get (n, e) 0 <<< 64 ||| BitVec.setWidth 256 v)) := by
  refine registerWrite_completes _ ?_
  simp [State.regWrite, Map.find_set_same, Nat.mod_eq_of_lt v.isLt]

/-- A write to ECCR gives CETH and STRONG, and its CLR bit clears both counters (21 R451, R453). -/
theorem registerWrite_ceth (u : RasUnit) : Completes (.registerWrite (.ceth u) v) s (fun t =>
    (t.rasOf u).ceth = v.toNat / 2 ^ 16 % 2 ^ 16 ∧ (t.rasOf u).strong = v.toNat.testBit 0 ∧ (t.rasOf u).done = false
    ∧ (t.rasOf u).ce = (if v.toNat.testBit 3 then 0 else (s.rasOf u).ce)
    ∧ (t.rasOf u).ue = (if v.toNat.testBit 3 then 0 else (s.rasOf u).ue)) := by
  refine registerWrite_completes _ ?_
  simp only [State.regWrite, State.say_rasOf, State.nameCode_rasOf, State.setRas_rasOf, Ras.write, natBits,
    Nat.shiftRight_eq_div_pow, true_and]
  cases v.toNat.testBit 3 <;> exact ⟨rfl, rfl⟩

/-- A write to REMAP without GO gives its RW fields alone (21 R464). -/
theorem registerWrite_remap (p n : Nat) (hgo : v.toNat.testBit 0 = false) :
    Completes (.registerWrite (.remap p n) v) s (fun t => (t.die p n).remap = { (s.die p n).remap with
      id := v.toNat / 2 ^ 32 % 2 ^ 10, y := v.toNat / 2 ^ 22 % 2 ^ 6, x := v.toNat / 2 ^ 16 % 2 ^ 6, sup := v.toNat.testBit 1 }) := by
  refine registerWrite_completes _ ?_
  simp [State.regWrite, hgo, Remap.write, natBits, Nat.shiftRight_eq_div_pow]

/-- FWADDR keeps its 4 KiB alignment, and its value while ST is FAILED (22 R469, log 38). -/
theorem registerWrite_fwaddr (p : Nat) : Completes (.registerWrite (.fwaddr p) v) s (fun t =>
    (t.pkg p).fwaddr = if (s.pkg p).st = .failed then (s.pkg p).fwaddr else v.toNat / 4096 * 4096) := by
  refine registerWrite_completes _ ?_
  by_cases h : (s.pkg p).st = .failed <;> simp [State.regWrite, h]

/-- FWSIZE keeps its value while ST is FAILED (22 R469). -/
theorem registerWrite_fwsize (p : Nat) : Completes (.registerWrite (.fwsize p) v) s (fun t =>
    (t.pkg p).fwsize = if (s.pkg p).st = .failed then (s.pkg p).fwsize else v.toNat) := by
  refine registerWrite_completes _ ?_
  by_cases h : (s.pkg p).st = .failed <;> simp [State.regWrite, h]

/-- ATTN keeps its value while ST is FAILED and while a report is under way (22 R469, R475). -/
theorem registerWrite_attn (p w : Nat) (hw : w < 4) : Completes (.registerWrite (.attn p w) v) s (fun t => t.regWord (.attn p w)
    = if (s.pkg p).st = .failed ∨ (s.pkg p).attst = 1 then s.regWord (.attn p w) else v.toNat) := by
  refine registerWrite_completes _ ?_
  by_cases h : (s.pkg p).st = .failed ∨ (s.pkg p).attst = 1 <;> simp [State.regWrite, State.regWord, h, hw]

end

/-! ### Writes of 1 and the copies of the group table (09 R177, 13 R312, 18 R389) -/

/-- SNCZ clears SNC, keeps LCHK, and touches neither layout tags nor the scratchpad. -/
theorem sctlSncz_completes (s : State) (k : CoreId) : Completes (.sctlSncz k) s (fun t =>
    (t.tc k).sctl = (s.tc k).sctl &&& 1 ∧ (t.tc k).layout = (s.tc k).layout ∧ (t.tc k).spad = (s.tc k).spad) :=
  happen_completes (fun s => s.setTc k TaskCore.clearSnc) _ rfl (by simp [TaskCore.clearSnc])

/-- LTZ makes every layout tag 0, and touches neither SCTL nor the scratchpad. -/
theorem sctlLtz_completes (s : State) (k : CoreId) : Completes (.sctlLtz k) s (fun t =>
    (t.tc k).layout = [] ∧ (t.tc k).sctl = (s.tc k).sctl ∧ (t.tc k).spad = (s.tc k).spad) :=
  happen_completes (fun s => s.setTc k TaskCore.clearLayout) _ rfl (by simp [TaskCore.clearLayout])

/-- A 1 written to FAILED clears FSTAT and its list, and nothing else of the register file. -/
theorem SprFile.write_fstat_one (r : SprFile) : r.write 7 1 = { r with fstat := 0, lost := [] } := rfl

/-- A 1 written to FAILED clears it and its list, and changes nothing else of the context. -/
theorem fstatFailedClear_completes (s : State) (c : CtxId) : Completes (.fstatFailedClear c) s (fun t =>
    bitAt (t.ctx c).spr.fstat 0 = false ∧ (t.ctx c).spr.lost = []
    ∧ t.ctx c = { s.ctx c with spr := { (s.ctx c).spr with fstat := (t.ctx c).spr.fstat, lost := [] } }) :=
  happen_completes (fun s => s.setCtx c (fun k => { k with spr := k.spr.write 7 1 })) _ rfl
    (by simp only [State.say_ctx, State.setCtx_ctx, SprFile.write_fstat_one, and_true]; rfl)

/-- An entry of which the two copies differ is brought to I/O die 1; the copy of die 0 stays. -/
theorem groupTableWrite_completes (s : State) (p iodie e : Nat) (hio : iodie < 2)
    (hne : (s.pkg p).groupTable.get (0, e) 0 ≠ (s.pkg p).groupTable.get (1, e) 0) :
    Completes (.groupTableWrite p iodie e) s (fun t =>
      (t.pkg p).groupTable.get (1, e) 0 = (s.pkg p).groupTable.get (0, e) 0
      ∧ (t.pkg p).groupTable.get (0, e) 0 = (s.pkg p).groupTable.get (0, e) 0) := by
  have henabled : (decide (iodie < 2) && !s.copiesAgree p e) = true := by
    simp only [hio, decide_true, Bool.true_and, State.copiesAgree, Bool.not_eq_true', beq_eq_false_iff_ne]
    exact hne
  have hexec : exec (.groupTableWrite p iodie e) s = execGroupTableWrite p iodie e s := rfl
  rw [execGroupTableWrite, henabled] at hexec
  refine happen_completes _ _ hexec ?_
  simp [Map.get_set_other _ ((1, e) : Nat × Nat) (0, e) _ _ (by simp)]

/-- Settles O54, clause by clause: each write runs as an event that is enabled, and the register it names reads back the bits
that the write keeps. -/
theorem registerWriteEvents : Obligations.RegisterWriteEvents := by
  unfold Obligations.RegisterWriteEvents
  refine ⟨fun s k c => ⟨sctlSncz_completes s k, sctlLtz_completes s k, fstatFailedClear_completes s c⟩,
    groupTableWrite_completes, fun s v p n e w l u => ?_⟩
  exact ⟨registerWrite_plain s v p n l, registerWrite_imageWord s v p n e w, registerWrite_groupTableWord s v p e w,
    registerWrite_memoryKey s v p n, registerWrite_linkKey s v p n e, registerWrite_ceth s v u, registerWrite_remap s v p n,
    registerWrite_fwaddr s v p, registerWrite_fwsize s v p, registerWrite_attn s v p w⟩

end Sys2Proof.Machine
end

section
/-! The machine after reset (22 R469), and the frame of class S and V instructions (05 R75-R80): every effect of such a word is a
result. -/

namespace Sys2Proof.Machine

open Sys2Proof Sys2Proof.Lanes

/-! ### Reset (06 R118, 21 R451, R458, R464, 22 R469) -/

/-- In a table that gives every listed key one value, a read with that value as its default gives it for every key. -/
theorem Map.get_map_const {κ ν : Type} [DecidableEq κ] (v : ν) (k : κ) (ks : List κ) : Map.get (ks.map (fun a => (a, v))) k v = v := by
  induction ks with
  | nil => rfl
  | cons a ks ih =>
    simp only [Map.get, List.map_cons, Map.find] at ih ⊢
    split
    · rfl
    · exact ih

/-- No core has begun anything at reset. -/
theorem reset_ctx (c : CtxId) : State.reset.ctx c = Ctx.fresh := rfl

theorem reset_tc (k : CoreId) : State.reset.tc k = TaskCore.fresh := rfl

/-- A package that is not listed at reset is as before power-up. -/
theorem reset_pkg_other (p : Nat) (hp : p ≠ 0) : State.reset.pkg p = Pkg.fresh := by
  simp [State.pkg, State.reset, Map.get, Map.find, Ne.symm hp]

/-- Every die at reset is as before power-up, in the package that is there and in those that are not. -/
theorem reset_die (p d : Nat) : State.reset.die p d = DieState.fresh := by
  by_cases hp : p = 0
  · subst hp
    exact Map.get_map_const DieState.fresh d (List.range 4)
  · rw [State.die, reset_pkg_other p hp]
    rfl

theorem freshCtx_getV (n : BitVec 5) : Ctx.fresh.getV n = ⟨0, .raw⟩ := by
  have hn : n.toNat < 32 := n.isLt
  simp [Ctx.getV, Ctx.fresh, VReg.rawZero, hn]

theorem freshRas_word : Ras.fresh.word = 0xFFFF * 2 ^ 16 + 2 := by decide

theorem freshDie_remap : DieState.fresh.remap.word = 0 := by decide

/-- Settles O59: each register of the reset state, read by its accessor. -/
theorem resetState : Obligations.ResetState := by
  have hboot : State.reset.bootWord 0 = 0 := by decide
  have hspr : ∀ n ∈ [0x20, 0x21, 0x22, 0x23, 0x28, 0x29], Ctx.fresh.spr.read n = 0 := by decide
  have hcore : ∀ n ∈ [4, 5, 0x10, 0x11, 0x12, 0x13], TaskCore.fresh.sprRead n = 0 := by decide
  unfold Obligations.ResetState
  refine ⟨⟨rfl, hboot, rfl, rfl, rfl, rfl, rfl, rfl, rfl, rfl, rfl⟩, fun c => ?_, fun k => ?_, fun _ => freshRas_word, fun p d => ?_,
    fun _ => rfl, rfl, State.reset_mem_wf⟩
  · rw [reset_ctx]
    exact ⟨rfl, rfl, rfl, rfl, hspr, freshCtx_getV⟩
  · rw [reset_tc]
    exact ⟨hcore, rfl⟩
  · rw [reset_die, freshDie_remap]

/-! ### Entries of which every effect is a result (05 R75-R80) -/

/-- An entry of which every effect is a result: its effect keeps the frame, and it does nothing while it waits or where its guard is
false. -/
def Entry.ResultOnly (e : Entry) : Prop := (∀ s, ResultFrame s (e.act s)) ∧ e.wait = id ∧ e.skip = id

theorem ResultFrame.refl (s : State) : ResultFrame s s := (LinksOnly.refl s).frame

theorem effect_frame {i : Instr} {f : Fields} {e : Entry} (he : e.ResultOnly) (s : State) : ResultFrame s (effect i f e s) := by
  obtain ⟨hact, -, hskip⟩ := he
  unfold effect
  split
  · exact (hact s).trans (popLinks_frame _ _ _)
  · rw [hskip]
    exact ResultFrame.refl s

/-- An entry of results that answers a next state without a fault keeps the frame, in every phase and with every verdict. -/
theorem run_frame {i : Instr} {f : Fields} {e : Entry} (he : e.ResultOnly) {s t : State} (hrun : run i f e s = .next t)
    (hfault : s.pk.phase = .effect ∨ ∀ cls fi, t.pk.verdict ≠ .fault cls fi) : ResultFrame s t := by
  have hwait : e.wait s = s := congrFun he.2.1 s
  cases hp : s.pk.phase with
  | effect =>
    rw [run_effect i f e s hp] at hrun
    cases hrun
    exact effect_frame he s
  | check =>
    simp only [run, hp, hwait, ite_self, Host.Outcome.next.injEq] at hrun
    subst hrun
    exact say_frame s _
  | alone =>
    simp only [run, hp] at hrun
    cases hj : judge i f e s with
    | ok | idle =>
      simp only [hj, Host.Outcome.next.injEq] at hrun
      subst hrun
      exact (effect_frame he s).trans (say_frame _ _)
    | stall | hold =>
      simp only [hj, hwait, Host.Outcome.next.injEq] at hrun
      subst hrun
      exact say_frame s _
    | fault cls fi =>
      simp only [hj, Host.Outcome.next.injEq] at hrun
      subst hrun
      exact absurd rfl (hfault.resolve_left (by rw [hp]; decide) cls fi)

/-! ### The shapes of class S and V entries -/

theorem pendOn_frame (s : State) (ds : List Dest) : ResultFrame s (s.pendOn ds).2 :=
  (linksOnly_next s (s.nextId + 1)).frame.trans (setMe_frame _ _ rfl)

theorem destOf_later_frame (s : State) (vec : Bool) (d : Sel) (lat : Nat) (v : RVal) :
    ResultFrame s ((s.destOf vec d).2.later (s.destOf vec d).1 lat v) :=
  (linksOnly_destOf s vec d).frame.trans (later_frame _ _ _ _)

theorem freezeAfter_frame (s : State) (cause : Nat) (addr : W64) : ResultFrame s (s.freezeAfter cause addr) :=
  ⟨rfl, rfl, rfl, fun _ _ => rfl, fun _ => rfl⟩

/-- A divide marks its destination pending and holds the divider. -/
theorem divided_frame (s : State) (d : Sel) (x : Option Divide) :
    ResultFrame s (((s.destOf false d).2.pendOn [(s.destOf false d).1]).2.setMe (fun c => { c with divide := x })) :=
  ((linksOnly_destOf s false d).frame.trans (pendOn_frame _ _)).trans (setMe_frame _ _ rfl)

/-- A conversion's result is in flight, whether it keeps lanes of its destination or not. -/
theorem converted_frame (s : State) (keeps : Bool) (d : Sel) (lat : Nat) (r : VReg) :
    ResultFrame s (if keeps then (s.destOf true d).2.later (s.destOf true d).1 lat (.v r) else s.resultV d lat r) := by
  split
  · exact destOf_later_frame s true d lat _
  · exact resultV_frame s d lat r

/-- Every instruction of class S runs an entry of which every effect is a result. -/
theorem scalar_entry (i : Instr) (f : Fields) (hf : i.fields = some f) (hcl : i.key.map OpKey.cl = some 0) (s : State) :
    ∃ e : Entry, exec i s = run i f e s ∧ e.ResultOnly := by
  cases i
  case add | sub | mul | mulh | mulhu | and | or | xor | andn | shl | shr | sra | rol | min | minu | max | maxu | sel | mov | movh | lea
      | ext | extu | ins | sext | zext | clz | ctz | ffs | popc | bswap | brev | fadd | fmul | ffma | fmin | fmax | fcvt | mrd | rdtime =>
    cases hf
    exact ⟨_, rfl, fun s => resultG_frame s _ _ _, rfl, rfl⟩
  case div | divu | rem | remu =>
    cases hf
    exact ⟨_, rfl, fun s => divided_frame s _ _, rfl, rfl⟩
  case cmp | cmpf | pset =>
    cases hf
    exact ⟨_, rfl, fun s => resultP_frame s _ _ _, rfl, rfl⟩
  case mwr =>
    cases hf
    refine ⟨_, rfl, fun s => ?_, rfl, rfl⟩
    dsimp only
    split
    · exact freezeAfter_frame s _ _
    · exact later_frame s _ _ _
  all_goals cases hcl

/-- Every instruction of class V runs an entry of which every effect is a result. -/
theorem vector_entry (i : Instr) (f : Fields) (hf : i.fields = some f) (hcl : i.key.map OpKey.cl = some 1) (s : State) :
    ∃ e : Entry, exec i s = run i f e s ∧ e.ResultOnly := by
  cases i
  case vadd | vsub | vmul | vfma | vfms | vfnma | vmin | vmax | vabs | vneg | vand | vor | vxor | vandn | vshl | vshr | vsra | vmulh
      | vavg | vabd | vsel | vmov | vbc | vset | vperm | vcomp | vexpd | vred | vscan | vdot4 | vclz | vpopc | vffs | vexp2 | vlog2
      | vrcp | vrsq | vsin | vcos | vtanh | vsat =>
    cases hf
    exact ⟨_, rfl, fun s => resultV_frame s _ _ _, rfl, rfl⟩
  case vcmp =>
    cases hf
    exact ⟨_, rfl, fun s => resultP_frame s _ _ _, rfl, rfl⟩
  case vget =>
    cases hf
    exact ⟨_, rfl, fun s => later_frame s _ _ _, rfl, rfl⟩
  case vtag | vbmax =>
    cases hf
    exact ⟨_, rfl, fun s => destOf_later_frame s _ _ _ _, rfl, rfl⟩
  case vcvt | vqnt | vdqt =>
    cases hf
    exact ⟨_, rfl, fun s => converted_frame s _ _ _ _, rfl, rfl⟩
  all_goals cases hcl

/-- Settles O19: a word of class S or V runs an entry of results, and such an entry keeps the frame. -/
theorem scalarAndVectorFrame : Obligations.ScalarAndVectorFrame := by
  intro i f k s t hf hk hcl hexec hfault
  have hentry : ∃ e : Entry, exec i s = run i f e s ∧ e.ResultOnly := by
    rcases Nat.le_one_iff_eq_zero_or_eq_one.mp hcl with h0 | h1
    · exact scalar_entry i f hf (by rw [hk, Option.map_some, h0]) s
    · exact vector_entry i f hf (by rw [hk, Option.map_some, h1]) s
  obtain ⟨e, hrun, he⟩ := hentry
  exact run_frame he (hrun.symm.trans hexec) hfault

end Sys2Proof.Machine
end

section
/-! A packet whose context waits for room in a stream (18 R386), against the clause of the chain that has every annulled packet issue. -/

namespace Sys2Proof.Machine

open Sys2Proof

/-! ### A packet that waits for room in a stream (05 R72, R78, R83, 18 R386) -/

/-- A packet behind a write of its context that waits for room in a stream does not issue, an annulled one neither. -/
theorem attempt_annulled_stalls (ex : Instr → State → Out) {s s1 : State} {c : CtxId} {bits : Nat} (htry : s.canTry c = true)
    (hfetch : ({ s with cur := c, pk := Pk.fresh } : State).fetch c = (.line bits, s1)) (hstay : (s1.ctx c).leaving = false)
    (hanl : (s1.ctx c).pcq0.anl = true) (hstall : s1.streamStall = true) : s.attempt ex c = (.waits, .next s1) := by
  simp [State.attempt, htry, hfetch, hstay, State.tryPacket, hanl, hstall]

/-- A cycle in which the one context that may be tried waits chooses none. -/
theorem chosen_alone_waits (ex : Instr → State → Out) {s s1 : State} {k : CoreId} {n : Nat} (horder : s.issueOrder k = [n])
    (hwaits : s.attempt ex ⟨k, n⟩ = (.waits, .next s1)) : s.chosen ex k = none := by
  rw [State.chosen, horder, tryAll, hwaits]
  rfl

/-- The row of a packet that the arbiter does not choose is not enabled. -/
theorem cycleOf_idle (ex : Instr → State → Out) {s : State} {c : CtxId} (enabled : Bool) (hchosen : s.chosen ex c.core = none) :
    cycleOf ex c enabled s = .next (s.say .idle) := by
  simp [cycleOf, hchosen, happen]

theorem exec_annulledPacket (c : CtxId) (s : State) :
    exec (.annulledPacket c) s = cycleOf wordExec c (s.canTry c && (s.ctx c).pcq0.anl) s := rfl

/-- What answers that it is not enabled does not complete, outside the effects of a packet. -/
theorem not_completes_of_idle {i : Instr} {s : State} {P : State → Prop} (hphase : s.pk.phase ≠ .effect)
    (hexec : exec i s = .next (s.say .idle)) : ¬ Completes i s P := by
  rintro ⟨t, ht, hok, -⟩
  cases hexec.symm.trans ht
  exact nomatch hok hphase

/-! ### The full stream (18 R386) -/

/-- A `gst` of the boot supervisor on its way to package 1, with its number in the stream to that package. -/
def sentGst (n : Nat) : Gst where
  ctx := bootSup
  incarn := 0
  task := none
  dom := 0
  h := 0
  ea := 0
  pc := 0
  bytes := []
  pa := some (2 ^ 47)
  stream := some (1, n)
  stage := .issued
  engine := none
  asked := 0
  since := 0

/-- A store of the boot supervisor to a scratchpad of package 1, whose packet has no number in the stream yet. -/
def waitingStore : Access where
  ctx := bootSup
  incarn := 0
  task := none
  op := .st
  ea := BitVec.ofNat 64 (12 * 2 ^ 60 + 2 ^ 51)
  pc := 0
  dom := 0
  nud := 0
  cad := 0
  reach := 3
  ord := false
  sel := 0
  tok := none
  seq := 0
  parts := [⟨12 * 2 ^ 60 + 2 ^ 51, [some 0], 1, none, false, [], false, false, none⟩]
  stage := .issued
  granted := false
  since := 0
  abandoned := false
  scope := 0
  bad := none

/-- The 4,096 packets of a full stream. -/
def fullStream : Map Nat Gst := (List.range 4096).map (fun n => (n + 2, sentGst n))

/-- A context that runs, at an annulled packet. -/
def annulledCtx : Ctx := { Ctx.fresh with life := .running, pcq0 := ⟨0, false, false, true⟩ }

/-- The boot supervisor stands at an annulled packet of a line that its loop buffer holds; its store waits behind what its streams
hold. -/
def storeWaits (gs : Map Nat Gst) : State :=
  { State.reset with
    cur := bootSup
    nextId := 5000
    cores := [(bootSup.core, { Core.fresh with tc := { TaskCore.fresh with
      ctxs := [(0, annulledCtx)], pins := [⟨0, 0, 0, false⟩] } })]
    accs := [(1, waitingStore)]
    gsts := gs }

section
variable (gs : Map Nat Gst)

theorem storeWaits_gsts : (storeWaits gs).gsts = gs := rfl

theorem storeWaits_phase : (storeWaits gs).pk.phase = .alone := rfl

theorem storeWaits_ctx : (storeWaits gs).ctx bootSup = annulledCtx := rfl

theorem storeWaits_canTry : (storeWaits gs).canTry bootSup = true := rfl

theorem storeWaits_readLine : (storeWaits gs).readLine bootSup 0 = (.ok 0, storeWaits gs) := rfl

theorem storeWaits_readPc : (storeWaits gs).readPc bootSup 0 = (.ok 0, storeWaits gs) := by
  have hbad : badPc 0 = false := by decide
  have hline : pcLine 0 = 0 := by decide
  have hparity : parityOk 0 = true := by decide +kernel
  have hcheck : (storeWaits gs).checkParity bootSup 0 0 = (.ok 0, storeWaits gs) := by
    rw [State.checkParity, hparity]
    rfl
  simp only [State.readPc, hbad, Bool.false_eq_true, if_false, hline, storeWaits_readLine, hcheck]
  rfl

theorem storeWaits_fetch :
    ({ storeWaits gs with cur := bootSup, pk := Pk.fresh } : State).fetch bootSup = (.line 0, storeWaits gs) := by
  have htried : ({ storeWaits gs with cur := bootSup, pk := Pk.fresh } : State) = storeWaits gs := rfl
  have hrepin : (storeWaits gs).repinLate bootSup.core = storeWaits gs := rfl
  have hhead : (storeWaits gs).resolveHead bootSup = (.line 0, storeWaits gs) := rfl
  have hdue : (storeWaits gs).resolveDue bootSup = (.line 0, storeWaits gs) := rfl
  have hpc : ((storeWaits gs).ctx bootSup).pcq0.pc = 0 := rfl
  have hword : lineWordOk 0 = true := by decide
  simp only [htried, State.fetch, hrepin, hhead, hdue, State.fetchHead, hpc, storeWaits_readPc, hword, Bool.not_true, Bool.false_eq_true,
    if_false]

theorem storeWaits_issueOrder : (storeWaits gs).issueOrder bootSup.core = [0] := rfl

end

theorem fullStream_length :
    (fullStream.filter (fun e => e.2.ctx.core == bootSup.core && e.2.stream.any (fun n => n.1 == 1))).length = 4096 := by
  rw [List.filter_eq_self.mpr]
  · rw [fullStream, List.length_map, List.length_range]
  · intro e he
    obtain ⟨n, -, rfl⟩ := List.mem_map.mp he
    rfl

theorem storeWaits_streamStall : (storeWaits fullStream).streamStall = true := by
  have hin : (storeWaits fullStream).inStream bootSup.core 1 = 4096 := by
    rw [State.inStream, storeWaits_gsts, fullStream_length]
    rfl
  have hover : (storeWaits fullStream).overStream bootSup.core [1] = true := by
    rw [State.overStream, List.any_cons, hin]
    rfl
  have hpackets : waitingStore.packets Part.package = [1] := by decide +kernel
  have hcore : waitingStore.ctx.core = bootSup.core := rfl
  have hmine : (storeWaits fullStream).ofMine waitingStore.ctx waitingStore.task = true := rfl
  have haccs : (storeWaits fullStream).accs = [(1, waitingStore)] := rfl
  rw [State.streamStall, haccs, List.any_cons, hpackets, hmine, hcore, hover]
  rfl

/-- The boot supervisor's annulled packet is first in the arbiter's order, and the arbiter chooses none: the store stalls the packet. -/
theorem storeWaits_idle : exec (.annulledPacket bootSup) (storeWaits fullStream) = .next ((storeWaits fullStream).say .idle) := by
  have hwaits : (storeWaits fullStream).attempt wordExec bootSup = (.waits, .next (storeWaits fullStream)) :=
    attempt_annulled_stalls wordExec (storeWaits_canTry _) (storeWaits_fetch _) (by rw [storeWaits_ctx]; rfl)
      (by rw [storeWaits_ctx]; rfl) storeWaits_streamStall
  rw [exec_annulledPacket]
  exact cycleOf_idle wordExec _ (chosen_alone_waits wordExec (storeWaits_issueOrder _) hwaits)

/-- Refutes O37: the clause on annulled packets leaves out the stall of 18 R386. In `storeWaits fullStream` the line of an annulled
packet has been read and its context is first in the arbiter's order, but a store of the context waits for room in its stream, and the
packet does not issue. -/
theorem not_chainMovesAtTheBoundary : ¬ Obligations.ChainMovesAtTheBoundary := by
  unfold Obligations.ChainMovesAtTheBoundary
  rintro ⟨-, -, -, -, hpackets, -⟩
  obtain ⟨hannulled, -⟩ := hpackets (storeWaits fullStream) (storeWaits fullStream) bootSup 0 (storeWaits_canTry _) (storeWaits_fetch _)
    (by rw [storeWaits_ctx]; rfl) (by rw [storeWaits_ctx]; rfl) (by rw [storeWaits_ctx]; rfl) (by rw [storeWaits_issueOrder]; rfl)
  rw [storeWaits_ctx] at hannulled
  exact not_completes_of_idle (by rw [storeWaits_phase]; decide) storeWaits_idle (hannulled rfl rfl)

end Sys2Proof.Machine
end

section
/-! The scalar instructions on integers, fields, predicates and special registers (06 R104, R107-R115, R117-R120): what their functions
compute as numbers and as bits, and the one result that each writes. -/

namespace Sys2Proof.Alu

open Sys2Proof

/-! ### Integer operations as numbers (06 R104) -/

theorem add_eq (a b : W64) : a + b = BitVec.ofNat 64 (a.toNat + b.toNat) := by
  rw [BitVec.ofNat_add, BitVec.ofNat_toNat, BitVec.ofNat_toNat, BitVec.setWidth_eq, BitVec.setWidth_eq]

theorem sub_eq (a b : W64) : a - b = BitVec.ofInt 64 ((a.toNat : Int) - b.toNat) := by
  apply BitVec.eq_of_toInt_eq
  rw [BitVec.toInt_sub, BitVec.toInt_ofInt, BitVec.toInt_eq_toNat_bmod, BitVec.toInt_eq_toNat_bmod, Int.bmod_sub_bmod,
    Int.sub_bmod_bmod]

theorem mul_eq (a b : W64) : a * b = BitVec.ofNat 64 (a.toNat * b.toNat) := by
  rw [BitVec.ofNat_mul, BitVec.ofNat_toNat, BitVec.ofNat_toNat, BitVec.setWidth_eq, BitVec.setWidth_eq]

theorem shl_eq (a : W64) (n : Nat) : a <<< n = BitVec.ofNat 64 (a.toNat * 2 ^ n) := by
  apply BitVec.eq_of_toNat_eq
  rw [BitVec.toNat_shiftLeft, BitVec.toNat_ofNat, Nat.shiftLeft_eq]

theorem shr_eq (a : W64) (n : Nat) : a >>> n = BitVec.ofNat 64 (a.toNat / 2 ^ n) := by
  apply BitVec.eq_of_toNat_eq
  rw [BitVec.toNat_ushiftRight, BitVec.toNat_ofNat, Nat.shiftRight_eq_div_pow,
    Nat.mod_eq_of_lt (Nat.lt_of_le_of_lt (Nat.div_le_self _ _) a.isLt)]

theorem sra_eq (a : W64) (n : Nat) : a.sshiftRight n = BitVec.ofInt 64 (a.toInt / 2 ^ n) := by
  simp only [BitVec.sshiftRight, Int.shiftRight_eq_div_pow, Int.natCast_pow, Int.cast_ofNat_Int]

theorem rol_eq (a b : W64) : rol a b = a.rotateLeft (b.toNat % 64) := by
  rw [BitVec.rotateLeft, Nat.mod_mod]
  rfl

/-- Where equal keys mean equal values, a choice by `<` is the choice by `≤`. -/
theorem ite_lt_eq_ite_le {α β : Type} {lt le : Prop} [Decidable lt] [Decidable le] {x y : α} {a b : β} (hle : le ↔ lt ∨ x = y)
    (h : x = y → a = b) : (if lt then a else b) = if le then a else b := by
  by_cases hlt : lt
  · rw [if_pos hlt, if_pos (hle.mpr (.inl hlt))]
  · by_cases heq : x = y
    · rw [if_neg hlt, if_pos (hle.mpr (.inr heq)), h heq]
    · rw [if_neg hlt, if_neg (fun hq => (hle.mp hq).elim hlt heq)]

theorem smin_eq (a b : W64) : smin a b = if a.toInt ≤ b.toInt then a else b := by
  simpa only [smin, BitVec.slt, decide_eq_true_eq] using ite_lt_eq_ite_le Int.le_iff_lt_or_eq BitVec.eq_of_toInt_eq

theorem smax_eq (a b : W64) : smax a b = if a.toInt ≤ b.toInt then b else a := by
  simpa only [smax, BitVec.slt, decide_eq_true_eq] using ite_lt_eq_ite_le Int.le_iff_lt_or_eq (fun h => (BitVec.eq_of_toInt_eq h).symm)

theorem umin_eq (a b : W64) : umin a b = if a.toNat ≤ b.toNat then a else b := by
  simpa only [umin, BitVec.ult, decide_eq_true_eq] using ite_lt_eq_ite_le Nat.le_iff_lt_or_eq BitVec.eq_of_toNat_eq

theorem umax_eq (a b : W64) : umax a b = if a.toNat ≤ b.toNat then b else a := by
  simpa only [umax, BitVec.ult, decide_eq_true_eq] using ite_lt_eq_ite_le Nat.le_iff_lt_or_eq (fun h => (BitVec.eq_of_toNat_eq h).symm)

theorem and_eq (a b : W64) : a &&& b = BitVec.ofNat 64 (a.toNat &&& b.toNat) := by
  rw [← BitVec.toNat_and, BitVec.ofNat_toNat, BitVec.setWidth_eq]

theorem or_eq (a b : W64) : a ||| b = BitVec.ofNat 64 (a.toNat ||| b.toNat) := by
  rw [← BitVec.toNat_or, BitVec.ofNat_toNat, BitVec.setWidth_eq]

theorem xor_eq (a b : W64) : a ^^^ b = BitVec.ofNat 64 (a.toNat ^^^ b.toNat) := by
  rw [← BitVec.toNat_xor, BitVec.ofNat_toNat, BitVec.setWidth_eq]

/-! ### Moves and bit fields (06 R108-R111) -/

theorem movh_eq (a b : W64) : movh a b = BitVec.ofNat 64 (b.toNat % 2 ^ 32 * 2 ^ 32 + a.toNat % 2 ^ 32) := by
  apply BitVec.eq_of_toNat_eq
  have hlow : a.toNat % 2 ^ 32 < 2 ^ 32 := Nat.mod_lt _ (by decide)
  have hand : a.toNat &&& 0xFFFFFFFF = a.toNat % 2 ^ 32 := Nat.and_two_pow_sub_one_eq_mod a.toNat 32
  have hshift : b.toNat * 2 ^ 32 % 2 ^ 64 = b.toNat % 2 ^ 32 * 2 ^ 32 := Nat.mul_mod_mul_right (2 ^ 32) b.toNat (2 ^ 32)
  have hor : 2 ^ 32 * (b.toNat % 2 ^ 32) + a.toNat % 2 ^ 32 = 2 ^ 32 * (b.toNat % 2 ^ 32) ||| a.toNat % 2 ^ 32 :=
    Nat.two_pow_add_eq_or_of_lt hlow _
  rw [movh, BitVec.toNat_or, BitVec.toNat_and, BitVec.toNat_shiftLeft, Nat.shiftLeft_eq, hshift, BitVec.toNat_ofNat,
    BitVec.toNat_ofNat, Nat.mod_eq_of_lt (a := 0xFFFFFFFF) (by decide), hand, Nat.mul_comm, ← hor]
  omega

theorem lea_eq (a b off : W64) : a + off + b = BitVec.ofInt 64 (a.toInt + off.toInt + b.toInt) := by
  rw [BitVec.ofInt_add, BitVec.ofInt_add, BitVec.ofInt_toInt, BitVec.ofInt_toInt, BitVec.ofInt_toInt]

theorem widthOf_pos (n : Nat) : 0 < widthOf n := by
  unfold widthOf
  split <;> omega

theorem widthOf_le (n : Nat) : widthOf n ≤ 64 := by
  unfold widthOf
  split <;> omega

/-- A field of which the top bit is clear is below half its range, and stands for itself. -/
theorem intOf_signed (w x : Nat) (hw : 0 < w) : Num.intOf w false x
    = if x % 2 ^ w < 2 ^ (w - 1) then ((x % 2 ^ w : Nat) : Int) else ((x % 2 ^ w : Nat) : Int) - 2 ^ w := by
  obtain ⟨v, rfl⟩ := Nat.exists_eq_add_one_of_ne_zero (Nat.ne_of_gt hw)
  have hsplit : x % 2 ^ (v + 1) = x % 2 ^ v + 2 ^ v * (x / 2 ^ v % 2) := by rw [Nat.pow_succ, Nat.mod_mul]
  have hlow : x % 2 ^ v < 2 ^ v := Nat.mod_lt _ (Nat.two_pow_pos v)
  have htop : (x % 2 ^ (v + 1) < 2 ^ v) = (x.testBit v = false) := by
    rw [Nat.testBit_eq_decide_div_mod_eq, hsplit]
    rcases Nat.mod_two_eq_zero_or_one (x / 2 ^ v) with h | h <;> simp [h, hlow]
  simp only [Num.intOf, Nat.add_sub_cancel, htop, Bool.false_or, Bool.not_eq_true']

theorem sextN_eq (a : W64) (w : Nat) (hw : 0 < w) : sextN a w = BitVec.ofInt 64
    (if a.toNat % 2 ^ w < 2 ^ (w - 1) then ((a.toNat % 2 ^ w : Nat) : Int) else ((a.toNat % 2 ^ w : Nat) : Int) - 2 ^ w) := by
  rw [sextN, intOf_signed w _ hw]

/-- The low `w` bits of an arithmetic shift are those of the quotient: bits beyond 63 are copies of bit 63. -/
theorem sshiftRight_low (a : W64) (n w : Nat) (hw : w ≤ 64) :
    (a.sshiftRight n).toNat % 2 ^ w = (a.toInt / 2 ^ n % 2 ^ w).toNat := by
  have hcast : ((2 ^ w : Nat) : Int) = 2 ^ w := Int.natCast_pow 2 w
  have hdvd : ((2 ^ w : Nat) : Int) ∣ ((2 ^ 64 : Nat) : Int) := Int.ofNat_dvd.mpr (Nat.pow_dvd_pow 2 hw)
  have hpos : ((2 ^ w : Nat) : Int) ≠ 0 := Int.ofNat_ne_zero.mpr (Nat.ne_of_gt (Nat.two_pow_pos w))
  refine Int.ofNat_inj.mp ?_
  rw [← hcast, sra_eq, Int.natCast_emod, BitVec.toNat_ofInt, Int.toNat_of_nonneg (Int.emod_nonneg _ (by decide)),
    Int.toNat_of_nonneg (Int.emod_nonneg _ hpos)]
  exact Int.emod_emod_of_dvd _ hdvd

theorem ext_eq (a d : W64) : ext a d = BitVec.ofInt 64
    (let x := (a.toInt / 2 ^ fieldPos d % 2 ^ fieldWidth d).toNat
     if x < 2 ^ (fieldWidth d - 1) then (x : Int) else x - 2 ^ fieldWidth d) := by
  rw [ext, fieldWidth, sextN_eq _ _ (widthOf_pos _), sshiftRight_low a _ _ (widthOf_le (d.toNat / 256))]

theorem extu_eq (a d : W64) : extu a d = BitVec.ofNat 64 (a.toNat / 2 ^ fieldPos d % 2 ^ fieldWidth d) := by
  rw [extu, zextN, BitVec.toNat_ushiftRight, Nat.shiftRight_eq_div_pow]

theorem getLsbD_ins (a b d : W64) (i : Nat) (hi : i < 64) : (ins a b d).getLsbD i =
    if fieldPos d ≤ i ∧ i < fieldPos d + fieldWidth d then b.getLsbD (i - fieldPos d) else a.getLsbD i := by
  have hmask : (decide (fieldPos d ≤ i) && decide (i - fieldPos d < fieldWidth d))
      = decide (fieldPos d ≤ i ∧ i < fieldPos d + fieldWidth d) := by
    rw [← Bool.decide_and, decide_eq_decide]
    omega
  simp only [ins, BitVec.getLsbD_or, BitVec.getLsbD_and, BitVec.getLsbD_not, BitVec.getLsbD_ofNat, Nat.testBit_shiftLeft,
    Nat.testBit_two_pow_sub_one, hmask, hi, decide_true, Bool.true_and, BitVec.getLsbD_shiftLeft, ge_iff_le]
  by_cases h : fieldPos d ≤ i ∧ i < fieldPos d + fieldWidth d
  · simp [h, Nat.not_lt.mpr h.1]
  · simp [h]

/-! ### Counts and reversals (06 R112) -/

/-- The significant bits of a number are the fewest that hold it. -/
theorem sigBits_le {m n : Nat} : sigBits m ≤ n ↔ m < 2 ^ n := by
  unfold sigBits
  split
  · subst m
    exact ⟨fun _ => Nat.two_pow_pos n, fun _ => Nat.zero_le n⟩
  · rename_i h
    exact Nat.log2_lt h

theorem sigBits_eq {m n : Nat} (hfits : m < 2 ^ n) (hleast : ∀ k, m < 2 ^ k → n ≤ k) : sigBits m = n :=
  Nat.le_antisymm (sigBits_le.mpr hfits) (hleast _ (sigBits_le.mp (Nat.le_refl _)))

theorem clz_eq {w x n : Nat} (hn : n ≤ w) (hx : x < 2 ^ (w - n)) (htop : n < w → 2 ^ (w - n - 1) ≤ x) : clz w x = n := by
  have hleast : ∀ k, x < 2 ^ k → w - n ≤ k := fun k hk => by
    rcases Nat.lt_or_ge n w with h | h
    · have := (Nat.pow_lt_pow_iff_right (a := 2) (by decide)).mp (Nat.lt_of_le_of_lt (htop h) hk)
      omega
    · omega
  rw [clz, sigBits_eq hx hleast]
  omega

theorem ctzFrom_zero (fuel i : Nat) : ctzFrom 0 i fuel = i + fuel := by
  induction fuel generalizing i with
  | zero => rfl
  | succ fuel ih => rw [ctzFrom, Nat.zero_testBit, if_neg Bool.false_ne_true, ih]; omega

theorem ctzFrom_eq {x n : Nat} (hset : x.testBit n = true) (fuel i : Nat) (hi : i ≤ n) (hn : n < i + fuel)
    (hclear : ∀ m, i ≤ m → m < n → x.testBit m = false) : ctzFrom x i fuel = n := by
  induction fuel generalizing i with
  | zero => omega
  | succ fuel ih =>
    rw [ctzFrom]
    rcases Nat.eq_or_lt_of_le hi with rfl | hlt
    · rw [if_pos hset]
    · rw [hclear i (Nat.le_refl i) hlt, if_neg Bool.false_ne_true]
      exact ih (i + 1) hlt (by omega) (fun m hm => hclear m (by omega))

theorem ctz_zero (w : Nat) : ctz w 0 = w := (ctzFrom_zero w 0).trans (Nat.zero_add w)

theorem ctz_eq {w x n : Nat} (hx : x < 2 ^ w) (hset : x.testBit n = true) (hclear : ∀ m, m < n → x.testBit m = false) :
    ctz w x = n := by
  have hn : n < w := (Nat.pow_lt_pow_iff_right (a := 2) (by decide)).mp (Nat.lt_of_le_of_lt (Nat.ge_two_pow_of_testBit hset) hx)
  exact ctzFrom_eq hset w 0 (Nat.zero_le n) (by omega) (fun m _ => hclear m)

theorem popc_eq (x w : Nat) : popc x w = ((List.range w).filter (fun i => x.testBit i)).length := by
  induction w with
  | zero => rfl
  | succ w ih =>
    rw [popc, ih, List.range_succ, List.filter_append, List.length_append, Nat.add_comm]
    cases h : x.testBit w <;> simp [h]

theorem bswap_lt (x n : Nat) : bswap x n < 256 ^ n := by
  induction n generalizing x with
  | zero => exact Nat.one_pos
  | succ n ih =>
    have h := ih (x / 256)
    have hbyte : x % 256 * 256 ^ n ≤ 255 * 256 ^ n := Nat.mul_le_mul_right _ (by omega)
    rw [bswap, Nat.pow_succ]
    omega

/-- Byte `k` of a reversal is the byte as far from the other end. -/
theorem bswap_byte (x n k : Nat) (hk : k < n) : bswap x n / 256 ^ k % 256 = x / 256 ^ (n - 1 - k) % 256 := by
  induction n generalizing x with
  | zero => omega
  | succ n ih =>
    rw [bswap]
    rcases Nat.eq_or_lt_of_le (Nat.le_of_lt_succ hk) with rfl | hlt
    · rw [Nat.mul_comm, Nat.mul_add_div (Nat.pow_pos (by decide)), Nat.div_eq_of_lt (bswap_lt _ _)]
      simp
    · have hpow : 256 ^ n = 256 ^ k * (256 * 256 ^ (n - 1 - k)) := by
        rw [← Nat.pow_succ', ← Nat.pow_add]
        congr 1
        omega
      have hexp : n + 1 - 1 - k = n - 1 - k + 1 := by omega
      rw [hpow, ← Nat.mul_assoc, Nat.mul_comm (x % 256), Nat.mul_assoc, Nat.mul_add_div (Nat.pow_pos (by decide)), hexp,
        Nat.pow_succ', ← Nat.div_div_eq_div_mul, ← ih _ hlt, Nat.mul_left_comm, Nat.mul_add_mod]

/-- A number of `n` bytes is given by its bytes. -/
theorem eq_of_bytes {n r q : Nat} (hr : r < 256 ^ n) (hq : q < 256 ^ n) (h : ∀ k, k < n → r / 256 ^ k % 256 = q / 256 ^ k % 256) :
    r = q := by
  induction n generalizing r q with
  | zero => omega
  | succ n ih =>
    have hlow : r % 256 = q % 256 := by simpa using h 0 (Nat.succ_pos n)
    have hhigh : r / 256 = q / 256 := by
      refine ih (Nat.div_lt_of_lt_mul (by rwa [← Nat.pow_succ'])) (Nat.div_lt_of_lt_mul (by rwa [← Nat.pow_succ'])) (fun k hk => ?_)
      rw [Nat.div_div_eq_div_mul, Nat.div_div_eq_div_mul, ← Nat.pow_succ']
      exact h (k + 1) (Nat.succ_lt_succ hk)
    omega

theorem brev_lt (x w : Nat) : brev x w < 2 ^ w := by
  induction w generalizing x with
  | zero => exact Nat.one_pos
  | succ w ih =>
    have h := ih (x / 2)
    have hbit : x % 2 * 2 ^ w ≤ 1 * 2 ^ w := Nat.mul_le_mul_right _ (by omega)
    rw [brev, Nat.pow_succ]
    omega

/-- Bit `i` of a reversal is the bit as far from the other end. -/
theorem testBit_brev (x w i : Nat) : (brev x w).testBit i = (decide (i < w) && x.testBit (w - 1 - i)) := by
  induction w generalizing x with
  | zero => simp [brev]
  | succ w ih =>
    rw [brev, Nat.mul_comm, Nat.testBit_two_pow_mul_add _ (brev_lt _ _)]
    rcases Nat.lt_trichotomy i w with h | rfl | h
    · have hexp : w + 1 - 1 - i = w - 1 - i + 1 := by omega
      rw [if_pos h, ih, hexp, Nat.testBit_succ, decide_eq_true h, decide_eq_true (Nat.lt_succ_of_lt h)]
    · simp [Nat.testBit_zero]
    · have hpos : 0 < i - w := by omega
      rw [if_neg (by omega), decide_eq_false (by omega), Bool.false_and]
      exact Nat.testBit_lt_two_pow (Nat.lt_of_lt_of_le (Nat.mod_lt x Nat.two_pos) (Nat.pow_le_pow_right Nat.two_pos hpos))

/-! ### Compares (06 R113) -/

/-- `cmp` compares as numbers of the signedness that `.u` chooses; equality of the values is equality of the words. -/
theorem cmp_eq (cc : Nat) (u : Bool) (a b : W64) :
    cmp cc u a b = Num.condInt cc (if u then a.toNat else a.toInt) (if u then b.toNat else b.toInt) := by
  cases u <;> rfl

theorem word_eq_iff (u : Bool) (a b : W64) :
    ((if u then (a.toNat : Int) else a.toInt) = if u then (b.toNat : Int) else b.toInt) ↔ a = b := by
  cases u
  · exact BitVec.toInt_inj
  · exact Int.ofNat_inj.trans BitVec.toNat_inj

end Sys2Proof.Alu

namespace Sys2Proof.Machine

open Sys2Proof Sys2Proof.Lanes

/-! ### Words with one result (05 R75, 06 R104-R115) -/

theorem Completes.mono {i : Instr} {s : State} {P Q : State → Prop} (h : Completes i s P) (hPQ : ∀ t, P t → Q t) : Completes i s Q := by
  obtain ⟨t, hexec, hok, hP⟩ := h
  exact ⟨t, hexec, hok, fun hphase => hPQ t (hP hphase)⟩

/-- A ready two-source word whose function is `F` completes with `F(a, b)`. -/
theorem scalar2_completes {i : Fields → Instr} {lat : Nat} {g F : W64 → W64 → W64} {f : Fields} {s : State} (hF : ∀ a b, g a b = F a b)
    (hx : exec (i f) s = scalar2 i lat g f s) (h : ready (i f) f s = true) :
    Completes (i f) s (fun t => ResultG s t f.d lat (F (s.gval f f.a) (s.gval f f.b))) := by
  rw [← hF]
  exact completes_resultG lat (fun s => g (s.gval f f.a) (s.gval f f.b)) h hx

/-- Each row of R104 runs `scalar2` on a function that is its F. -/
theorem twoSourceRows_run : ∀ r ∈ twoSourceRows, ∃ g, (∀ f s, exec (r.1 f) s = scalar2 r.1 r.2.1 g f s) ∧ ∀ a b, g a b = r.2.2 a b := by
  unfold twoSourceRows
  simp only [List.forall_mem_cons]
  exact ⟨⟨_, fun _ _ => rfl, Alu.add_eq⟩, ⟨_, fun _ _ => rfl, Alu.sub_eq⟩, ⟨_, fun _ _ => rfl, Alu.mul_eq⟩,
    ⟨_, fun _ _ => rfl, fun _ _ => rfl⟩, ⟨_, fun _ _ => rfl, fun _ _ => rfl⟩, ⟨_, fun _ _ => rfl, Alu.and_eq⟩,
    ⟨_, fun _ _ => rfl, Alu.or_eq⟩, ⟨_, fun _ _ => rfl, Alu.xor_eq⟩, ⟨_, fun _ _ => rfl, fun _ _ => rfl⟩,
    ⟨_, fun _ _ => rfl, fun a b => Alu.shl_eq a (Alu.shamt b)⟩, ⟨_, fun _ _ => rfl, fun a b => Alu.shr_eq a (Alu.shamt b)⟩,
    ⟨_, fun _ _ => rfl, fun a b => Alu.sra_eq a (Alu.shamt b)⟩, ⟨_, fun _ _ => rfl, Alu.rol_eq⟩, ⟨_, fun _ _ => rfl, Alu.smin_eq⟩,
    ⟨_, fun _ _ => rfl, Alu.umin_eq⟩, ⟨_, fun _ _ => rfl, Alu.smax_eq⟩, ⟨_, fun _ _ => rfl, Alu.umax_eq⟩,
    fun _ h => absurd h List.not_mem_nil⟩

/-- Settles O6: every row runs `scalar2` on its F. -/
theorem scalarTwoSourceResults : Obligations.ScalarTwoSourceResults := by
  intro r hr f s h
  obtain ⟨g, hrun, hg⟩ := twoSourceRows_run r hr
  exact scalar2_completes hg (hrun f s) h

/-- Settles O8: each of the four writes one result. -/
theorem scalarMovesComplete : Obligations.ScalarMovesComplete := by
  intro f s
  refine ⟨fun h => ?_, fun h => ?_, fun h => ?_, fun h => ?_⟩
  · exact completes_resultG 1 (fun s => if lane0 (s.pval f.c) then s.gval f f.a else s.gval f f.b) h rfl
  · exact completes_resultG 1 (fun s => s.gval f f.a) h rfl
  · exact scalar2_completes Alu.movh_eq rfl h
  · have himm : f.immS.toInt = f.imm.toInt := BitVec.toInt_signExtend_of_le (by decide)
    rw [← himm, ← Alu.lea_eq]
    exact completes_resultG 1 (fun s => s.gval f f.a + f.immS + s.gval f f.b) h rfl

/-- Settles O9: the model's field functions give the fields of R111. -/
theorem bitfieldResults : Obligations.BitfieldResults := by
  intro f s a b c wb sext
  refine ⟨fun h => ?_, fun h => ?_, fun h r hr => ?_, fun h => ?_, fun h => ?_⟩
  · exact scalar2_completes Alu.ext_eq rfl h
  · exact scalar2_completes Alu.extu_eq rfl h
  · have hins : Alu.ins a b c = r := BitVec.eq_of_getLsbD_eq (fun i hi => (Alu.getLsbD_ins a b c i hi).trans (hr i hi).symm)
    rw [← hins]
    exact completes_resultG 1 (fun s => Alu.ins (s.gval f f.a) (s.gval f f.b) (s.gval f f.c)) h rfl
  · exact scalar2_completes (fun x y => Alu.sextN_eq x _ (Alu.widthOf_pos y.toNat)) rfl h
  · exact completes_resultG 1 (fun s => Alu.zextN (s.gval f f.a) (Alu.widthOf (s.gval f f.b).toNat)) h rfl

/-- Settles O10: on the field of R112 each count and each reversal is the one number that the clause describes. -/
theorem bitCountResults : Obligations.BitCountResults := by
  intro f s w x
  have hx : x < 2 ^ w := Nat.mod_lt _ (Nat.two_pow_pos w)
  refine ⟨fun h n hn hfits htop => ?_, fun h n hzero hset => ?_, fun h n hzero hset => ?_, fun h => ?_, fun h r hr hbytes => ?_,
    fun h r hbits => ?_⟩
  · rw [← Alu.clz_eq hn hfits htop]
    exact scalar2_completes (fun _ _ => rfl) rfl h
  · have hctz : Alu.ctz w x = n := by
      by_cases h0 : x = 0
      · rw [hzero h0, h0, Alu.ctz_zero]
      · exact Alu.ctz_eq hx (hset h0).1 (hset h0).2
    rw [← hctz]
    exact scalar2_completes (fun _ _ => rfl) rfl h
  · have hffs : Alu.ffs w x = n := by
      rw [Alu.ffs]
      split
      · exact (hzero ‹_›).symm
      · obtain ⟨hpos, hbit, hclear⟩ := hset ‹_›
        rw [Alu.ctz_eq hx hbit hclear]
        omega
    rw [← hffs]
    exact scalar2_completes (fun _ _ => rfl) rfl h
  · rw [← Alu.popc_eq]
    exact scalar2_completes (fun _ _ => rfl) rfl h
  · have hbswap : Alu.bswap x (w / 8) = r.toNat :=
      Alu.eq_of_bytes (Alu.bswap_lt _ _) hr (fun k hk => (Alu.bswap_byte x _ k hk).trans (hbytes k hk).symm)
    have hres : r = BitVec.ofNat 64 (Alu.bswap x (w / 8)) := by rw [hbswap, BitVec.ofNat_toNat, BitVec.setWidth_eq]
    rw [hres]
    exact scalar2_completes (fun _ _ => rfl) rfl h
  · have hres : r = BitVec.ofNat 64 (Alu.brev x w) := BitVec.eq_of_getLsbD_eq (fun i hi => by
      rw [hbits i hi, BitVec.getLsbD_ofNat, Alu.testBit_brev, decide_eq_true hi, Bool.true_and])
    rw [hres]
    exact scalar2_completes (fun _ _ => rfl) rfl h

/-- Settles O11: the condition of `cmp` on the values that `.u` chooses, and `pset` bit by bit. -/
theorem compareResults : Obligations.CompareResults := by
  intro f s a b x y
  refine ⟨fun h holds hcc => ?_, fun h r hr => ?_⟩
  · have hcmp : Alu.cmp f.cc f.modU a b = holds := by
      rw [Alu.cmp_eq]
      rcases hcc with ⟨hcc, rfl⟩ | ⟨hcc, rfl⟩ | ⟨hcc, rfl⟩ | ⟨hcc, rfl⟩ | ⟨hcc, rfl⟩ | ⟨hcc, rfl⟩ <;> rw [hcc]
      · exact Bool.eq_iff_iff.mpr (beq_iff_eq.trans ((Alu.word_eq_iff f.modU a b).trans decide_eq_true_iff.symm))
      · exact Bool.eq_iff_iff.mpr (bne_iff_ne.trans ((not_congr (Alu.word_eq_iff f.modU a b)).trans decide_eq_true_iff.symm))
      · rfl
      · rfl
      · rfl
      · rfl
    rw [← hcmp]
    exact completes_resultP 1 (fun s => allBits (Alu.cmp f.cc f.modU (s.gval f f.a) (s.gval f f.b))) h rfl
  · have hop : psetOp (f.mod.toNat % 4) (s.pval f.a) (s.pval f.b) = r := BitVec.eq_of_getLsbD_eq (fun i hi => by
      rw [hr i hi]
      generalize f.mod.toNat % 4 = op
      match op with
      | 0 => exact BitVec.getLsbD_and
      | 1 => exact BitVec.getLsbD_or
      | 2 => exact BitVec.getLsbD_xor
      | _ + 3 =>
        refine BitVec.getLsbD_and.trans ?_
        rw [BitVec.getLsbD_not, decide_eq_true hi, Bool.true_and]
        rfl)
    rw [← hop]
    exact completes_resultP 1 (fun s => psetOp (f.mod.toNat % 4) (s.pval f.a) (s.pval f.b)) h rfl

/-! ### Special registers (06 R117-R120) -/

theorem sprCoreScoped_iff (n : Nat) : sprCoreScoped n = true ↔ n = 4 ∨ n = 5 ∨ n = 6 ∨ (0x10 ≤ n ∧ n ≤ 0x13) := by
  simp [sprCoreScoped, or_assoc]

theorem TaskCore.sprRead_win (t : TaskCore) {n : Nat} (hw : 0x10 ≤ n ∧ n ≤ 0x13) : t.sprRead n = t.win[n - 0x10] := by
  have h4 : n ≠ 4 := by omega
  have h5 : n ≠ 5 := by omega
  have h6 : n ≠ 6 := by omega
  have hlt : n - 0x10 < 4 := by omega
  simp [TaskCore.sprRead, h4, h5, h6, hlt]

/-- What `mrd` reads of the state before the packet (06 R118, R119). -/
theorem State.sprRead_eq (s : State) (n : Nat) : s.sprRead n =
    (let before := s.pk.before.getD s.myTc
     if n = 4 then before.sctl else if n = 5 then before.etol else if n = 6 then before.mthr
     else if h : 0x10 ≤ n ∧ n ≤ 0x13 then before.win[n - 0x10]
     else if n = 0x30 then s.me.pcq0.word else if n = 0x31 then s.me.pcq1.word else if n = 0x32 then s.me.pcq2.word
     else (before.ctx s.cur.ctx).spr.read n) := by
  by_cases hcore : sprCoreScoped n = true
  · rcases (sprCoreScoped_iff n).mp hcore with rfl | rfl | rfl | hw
    · rfl
    · rfl
    · rfl
    · simp only [State.sprRead, hcore, if_true, TaskCore.sprRead_win _ hw, hw, and_self, dite_true]
      rw [if_neg (by omega), if_neg (by omega), if_neg (by omega)]
  · have hn := mt (sprCoreScoped_iff n).mpr hcore
    simp only [not_or] at hn
    obtain ⟨h4, h5, h6, hw⟩ := hn
    simp only [State.sprRead, hcore, h4, h5, h6, hw, Bool.false_eq_true, if_false, dif_neg, not_false_eq_true]

/-- Where links and contexts alone differ, the core-scoped registers are as before. -/
theorem SamePart.registers {a b : TaskCore} (h : SamePart a b) : b.sctl = a.sctl ∧ b.etol = a.etol ∧ b.mthr = a.mthr ∧ b.win = a.win := by
  rw [SamePart] at h
  rw [h]
  exact ⟨rfl, rfl, rfl, rfl⟩

/-- A ready word of a plain entry completes with the state that its effect gives, links it read apart. -/
theorem run_plain_of_act {i : Instr} {f : Fields} {s u : State} {act : State → State} (P : State → Prop) (h : ready i f s = true)
    (hx : exec i s = run i f { act := act } s) (hact : act s = u) (h1 : P (popLinks i.shape f u))
    (h2 : P ((popLinks i.shape f u).say .ok)) : Completes i s P := by
  subst hact
  exact run_plain act P h hx h1 h2

/-- An `mwr` of the lead, or of a register of the context, is a write in flight (06 R120). -/
theorem mwr_flies {f : Fields} {s : State} (h : ready (.mwr f) f s = true) (hfree : (sprCoreScoped f.sprNum && s.cur.ctx != 0) = false) :
    Completes (.mwr f) s (fun t => Flies s t (.spr f.sprNum) 1 (.g (s.gval f f.a))) := by
  have hr := (later_flies s (.spr f.sprNum) 1 (.g (s.gval f f.a)) nofun).after (linksOnly_popLinks (Instr.mwr f).shape f _).me
  exact run_plain_of_act _ h rfl (if_neg (by rw [hfree]; decide)) hr hr

theorem popLinks_pk (sh : Shape) (f : Fields) (s : State) : (popLinks sh f s).pk = s.pk := by
  obtain ⟨-, hpk, -⟩ := linksOnly_popLinks sh f s
  exact hpk

/-- An `mwr` of a helper to a register of the core asks for a freeze after the packet and writes nothing (06 R120, log 37). -/
theorem mwr_helper_freezes {f : Fields} {s : State} (h : ready (.mwr f) f s = true)
    (hcore : (sprCoreScoped f.sprNum && s.cur.ctx != 0) = true) : Completes (.mwr f) s (fun t =>
      t.me = s.me ∧ SamePart s.myTc t.myTc ∧ t.pk.after = some (s.pk.after.getD ⟨cHelper, 0, s.myPc⟩)) := by
  have hlinks := linksOnly_popLinks (Instr.mwr f).shape f (s.freezeAfter cHelper s.myPc)
  have hafter : (s.freezeAfter cHelper s.myPc).pk.after = some (s.pk.after.getD ⟨cHelper, 0, s.myPc⟩) := by
    rw [State.freezeAfter]
    cases s.pk.after <;> rfl
  rw [← popLinks_pk (Instr.mwr f).shape f] at hafter
  exact run_plain_of_act _ h rfl (if_pos hcore) ⟨hlinks.me, hlinks.part, hafter⟩ ⟨hlinks.me, hlinks.part, hafter⟩

/-- Settles O13: a read is of the state before the packet, a write is in flight or freezes a helper, the time is that of the
package. -/
theorem specialRegisterMoves : Obligations.SpecialRegisterMoves := by
  intro f s
  refine ⟨fun h => ?_, fun h => ⟨fun hfree => ?_, fun hhelper hcore => ?_⟩, fun h => ?_⟩
  · have hread := completes_resultG 1 (fun s => s.sprRead f.sprNum) h rfl
    simp only [State.sprRead_eq] at hread
    exact hread
  · refine mwr_flies h ?_
    rw [Bool.and_eq_false_iff, ← Bool.not_eq_true, sprCoreScoped_iff, bne_eq_false_iff_eq]
    exact hfree.symm
  · have hfrozen : (sprCoreScoped f.sprNum && s.cur.ctx != 0) = true := by
      rw [Bool.and_eq_true, sprCoreScoped_iff, bne_iff_ne]
      exact ⟨hcore, hhelper⟩
    refine (mwr_helper_freezes h hfrozen).mono (fun t ht => ?_)
    obtain ⟨hme, hpart, hafter⟩ := ht
    obtain ⟨hsctl, hetol, hmthr, hwin⟩ := hpart.registers
    exact ⟨hme, hsctl, hetol, hmthr, hwin, hafter⟩
  · exact completes_resultG 1 (fun s => BitVec.ofNat 64 (s.time s.cur.core.pkg)) h rfl

end Sys2Proof.Machine
end

section
/-! The scalar float instructions (06 R114, R116): NaN operands, and the exact round trip of a code through its value. -/

namespace Sys2Proof.Num

open Sys2Proof

/-! ### NaN (06 R114, R116) -/

theorem Ext.isNan_iff {x : Ext} : x.isNan = true ↔ x = .nan := by
  cases x <;> simp [Ext.isNan]

@[simp] theorem add_nan_left (rm : Rm) (y : Ext) : add rm .nan y = .nan := by
  cases y <;> rfl

@[simp] theorem add_nan_right (rm : Rm) (x : Ext) : add rm x .nan = .nan := by
  cases x <;> rfl

@[simp] theorem mul_nan_left (y : Ext) : mul .nan y = .nan := by
  cases y <;> rfl

@[simp] theorem mul_nan_right (x : Ext) : mul x .nan = .nan := by
  cases x <;> rfl

@[simp] theorem minMax_nan_left (isMax : Bool) (y : Ext) : minMax isMax .nan y = y := rfl

@[simp] theorem minMax_nan_right (isMax : Bool) (x : Ext) : minMax isMax x .nan = x := by
  cases x <;> rfl

/-- A comparison of which an operand is NaN holds for `.ne` and `.un` alone (06 R114). -/
theorem condFloat_unordered (cc : Nat) {x y : Ext} (h : (x.isNan || y.isNan) = true) : condFloat cc x y = (cc == 1 || cc == 6) := by
  match cc with
  | 0 | 1 | 2 | 3 | 4 | 5 | 6 => simp [condFloat, h]
  | n + 7 =>
    have h1 : (n + 7 == 1) = false := beq_false_of_ne (by omega)
    have h6 : (n + 7 == 6) = false := beq_false_of_ne (by omega)
    rw [condFloat.eq_def, h1, h6, h]
    rfl

/-! ### A code that is decoded and rounded again (07 R130, R135) -/

theorem dyadic_eq (neg : Bool) (m : Nat) (e : Int) : ∃ a b : Nat, dyadic neg m e = .fin neg (m * 2 ^ a) (2 ^ b) ∧ e = a - b := by
  cases e with
  | ofNat k => exact ⟨k, 0, rfl, by simp⟩
  | negSucc k => exact ⟨0, k + 1, by simp [dyadic], by omega⟩

theorem dyadic_isNan (neg : Bool) (m : Nat) (e : Int) : (dyadic neg m e).isNan = false := by
  cases e <;> rfl

theorem log2_mul_two_pow {m : Nat} (a : Nat) (hm : m ≠ 0) : (m * 2 ^ a).log2 = m.log2 + a := by
  have hpos := Nat.two_pow_pos a
  rw [Nat.log2_eq_iff (Nat.mul_ne_zero hm (Nat.ne_of_gt hpos)), Nat.pow_add, Nat.add_right_comm, Nat.pow_add 2 (m.log2 + 1)]
  exact ⟨Nat.mul_le_mul_right _ (Nat.log2_self_le hm), Nat.mul_lt_mul_of_pos_right Nat.lt_log2_self hpos⟩

/-- The power of two at or below a dyadic value is that of its significand, scaled. -/
theorem ilog2_dyadic {m : Nat} (a b : Nat) (hm : m ≠ 0) : ilog2 (m * 2 ^ a) (2 ^ b) = (m.log2 : Int) + (a - b) := by
  have hself : 2 ^ (m.log2 + a) ≤ m * 2 ^ a := by
    rw [Nat.pow_add]
    exact Nat.mul_le_mul_right _ (Nat.log2_self_le hm)
  have ht : ((m * 2 ^ a).log2 : Int) - ((2 ^ b).log2 : Nat) = m.log2 + (a - b) := by
    rw [log2_mul_two_pow a hm, Nat.log2_two_pow]
    omega
  unfold ilog2
  simp only [ht]
  generalize hq : (m.log2 : Int) + (a - b) = q
  cases q with
  | ofNat k =>
    have hle : 2 ^ b * 2 ^ k ≤ m * 2 ^ a := by
      rw [← Nat.pow_add, show b + k = m.log2 + a by rw [Int.ofNat_eq_natCast] at hq; omega]
      exact hself
    simp [hle]
  | negSucc k =>
    have hle : 2 ^ b ≤ m * 2 ^ a * 2 ^ (k + 1) := by
      rw [show b = m.log2 + a + (k + 1) by omega, Nat.pow_add]
      exact Nat.mul_le_mul_right _ hself
    simp [hle]

/-- A dyadic value at its own exponent is its significand over 1. -/
theorem ratioAt_dyadic (m a b : Nat) : ∃ c, 0 < c ∧ ratioAt (m * 2 ^ a) (2 ^ b) ((a : Int) - b) = (m * c, c) := by
  generalize hq : (a : Int) - b = q
  cases q with
  | ofNat k =>
    refine ⟨2 ^ a, Nat.two_pow_pos a, ?_⟩
    rw [ratioAt, ← Nat.pow_add, show b + k = a by rw [Int.ofNat_eq_natCast] at hq; omega]
  | negSucc k =>
    refine ⟨2 ^ b, Nat.two_pow_pos b, ?_⟩
    rw [ratioAt, Nat.mul_assoc, ← Nat.pow_add, show a + (k + 1) = b by omega]

theorem roundNat_exact (rm : Rm) (neg : Bool) (m : Nat) {c : Nat} (hc : 0 < c) : roundNat rm neg (m * c) c = m := by
  have hdiv : m * c / c = m := Nat.mul_div_cancel m hc
  have hmod : m * c % c = 0 := Nat.mul_mod_left m c
  have hne : 0 ≠ c := by omega
  cases rm <;> simp [roundNat, hdiv, hmod, hne]

/-- Rounding a dyadic value whose significand the format holds gives the significand above its exponent's binades. -/
theorem roundCode_dyadic (k : Ieee) (rm : Rm) (neg : Bool) {m : Nat} (a b : Nat) (hm : m ≠ 0)
    (hexp : max ((m.log2 : Int) + (a - b)) (1 - k.bias) = (a : Int) - b + k.f) :
    k.roundCode rm neg (m * 2 ^ a) (2 ^ b) = ((a : Int) - b + k.f - (1 - k.bias)).toNat * 2 ^ k.f + m := by
  obtain ⟨c, hc, hratio⟩ := ratioAt_dyadic m a b
  simp only [Ieee.roundCode, ilog2_dyadic a b hm, hexp, Int.add_sub_cancel, hratio, roundNat_exact rm neg m hc]

/-- The magnitude of a code. -/
def Ieee.magnitude (k : Ieee) (x : Nat) : Nat := x % 2 ^ (k.e + k.f)

theorem Ieee.withSign_magnitude (k : Ieee) {x : Nat} (hx : x < 2 ^ k.width) :
    k.withSign (x.testBit (k.e + k.f)) (k.magnitude x) = x := by
  have hx' : x < 2 ^ (k.e + k.f + 1) := by rwa [Ieee.width, Nat.add_assoc, Nat.add_comm] at hx
  have hsplit : x % 2 ^ (k.e + k.f) + 2 ^ (k.e + k.f) * (x / 2 ^ (k.e + k.f) % 2) = x := by
    rw [← Nat.mod_mul, ← Nat.pow_succ, Nat.mod_eq_of_lt hx']
  rw [Ieee.withSign, Ieee.magnitude, Nat.testBit_eq_decide_div_mod_eq]
  rcases Nat.mod_two_eq_zero_or_one (x / 2 ^ (k.e + k.f)) with h | h <;> simpa [h] using hsplit

section

variable {k : Ieee} {fz : Bool} {x : Nat}

theorem Ieee.decode_special (hbig : k.maxCode < k.magnitude x) : k.decode fz x
    = if some (k.magnitude x) = k.infCode then .inf (x.testBit (k.e + k.f)) else .nan :=
  if_pos hbig

theorem Ieee.decode_flushed (hfin : k.magnitude x ≤ k.maxCode) (hsub : k.magnitude x < 2 ^ k.f) (hfz : (fz && k.fz) = true) :
    k.decode fz x = .fin (x.testBit (k.e + k.f)) 0 1 :=
  (if_neg (Nat.not_lt.mpr hfin)).trans ((if_pos (Nat.div_eq_of_lt hsub)).trans (if_pos hfz))

theorem Ieee.decode_subnormal (hfin : k.magnitude x ≤ k.maxCode) (hsub : k.magnitude x < 2 ^ k.f) (hfz : (fz && k.fz) = false) :
    k.decode fz x = dyadic (x.testBit (k.e + k.f)) (k.magnitude x) (1 - (k.bias : Int) - k.f) := by
  refine (if_neg (Nat.not_lt.mpr hfin)).trans ((if_pos (Nat.div_eq_of_lt hsub)).trans ((if_neg (by rw [hfz]; decide)).trans ?_))
  rw [show x % 2 ^ (k.e + k.f) % 2 ^ k.f = k.magnitude x from Nat.mod_eq_of_lt hsub]

theorem Ieee.decode_normal (hfin : k.magnitude x ≤ k.maxCode) (hnorm : 2 ^ k.f ≤ k.magnitude x) : k.decode fz x
    = dyadic (x.testBit (k.e + k.f)) (2 ^ k.f + k.magnitude x % 2 ^ k.f) (((k.magnitude x / 2 ^ k.f : Nat) : Int) - k.bias - k.f) :=
  (if_neg (Nat.not_lt.mpr hfin)).trans (if_neg (Nat.ne_of_gt (Nat.div_pos hnorm (Nat.two_pow_pos _))))

/-- A code is NaN where its magnitude is past the finite ones and is not infinity's. -/
theorem Ieee.decode_isNan : (k.decode fz x).isNan = decide (k.maxCode < k.magnitude x ∧ some (k.magnitude x) ≠ k.infCode) := by
  rcases Nat.lt_or_ge k.maxCode (k.magnitude x) with hbig | hfin
  · rw [decode_special hbig]
    split <;> simp_all [Ext.isNan]
  · have hright : ¬(k.maxCode < k.magnitude x ∧ some (k.magnitude x) ≠ k.infCode) := fun h => Nat.not_lt.mpr hfin h.1
    rw [decide_eq_false hright]
    rcases Nat.lt_or_ge (k.magnitude x) (2 ^ k.f) with hsub | hnorm
    · cases hfz : fz && k.fz
      · rw [decode_subnormal hfin hsub hfz, dyadic_isNan]
      · rw [decode_flushed hfin hsub hfz]
        rfl
    · rw [decode_normal hfin hnorm, dyadic_isNan]

/-- A value that rounds to a finite code, which FZ does not flush, is written as that code under its sign. -/
theorem Ieee.convert_finite {rm : Rm} {neg : Bool} {n d c : Nat} (hn : n ≠ 0) (hc : k.roundCode rm neg n d = c) (hfin : c ≤ k.maxCode)
    (hfz : (fz && k.fz && decide (c < 2 ^ k.f)) = false) : k.convert rm true fz (.fin neg n d) = k.withSign neg c := by
  obtain ⟨m, rfl⟩ := Nat.exists_eq_add_one_of_ne_zero hn
  simp only [Ieee.convert, hc, gt_iff_lt, Nat.not_lt.mpr hfin, hfz, Bool.false_eq_true, if_false]

theorem Ieee.convert_subnormal (rm : Rm) (hfin : k.magnitude x ≤ k.maxCode) (hsub : k.magnitude x < 2 ^ k.f) (hfz : (fz && k.fz) = false) :
    k.convert rm true fz (k.decode fz x) = k.withSign (x.testBit (k.e + k.f)) (k.magnitude x) := by
  rw [decode_subnormal hfin hsub hfz]
  rcases Nat.eq_zero_or_pos (k.magnitude x) with h0 | hpos
  · rw [h0]
    obtain ⟨a, b, hd, -⟩ := dyadic_eq (x.testBit (k.e + k.f)) 0 (1 - (k.bias : Int) - k.f)
    rw [hd, Nat.zero_mul]
    rfl
  · obtain ⟨a, b, hd, he⟩ := dyadic_eq (x.testBit (k.e + k.f)) (k.magnitude x) (1 - (k.bias : Int) - k.f)
    have hlog : (k.magnitude x).log2 < k.f := (Nat.log2_lt (Nat.ne_of_gt hpos)).mpr hsub
    have hround := roundCode_dyadic k rm (x.testBit (k.e + k.f)) a b (Nat.ne_of_gt hpos) (by omega)
    rw [show ((a : Int) - b + k.f - (1 - k.bias)).toNat = 0 by omega, Nat.zero_mul, Nat.zero_add] at hround
    rw [hd]
    exact convert_finite (Nat.mul_ne_zero (Nat.ne_of_gt hpos) (Nat.ne_of_gt (Nat.two_pow_pos a))) hround hfin (by rw [hfz, Bool.false_and])

theorem Ieee.convert_normal (rm : Rm) (hfin : k.magnitude x ≤ k.maxCode) (hnorm : 2 ^ k.f ≤ k.magnitude x) :
    k.convert rm true fz (k.decode fz x) = k.withSign (x.testBit (k.e + k.f)) (k.magnitude x) := by
  have hlow : k.magnitude x % 2 ^ k.f < 2 ^ k.f := Nat.mod_lt _ (Nat.two_pow_pos _)
  have hbin : 1 ≤ k.magnitude x / 2 ^ k.f := Nat.div_pos hnorm (Nat.two_pow_pos _)
  have hm : 2 ^ k.f + k.magnitude x % 2 ^ k.f ≠ 0 := by omega
  have hlog : (2 ^ k.f + k.magnitude x % 2 ^ k.f).log2 = k.f := by
    rw [Nat.log2_eq_iff hm, Nat.pow_succ]
    omega
  rw [decode_normal hfin hnorm]
  obtain ⟨a, b, hd, he⟩ := dyadic_eq (x.testBit (k.e + k.f)) (2 ^ k.f + k.magnitude x % 2 ^ k.f)
    (((k.magnitude x / 2 ^ k.f : Nat) : Int) - k.bias - k.f)
  have hround := roundCode_dyadic k rm (x.testBit (k.e + k.f)) a b hm (by rw [hlog]; omega)
  have hcode : (k.magnitude x / 2 ^ k.f - 1) * 2 ^ k.f + (2 ^ k.f + k.magnitude x % 2 ^ k.f) = k.magnitude x := by
    rw [← Nat.add_assoc, ← Nat.succ_mul, Nat.succ_eq_add_one, Nat.sub_add_cancel hbin, Nat.div_add_mod']
  rw [show ((a : Int) - b + k.f - (1 - k.bias)).toNat = k.magnitude x / 2 ^ k.f - 1 by omega, hcode] at hround
  rw [hd]
  exact convert_finite (Nat.mul_ne_zero hm (Nat.ne_of_gt (Nat.two_pow_pos a))) hround hfin
    (by rw [decide_eq_false (Nat.not_lt.mpr hnorm), Bool.and_false])

/-- A code that is not NaN, decoded and written again in its own format, is itself; under FZ a subnormal one is zero of its sign. -/
theorem Ieee.convert_decode (rm : Rm) (hx : x < 2 ^ k.width) (hmax : 2 ^ k.f ≤ k.maxCode) (hnan : (k.decode fz x).isNan = false) :
    k.convert rm true fz (k.decode fz x)
      = if (fz && k.fz) = true ∧ k.magnitude x < 2 ^ k.f then k.withSign (x.testBit (k.e + k.f)) 0 else x := by
  rcases Nat.lt_or_ge k.maxCode (k.magnitude x) with hbig | hfin
  · have hinf : some (k.magnitude x) = k.infCode := by
      rw [decode_isNan, decide_eq_false_iff_not] at hnan
      exact Classical.byContradiction (fun h => hnan ⟨hbig, h⟩)
    rw [decode_special hbig, if_pos hinf, if_neg (fun h => by omega)]
    refine Eq.trans ?_ (k.withSign_magnitude hx)
    simp only [Ieee.convert, ← hinf, if_true, Option.getD_some]
  · rcases Nat.lt_or_ge (k.magnitude x) (2 ^ k.f) with hsub | hnorm
    · cases hfz : fz && k.fz
      · rw [convert_subnormal rm hfin hsub hfz, if_neg (fun h => Bool.false_ne_true h.1), k.withSign_magnitude hx]
      · rw [decode_flushed hfin hsub hfz, if_pos ⟨rfl, hsub⟩]
        rfl
    · rw [convert_normal rm hfin hnorm, if_neg (fun h => Nat.not_lt.mpr hnorm h.2), k.withSign_magnitude hx]

end

end Sys2Proof.Num

namespace Sys2Proof.Alu

open Sys2Proof Sys2Proof.Num

/-! ### Scalar floats (06 R116) -/

/-- The format of `.s` and of `.d`. -/
def fmt (dbl : Bool) : Ieee := if dbl then f64 else f32

theorem fdec_eq (dbl fz : Bool) (a : W64) : fdec dbl fz a = (fmt dbl).decode fz (a.toNat % 2 ^ (fmt dbl).width) := by
  cases dbl <;> rfl

theorem frnd_eq (dbl : Bool) (fctl : W64) (x : Ext) : frnd dbl fctl x
    = BitVec.ofNat 64 ((fmt dbl).convert (rmOf fctl) true (fzOf fctl) x) := by
  cases dbl <;> rfl

theorem frnd_nan (dbl : Bool) (fctl : W64) : frnd dbl fctl .nan = if dbl then 0x7FF8000000000000 else 0x7FC00000 := by
  cases dbl <;> rfl

/-- An operand is NaN where its magnitude is past infinity's. -/
theorem fdec_isNan (dbl fz : Bool) (a : W64) : (fdec dbl fz a).isNan = true
    ↔ if dbl then 0x7FF0000000000000 < a.toNat % 2 ^ 63 else 0x7F800000 < a.toNat % 2 ^ 31 := by
  rw [fdec_eq, Ieee.decode_isNan, decide_eq_true_iff]
  cases dbl
  · have hmag : (fmt false).magnitude (a.toNat % 2 ^ (fmt false).width) = a.toNat % 2 ^ 31 :=
      Nat.mod_mod_of_dvd _ (by decide)
    rw [hmag]
    simp [fmt, f32]
    omega
  · have hmag : (fmt true).magnitude (a.toNat % 2 ^ (fmt true).width) = a.toNat % 2 ^ 63 :=
      Nat.mod_mod_of_dvd _ (by decide)
    rw [hmag]
    simp [fmt, f64]
    omega

/-- The exponent bits of a code are zero where its magnitude is below the first binade. -/
theorem and_exponent_eq_zero (e f c : Nat) : c &&& (2 ^ (e + f) - 2 ^ f) = 0 ↔ c % 2 ^ (e + f) < 2 ^ f := by
  have hlt : 2 ^ (e + f) - 2 ^ f < 2 ^ (e + f) := Nat.sub_lt (Nat.two_pow_pos _) (Nat.two_pow_pos _)
  have hand : c &&& (2 ^ (e + f) - 2 ^ f) = c % 2 ^ (e + f) &&& (2 ^ (e + f) - 2 ^ f) := by
    rw [← Nat.mod_eq_of_lt (Nat.lt_of_le_of_lt Nat.and_le_right hlt), Nat.and_mod_two_pow, Nat.mod_eq_of_lt hlt]
  have hpos := Nat.two_pow_pos f
  rw [hand, Machine.and_mask_from _ _ _ (Nat.le_add_left f e) (Nat.mod_lt _ (Nat.two_pow_pos _)), Nat.mul_eq_zero,
    or_iff_left (Nat.ne_of_gt hpos), Nat.div_eq_zero_iff, or_iff_right (Nat.ne_of_gt hpos)]

theorem and_two_pow_eq (x i : Nat) : x &&& 2 ^ i = if x.testBit i then 2 ^ i else 0 := by
  refine Nat.eq_of_testBit_eq (fun j => ?_)
  rw [Nat.testBit_and, Nat.testBit_two_pow]
  by_cases hij : i = j
  · subst hij
    rw [decide_eq_true rfl, Bool.and_true]
    split
    · rw [Nat.testBit_two_pow_self]
      assumption
    · rw [Nat.zero_testBit]
      exact Bool.eq_false_iff.mpr ‹_›
  · rw [decide_eq_false hij, Bool.and_false]
    split
    · rw [Nat.testBit_two_pow, decide_eq_false hij]
    · rw [Nat.zero_testBit]

/-- A flushed code as a word: zero of its sign where its exponent bits are zero. -/
theorem flushed_word (k : Ieee) (fz : Bool) (x sign exponent : W64) (hsign : sign.toNat = 2 ^ (k.e + k.f))
    (hexp : exponent.toNat = 2 ^ (k.e + k.f) - 2 ^ k.f) :
    BitVec.ofNat 64 (if fz = true ∧ k.magnitude x.toNat < 2 ^ k.f then k.withSign (x.toNat.testBit (k.e + k.f)) 0 else x.toNat)
      = if fz = true ∧ x &&& exponent = 0 then x &&& sign else x := by
  have hzero : x &&& exponent = 0 ↔ k.magnitude x.toNat < 2 ^ k.f := by
    rw [← BitVec.toNat_inj, BitVec.toNat_and, hexp]
    exact and_exponent_eq_zero k.e k.f x.toNat
  have hkeep : x &&& sign = BitVec.ofNat 64 (k.withSign (x.toNat.testBit (k.e + k.f)) 0) := by
    rw [and_eq, hsign, and_two_pow_eq, Ieee.withSign, Nat.zero_add]
  simp only [hzero, hkeep]
  split
  · rfl
  · rw [BitVec.ofNat_toNat, BitVec.setWidth_eq]

/-- An operand that is not NaN is returned exactly; under FZ a subnormal one is zero of its sign (06 R116). -/
theorem frnd_fdec {dbl : Bool} {fctl b : W64} (hb : (fdec dbl (fzOf fctl) b).isNan = false) : frnd dbl fctl (fdec dbl (fzOf fctl) b) =
    let x : W64 := if dbl then b else b &&& 0xFFFFFFFF
    let sign : W64 := if dbl then 0x8000000000000000 else 0x80000000
    let exponent : W64 := if dbl then 0x7FF0000000000000 else 0x7F800000
    if bitAt fctl 2 = true ∧ x &&& exponent = 0 then x &&& sign else x := by
  have hwidth : b.toNat % 2 ^ (fmt dbl).width < 2 ^ (fmt dbl).width := Nat.mod_lt _ (Nat.two_pow_pos _)
  have hmax : 2 ^ (fmt dbl).f ≤ (fmt dbl).maxCode := by cases dbl <;> decide
  have hfz : (fmt dbl).fz = true := by cases dbl <;> rfl
  rw [fdec_eq] at hb ⊢
  rw [frnd_eq, Ieee.convert_decode _ hwidth hmax hb, hfz, Bool.and_true]
  cases dbl
  · have hcode : b.toNat % 2 ^ (fmt false).width = (b &&& 0xFFFFFFFF).toNat := (Nat.and_two_pow_sub_one_eq_mod b.toNat 32).symm
    rw [hcode]
    exact flushed_word f32 (fzOf fctl) _ 0x80000000 0x7F800000 rfl rfl
  · have hcode : b.toNat % 2 ^ (fmt true).width = b.toNat := Nat.mod_eq_of_lt b.isLt
    rw [hcode]
    exact flushed_word f64 (fzOf fctl) b 0x8000000000000000 0x7FF0000000000000 rfl rfl

section

variable {dbl : Bool} {fctl a b c : W64}

/-- A NaN operand makes a sum, a product and a fused form NaN, and leaves a comparison unordered (06 R114, R116). -/
theorem nan_operand (h : (fdec dbl (fzOf fctl) a).isNan = true ∨ (fdec dbl (fzOf fctl) b).isNan = true) :
    fadd dbl fctl a b = frnd dbl fctl .nan ∧ fmul dbl fctl a b = frnd dbl fctl .nan ∧ ffma dbl fctl a b c = frnd dbl fctl .nan
      ∧ ∀ cc, cmpf cc dbl fctl a b = (cc == 1 || cc == 6) := by
  have hun : ∀ cc, cmpf cc dbl fctl a b = (cc == 1 || cc == 6) := fun cc => condFloat_unordered cc (Bool.or_eq_true_iff.mpr h)
  rcases h with h | h <;> rw [Ext.isNan_iff] at h <;>
    exact ⟨by simp [fadd, h], by simp [fmul, h], by simp [ffma, h], hun⟩

theorem ffma_nan_addend (h : (fdec dbl (fzOf fctl) c).isNan = true) : ffma dbl fctl a b c = frnd dbl fctl .nan := by
  rw [ffma, Ext.isNan_iff.mp h, add_nan_right]

theorem fminmax_nan_left (isMax : Bool) (h : (fdec dbl (fzOf fctl) a).isNan = true) :
    fminmax isMax dbl fctl a b = frnd dbl fctl (fdec dbl (fzOf fctl) b) := by
  rw [fminmax, Ext.isNan_iff.mp h, minMax_nan_left]

theorem fminmax_nan_right (isMax : Bool) (h : (fdec dbl (fzOf fctl) b).isNan = true) :
    fminmax isMax dbl fctl a b = frnd dbl fctl (fdec dbl (fzOf fctl) a) := by
  rw [fminmax, Ext.isNan_iff.mp h, minMax_nan_right]

end

end Sys2Proof.Alu

namespace Sys2Proof.Machine

open Sys2Proof Sys2Proof.Lanes

/-- Settles O12: one result each; a NaN operand decides the exact operation before anything is rounded, and a lone operand of
`fmin` and `fmax` comes back from its value as the code it was. -/
theorem scalarFloatResults : Obligations.ScalarFloatResults := by
  refine ⟨fun f s => ⟨fun h => ?_, fun h => ?_, fun h => ?_, fun h => ?_, fun h => ?_, fun h => ?_, fun h => ?_⟩,
    fun dbl m a b c => ?_⟩
  · exact completes_resultG 4 (fun s => Alu.fadd f.modTop s.me.spr.fctl (s.gval f f.a) (s.gval f f.b)) h rfl
  · exact completes_resultG 4 (fun s => Alu.fmul f.modTop s.me.spr.fctl (s.gval f f.a) (s.gval f f.b)) h rfl
  · exact completes_resultG 4 (fun s => Alu.ffma f.modTop s.me.spr.fctl (s.gval f f.a) (s.gval f f.b) (s.gval f f.c)) h rfl
  · exact completes_resultG 4 (fun s => Alu.fminmax false f.modTop s.me.spr.fctl (s.gval f f.a) (s.gval f f.b)) h rfl
  · exact completes_resultG 4 (fun s => Alu.fminmax true f.modTop s.me.spr.fctl (s.gval f f.a) (s.gval f f.b)) h rfl
  · exact completes_resultG 4 (fun s => Alu.fcvt f.cvtTo f.cvtFrom f.modInf s.me.spr.fctl (s.gval f f.a)) h rfl
  · exact completes_resultP 4 (fun s => allBits (Alu.cmpf f.cc f.modTop s.me.spr.fctl (s.gval f f.a) (s.gval f f.b))) h rfl
  · dsimp only
    simp only [← Alu.fdec_isNan dbl (Alu.fzOf m), ← Alu.frnd_nan dbl m]
    refine ⟨fun hab => ?_, fun hc => ?_, fun isMax ha hb => ?_, fun isMax ha hb => ?_⟩
    · exact Alu.nan_operand hab
    · exact Alu.ffma_nan_addend hc
    · rw [Alu.fminmax_nan_left isMax ha, Num.Ext.isNan_iff.mp hb]
    · have hy := Alu.frnd_fdec (Bool.not_eq_true _ ▸ hb)
      exact ⟨(Alu.fminmax_nan_left isMax ha).trans hy, (Alu.fminmax_nan_right isMax ha).trans hy⟩

end Sys2Proof.Machine
end

section
/-! Divides and commits (05 R75-R77, R86; 06 R105, R106): what the parts of tasks read after an update, what a commit and a landing do
to a context, and the divider from issue to landing. -/

namespace Sys2Proof.Machine

open Sys2Proof Sys2Proof.Lanes

/-! ### Parts of tasks (15 R363, 20 R421) -/

/-- The context is a core's own, or its task has not gone. -/
def State.Stands (s : State) (task : Option Nat) : Prop := ∀ n, task = some n → (s.tasks.find n).isSome = true

/-- The contexts of a task that has gone read as fresh ones. -/
theorem ctxOf_gone {s : State} {task : Option Nat} (c : CtxId) (h : ¬s.Stands task) : s.ctxOf task c = Ctx.fresh := by
  cases task with
  | none => exact absurd (fun _ h => nomatch h) h
  | some n =>
    have hn : s.tasks.find n = none := Classical.byContradiction (fun hsome =>
      h (fun m hm => by cases hm; exact Option.isSome_iff_ne_none.mpr hsome))
    simp only [State.ctxOf, State.partOf, hn]
    rfl

theorem stands_of_inflight {s : State} {task : Option Nat} {c : CtxId} (h : (s.ctxOf task c).inflight ≠ []) : s.Stands task :=
  Classical.byContradiction (fun hgone => h (by rw [ctxOf_gone c hgone]; rfl))

theorem stands_of_divide {s : State} {task : Option Nat} {c : CtxId} {d : Divide} (h : (s.ctxOf task c).divide = some d) :
    s.Stands task :=
  Classical.byContradiction (fun hgone => by
    rw [ctxOf_gone c hgone] at h
    cases h)

/-- An update of a part lets no task go. -/
theorem setPart_stands {s : State} {task : Option Nat} (n : Option Nat) (k : CoreId) (f : TaskCore → TaskCore) (h : s.Stands task) :
    (s.setPart n k f).Stands task := by
  unfold State.setPart
  split
  · exact h
  · rename_i m
    split
    · split
      · exact h
      · intro j hj
        by_cases hm : m = j
        · subst hm
          simp [Map.find_set_same]
        · simp only [Map.find_set_other _ _ _ _ hm]
          exact h j hj
    · exact h

/-- A part reads as it was written. -/
theorem setPart_partOf {s : State} {task : Option Nat} (k : CoreId) (f : TaskCore → TaskCore) (h : s.Stands task) :
    (s.setPart task k f).partOf task k = f (s.partOf task k) := by
  cases task with
  | none => exact State.setTc_tc s k f
  | some n =>
    obtain ⟨tk, htk⟩ := Option.isSome_iff_exists.mp (h n rfl)
    cases hcore : tk.core with
    | some j => simp [State.setPart, State.partOf, htk, hcore]
    | none => simp [State.setPart, State.partOf, htk, hcore, Map.find_set_same]

theorem setCtxOf_ctxOf {s : State} {task : Option Nat} (c : CtxId) (f : Ctx → Ctx) (h : s.Stands task) :
    (s.setCtxOf task c f).ctxOf task c = f (s.ctxOf task c) := by
  rw [State.ctxOf, State.setCtxOf, setPart_partOf c.core _ h, TaskCore.setCtx_ctx]
  rfl

theorem setTc_ctxs {s : State} {k : CoreId} {f : TaskCore → TaskCore} (hf : ∀ t, (f t).ctxs = t.ctxs) (j : CoreId) :
    ((s.setTc k f).tc j).ctxs = (s.tc j).ctxs := by
  by_cases h : k = j
  · subst h
    rw [State.setTc_tc, hf]
  · rw [State.setTc_tc_other s k j f h]

theorem setTc_partOf_ctxs {s : State} {k : CoreId} {f : TaskCore → TaskCore} (hf : ∀ t, (f t).ctxs = t.ctxs) (task : Option Nat)
    (j : CoreId) : ((s.setTc k f).partOf task j).ctxs = (s.partOf task j).ctxs := by
  cases task with
  | none => exact setTc_ctxs hf j
  | some n =>
    simp only [State.partOf, State.setTc_tasks]
    cases s.tasks.find n with
    | none => rfl
    | some tk =>
      cases htk : tk.core with
      | some i => simpa only [htk] using setTc_ctxs hf i
      | none => simp only [htk]

/-- An update of a saved frame that keeps its contexts keeps those of every part. -/
theorem setFrame_partOf_ctxs {s : State} {n : Nat} {tk : Task} {fr : TaskCore} (hn : s.tasks.find n = some tk) (hcore : tk.core = none)
    (hf : fr.ctxs = (tk.frame.getD TaskCore.fresh).ctxs) (task : Option Nat) (j : CoreId) :
    (({ s with tasks := s.tasks.set n { tk with frame := some fr } } : State).partOf task j).ctxs = (s.partOf task j).ctxs := by
  cases task with
  | none => rfl
  | some m =>
    by_cases hm : n = m
    · subst hm
      simp [State.partOf, Map.find_set_same, hn, hcore, hf]
    · simp only [State.partOf, Map.find_set_other _ _ _ _ hm]
      rfl

/-- An update of a part that keeps its contexts keeps every context of every part. -/
theorem setPart_ctxOf_of_ctxs {s : State} {f : TaskCore → TaskCore} (hf : ∀ t, (f t).ctxs = t.ctxs) (n : Option Nat) (k : CoreId)
    (task : Option Nat) (c : CtxId) : (s.setPart n k f).ctxOf task c = s.ctxOf task c := by
  have hctxs : ((s.setPart n k f).partOf task c.core).ctxs = (s.partOf task c.core).ctxs := by
    unfold State.setPart
    split
    · exact setTc_partOf_ctxs hf task c.core
    · split
      · split
        · exact setTc_partOf_ctxs hf task c.core
        · exact setFrame_partOf_ctxs ‹_› ‹_› (hf _) task c.core
      · rfl
  simp only [State.ctxOf, TaskCore.ctx, hctxs]

@[simp] theorem say_ctxOf (s : State) (v : Verdict) (task : Option Nat) (c : CtxId) : (s.say v).ctxOf task c = s.ctxOf task c := rfl

/-! ### Registers after writes (05 R76) -/

theorem Ctx.getG_setG (k : Ctx) (n : BitVec 5) (x : W64) : (k.setG n x).getG n = x := by
  have hn : n.toNat < 32 := n.isLt
  simp [Ctx.getG, Ctx.setG, hn]

theorem Ctx.getV_setV (k : Ctx) (n : BitVec 5) (x : VReg) : (k.setV n x).getV n = x := by
  have hn : n.toNat < 32 := n.isLt
  simp [Ctx.getV, Ctx.setV, hn]

theorem Ctx.getP_setP (k : Ctx) {n : BitVec 3} (x : PBits) (h0 : n ≠ 0) : (k.setP n x).getP n = x := by
  have hn : n.toNat < 8 := n.isLt
  rw [Ctx.getP, if_neg h0, Ctx.setP, if_neg h0]
  simp [hn]

theorem Ctx.enter_divide (k : Ctx) (d : Dest) (v : RVal) : (k.enter d v).divide = k.divide := by
  unfold Ctx.enter
  split
  · rfl
  · rfl
  · unfold Ctx.setP
    split <;> rfl
  · rfl

/-! ### Commits and landings (05 R75-R77, R80) -/

section

variable {s : State} {task : Option Nat} (c : CtxId)

theorem TaskCore.sprWrite_ctxs (t : TaskCore) (n : Nat) (x : W64) : (t.sprWrite n x).ctxs = t.ctxs := by
  simp only [TaskCore.sprWrite]
  split
  · split
    · split <;> rfl
    · split <;> rfl
  · split
    · rfl
    · split <;> rfl

theorem fillLink_stands (n : Option Nat) (k : CoreId) (d : Dir) (vec : Bool) (key : Nat) (v : RVal) (h : s.Stands task) :
    (s.fillLink n k d vec key v).Stands task := by
  unfold State.fillLink
  split
  · exact h
  · exact setPart_stands _ _ _ h

theorem fillLink_ctxOf (n : Option Nat) (k : CoreId) (d : Dir) (vec : Bool) (key : Nat) (v : RVal) :
    (s.fillLink n k d vec key v).ctxOf task c = s.ctxOf task c := by
  unfold State.fillLink
  split
  · rfl
  · refine setPart_ctxOf_of_ctxs ?_ _ _ _ _
    exact fun _ => rfl

theorem commitOne_stands (d : Dest) (v : RVal) (h : s.Stands task) : (s.commitOne task c d v).Stands task := by
  unfold State.commitOne
  split
  · exact fillLink_stands _ _ _ _ _ _ h
  · split
    · exact setPart_stands _ _ _ h
    · exact setPart_stands _ _ _ h
  · exact setPart_stands _ _ _ h

/-- A value enters the register that it is for. -/
theorem commitOne_ctxOf_enter {d : Dest} (v : RVal) (h : s.Stands task) (hd : (∃ n, d = .g n) ∨ (∃ n, d = .v n) ∨ ∃ n, d = .p n) :
    (s.commitOne task c d v).ctxOf task c = (s.ctxOf task c).enter d v := by
  rcases hd with ⟨n, rfl⟩ | ⟨n, rfl⟩ | ⟨n, rfl⟩ <;> exact setCtxOf_ctxOf c _ h

theorem commitOne_divide (d : Dest) (v : RVal) (h : s.Stands task) :
    ((s.commitOne task c d v).ctxOf task c).divide = (s.ctxOf task c).divide := by
  unfold State.commitOne
  split
  · rw [fillLink_ctxOf]
  · split
    · rw [setPart_ctxOf_of_ctxs (fun t => t.sprWrite_ctxs _ _)]
    · rw [setCtxOf_ctxOf c _ h]
  · rw [setCtxOf_ctxOf c _ h, Ctx.enter_divide]

theorem commitRec_stands (r : InFlight) (h : s.Stands task) : (s.commitRec task c r).Stands task := by
  unfold State.commitRec
  split
  · exact setPart_stands _ _ _ (commitOne_stands c _ _ h)
  · exact commitOne_stands c _ _ h

/-- The commit of a record for a register gives what the register holds; the scoreboard apart, nothing else changes. -/
theorem commitRec_ctxOf {r : InFlight} (h : s.Stands task) (hd : (∃ n, r.dest = .g n) ∨ (∃ n, r.dest = .v n) ∨ ∃ n, r.dest = .p n) :
    ∃ pend, (s.commitRec task c r).ctxOf task c = { (s.ctxOf task c).enter r.dest r.val with pend := pend } := by
  have hone := commitOne_ctxOf_enter c r.val h hd
  unfold State.commitRec
  split
  · rw [setCtxOf_ctxOf c _ (commitOne_stands c _ _ h), hone]
    exact ⟨_, rfl⟩
  · exact ⟨_, hone⟩

/-- The newest record commits last: where it is due, its register holds its value after the packet's start. -/
theorem commitDue_newest {r : InFlight} {rest : List InFlight} (hflight : (s.ctxOf task c).inflight = r :: rest)
    (hdue : r.due ≤ (s.ctxOf task c).pipe) (hd : (∃ n, r.dest = .g n) ∨ (∃ n, r.dest = .v n) ∨ ∃ n, r.dest = .p n) :
    ∃ k inflight pend, (s.commitDue task c).ctxOf task c = { Ctx.enter k r.dest r.val with inflight := inflight, pend := pend } := by
  have hstands : s.Stands task := stands_of_inflight (by rw [hflight]; exact List.cons_ne_nil _ _)
  have hlist : (s.ctxOf task c).due = (rest.filter (fun r => decide (r.due ≤ (s.ctxOf task c).pipe))).reverse ++ [r] := by
    rw [Ctx.due, hflight, List.filter_cons_of_pos (by simpa using hdue), List.reverse_cons]
  simp only [State.commitDue, hlist, List.foldl_append, List.foldl_cons, List.foldl_nil]
  generalize hu : List.foldl (fun s r => s.commitRec task c r) s _ = u
  have hustands : u.Stands task := hu ▸ foldl_keeps (fun t : State => t.Stands task) _ (fun t r ht => commitRec_stands c r ht) _ s hstands
  obtain ⟨pend, hrec⟩ := commitRec_ctxOf c hustands hd
  rw [setCtxOf_ctxOf c _ (commitRec_stands c r hustands), hrec]
  exact ⟨_, _, _, rfl⟩

/-- Where nothing is due, the commits change nothing of the context. -/
theorem commitDue_none (hstands : s.Stands task) (hdue : ∀ q ∈ (s.ctxOf task c).inflight, (s.ctxOf task c).pipe < q.due) :
    (s.commitDue task c).ctxOf task c = s.ctxOf task c := by
  have hlist : (s.ctxOf task c).due = [] := by
    rw [Ctx.due, List.filter_eq_nil_iff.mpr (fun q hq => by simpa using hdue q hq), List.reverse_nil]
  have hkeep : (s.ctxOf task c).inflight.filter (fun r => !decide (r.due ≤ (s.ctxOf task c).pipe)) = (s.ctxOf task c).inflight :=
    List.filter_eq_self.mpr (fun q hq => by simpa using hdue q hq)
  simp only [State.commitDue, hlist, List.foldl_nil, setCtxOf_ctxOf c _ hstands, hkeep]

theorem landOne_stands (tok : Nat) (d : Dest) (v : RVal) (h : s.Stands task) : (s.landOne task c tok d v).Stands task := by
  simp only [State.landOne]
  split
  · exact setPart_stands _ _ _ (commitOne_stands c _ _ h)
  · exact setPart_stands _ _ _ h

theorem landOne_divide (tok : Nat) (d : Dest) (v : RVal) (h : s.Stands task) :
    ((s.landOne task c tok d v).ctxOf task c).divide = (s.ctxOf task c).divide := by
  simp only [State.landOne]
  split
  · rw [setCtxOf_ctxOf c _ (commitOne_stands c _ _ h), commitOne_divide c _ _ h]
  · rw [setCtxOf_ctxOf c _ h]

/-- A value lands at once in a g register that has no result in flight (05 R77). -/
theorem landOne_g (tok : Nat) {n : BitVec 5} (x : W64) (h : s.Stands task) (hfree : ∀ r ∈ (s.ctxOf task c).inflight, r.dest ≠ .g n) :
    (s.landOne task c tok (.g n) (.g x)).ctxOf task c = { (s.ctxOf task c).setG n x with
      pend := (s.ctxOf task c).pend.filter (fun p => !(p.tok == tok && p.dest == .g n)) } := by
  have hnone : (s.ctxOf task c).inflight.filter (fun r => r.dest == .g n) = [] :=
    List.filter_eq_nil_iff.mpr (fun r hr => by simpa using hfree r hr)
  simp only [State.landOne, hnone, List.map_nil]
  rw [setCtxOf_ctxOf c _ (commitOne_stands c _ _ h), commitOne_ctxOf_enter c _ h (.inl ⟨n, rfl⟩)]
  rfl

theorem onRecorded_ctxOf (n : Option Nat) (k : CoreId) (g : Ctx → Ctx) : (s.onRecorded n k g).ctxOf task c = s.ctxOf task c := by
  unfold State.onRecorded
  split
  · rfl
  · refine setPart_ctxOf_of_ctxs ?_ _ _ _ _
    exact fun _ => rfl

theorem landG_divide (tok : Nat) (x : W64) (h : s.Stands task) :
    ((s.landG task c tok x).ctxOf task c).divide = (s.ctxOf task c).divide := by
  rw [State.landG, State.land, onRecorded_ctxOf]
  exact (foldl_keeps (fun t : State => t.Stands task ∧ (t.ctxOf task c).divide = (s.ctxOf task c).divide) _
    (fun t d ht => ⟨landOne_stands c tok d _ ht.1, (landOne_divide c tok d _ ht.1).trans ht.2⟩) _ s ⟨h, rfl⟩).2

/-- A g register that waits for the operation alone, and has no result in flight, holds the value and waits no more. -/
theorem landG_getG {tok : Nat} {n : BitVec 5} (x : W64) (h : s.Stands task) (hpend : (s.ctxOf task c).pend = [⟨.g n, tok⟩])
    (hfree : ∀ r ∈ (s.ctxOf task c).inflight, r.dest ≠ .g n) :
    ((s.landG task c tok x).ctxOf task c).getG n = x ∧ ((s.landG task c tok x).ctxOf task c).pend = [] := by
  have hwait : (s.ctxOf task c).waitingOn tok = [.g n] := by simp [Ctx.waitingOn, hpend]
  rw [State.landG, State.land, onRecorded_ctxOf, hwait, List.foldl_cons, List.foldl_nil, landOne_g c tok x h hfree, hpend]
  exact ⟨Ctx.getG_setG _ n x, by simp⟩

end

/-! ### The divider (06 R105, R106) -/

/-- The scoreboard entries of a new operation with one destination; ZERO has none (05 R77). -/
def pendFor (d : Dest) (tok : Nat) : List Pend := if d = .none then [] else [⟨d, tok⟩]

theorem pendFor_eq (d : Dest) (tok : Nat) : ([d].filter (fun d => d != Dest.none)).map (fun d => (⟨d, tok⟩ : Pend)) = pendFor d tok := by
  by_cases h : d = .none <;> simp [pendFor, h]

theorem pendOn_me (s : State) (d : Dest) : (s.pendOn [d]).2.me = { s.me with pend := pendFor d s.nextId ++ s.me.pend } := by
  rw [State.pendOn, State.setMe_me, pendFor_eq]
  rfl

/-- A divide marks its destination pending and takes the divider. -/
theorem divided_me (s : State) (d : Sel) (x : Option Divide) :
    (((s.destOf false d).2.pendOn [(s.destOf false d).1]).2.setMe (fun c => { c with divide := x })).me
      = { s.me with divide := x, pend := pendFor (s.destOf false d).1 (s.destOf false d).2.nextId ++ s.me.pend } := by
  rw [State.setMe_me, pendOn_me, (linksOnly_destOf s false d).me]

/-- The context that has issued a divide: the divider is taken, its destination pending. -/
theorem divide_completes {i : Fields → Instr} {isSigned : Bool} {g : W64 → W64 → W64} {f : Fields} {s : State}
    (hx : exec (i f) s = divide i isSigned g f s) (h : ready (i f) f s = true) (hfree : s.me.divide = none) :
    Completes (i f) s (fun t => ∃ tok, t.me = { s.me with
      divide := some ⟨tok, g (s.gval f f.a) (s.gval f f.b), s.now + Alu.divCycles isSigned (s.gval f f.a) (s.gval f f.b)⟩
      pend := pendFor (s.destOf false f.d).1 tok ++ s.me.pend }) := by
  have hme := fun x => (linksOnly_popLinks (i f).shape f _).me.trans (divided_me s f.d x)
  exact run_completes _ _ h (if_neg (by rw [hfree]; decide)) rfl rfl rfl hx ⟨_, hme _⟩ ⟨_, hme _⟩

theorem divide_stalls {i : Fields → Instr} {isSigned : Bool} {g : W64 → W64 → W64} {f : Fields} {s : State}
    (hx : exec (i f) s = divide i isSigned g f s) (h : ready (i f) f s = true) (hbusy : s.me.divide ≠ none) : Stays (i f) s .stall :=
  run_stalls _ h (if_pos (Option.isSome_iff_ne_none.mpr hbusy)) rfl rfl rfl hx

end Sys2Proof.Machine

namespace Sys2Proof.Alu

open Sys2Proof Sys2Proof.Machine

theorem toInt_eq_zero_iff (b : W64) : b = 0 ↔ b.toInt = 0 := BitVec.toInt_inj.symm

/-- The one quotient that 64 bits do not hold is 2^63, whose low bits are those of -2^63 (06 R105). -/
theorem quotS_eq (a b : W64) : quotS a b =
    if b.toInt = 0 then BitVec.ofInt 64 (-1)
    else if a.toInt = -2 ^ 63 ∧ b.toInt = -1 then BitVec.ofInt 64 (-2 ^ 63)
    else BitVec.ofInt 64 (a.toInt.tdiv b.toInt) := by
  simp only [quotS, toInt_eq_zero_iff b]
  split
  · rfl
  · split
    · rename_i h
      rw [h.1, h.2]
      decide
    · rfl

theorem remS_eq (a b : W64) : remS a b =
    if b.toInt = 0 then a
    else if a.toInt = -2 ^ 63 ∧ b.toInt = -1 then 0
    else BitVec.ofInt 64 (a.toInt - b.toInt * a.toInt.tdiv b.toInt) := by
  simp only [remS, toInt_eq_zero_iff b]
  split
  · rfl
  · split
    · rename_i h
      rw [h.1, h.2]
      decide
    · rfl

theorem toNat_eq_zero_iff (b : W64) : b = 0 ↔ b.toNat = 0 := BitVec.toNat_inj.symm

theorem quotU_eq (a b : W64) : quotU a b =
    if b.toNat = 0 then BitVec.ofNat 64 (2 ^ 64 - 1) else BitVec.ofNat 64 (a.toNat / b.toNat) := by
  simp only [quotU, toNat_eq_zero_iff b]
  rfl

theorem remU_eq (a b : W64) : remU a b = if b.toNat = 0 then a else BitVec.ofNat 64 (a.toNat % b.toNat) := by
  simp only [remU, toNat_eq_zero_iff b]

/-- The cycles of R106 are those that the divider takes. -/
theorem divCycles_eq {isSigned : Bool} {a b : W64} {c : Nat} (h : DivideCycles isSigned a b c) : divCycles isSigned a b = c := by
  obtain ⟨n, hfits, hleast, hc⟩ := h
  simp only [divCycles, sigBits_eq hfits hleast, toNat_eq_zero_iff b]
  exact hc.symm

end Sys2Proof.Alu

namespace Sys2Proof.Machine

open Sys2Proof Sys2Proof.Lanes

/-- Each row of R105 runs `divide` on its quotient or remainder. -/
theorem divideRows_run : ∀ r ∈ divideRows, ∃ g, (∀ f s, exec (r.1 f) s = divide r.1 r.2.1 g f s) ∧ ∀ a b, g a b = r.2.2 a b := by
  unfold divideRows
  simp only [List.forall_mem_cons]
  exact ⟨⟨_, fun _ _ => rfl, Alu.quotS_eq⟩, ⟨_, fun _ _ => rfl, Alu.remS_eq⟩, ⟨_, fun _ _ => rfl, Alu.quotU_eq⟩,
    ⟨_, fun _ _ => rfl, Alu.remU_eq⟩, fun _ h => absurd h List.not_mem_nil⟩

/-- The task left the core last and stands in its saved frame (15 R363, 20 R421). -/
def LeftCore (s : State) (c : CtxId) (task : Option Nat) : Prop :=
  ∃ id tk, task = some id ∧ s.tasks.find id = some tk ∧ tk.frame.isSome = true ∧ tk.lastCore = some c.core

/-- A divide of the context whose cycles are over. -/
def DivideOver (s : State) (c : CtxId) (task : Option Nat) (d : Divide) : Prop := (s.ctxOf task c).divide = some d ∧ d.landAt ≤ s.now

theorem divideDue_iff (s : State) (c : CtxId) (task : Option Nat) :
    s.divideDue c task = true ↔ (task = (s.core c.core).task ∨ LeftCore s c task) ∧ ∃ d, DivideOver s c task d := by
  have hleft : (match task with
      | some id => (s.tasks.find id).any (fun t => t.frame.isSome && t.lastCore == some c.core)
      | none => false) = true ↔ LeftCore s c task := by
    cases task with
    | none => simp [LeftCore]
    | some id => cases h : s.tasks.find id <;> simp [LeftCore, h]
  have hover : (s.ctxOf task c).divide.any (fun d => decide (d.landAt ≤ s.now)) = true ↔ ∃ d, DivideOver s c task d := by
    cases h : (s.ctxOf task c).divide <;> simp [DivideOver, h]
  unfold State.divideDue
  rw [Bool.and_eq_true, Bool.or_eq_true, beq_iff_eq, hover]
  exact and_congr_left' (or_congr_right hleft)

theorem Map.key_mem_of_find {κ ν : Type} [DecidableEq κ] {m : Map κ ν} {k : κ} {v : ν} (h : m.find k = some v) :
    k ∈ m.map (·.1) := by
  induction m with
  | nil => cases h
  | cons e m ih =>
    obtain ⟨a, w⟩ := e
    by_cases ha : a = k
    · simp [ha]
    · simp only [Map.find, ha, if_false] at h
      exact List.mem_cons_of_mem _ (ih h)

/-- DIVIDE_LAND takes the core's own task first, else the one that left it with a divide that is over. -/
theorem divideLand_finds {s : State} {c : CtxId} {task : Option Nat} {d : Divide} (hover : DivideOver s c task d)
    (htask : task = (s.core c.core).task ∨ (LeftCore s c task
      ∧ ∀ u e, u = (s.core c.core).task ∨ LeftCore s c u → DivideOver s c u e → u = task)) :
    ((s.core c.core).task :: s.tasks.map (fun e => some e.1)).find? (s.divideDue c) = some task := by
  have hdue : s.divideDue c task = true := (divideDue_iff s c task).mpr ⟨htask.imp_right And.left, d, hover⟩
  rcases htask with rfl | ⟨hleft, honly⟩
  · exact List.find?_cons_of_pos hdue
  · obtain ⟨id, tk, rfl, hfind, -, -⟩ := hleft
    have hmem : some id ∈ (s.core c.core).task :: s.tasks.map (fun e => some e.1) := by
      have hkey := List.mem_map_of_mem (f := some) (Map.key_mem_of_find hfind)
      rw [List.map_map] at hkey
      exact List.mem_cons_of_mem _ hkey
    obtain ⟨u, hu⟩ := Option.isSome_iff_exists.mp (List.find?_isSome.mpr ⟨_, hmem, hdue⟩)
    obtain ⟨hplace, e, hoverU⟩ := (divideDue_iff s c u).mp (List.find?_some hu)
    rw [hu, honly u e hplace hoverU]

/-- A divide lands: the divider is free, and a g register that waits for it alone holds the value. -/
theorem divideLand_completes {s : State} {c : CtxId} {task : Option Nat} {d : Divide} (hdiv : (s.ctxOf task c).divide = some d)
    (hfind : ((s.core c.core).task :: s.tasks.map (fun e => some e.1)).find? (s.divideDue c) = some task) :
    Completes (.divideLand c) s (fun t => (t.ctxOf task c).divide = none
      ∧ ∀ n, (s.ctxOf task c).pend = [⟨.g n, d.tok⟩] → (∀ r ∈ (s.ctxOf task c).inflight, r.dest ≠ .g n) →
        (t.ctxOf task c).getG n = d.val ∧ (t.ctxOf task c).pend = []) := by
  have hstands : s.Stands task := stands_of_divide hdiv
  have hstandsU : (s.setCtxOf task c (fun k => { k with divide := none })).Stands task := setPart_stands _ _ _ hstands
  have hctx := setCtxOf_ctxOf c (fun k => { k with divide := none }) hstands
  have hexec : exec (.divideLand c) s = execDivideLand c s := rfl
  simp only [execDivideLand, hfind] at hexec
  refine happen_completes _ _ hexec ?_
  simp only [hdiv, say_ctxOf]
  refine ⟨(landG_divide c _ _ hstandsU).trans (by rw [hctx]), fun n hpend hfree => landG_getG c _ hstandsU ?_ ?_⟩
  · rw [hctx]
    exact hpend
  · rw [hctx]
    exact hfree

/-- Settles O7: the rows run the divider, its event lands what it holds, and of the records due the newest commits last. -/
theorem divideAndDueResults : Obligations.DivideAndDueResults := by
  refine ⟨⟨fun r hr f s h => ?_, fun c s task d hover htask => ?_⟩, fun s task c r rest hflight => ⟨fun hdue => ?_, fun hdue => ?_⟩⟩
  · obtain ⟨g, hrun, hg⟩ := divideRows_run r hr
    refine ⟨fun hfree c hc => ?_, fun hbusy => divide_stalls (hrun f s) h hbusy⟩
    refine (divide_completes (hrun f s) h hfree).mono (fun t ht => ?_)
    obtain ⟨tok, hme⟩ := ht
    rw [hg, Alu.divCycles_eq hc] at hme
    refine ⟨tok, _, hme, ?_⟩
    cases hd : f.d with
    | reg n => rfl
    | link dir => exact ⟨s.nextId, by rw [destOf_link s false dir (ready_neighbour h dir hd)]; rfl⟩
    | zero => rfl
    | imm => rfl
  · exact divideLand_completes hover.1 (divideLand_finds hover htask)
  · refine ⟨fun n x hd hv => ?_, fun n x hd hv => ?_, fun n x hd h0 hv => ?_⟩
    · obtain ⟨k, inflight, pend, hk⟩ := commitDue_newest c hflight hdue (.inl ⟨n, hd⟩)
      rw [hk, hd, hv]
      exact Ctx.getG_setG k n x
    · obtain ⟨k, inflight, pend, hk⟩ := commitDue_newest c hflight hdue (.inr (.inl ⟨n, hd⟩))
      rw [hk, hd, hv]
      exact Ctx.getV_setV k n x
    · obtain ⟨k, inflight, pend, hk⟩ := commitDue_newest c hflight hdue (.inr (.inr ⟨n, hd⟩))
      rw [hk, hd, hv]
      exact Ctx.getP_setP k x h0
  · exact commitDue_none c (stands_of_inflight (by rw [hflight]; exact List.cons_ne_nil _ _)) (by rw [hflight]; exact hdue)

end Sys2Proof.Machine
end

section
/-! The tagged lane arithmetic (07 R126, R127; 08 R150-R153) and the conversions (07 R137-R143): each entry tests one tag, and then
writes one record. -/

namespace Sys2Proof.Machine

open Sys2Proof Sys2Proof.Lanes

/-! ### Tagged words (07 R126, R127) -/

section
variable {i : Instr} {f : Fields} {srcs : State → List VSrc} {dtag : State → Tag} {ok : Tag → Bool} {act : Tag → State → State}
  {more : Tag → State → Verdict} {s : State} (hx : exec i s = tagged i f srcs dtag ok act s more) (h : ready i f s = true)
include hx h

/-- A ready tagged word whose sources have an operand tag that its entry takes completes with its result at that tag. -/
theorem tagged_completes {t : Tag} {lat : Nat} {x : VReg} (htag : operandTag f.modTop (srcs s) (dtag s) = some t) (hok : ok t = true)
    (hmore : more t s = .ok) (hact : act t s = s.resultV f.d lat x) : Completes i s (fun u => ResultV s u f.d lat x.canon) := by
  refine completes_resultV _ lat x h ?_ ?_ rfl rfl rfl hx
  · simp only [htag, Option.getD_some, hact]
  · simp only [htag, hok, if_true, hmore]

/-- A ready tagged word whose sources have no operand tag that its entry takes raises FORMAT. -/
theorem tagged_faults (hno : ∀ t, operandTag f.modTop (srcs s) (dtag s) = some t → ok t = false) :
    Faults i s 4 ⟨0x07, 0, s.myPc⟩ := by
  refine run_faults _ 4 _ h ?_ rfl rfl rfl hx
  cases htag : operandTag f.modTop (srcs s) (dtag s) with
  | none =>
    simp only [htag]
    rfl
  | some t =>
    simp only [htag, hno t htag, Bool.false_eq_true, if_false]
    rfl

/-- A ready tagged word whose entry takes every tag raises FORMAT where its sources have none. -/
theorem tagged_faults_of_none (hnone : operandTag f.modTop (srcs s) (dtag s) = none) : Faults i s 4 ⟨0x07, 0, s.myPc⟩ :=
  tagged_faults hx h (fun t htag => by rw [hnone] at htag; cases htag)

end

/-! ### Lane arithmetic (08 R151-R153) -/

/-- The gate of a row of R151 as its two conditions: an integer tag, or without `.u` another one where the row has such tags. -/
theorem rowTakes_iff (isInt float u : Bool) :
    ((isInt || float) && (isInt || !u)) = true ↔ isInt = true ∨ (float = true ∧ u = false) := by
  rw [← Bool.or_and_distrib_left, Bool.or_eq_true, Bool.and_eq_true, Bool.not_eq_true']

/-- Each row of R151 runs `vector2` at its latencies, and its entry takes the tags that the row lists. -/
theorem vectorRows_run : ∀ r ∈ vectorRows, ∃ ok : Tag → Bool, (∀ t, ok t = (t.isInt || r.2.2.1))
    ∧ ∀ f s, exec (r.1 f) s = vector2 r.1 r.2.1 ok r.2.2.2.1 r.2.2.2.2 f s := by
  have hall (t : Tag) : true = (t.isInt || true) := (Bool.or_true _).symm
  have hint (t : Tag) : t.isInt = (t.isInt || false) := (Bool.or_false _).symm
  unfold vectorRows
  simp only [List.forall_mem_cons]
  exact ⟨⟨_, hall, fun _ _ => rfl⟩, ⟨_, hall, fun _ _ => rfl⟩, ⟨_, hall, fun _ _ => rfl⟩, ⟨_, hall, fun _ _ => rfl⟩,
    ⟨_, hall, fun _ _ => rfl⟩, ⟨_, hint, fun _ _ => rfl⟩, ⟨_, hall, fun _ _ => rfl⟩, ⟨_, hall, fun _ _ => rfl⟩,
    fun _ h => absurd h List.not_mem_nil⟩

/-- Each row of R152 runs `vector3`. -/
theorem fusedRows_run : ∀ r ∈ fusedRows, ∀ f s, exec (r.1 f) s = vector3 r.1 r.2 f s := by
  unfold fusedRows
  simp only [List.forall_mem_cons]
  exact ⟨fun _ _ => rfl, fun _ _ => rfl, fun _ _ => rfl, fun _ h => absurd h List.not_mem_nil⟩

/-- `vabs` and `vneg` run `vector1` on every operand tag. -/
theorem absNegRows_run : ∀ r ∈ [((.vabs : Fields → Instr), false), (.vneg, true)], ∀ f s,
    exec (r.1 f) s = vector1 r.1 (fun _ => true) 2 (fun t s a => absNeg r.2 t s.fp a) f s := by
  simp only [List.forall_mem_cons]
  exact ⟨fun _ _ => rfl, fun _ _ => rfl, fun _ h => absurd h List.not_mem_nil⟩

/-- Settles O15: every row is a tagged word, whose gate asks for the operand tag and for no `.u` on a tag that is no integer. -/
theorem vectorArithmeticCompletes : Obligations.VectorArithmeticCompletes := by
  refine ⟨fun r hr f s h => ?_, fun r hr f s h => ?_, fun r hr f s h => ?_⟩
  · obtain ⟨ok, hok, hrun⟩ := vectorRows_run r hr
    refine ⟨fun t htag htakes => ?_, fun hrefused => ?_⟩
    · exact tagged_completes (hrun f s) h htag (by rw [hok]; exact (rowTakes_iff _ _ _).mpr htakes) rfl rfl
    · refine tagged_faults (hrun f s) h (fun t htag => ?_)
      rw [hok, ← Bool.not_eq_true, rowTakes_iff]
      rcases hrefused with hnone | ⟨t', htag', hint, hflag⟩
      · rw [hnone] at htag
        cases htag
      · obtain rfl : t' = t := Option.some.inj (htag'.symm.trans htag)
        rcases hflag with hflag | hflag <;> simp [hint, hflag]
  · exact ⟨fun t htag => tagged_completes (fusedRows_run r hr f s) h htag rfl rfl rfl,
      tagged_faults_of_none (fusedRows_run r hr f s) h⟩
  · exact ⟨fun t htag => tagged_completes (absNegRows_run r hr f s) h htag rfl rfl rfl,
      tagged_faults_of_none (absNegRows_run r hr f s) h⟩

/-! ### Conversions (07 R137) -/

/-- A v value written as it stands, a link's entry reserved: its record, or nothing for ZERO. -/
theorem destOf_later_result (s : State) (d : Sel) (lat : Nat) (x : VReg)
    (h : ∀ dir, d = .link dir → (s.neighbour s.myTask dir).isSome = true) :
    ResultV s ((s.destOf true d).2.later (s.destOf true d).1 lat (.v x)) d lat x := by
  cases d with
  | reg n => exact later_flies s (.v n) lat (.v x) nofun
  | link dir =>
    have hflies := later_flies (s.destOf true (.link dir)).2 (.link dir true s.nextId) lat (.v x) nofun
    rw [Flies, (linksOnly_destOf s true (.link dir)).me] at hflies
    rw [destOf_link s true dir (h dir rfl)]
    exact ⟨s.nextId, hflies⟩
  | zero => rfl
  | imm => rfl

/-- A conversion's result: as it stands where lanes of the destination are kept, else in the canonical form. -/
theorem converted_result (s : State) (keeps : Bool) (d : Sel) (lat : Nat) (x : VReg)
    (h : ∀ dir, d = .link dir → (s.neighbour s.myTask dir).isSome = true) :
    ResultV s (if keeps then (s.destOf true d).2.later (s.destOf true d).1 lat (.v x) else s.resultV d lat x) d lat
      (if keeps then x else x.canon) := by
  cases keeps with
  | true => exact destOf_later_result s d lat x h
  | false => exact resultV_result s d lat x h

theorem convertSource_eq (s : State) (f : Fields) : convertSource s f = vregOf (s.va f) := by
  unfold convertSource vregOf
  cases s.va f <;> rfl

theorem oldBits_eq (s : State) (d : Sel) : oldBits s d = (s.oldV d).bits := by
  cases d <;> rfl

/-- The entry of a conversion: where its destination is readable, its own reads neither fault nor wait. -/
theorem converts_entry (i : Instr) (f : Fields) (ok keeps : Tag → Bool) (lat : Nat) (g : State → VReg → VReg → VReg) (s : State)
    (hold : oldReadable s f.d = true) : ∃ e : Entry, converts i f ok keeps lat g s = run i f e s
      ∧ e.frozen s = none ∧ (e.also s).any s.me.poisoned = false ∧ (e.also s).any s.me.pending = false
      ∧ e.gate s = (if ok (convertSource s f).tag then .ok else s.atPc 4 cFormat)
      ∧ e.act s = (let x := g s (convertSource s f) (s.oldV f.d)
          if keeps (convertSource s f).tag then (s.destOf true f.d).2.later (s.destOf true f.d).1 lat (.v x)
          else s.resultV f.d lat x) := by
  rw [convertSource_eq]
  refine ⟨_, rfl, rfl, ?_, ?_, rfl, rfl⟩ <;> dsimp only <;> cases hd : f.d with
  | reg n =>
    simp only [hd, oldReadable, Bool.and_eq_true, Bool.not_eq_true'] at hold
    cases keeps (vregOf (s.va f)).tag <;> simp [hold]
  | link dir | zero | imm => rfl

section
variable {i : Instr} {f : Fields} {ok keeps : Tag → Bool} {lat : Nat} {g : State → VReg → VReg → VReg} {s : State}
  (hx : exec i s = converts i f ok keeps lat g s) (h : ready i f s = true) (hold : oldReadable s f.d = true)
include hx h hold

/-- A ready conversion that takes its source's tag completes with the converted source. -/
theorem converts_completes (hok : ok (convertSource s f).tag = true) : Completes i s (fun t => ResultV s t f.d lat
    (let x := g s (convertSource s f) (s.oldV f.d)
      if keeps (convertSource s f).tag then x else x.canon)) := by
  obtain ⟨e, hrun, hfrozen, hclean, hsettled, hgate, hact⟩ := converts_entry i f ok keeps lat g s hold
  have hr := (converted_result s (keeps (convertSource s f).tag) f.d lat (g s (convertSource s f) (s.oldV f.d))
    (fun dir hd => ready_neighbour h dir hd)).after (linksOnly_popLinks i.shape f _).me
  refine run_completes e _ h (hgate.trans (if_pos hok)) hfrozen hclean hsettled (hx.trans hrun) ?_ ?_ <;> rw [hact] <;> exact hr

/-- A ready conversion that refuses its source's tag raises FORMAT. -/
theorem converts_faults (hok : ok (convertSource s f).tag = false) : Faults i s 4 ⟨0x07, 0, s.myPc⟩ := by
  obtain ⟨e, hrun, hfrozen, hclean, hsettled, hgate, -⟩ := converts_entry i f ok keeps lat g s hold
  exact run_faults e 4 _ h (hgate.trans (if_neg (Bool.eq_false_iff.mp hok))) hfrozen hclean hsettled (hx.trans hrun)

end

/-- `vtag` writes its source's bits as they are under the new tag (07 R139). -/
theorem vtag_completes {f : Fields} {s : State} {r : VReg} (hr : s.va f = .val r) (h : ready (.vtag f) f s = true) :
    Completes (.vtag f) s (fun t => ResultV s t f.d 1 ⟨r.bits, f.xTag⟩) := by
  have hres := (destOf_later_result s f.d 1 ⟨r.bits, f.xTag⟩ (fun dir hd => ready_neighbour h dir hd)).after
    (linksOnly_popLinks (Instr.vtag f).shape f _).me
  refine run_plain_of_act _ h rfl ?_ hres hres
  simp only [hr, VSrc.bitsAt]

/-! Each conversion but `vtag` is `converts`, with the tags that its entry takes and the tags whose results keep old lanes. -/

theorem vcvt_run (f : Fields) (s : State) : exec (.vcvt f) s = converts (.vcvt f) f (fun t => t != .raw && partOk t f.xTag f.part)
    (fun t => decide (t.lanes < f.xTag.lanes)) 3 (fun s a old => vcvt f.xTag f.part f.modInf f.modU s.fp a old.bits) s := rfl

theorem vqnt_run (f : Fields) (s : State) : exec (.vqnt f) s = converts (.vqnt f) f (fun t => isWideTag t && partOk t f.xTag f.part)
    (fun t => decide (t.lanes < f.xTag.lanes)) 6 (fun s a old => vqnt f.xTag f.part f.modInf s.fp a (vregOf (s.vb f)) old.bits) s := rfl

theorem vdqt_run (f : Fields) (s : State) : exec (.vdqt f) s = converts (.vdqt f) f (fun t => isBlockTag t && partOk t f.xTag f.part)
    (fun t => decide (t.lanes < f.xTag.lanes)) 4 (fun s a old => vdqt f.xTag f.part s.fp a (vregOf (s.vb f)) old.bits) s := rfl

theorem vbmax_run (f : Fields) (s : State) : exec (.vbmax f) s = converts (.vbmax f) f isWideTag (fun _ => true) 4
    (fun s a old => vbmax f.xTag f.part s.fp a old.bits) s := rfl

theorem vsat_run (f : Fields) (s : State) : exec (.vsat f) s = converts (.vsat f) f (fun t => t != .raw && t.isInt == f.xTag.isInt)
    (fun _ => false) 2 (fun _ a _ => vsat f.xTag a) s := rfl

/-- Settles O18: five run `converts`, whose gate asks for the source tag and the part; `vtag` asks for nothing. -/
theorem conversionsComplete : Obligations.ConversionsComplete := by
  intro f s hold
  simp only [oldBits_eq]
  refine ⟨fun h => ⟨fun htakes => ?_, fun hrefused => ?_⟩, fun h => ⟨fun htakes => ?_, fun hrefused => ?_⟩,
    fun h => ⟨fun htakes => ?_, fun hrefused => ?_⟩, fun h => ⟨fun htakes => ?_, fun hrefused => ?_⟩,
    fun h => ⟨fun htakes => ?_, fun hrefused => ?_⟩, fun r hr h => vtag_completes hr h⟩
  · have hok := Bool.and_eq_true_iff.mpr (htakes.imp_left bne_iff_ne.mpr)
    simpa only [decide_eq_true_eq] using converts_completes (vcvt_run f s) h hold hok
  · exact converts_faults (vcvt_run f s) h hold (Bool.and_eq_false_iff.mpr (hrefused.imp_left bne_eq_false_iff_eq.mpr))
  · simpa only [decide_eq_true_eq] using converts_completes (vqnt_run f s) h hold (Bool.and_eq_true_iff.mpr htakes)
  · exact converts_faults (vqnt_run f s) h hold (Bool.and_eq_false_iff.mpr hrefused)
  · simpa only [decide_eq_true_eq] using converts_completes (vdqt_run f s) h hold (Bool.and_eq_true_iff.mpr htakes)
  · exact converts_faults (vdqt_run f s) h hold (Bool.and_eq_false_iff.mpr hrefused)
  · simpa only [if_true] using converts_completes (vbmax_run f s) h hold htakes
  · exact converts_faults (vbmax_run f s) h hold hrefused
  · exact converts_completes (vsat_run f s) h hold (Bool.and_eq_true_iff.mpr (htakes.imp bne_iff_ne.mpr beq_iff_eq.mpr))
  · exact converts_faults (vsat_run f s) h hold
      (Bool.and_eq_false_iff.mpr (hrefused.imp bne_eq_false_iff_eq.mpr beq_eq_false_iff_ne.mpr))

end Sys2Proof.Machine
end

section
/-! The lanes of a vector (07 R123, R131), and the vector words whose entries give their result lane by lane or by a function of the
whole operands (08 R148, R151, R154-R167). -/

namespace Sys2Proof

/-! ### Tags (07 R122) -/

theorem Tag.width_pos (t : Tag) : 0 < t.width := by cases t <;> decide

theorem Tag.quarter_width_pos (t : Tag) : 0 < t.width / 4 := by cases t <;> decide

/-- The lanes of a tag fill the register (07 R122). -/
theorem Tag.width_mul_lanes (t : Tag) : t.width * (2048 / t.width) = 2048 := by cases t <;> rfl

theorem Tag.lanes_pos (t : Tag) : 0 < 2048 / t.width := by cases t <;> decide

theorem Tag.ne_raw_of_isInt {t : Tag} (h : t.isInt = true) : t ≠ .raw := by
  rintro rfl
  cases h

theorem Tag.not_sixBits_of_isInt {t : Tag} (h : t.isInt = true) : (t == .t6 || t == .f6) = false := by
  revert h
  cases t <;> decide

end Sys2Proof

namespace Sys2Proof.Num

open Sys2Proof

theorem wrap_cast (w : Nat) (z : Int) : (wrap w z : Int) = z % 2 ^ w :=
  Int.toNat_of_nonneg (Int.emod_nonneg _ (Int.pow_ne_zero (by decide)))

end Sys2Proof.Num

namespace Sys2Proof.Lanes

open Sys2Proof Sys2Proof.Num

/-! ### Lanes as lists (07 R123) -/

/-- Splitting a number reads its lanes in order. -/
theorem split_eq (w n x : Nat) : split w n x = (List.range n).map (fun i => x / 2 ^ (w * i) % 2 ^ w) := by
  induction n generalizing x with
  | zero => rfl
  | succ n ih =>
    rw [split, ih, List.range_succ_eq_map, List.map_cons, List.map_map, Nat.mul_zero, Nat.pow_zero, Nat.div_one]
    refine congrArg _ (List.map_congr_left (fun i _ => ?_))
    rw [Function.comp_apply, Nat.div_div_eq_div_mul, ← Nat.pow_add, Nat.mul_succ, Nat.add_comm]

theorem splat_eq (w : Nat) (x : W64) : splat w x = ofLanes w ((List.range (2048 / w)).map (fun _ => x.toNat)) := by
  rw [splat, List.map_const', List.length_range]

/-- Lane `i` of joined lanes. -/
theorem join_lane (w : Nat) (xs : List Nat) (i : Nat) : join w xs / 2 ^ (w * i) % 2 ^ w = xs.getD i 0 % 2 ^ w := by
  induction xs generalizing i with
  | nil => simp [join]
  | cons x xs ih =>
    have hlow : x % 2 ^ w < 2 ^ w := Nat.mod_lt _ (Nat.two_pow_pos w)
    cases i with
    | zero => simp [join]
    | succ i =>
      rw [join, Nat.mul_succ, Nat.add_comm (w * i), Nat.pow_add, ← Nat.div_div_eq_div_mul, Nat.add_mul_div_left _ _ (Nat.two_pow_pos w),
        Nat.div_eq_of_lt hlow, Nat.zero_add, ih, List.getD_cons_succ]

theorem getD_map_range {n i : Nat} (g : Nat → Nat) (hi : i < n) : ((List.range n).map g).getD i 0 = g i := by
  rw [List.getD_eq_getElem?_getD, List.getElem?_map, List.getElem?_range hi, Option.map_some, Option.getD_some]

theorem choose_map (m : Nat → Bool) (a b : Nat → Nat) (is : List Nat) :
    choose (is.map m) (is.map a) (is.map b) = is.map (fun i => if m i then a i else b i) := by
  induction is with
  | nil => rfl
  | cons i is ih => rw [List.map_cons, List.map_cons, List.map_cons, choose, ih, List.map_cons]

/-! ### The canonical form (07 R123) -/

theorem canon_of_isInt {x : VReg} (h : x.tag.isInt = true) : x.canon = x := by
  rw [VReg.canon, Tag.not_sixBits_of_isInt h, if_neg Bool.false_ne_true]

theorem VReg.eq_of_bits {x : VReg} {b : VBits} {t : Tag} (ht : x.tag = t) (hb : b = x.bits) : (⟨b, t⟩ : VReg) = x := by
  rw [hb, ← ht]

theorem sixBits_eq (t : Tag) (x : Nat) : sixBits t x = if t = .t6 ∨ t = .f6 then x % 64 else x := by
  simp only [sixBits, Bool.or_eq_true, beq_iff_eq]

/-! ### Operands and their tags (07 R126, 08 R154, R157) -/

theorem lanesIn_same {t : Tag} (u fz : Bool) {r : VReg} (h : r.tag = t) : lanesIn t u fz (.val r) = lanes t.width r.bits := by
  rw [lanesIn, h, if_pos (beq_self_eq_true t)]

/-- Two sources of one tag have that operand tag, RAW apart. -/
theorem operandTag_pair {a b : VReg} (cv : Bool) (d : Tag) (h : b.tag = a.tag) :
    operandTag cv [.val a, .val b] d = if a.tag = .raw then none else some a.tag := by
  have hraw : (a.tag == Tag.raw) = decide (a.tag = .raw) := rfl
  simp [operandTag, tagsOf, VSrc.tag?, h, hraw]

/-- Two sources of one integer tag have that operand tag. -/
theorem operandTag_pair_int {a b : VReg} (cv : Bool) (d : Tag) (h : b.tag = a.tag) (hint : a.tag.isInt = true) :
    operandTag cv [.val a, .val b] d = some a.tag := by
  rw [operandTag_pair cv d h, if_neg (Tag.ne_raw_of_isInt hint)]

theorem untagged_val (a : VReg) (d : Tag) : untagged [.val a] d = a.tag := rfl

theorem untagged_none {x : VSrc} (d : Tag) (h : ∀ r, x ≠ .val r) : untagged [x] d = d := by
  cases x with
  | val r => exact absurd rfl (h r)
  | zero | imm => rfl

end Sys2Proof.Lanes

namespace Sys2Proof.Machine

open Sys2Proof Sys2Proof.Lanes Sys2Proof.Num

/-! ### Lanes of a vector (07 R123, R131; 08 R148) -/

theorem laneAt_lt (w : Nat) (x : VBits) (i : Nat) : laneAt w x i < 2 ^ w := Nat.mod_lt _ (Nat.two_pow_pos w)

theorem laneAt_mod (w : Nat) (x : VBits) (i : Nat) : laneAt w x i % 2 ^ w = laneAt w x i := Nat.mod_eq_of_lt (laneAt_lt w x i)

theorem testBit_laneAt (w : Nat) (x : VBits) (i j : Nat) : (laneAt w x i).testBit j = (decide (j < w) && x.getLsbD (w * i + j)) := by
  rw [laneAt, Nat.testBit_mod_two_pow, Nat.testBit_div_two_pow, Nat.add_comm]
  rfl

/-- A vector is given by the lanes that fill it. -/
theorem eq_of_laneAt {w : Nat} (hfill : w * (2048 / w) = 2048) {x y : VBits}
    (h : ∀ i, i < 2048 / w → laneAt w x i = laneAt w y i) : x = y := by
  refine BitVec.eq_of_getLsbD_eq (fun j hj => ?_)
  have hw : 0 < w := Nat.pos_of_ne_zero (fun h0 => by simp [h0] at hfill)
  have hlane : j / w < 2048 / w := Nat.div_lt_of_lt_mul (by rwa [hfill])
  have hbit := congrArg (fun n => n.testBit (j % w)) (h (j / w) hlane)
  simpa only [testBit_laneAt, Nat.mod_lt j hw, decide_true, Bool.true_and, Nat.div_add_mod] using hbit

theorem lanes_eq (w : Nat) (x : VBits) : lanes w x = (List.range (2048 / w)).map (laneAt w x) := split_eq w _ _

/-- A lane that lies within the register is not touched by the register's end. -/
theorem laneAt_ofLanes {w i : Nat} (xs : List Nat) (hi : w * (i + 1) ≤ 2048) : laneAt w (ofLanes w xs) i = xs.getD i 0 % 2 ^ w := by
  refine Eq.trans (Nat.eq_of_testBit_eq (fun j => ?_)) (join_lane w xs i)
  rw [testBit_laneAt, ofLanes, BitVec.getLsbD_ofNat, Nat.testBit_mod_two_pow, Nat.testBit_div_two_pow, Nat.add_comm j]
  by_cases hj : j < w
  · have : w * i + j < 2048 := by rw [Nat.mul_succ] at hi; omega
    simp [hj, this]
  · simp [hj]

/-- A vector of which every lane is given modulo the lane's width. -/
theorem ofLanes_eq {w : Nat} (hfill : w * (2048 / w) = 2048) {g : Nat → Nat} {x : VBits}
    (h : ∀ i, i < 2048 / w → laneAt w x i = g i % 2 ^ w) : ofLanes w ((List.range (2048 / w)).map g) = x := by
  refine eq_of_laneAt hfill (fun i hi => ?_)
  have hin : w * (i + 1) ≤ 2048 := hfill ▸ Nat.mul_le_mul_left w hi
  rw [h i hi, laneAt_ofLanes _ hin, getD_map_range _ hi]

/-- A vector of which every lane is given. -/
theorem ofLanes_eq_of_lanes {w : Nat} (hfill : w * (2048 / w) = 2048) {g : Nat → Nat} {x : VBits}
    (h : ∀ i, i < 2048 / w → laneAt w x i = g i) : ofLanes w ((List.range (2048 / w)).map g) = x :=
  ofLanes_eq hfill (fun i hi => by rw [← h i hi, laneAt_mod])

theorem getD_lanes {w i : Nat} (x : VBits) (hi : i < 2048 / w) : (lanes w x).getD i 0 = laneAt w x i := by
  rw [lanes_eq, getD_map_range _ hi]

theorem zipWith_lanes (g : Nat → Nat → Nat) (w : Nat) (x y : VBits) :
    List.zipWith g (lanes w x) (lanes w y) = (List.range (2048 / w)).map (fun i => g (laneAt w x i) (laneAt w y i)) := by
  rw [lanes_eq, lanes_eq, List.zipWith_map, List.zipWith_self]

/-- The low bit of a lane's field of a predicate, at every lane (08 R148). -/
theorem maskLanes_eq {w : Nat} (hw : 0 < w / 4) (p : PBits) :
    maskLanes w p = (List.range (2048 / w)).map (fun i => p.getLsbD (i * (w / 4))) := by
  have heven : 2 ∣ 2 ^ (w / 4) := by simpa only [Nat.pow_one] using Nat.pow_dvd_pow 2 (Nat.succ_le_of_lt hw)
  rw [maskLanes, split_eq, List.map_map]
  refine List.map_congr_left (fun i _ => ?_)
  rw [Function.comp_apply, Nat.mod_mod_of_dvd _ heven, BitVec.getLsbD,
    Nat.testBit_eq_decide_div_mod_eq, Nat.mul_comm i]
  rfl

theorem set_lanes (w : Nat) (x : VBits) (j v : Nat) :
    (lanes w x).set j v = (List.range (2048 / w)).map (fun i => if i = j then v else laneAt w x i) := by
  rw [lanes_eq]
  refine List.ext_getElem (by simp) (fun i _ _ => ?_)
  simp only [List.getElem_set, List.getElem_map, List.getElem_range, eq_comm (a := j)]

/-- The model's reading of a lane is that of R131. -/
theorem intOf_laneAt {w : Nat} (hw : 0 < w) (u : Bool) (x : VBits) (i : Nat) : intOf w u (laneAt w x i) = laneInt w u x i := by
  cases u with
  | true => simp only [intOf, laneInt, Bool.true_or, if_true, laneAt_mod]
  | false => simp only [Alu.intOf_signed w _ hw, laneInt, laneAt_mod, Bool.false_or, decide_eq_true_eq]

/-! ### Two-source operations on integer lanes (08 R151) -/

theorem op2_int {o : Op2} {u : Bool} {fp : Fp} {a b x : VReg} (hint : a.tag.isInt = true) (hb : b.tag = a.tag) (hx : x.tag = a.tag)
    (h : ∀ i, i < 2048 / a.tag.width → (laneAt a.tag.width x.bits i : Int)
      = o.int a.tag.width (laneInt a.tag.width u a.bits i) (laneInt a.tag.width u b.bits i) % 2 ^ a.tag.width) :
    op2 o a.tag u fp (.val a) (.val b) = x := by
  refine VReg.eq_of_bits hx ?_
  rw [lanesIn_same u fp.fz rfl, lanesIn_same u fp.fz hb, zipWith_lanes]
  refine ofLanes_eq_of_lanes (Tag.width_mul_lanes _) (fun i hi => ?_)
  refine Int.ofNat_inj.mp ((h i hi).trans ?_)
  rw [Op2.lane, if_pos hint, wrap_cast, intOf_laneAt (Tag.width_pos _), intOf_laneAt (Tag.width_pos _)]

/-- Each row of R151 runs `vector2` on an operation that is its F on integer lanes. -/
theorem vectorIntRows_run : ∀ r ∈ vectorIntRows, ∃ o ok lf, (∀ t : Tag, t.isInt = true → ok t = true)
    ∧ (∀ w a b, Op2.int o w a b = r.2.2 w a b) ∧ ∀ f s, exec (r.1 f) s = vector2 r.1 o ok r.2.1 lf f s := by
  have hmin (a b : Int) : (if b < a then b else a) = min a b := by split <;> omega
  have hmax (a b : Int) : (if a < b then b else a) = max a b := by split <;> omega
  unfold vectorIntRows
  simp only [List.forall_mem_cons]
  exact ⟨⟨.add, fun _ => true, 4, fun _ _ => rfl, fun _ _ _ => rfl, fun _ _ => rfl⟩,
    ⟨.sub, fun _ => true, 4, fun _ _ => rfl, fun _ _ _ => rfl, fun _ _ => rfl⟩,
    ⟨.mul, fun _ => true, 4, fun _ _ => rfl, fun _ _ _ => rfl, fun _ _ => rfl⟩,
    ⟨.min, fun _ => true, 2, fun _ _ => rfl, fun _ => hmin, fun _ _ => rfl⟩,
    ⟨.max, fun _ => true, 2, fun _ _ => rfl, fun _ => hmax, fun _ _ => rfl⟩,
    ⟨.mulh, Tag.isInt, 4, fun _ h => h, fun _ _ _ => rfl, fun _ _ => rfl⟩,
    ⟨.avg, fun _ => true, 4, fun _ _ => rfl, fun _ _ _ => rfl, fun _ _ => rfl⟩,
    ⟨.abd, fun _ => true, 4, fun _ _ => rfl, fun _ _ _ => rfl, fun _ _ => rfl⟩, fun _ h => absurd h List.not_mem_nil⟩

/-! ### Bitwise operations and shifts (08 R154, R155) -/

/-- A ready word whose only effect is a v result completes with it in the canonical form. -/
theorem completes_plainV {i : Instr} {f : Fields} {s : State} (lat : Nat) (x : State → VReg) (h : ready i f s = true)
    (hx : exec i s = run i f { act := fun s => s.resultV f.d lat (x s) } s) :
    Completes i s (fun t => ResultV s t f.d lat (x s).canon) :=
  completes_resultV _ lat (x s) h rfl rfl rfl rfl rfl hx

/-- Each row of R154 runs `vectorBits` on an operation that acts bit by bit. -/
theorem bitwiseRows_run : ∀ r ∈ bitwiseRows, ∃ g : VBits → VBits → VBits,
    (∀ a b i, i < 2048 → (g a b).getLsbD i = r.2 (a.getLsbD i) (b.getLsbD i)) ∧ ∀ f s, exec (r.1 f) s = vectorBits r.1 g f s := by
  unfold bitwiseRows
  simp only [List.forall_mem_cons]
  refine ⟨⟨_, fun _ _ _ _ => BitVec.getLsbD_and, fun _ _ => rfl⟩, ⟨_, fun _ _ _ _ => BitVec.getLsbD_or, fun _ _ => rfl⟩,
    ⟨_, fun _ _ _ _ => BitVec.getLsbD_xor, fun _ _ => rfl⟩, ⟨_, fun a b i hi => ?_, fun _ _ => rfl⟩,
    fun _ h => absurd h List.not_mem_nil⟩
  rw [BitVec.getLsbD_and, BitVec.getLsbD_not, decide_eq_true hi, Bool.true_and]

/-- Each row of R155 runs `vectorShift` on an operation that is the row's on every lane. -/
theorem shiftRows_run : ∀ r ∈ shiftRows, ∃ o : Shift, (∀ w x n, 0 < w → x < 2 ^ w → o.lane w x n = r.2 w x (n % w))
    ∧ ∀ f s, exec (r.1 f) s = vectorShift r.1 o f s := by
  unfold shiftRows
  simp only [List.forall_mem_cons]
  refine ⟨⟨.shl, fun _ _ _ _ _ => rfl, fun _ _ => rfl⟩, ⟨.shr, fun _ _ _ _ _ => rfl, fun _ _ => rfl⟩,
    ⟨.sra, fun w x n hw hx => ?_, fun _ _ => rfl⟩, fun _ h => absurd h List.not_mem_nil⟩
  simp only [Shift.lane, wrap, Alu.intOf_signed w x hw, Nat.mod_eq_of_lt hx]

theorem shift_eq {o : Shift} {a b x : VReg} {g : Nat → Nat → Nat → Nat}
    (ho : ∀ w x n, 0 < w → x < 2 ^ w → o.lane w x n = g w x (n % w))
    (hb : b.tag = a.tag) (hx : x.tag = a.tag) (h : ∀ i, i < 2048 / a.tag.width → laneAt a.tag.width x.bits i
      = g a.tag.width (laneAt a.tag.width a.bits i) (laneAt a.tag.width b.bits i % a.tag.width)) :
    shift o a.tag (.val a) (.val b) = x := by
  refine VReg.eq_of_bits hx ?_
  rw [lanesIn_same false false rfl, lanesIn_same false false hb, zipWith_lanes]
  refine ofLanes_eq_of_lanes (Tag.width_mul_lanes _) (fun i hi => ?_)
  rw [h i hi, ho _ _ _ (Tag.width_pos _) (laneAt_lt _ _ _)]

/-- Settles O14: the sources' tag is the operand tag, and a vector is its lanes, or its bits. -/
theorem vectorIntegerLanes : Obligations.VectorIntegerLanes := by
  refine ⟨fun r hr f s a b x ha hb hint hbt hxt hlanes h => ?_, fun r hr f s x hxt hbits h => ?_,
    fun r hr f s a b x ha hb hbt h => ⟨fun hint hxt hlanes => ?_, fun hint => ?_⟩⟩
  · obtain ⟨o, ok, lf, hok, hF, hrun⟩ := vectorIntRows_run r hr
    have htag : operandTag f.modTop [s.va f, s.vb f] (s.dTag f.d) = some a.tag := by
      rw [ha, hb, operandTag_pair_int _ _ hbt hint]
    have hop : op2 o a.tag f.modU s.fp (s.va f) (s.vb f) = x := by
      rw [ha, hb]
      exact op2_int hint hbt hxt (fun i hi => by rw [hF]; exact hlanes i hi)
    rw [← canon_of_isInt (hxt ▸ hint : x.tag.isInt = true), ← hop]
    exact tagged_completes (hrun f s) h htag (by simp [hok _ hint, hint]) rfl (by simp only [hint, if_true])
  · obtain ⟨g, hg, hrun⟩ := bitwiseRows_run r hr
    have hx : bitwise g (s.tag2 f) (s.va f) (s.vb f) = x :=
      VReg.eq_of_bits hxt (BitVec.eq_of_getLsbD_eq (fun i hi => by rw [hbits i hi, hg _ _ i hi, hxt]))
    rw [← hx]
    exact completes_plainV 2 (fun s => bitwise g (s.tag2 f) (s.va f) (s.vb f)) h (hrun f s)
  · obtain ⟨o, ho, hrun⟩ := shiftRows_run r hr
    have htag : operandTag f.modTop [s.va f, s.vb f] (s.dTag f.d) = some a.tag := by
      rw [ha, hb, operandTag_pair_int _ _ hbt hint]
    have hop : shift o a.tag (s.va f) (s.vb f) = x := by
      rw [ha, hb]
      exact shift_eq ho hbt hxt hlanes
    rw [← canon_of_isInt (hxt ▸ hint : x.tag.isInt = true), ← hop]
    exact tagged_completes (hrun f s) h htag hint rfl rfl
  · obtain ⟨o, -, hrun⟩ := shiftRows_run r hr
    refine tagged_faults (hrun f s) h (fun t htag => ?_)
    rw [ha, hb, operandTag_pair _ _ hbt] at htag
    split at htag
    · cases htag
    · rwa [← Option.some.inj htag]

/-! ### Select and move (08 R148, R157-R160) -/

theorem vsel_eq {t : Tag} {a b : VSrc} {p : PBits} {x : VReg} (hx : x.tag = t) (h : ∀ i, i < 2048 / t.width → laneAt t.width x.bits i
      = if p.getLsbD (i * (t.width / 4)) then laneAt t.width (a.bitsAt t.width) i else laneAt t.width (b.bitsAt t.width) i) :
    vsel t a b p = x := by
  refine VReg.eq_of_bits hx ?_
  rw [maskLanes_eq (Tag.quarter_width_pos t), lanes_eq, lanes_eq, choose_map]
  exact ofLanes_eq_of_lanes (Tag.width_mul_lanes t) h

/-- IMM and a register repeat in every lane modulo its width. -/
theorem splat_of_lanes {t : Tag} {y : W64} {x : VBits} (h : ∀ i, i < 2048 / t.width → laneAt t.width x i = y.toNat % 2 ^ t.width) :
    splat t.width y = x := by
  rw [splat_eq]
  exact ofLanes_eq (Tag.width_mul_lanes t) h

/-- `vmov` of a register or a link moves bits and tag (08 R158). -/
theorem vmov_val_completes {f : Fields} {s : State} {a : VReg} (ha : s.va f = .val a) (h : ready (.vmov f) f s = true) :
    Completes (.vmov f) s (fun t => ResultV s t f.d 2 a.canon) := by
  refine completes_resultV _ 2 a h ?_ rfl rfl ?_ ?_ rfl
  · simp only [State.tag1, ha, untagged_val, VSrc.bitsAt]
  · simp only [ha, List.any_nil]
  · simp only [ha, List.any_nil]

/-- `vmov` of ZERO or IMM also reads the tag of its destination, and keeps it (08 R158). -/
theorem vmov_kept_completes {f : Fields} {s : State} {x : VReg} (hnone : ∀ r, s.va f ≠ .val r) (hx : x.tag = s.dTag f.d)
    (hbits : (s.va f).bitsAt x.tag.width = x.bits) (hold : oldReadable s f.d = true) (h : ready (.vmov f) f s = true) :
    Completes (.vmov f) s (fun t => ResultV s t f.d 2 x.canon) := by
  have hact : (⟨(s.va f).bitsAt (s.tag1 f).width, s.tag1 f⟩ : VReg) = x := by
    rw [State.tag1, untagged_none _ hnone, ← hx]
    exact VReg.eq_of_bits rfl hbits
  refine completes_resultV _ 2 x h (congrArg (s.resultV f.d 2) hact) rfl rfl ?_ ?_ rfl
  all_goals
    dsimp only
    cases hva : s.va f with
    | val r => exact absurd hva (hnone r)
    | zero | imm =>
      cases hd : f.d with
      | link | zero | imm => rfl
      | reg n =>
        simp only [hd, oldReadable, Bool.and_eq_true, Bool.not_eq_true'] at hold
        simp [hold]

/-- `vget` gives lane `ix mod L` as a number of its tag (08 R160). -/
theorem vget_eq {a : VReg} {src : VSrc} (hbits : src.bitsAt a.tag.width = a.bits) (ix : W64) :
    vget a.tag src ix = (let w := a.tag.width
      let i := ix.toNat % (2048 / w)
      if a.tag.isInt then BitVec.ofInt 64 (laneInt w false a.bits i)
      else BitVec.ofNat 64 (if a.tag = .t6 ∨ a.tag = .f6 then laneAt w a.bits i % 64 else laneAt w a.bits i)) := by
  dsimp only [vget]
  rw [hbits, getD_lanes _ (Nat.mod_lt _ (Tag.lanes_pos _)), intOf_laneAt (Tag.width_pos _), sixBits_eq]

/-- A g result without a link: its record, or nothing where it names no register. -/
theorem later_ofG_result (s : State) (d : Sel) (lat : Nat) (y : W64) :
    (∀ n, d = .reg n → Flies s (s.later (Dest.ofG d) lat (.g y)) (.g n) lat (.g y))
    ∧ ((∀ n, d ≠ .reg n) → (s.later (Dest.ofG d) lat (.g y)).me = s.me) := by
  refine ⟨fun n hd => ?_, fun hno => ?_⟩
  · rw [hd]
    exact later_flies s (.g n) lat (.g y) nofun
  · cases d with
    | reg n => exact absurd rfl (hno n)
    | link | zero | imm => rfl

/-- `vget` puts its number in flight for a register and discards it for ZERO (08 R160, 05 R76). -/
theorem vget_completes {f : Fields} {s : State} {y : W64} (hy : vget (untagged [s.va f] .raw) (s.va f) (s.gval f f.b) = y)
    (h : ready (.vget f) f s = true) : Completes (.vget f) s (fun t =>
      (∀ n, f.d = .reg n → Flies s t (.g n) 2 (.g y)) ∧ ((∀ n, f.d ≠ .reg n) → t.me = s.me)) := by
  obtain ⟨hreg, hno⟩ := later_ofG_result s f.d 2 y
  have hme := (linksOnly_popLinks (Instr.vget f).shape f (s.later (Dest.ofG f.d) 2 (.g y))).me
  have hP := And.intro (fun n hd => (hreg n hd).after hme) (fun hd => hme.trans (hno hd))
  exact run_plain_of_act _ h rfl (by rw [hy]) hP hP

/-- The source of `vget`, as its tag and its bits: a source without a tag reads as RAW (08 R160). -/
theorem vget_source {src : VSrc} {a : VReg} (h : src = .val a ∨ (a = ⟨src.bitsAt 32, .raw⟩ ∧ ∀ r, src ≠ .val r)) :
    untagged [src] .raw = a.tag ∧ src.bitsAt a.tag.width = a.bits := by
  rcases h with rfl | ⟨rfl, hnone⟩
  · exact ⟨rfl, rfl⟩
  · exact ⟨untagged_none _ hnone, rfl⟩

theorem vset_eq {a x : VReg} {v ix : W64} (hx : x.tag = a.tag) (h : ∀ i, i < 2048 / a.tag.width → laneAt a.tag.width x.bits i
      = if i = ix.toNat % (2048 / a.tag.width) then v.toNat % 2 ^ a.tag.width else laneAt a.tag.width a.bits i) :
    vset a v ix = x := by
  refine VReg.eq_of_bits hx ?_
  rw [set_lanes]
  exact ofLanes_eq_of_lanes (Tag.width_mul_lanes _) h

/-- `vset` writes its destination with one lane replaced (08 R160). -/
theorem vset_completes {f : Fields} {s : State} (h : ready (.vset f) f s = true) : Completes (.vset f) s (fun t =>
    ResultV s t f.d 2 (vset (s.oldV f.d) (s.gval f f.a) (s.gval f f.b)).canon) :=
  completes_plainV 2 (fun s => vset (s.oldV f.d) (s.gval f f.a) (s.gval f f.b)) h rfl

/-- Settles O16: each result is the vector, or the number, that has the lanes of its entry. -/
theorem vectorSelectAndMove : Obligations.VectorSelectAndMove := by
  intro f s a x w wx
  refine ⟨fun hx hlanes h => ?_, vmov_val_completes, fun hx hold h hsrc => ?_, fun hx hlanes h => ?_, fun hsrc h => ?_,
    fun n hd ha hx hlanes h => ?_, fun hd h => ?_⟩
  · have hv : vsel (s.tag2 f) (s.va f) (s.vb f) (s.pval f.c) = x := by
      rw [← hx]
      exact vsel_eq rfl hlanes
    rw [← hv]
    exact completes_plainV 2 (fun s => vsel (s.tag2 f) (s.va f) (s.vb f) (s.pval f.c)) h rfl
  · rcases hsrc with ⟨hva, hbits⟩ | ⟨m, hva, hlanes⟩
    · exact vmov_kept_completes (by simp [hva]) hx (by rw [hva, hbits]; rfl) hold h
    · exact vmov_kept_completes (by simp [hva]) hx (by rw [hva]; exact splat_of_lanes hlanes) hold h
  · rw [← VReg.eq_of_bits hx (splat_of_lanes hlanes)]
    exact completes_plainV 2 (fun s => ⟨splat f.xTag.width (s.gval f f.a), f.xTag⟩) h rfl
  · obtain ⟨htag, hbits⟩ := vget_source hsrc
    exact vget_completes (by rw [htag, vget_eq hbits]) h
  · have hv : vset (s.oldV f.d) (s.gval f f.a) (s.gval f f.b) = x := by
      rw [hd, State.oldV, ← ha]
      exact vset_eq hx hlanes
    have hc := vset_completes h
    rwa [hv, hd] at hc
  · have hc := vset_completes h
    rwa [hd] at hc

/-! ### Compare, permute, reduce and scan (08 R156, R161-R165) -/

/-- The gate of a tag that is an integer, or comes without `.u`. -/
theorem intOrSigned_iff (isInt u : Bool) : (isInt || !u) = true ↔ isInt = true ∨ u = false := by
  rw [Bool.or_eq_true, Bool.not_eq_true']

/-- A ready word of any entry whose effect is a predicate result completes with it. -/
theorem completes_resultP_of_entry {i : Instr} {f : Fields} {s : State} (e : Entry) (lat : Nat) (x : PBits)
    (h : ready i f s = true) (hact : e.act s = s.resultP f.d lat x) (hgate : e.gate s = .ok) (hfrozen : e.frozen s = none)
    (hclean : (e.also s).any s.me.poisoned = false) (hsettled : (e.also s).any s.me.pending = false) (hx : exec i s = run i f e s) :
    Completes i s (fun t => ResultP s t f.d lat x) := by
  have hr := (resultP_result s f.d lat x).after (linksOnly_popLinks i.shape f _).me
  refine run_completes e _ h hgate hfrozen hclean hsettled hx ?_ ?_ <;> rw [hact] <;> exact hr

/-- `vcmp` writes its mask, where the condition is one of the tag's (08 R156). -/
theorem vcmp_completes {f : Fields} {s : State} {t : Tag} (htag : operandTag f.modTop [s.va f, s.vb f] .raw = some t)
    (hcc : if t.isInt then f.cc ≤ 5 else f.modU = false) (h : ready (.vcmp f) f s = true) : Completes (.vcmp f) s (fun u =>
      ResultP s u f.d 2 (vcmp f.cc t f.modU s.fp (s.va f) (s.vb f))) := by
  refine completes_resultP_of_entry _ 2 _ h ?_ ?_ rfl rfl rfl rfl
  · simp only [htag, Option.getD_some]
  · cases hint : t.isInt with
    | true =>
      rw [if_pos hint] at hcc
      have hno : decide (6 ≤ f.cc) = false := decide_eq_false (by omega)
      simp only [htag, hint, hno, Bool.true_or, Bool.and_false, Bool.false_eq_true, if_true, if_false]
    | false =>
      rw [if_neg (by simp [hint])] at hcc
      simp only [htag, hint, hcc, Bool.not_false, Bool.or_true, Bool.false_and, Bool.false_eq_true, if_true, if_false]

theorem vperm_eq {a b x : VReg} (hx : x.tag = a.tag) (hw : 8 ≤ a.tag.width) (h : ∀ i, i < 2048 / a.tag.width →
      laneAt a.tag.width x.bits i = laneAt a.tag.width a.bits (laneAt a.tag.width b.bits i % (2048 / a.tag.width))) :
    vperm a.tag (.val a) (.val b) = x := by
  refine VReg.eq_of_bits hx ?_
  dsimp only [VSrc.bitsAt]
  rw [Nat.max_eq_right hw, lanes_eq _ b.bits, List.map_map]
  refine ofLanes_eq_of_lanes (Tag.width_mul_lanes _) (fun i hi => ?_)
  rw [h i hi, Function.comp_apply, getD_lanes _ (Nat.mod_lt _ (Tag.lanes_pos _))]

/-- A ready one-source tagged word completes with its function of the source. -/
theorem vector1_completes {i : Fields → Instr} {ok : Tag → Bool} {lat : Nat}
    {g : Tag → State → VSrc → VReg} {f : Fields} {s : State} {t : Tag} (hx : exec (i f) s = vector1 i ok lat g f s)
    (htag : operandTag f.modTop [s.va f] (s.dTag f.d) = some t) (hok : ok t = true) (h : ready (i f) f s = true) :
    Completes (i f) s (fun u => ResultV s u f.d lat (g t s (s.va f)).canon) :=
  tagged_completes hx h htag hok rfl rfl

/-- Each row of R166 counts on integer tags. -/
theorem countRows_run : ∀ r ∈ countRows, ∀ f s, exec (r.1 f) s = vector1 r.1 Tag.isInt 2 (fun t _ a => count r.2 t a) f s := by
  unfold countRows
  simp only [List.forall_mem_cons]
  exact ⟨fun _ _ => rfl, fun _ _ => rfl, fun _ _ => rfl, fun _ h => absurd h List.not_mem_nil⟩

/-- Each row of R167 applies its function on H16, B16 and F32. -/
theorem fnRows_run : ∀ r ∈ fnRows, ∀ f s,
    exec (r.1 f) s = vector1 r.1 isWideTag 8 (fun t s a => Transcend.apply r.2 t s.me.spr.fctl a) f s := by
  unfold fnRows
  simp only [List.forall_mem_cons]
  exact ⟨fun _ _ => rfl, fun _ _ => rfl, fun _ _ => rfl, fun _ _ => rfl, fun _ _ => rfl, fun _ _ => rfl, fun _ _ => rfl,
    fun _ h => absurd h List.not_mem_nil⟩

theorem vred_run (f : Fields) (s : State) : exec (.vred f) s = vector1 .vred (fun t => t.isInt || !f.modU) 6
    (fun t s a => vred f.cc t f.modU s.fp a) f s := rfl

theorem vscan_run (f : Fields) (s : State) : exec (.vscan f) s = vector1 .vscan
    (fun t => (t.isInt || !f.modU) && (t.isInt || isWideTag t || f.cc != 0)) 8 (fun t s a => vscan f.cc t f.modU s.fp a) f s := rfl

/-- `vscan` takes the tags of R164. -/
theorem scanTakes {t : Tag} {u : Bool} {cc : Nat} (h : t.isInt = true ∨ (u = false ∧ (isWideTag t = true ∨ cc ≠ 0))) :
    ((t.isInt || !u) && (t.isInt || isWideTag t || cc != 0)) = true := by
  rcases h with hint | ⟨hu, hwide | hcc⟩
  · simp [hint]
  · simp [hu, hwide]
  · simp [hu, hcc]

/-- `vdot4` accumulates in the tag of its addend (08 R165). -/
theorem vdot4_completes {f : Fields} {s : State} {t r : Tag} (htag : operandTag f.modTop [s.va f, s.vb f] (s.dTag f.d) = some t)
    (hdot : dotTag t = some r) (hu : t.isInt = true ∨ f.modU = false) (hc : ∀ c, s.vc f = .val c → c.tag = r)
    (h : ready (.vdot4 f) f s = true) : Completes (.vdot4 f) s (fun u =>
      ResultV s u f.d 4 (vdot4 t r f.modU s.fp (s.va f) (s.vb f) (s.vc f)).canon) := by
  refine completes_resultV _ 4 _ h ?_ ?_ rfl rfl rfl rfl
  · simp only [htag, hdot, Option.getD_some]
  · simp only [htag, hdot, (intOrSigned_iff _ _).mpr hu, Bool.true_and]
    refine if_pos ?_
    cases hvc : s.vc f with
    | val c => exact beq_iff_eq.mpr (hc c hvc)
    | zero | imm => rfl

/-- Settles O17: each tagged word passes its gate, and each of the others writes its one result. -/
theorem vectorPermuteAndReduce : Obligations.VectorPermuteAndReduce := by
  intro f s one two
  refine ⟨fun t => vcmp_completes, fun a b x ha hb hx hw hlanes h => ?_, fun h => ?_, fun h => ?_, fun t htag hu h => ?_,
    fun t htag htakes h => ?_, fun t r => vdot4_completes, fun r hr t htag hint h => ?_, fun r hr t htag hwide h => ?_⟩
  · have hperm : vperm (s.tag1 f) (s.va f) (s.vb f) = x := by
      rw [State.tag1, ha, hb, untagged_val]
      exact vperm_eq hx hw hlanes
    rw [← hperm]
    exact completes_plainV 3 (fun s => vperm (s.tag1 f) (s.va f) (s.vb f)) h rfl
  · exact completes_plainV 3 (fun s => vcomp (s.tag1 f) (s.va f) (s.pval f.c)) h rfl
  · exact completes_plainV 3 (fun s => vexpd (s.tag1 f) (s.va f) (s.pval f.c)) h rfl
  · exact vector1_completes (vred_run f s) htag ((intOrSigned_iff _ _).mpr hu) h
  · exact vector1_completes (vscan_run f s) htag (scanTakes htakes) h
  · exact vector1_completes (countRows_run r hr f s) htag hint h
  · exact vector1_completes (fnRows_run r hr f s) htag hwide h

end Sys2Proof.Machine
end

section
/-! What a word that changes its own core's part alone leaves as before, and how the verdicts of a gate combine (02 R26-R28). -/

namespace Sys2Proof.Machine

open Sys2Proof Sys2Proof.Lanes

/-! ### Verdicts of a gate -/

@[simp] theorem Verdict.ok_andThen (w : Verdict) : Verdict.ok.andThen w = w := rfl
@[simp] theorem Verdict.stall_andThen (w : Verdict) : Verdict.stall.andThen w = .stall := rfl
@[simp] theorem Verdict.hold_andThen (w : Verdict) : Verdict.hold.andThen w = .hold := rfl

theorem firstBad_ok {vs : List Verdict} (h : ∀ v ∈ vs, v = .ok) : firstBad vs = .ok := by
  have hnone : vs.find? (· != .ok) = none := List.find?_eq_none.mpr (fun v hv => by simp [h v hv])
  rw [firstBad, hnone]
  rfl

/-! ### The issuing core alone -/

theorem OnlyMyCore.trans {s t u : State} (h : OnlyMyCore s t) (k : OnlyMyCore t u) : OnlyMyCore s u := by
  obtain ⟨h1, h2, h3, h4, h5⟩ := h
  obtain ⟨k1, k2, k3, k4, k5⟩ := k
  have hcur : t.cur = s.cur := h1.cur
  exact ⟨h1.trans k1, k2.trans h2, fun c hc => (k3 c (by rwa [hcur])).trans (h3 c hc),
    fun c hc => (k4 c (by rwa [hcur])).trans (h4 c hc), fun a => (k5 a).trans (h5 a)⟩

/-- The names given and the packet's record are the model's own. -/
theorem onlyMyCore_bookkeeping (s : State) (n : Nat) (pk : Pk) : OnlyMyCore s { s with nextId := n, pk := pk } :=
  ⟨rfl, rfl, fun _ _ => rfl, fun _ _ => rfl, fun _ => rfl⟩

/-- An update of the core's part that keeps the other contexts. -/
theorem onlyMyCore_setMyTc (s : State) (f : TaskCore → TaskCore) (hf : ∀ n, n ≠ s.cur.ctx → (f s.myTc).ctx n = s.myTc.ctx n) :
    OnlyMyCore s (s.setMyTc f) := by
  refine ⟨rfl, rfl, fun k hk => State.setTc_core_other s _ k f (Ne.symm hk), fun c hc => ?_, fun _ => rfl⟩
  by_cases hcore : s.cur.core = c.core
  · have hctx : c.ctx ≠ s.cur.ctx := fun hctx =>
      hc (show c = ⟨s.cur.core, s.cur.ctx⟩ by rw [hcore, ← hctx])
    have hread : (s.setMyTc f).ctx c = (f s.myTc).ctx c.ctx := by
      rw [State.ctx, ← hcore]
      exact congrArg (fun t => TaskCore.ctx t c.ctx) (State.setMyTc_myTc s f)
    rw [hread, hf _ hctx, State.ctx, ← hcore]
    rfl
  · exact State.setTc_ctx_other s _ c f hcore

/-- An update of the issuing context. -/
theorem onlyMyCore_setMe (s : State) (g : Ctx → Ctx) : OnlyMyCore s (s.setMe g) :=
  onlyMyCore_setMyTc s (fun t => t.setCtx s.cur.ctx g) (fun _ hn => TaskCore.setCtx_ctx_other _ _ _ _ (Ne.symm hn))

theorem onlyMyCore_popLinks (sh : Shape) (f : Fields) (s : State) : OnlyMyCore s (popLinks sh f s) := by
  unfold popLinks
  generalize linksIn sh f = l
  induction l generalizing s with
  | nil => exact onlyMyCore_bookkeeping s s.nextId s.pk
  | cons x l ih => exact (onlyMyCore_setMyTc s _ (fun _ _ => rfl)).trans (ih _)

/-! ### Results that land at once (05 R77) -/

theorem foldl_max_spec (l : List Nat) (x : Nat) : x ≤ l.foldl max x ∧ (∀ y ∈ l, y ≤ l.foldl max x) := by
  induction l generalizing x with
  | nil => exact ⟨Nat.le_refl x, fun y hy => absurd hy List.not_mem_nil⟩
  | cons z l ih =>
    obtain ⟨hstart, hall⟩ := ih (max x z)
    refine ⟨Nat.le_trans (Nat.le_max_left x z) hstart, fun y hy => ?_⟩
    rcases List.mem_cons.mp hy with rfl | hy
    · exact Nat.le_trans (Nat.le_max_right x y) hstart
    · exact hall y hy

theorem quick_none (s : State) (v : RVal) : s.quick .none v = s := if_pos rfl

/-- A result that lands at once is in flight behind every result to its destination. -/
theorem quick_quick (s : State) (d : Dest) (v : RVal) : Quick s (s.quick d v) d v := by
  unfold Quick
  split
  · rename_i hd
    rw [hd, quick_none]
  · rename_i hd
    obtain ⟨hstart, hall⟩ := foldl_max_spec ((s.me.inflight.filter (fun r => r.dest == d)).map (·.due)) (s.me.pipe + 1)
    refine ⟨s.nextId, _, hstart, fun r hr hrd => hall r.due ?_, fun hnone => ?_, ?_⟩
    · exact List.mem_map_of_mem (List.mem_filter.mpr ⟨hr, beq_iff_eq.mpr hrd⟩)
    · have hempty : s.me.inflight.filter (fun r => r.dest == d) = [] :=
        List.filter_eq_nil_iff.mpr (fun r hr => by simpa using hnone r hr)
      rw [hempty]
      rfl
    · simp only [State.quick, if_neg hd, State.setMe_me, pendOn_me, pendFor]
      rfl

theorem Quick.after {s t u : State} {d : Dest} {v : RVal} (h : Quick s t d v) (hu : u.me = t.me) : Quick s u d v := by
  unfold Quick at *
  simpa only [hu] using h

theorem Waits.after {s t u : State} {d : Dest} {tok : Nat} (h : Waits s t d tok) (hu : u.me = t.me) : Waits s u d tok := hu.trans h

theorem pendOn_waits (s : State) (d : Dest) : Waits s (s.pendOn [d]).2 d s.nextId := pendOn_me s d

end Sys2Proof.Machine
end

section
/-! The matrix instructions at issue (10 R203, R220-R232): what a command that enters the queue changes of its core, and the gates. -/

namespace Sys2Proof.Machine

open Sys2Proof Sys2Proof.Lanes

/-! ### What a word leaves of its core's part beside the matrix engine -/

/-- Nothing but the issuing core's part differs, and of that nothing but contexts, links and the matrix engine, which is `m`. -/
def MatrixIs (s t : State) (m : Matrix) : Prop :=
  OnlyMyCore s t ∧ t.myTc = { s.myTc with ctxs := t.myTc.ctxs, links := t.myTc.links, mat := m }

theorem MatrixIs.trans {s t u : State} {m n : Matrix} (h : MatrixIs s t m) (k : MatrixIs t u n) : MatrixIs s u n := by
  obtain ⟨h1, h2⟩ := h
  obtain ⟨k1, k2⟩ := k
  exact ⟨h1.trans k1, by rw [k2, h2]⟩

theorem MatrixIs.mat {s t : State} {m : Matrix} (h : MatrixIs s t m) : t.mat = m := by rw [State.mat, h.2]

/-- A step that leaves the engine as it finds it. -/
theorem MatrixIs.next {s t u : State} {m : Matrix} (h : MatrixIs s t m) (k : MatrixIs t u t.mat) : MatrixIs s u m := by
  have hu := h.trans k
  rwa [h.mat] at hu

theorem matrixIs_setMat (s : State) (g : Matrix → Matrix) : MatrixIs s (s.setMat g) (g s.mat) :=
  ⟨onlyMyCore_setMyTc s _ (fun _ _ => rfl), by rw [State.setMat, State.setMyTc_myTc]; rfl⟩

theorem setMat_me (s : State) (g : Matrix → Matrix) : (s.setMat g).me = s.me := State.setMyTc_me s _

theorem matrixIs_bookkeeping (s : State) (n : Nat) (pk : Pk) : MatrixIs s { s with nextId := n, pk := pk } s.mat :=
  ⟨onlyMyCore_bookkeeping s n pk, rfl⟩

theorem matrixIs_setMe (s : State) (g : Ctx → Ctx) : MatrixIs s (s.setMe g) s.mat :=
  ⟨onlyMyCore_setMe s g, by rw [State.setMe_myTc]; rfl⟩

theorem matrixIs_pendOn (s : State) (ds : List Dest) : MatrixIs s (s.pendOn ds).2 s.mat :=
  (matrixIs_bookkeeping s (s.nextId + 1) s.pk).trans (matrixIs_setMe _ _)

theorem matrixIs_quick (s : State) (d : Dest) (v : RVal) : MatrixIs s (s.quick d v) s.mat := by
  unfold State.quick
  split
  · exact matrixIs_bookkeeping s s.nextId s.pk
  · exact (matrixIs_pendOn s [d]).next (matrixIs_setMe _ _)

/-- The end of the queue after a command has entered (10 R203). -/
def Matrix.enqueued (m : Matrix) (cmd : MCmd) (seq : Nat) (pc : W64) (tok : Option Nat) : Matrix :=
  { m with queue := m.queue ++ [⟨cmd, seq, pc, 0, tok, none⟩] }

theorem matrixIs_enqueueM (s : State) (cmd : MCmd) (tok : Option Nat) :
    MatrixIs s (s.enqueueM cmd tok) (s.mat.enqueued cmd s.nextId s.myPc tok) :=
  (matrixIs_setMat s (fun m => m.enqueued cmd s.nextId s.myPc tok)).next (matrixIs_bookkeeping _ _ _)

theorem enqueueM_me (s : State) (cmd : MCmd) (tok : Option Nat) : (s.enqueueM cmd tok).me = s.me :=
  setMat_me s (fun m => m.enqueued cmd s.nextId s.myPc tok)

/-- What follows an instruction's own effect: the links it read, and the verdict. -/
def Trails (t u : State) : Prop := MatrixIs t u t.mat ∧ u.me = t.me

theorem trails_popLinks (sh : Shape) (f : Fields) (s : State) : Trails s (popLinks sh f s) := 
  ⟨⟨onlyMyCore_popLinks sh f s, (linksOnly_popLinks sh f s).part⟩, (linksOnly_popLinks sh f s).me⟩

theorem trails_say (s : State) (v : Verdict) : Trails s (s.say v) := ⟨matrixIs_bookkeeping s s.nextId _, rfl⟩

/-- A ready word of an open gate completes with what its effect has and what follows it keeps. -/
theorem completes_trailing {i : Instr} {f : Fields} {s : State} {gate : State → Verdict} {act : State → State} {P : State → Prop}
    (h : ready i f s = true) (hx : exec i s = run i f { gate := gate, act := act } s) (hg : gate s = .ok) (hact : P (act s))
    (htrail : ∀ t u, P t → Trails t u → P u) : Completes i s P := by
  have hpop := htrail _ _ hact (trails_popLinks i.shape f (act s))
  exact run_completes { gate := gate, act := act } P h hg rfl rfl rfl hx hpop (htrail _ _ hpop (trails_say _ .ok))

theorem gate_stalls {i : Instr} {f : Fields} {s : State} {gate : State → Verdict} {act : State → State} (h : ready i f s = true)
    (hx : exec i s = run i f { gate := gate, act := act } s) (hg : gate s = .stall) : Stays i s .stall :=
  run_stalls _ h hg rfl rfl rfl hx

theorem gate_holds {i : Instr} {f : Fields} {s : State} {gate : State → Verdict} {act : State → State} (h : ready i f s = true)
    (hx : exec i s = run i f { gate := gate, act := act } s) (hg : gate s = .hold) : Stays i s .hold :=
  run_holds _ h hg rfl rfl rfl rfl hx

/-! ### Commands enter the queue (10 R203) -/

theorem queuesM_enqueueM (s : State) (cmd : MCmd) : QueuesM s (s.enqueueM cmd) cmd s.mat.recd :=
  ⟨(matrixIs_enqueueM s cmd none).1, enqueueM_me s cmd none, _, (matrixIs_enqueueM s cmd none).2⟩

theorem queuesM_record (s : State) (cmd : MCmd) (g : MRecord → MRecord) :
    QueuesM s ((s.enqueueM cmd).record g) cmd (g s.mat.recd) := by
  have h := (matrixIs_enqueueM s cmd none).trans (matrixIs_setMat (s.enqueueM cmd) (fun m => { m with recd := g m.recd }))
  rw [(matrixIs_enqueueM s cmd none).mat] at h
  exact ⟨h.1, (setMat_me _ _).trans (enqueueM_me s cmd none), _, h.2⟩

theorem queuesLandingM_enqueueSb (s : State) (d : Dest) (cmd : MCmd) : QueuesLandingM s (s.enqueueSb d cmd) d cmd := by
  have hpend := matrixIs_pendOn s [d]
  have h := hpend.trans (matrixIs_enqueueM (s.pendOn [d]).2 cmd (some s.nextId))
  have hpc : (s.pendOn [d]).2.myPc = s.myPc := by
    rw [State.myPc, pendOn_me]
    rfl
  rw [hpend.mat, hpc] at h
  exact ⟨h.1, s.nextId, _, (pendOn_waits s d).after (enqueueM_me _ _ _), h.2⟩

theorem QueuesM.trails {s t u : State} {cmd : MCmd} {r : MRecord} (h : QueuesM s t cmd r) (k : Trails t u) : QueuesM s u cmd r := by
  obtain ⟨h1, h2, seq, h3⟩ := h
  have hu := MatrixIs.next ⟨h1, h3⟩ k.1
  exact ⟨hu.1, k.2.trans h2, seq, hu.2⟩

theorem QueuesLandingM.trails {s t u : State} {d : Dest} {cmd : MCmd} (h : QueuesLandingM s t d cmd) (k : Trails t u) :
    QueuesLandingM s u d cmd := by
  obtain ⟨h1, tok, seq, h2, h3⟩ := h
  have hu := MatrixIs.next ⟨h1, h3⟩ k.1
  exact ⟨hu.1, tok, seq, h2.after k.2, hu.2⟩

section

variable {i : Instr} {f : Fields} {s : State} {gate : State → Verdict}

/-- A ready word with an open gate queues its command, and leaves the record at issue as it is. -/
theorem completes_enqueueM (cmd : State → MCmd) (h : ready i f s = true)
    (hx : exec i s = run i f { gate := gate, act := fun s => s.enqueueM (cmd s) } s) (hg : gate s = .ok) :
    Completes i s (fun t => QueuesM s t (cmd s) s.mat.recd) :=
  completes_trailing h hx hg (queuesM_enqueueM s (cmd s)) (fun _ _ ht hu => ht.trails hu)

/-- A ready word with an open gate queues its command and updates the record at issue. -/
theorem completes_record (cmd : State → MCmd) (g : State → MRecord → MRecord) (h : ready i f s = true)
    (hx : exec i s = run i f { gate := gate, act := fun s => (s.enqueueM (cmd s)).record (g s) } s) (hg : gate s = .ok) :
    Completes i s (fun t => QueuesM s t (cmd s) (g s s.mat.recd)) :=
  completes_trailing h hx hg (queuesM_record s (cmd s) (g s)) (fun _ _ ht hu => ht.trails hu)

/-- A ready word with an open gate queues its command, and its destination waits for it. -/
theorem completes_enqueueSb (d : Dest) (cmd : State → MCmd) (h : ready i f s = true)
    (hx : exec i s = run i f { gate := gate, act := fun s => s.enqueueSb d (cmd s) } s) (hg : gate s = .ok) :
    Completes i s (fun t => QueuesLandingM s t d (cmd s)) :=
  completes_trailing h hx hg (queuesLandingM_enqueueSb s d (cmd s)) (fun _ _ ht hu => ht.trails hu)

end

/-! ### Gates (10 R203, R204, R216, R220-R230) -/

section

variable {s : State}

theorem roomM_ok (h : s.myTc.mat.queue.length < 16) : s.roomM = .ok := if_neg (Nat.not_le.mpr h)

theorem roomM_hold (h : ¬s.myTc.mat.queue.length < 16) : s.roomM = .hold := if_pos (Nat.not_lt.mp h)

theorem need5_ok {cond : Bool} (cause : Nat) (h : cond = true) : s.need5 cond cause = .ok := if_pos h

theorem tagCheck_ok {cond : Bool} (h : cond = true) : s.tagCheck cond = .ok := if_pos h

theorem tileFree_ok {a : Fin 4} (h : s.myTc.mat.busy a = false) : s.tileFree a = .ok := if_neg (by rw [State.mat, h]; decide)

theorem tileFree_stall {a : Fin 4} (h : s.myTc.mat.busy a = true) : s.tileFree a = .stall := if_pos h

/-- The check of R216 passes where the shadow is not RUN. -/
theorem notRun_ok {a : Fin 4} (h : s.myTc.mat.recd.shadows[a] = false) : s.need5 (!s.shadowRun a) cIllegal = .ok :=
  need5_ok _ (by rw [State.shadowRun, State.mat, h]; rfl)

/-- A depth that is a multiple of 32 between 32 and its limit passes its check. -/
theorem depthCheck_ok {k top : Nat} (h : k % 32 = 0 ∧ 32 ≤ k ∧ k ≤ top) :
    s.need5 (k % 32 == 0 && decide (32 ≤ k) && decide (k ≤ top)) cIllegal = .ok :=
  need5_ok _ (by simp [h])

/-- The checks of `mmul` and `mmuls` pass (10 R223). -/
theorem mmulOk_ok {f : Fields} (shadow : Bool) (hroom : s.myTc.mat.queue.length < 16)
    (htag : s.myTc.mat.recd.aTag = s.myTc.mat.recd.bTag) (hraw : s.myTc.mat.recd.aTag ≠ .raw)
    (htile : s.myTc.mat.recd.tiles[tileNo f.d] = if s.myTc.mat.recd.aTag.isInt then Tag.i32 else Tag.f32)
    (hk : (s.gval f f.a).toNat % 32 = 0 ∧ 32 ≤ (s.gval f f.a).toNat
      ∧ (s.gval f f.a).toNat ≤ min s.myTc.mat.recd.aDepth s.myTc.mat.recd.bDepth)
    (hscales : f.modU = true → s.localOk (s.gval f f.b) (96 * ((s.gval f f.a).toNat / 32)) 32 = .ok)
    (hshadow : shadow = true ∨ s.myTc.mat.recd.shadows[tileNo f.d] = false) : s.mmulOk f shadow = .ok := by
  have htags : s.tagCheck (s.mat.recd.aTag == s.mat.recd.bTag && s.mat.recd.aTag != .raw
      && s.mat.recd.tiles[tileNo f.d] == (if s.mat.recd.aTag.isInt then Tag.i32 else Tag.f32)) = .ok :=
    tagCheck_ok (by
      simp only [Bool.and_eq_true, beq_iff_eq, bne_iff_ne]
      exact ⟨⟨htag, hraw⟩, htile⟩)
  have hdepth := depthCheck_ok (s := s) hk
  have hlocal : (if f.modU then s.localOk (s.gval f f.b) (96 * ((s.gval f f.a).toNat / 32)) 32 else .ok) = .ok := by
    split
    · exact hscales ‹_›
    · rfl
  have hrun : s.need5 (shadow || !s.shadowRun (tileNo f.d)) cIllegal = .ok := by
    rcases hshadow with rfl | hfalse
    · rfl
    · exact need5_ok _ (by rw [State.shadowRun, State.mat, hfalse, Bool.not_false, Bool.or_true])
  simp only [State.mmulOk, htags, Verdict.ok_andThen]
  rw [State.mat, hdepth, hlocal, hrun, roomM_ok hroom]
  rfl

end

/-- Settles O24: each word's gate, and the one command that its effect queues. -/
theorem matrixInstructionsQueue : Obligations.MatrixInstructionsQueue := by
  intro f s m a room k scales mulOk
  refine ⟨fun hroom h hshadow => ?_, fun h hshadow => ?_, fun hroom h hok hshadow => ?_, fun hroom h hok => ?_,
    fun h => ⟨fun hroom => ?_, fun hroom => ?_⟩, fun h => ⟨fun hroom => ?_, fun hroom => ?_⟩,
    fun h => ⟨fun hroom => ?_, fun hroom => ?_⟩, fun hroom h htag hshadow => ?_,
    fun h => ⟨fun hroom hfree => ?_, fun hbusy => ?_⟩, fun h => ⟨fun hroom hfree => ?_, fun hbusy => ?_⟩,
    fun h => ⟨fun hroom => ?_, fun hroom => ?_⟩⟩
  · exact completes_record (fun _ => .mzero a f.xTag) (fun _ r => r.setTile a f.xTag) h rfl
      (by rw [notRun_ok hshadow, roomM_ok hroom]; rfl)
  · have hrun : s.need5 (!s.shadowRun a) cIllegal = s.atPc 5 cIllegal := if_neg (by rw [State.shadowRun, State.mat, hshadow]; decide)
    exact run_faults _ 5 ⟨0x01, 0, s.myPc⟩ h (by dsimp only; rw [hrun]; rfl) rfl rfl rfl rfl
  · obtain ⟨htag, hraw, htile, h0, h32, hka, hkb, hscales⟩ := hok
    exact completes_enqueueM (fun s => .mul a (s.gval f f.a).toNat f.modTop
      (if f.modU then some (spadOff (s.gval f f.b)) else none) false) h rfl
      (mmulOk_ok false hroom htag hraw htile ⟨h0, h32, Nat.le_min.mpr ⟨hka, hkb⟩⟩ hscales (.inr hshadow))
  · obtain ⟨htag, hraw, htile, h0, h32, hka, hkb, hscales⟩ := hok
    exact completes_record (fun s => .mul a (s.gval f f.a).toNat f.modTop
      (if f.modU then some (spadOff (s.gval f f.b)) else none) true) (fun _ r => { r with shadows := r.shadows.set a true }) h rfl
      (mmulOk_ok true hroom htag hraw htile ⟨h0, h32, Nat.le_min.mpr ⟨hka, hkb⟩⟩ hscales (.inl rfl))
  · exact completes_record (fun _ => .com a) (fun _ r => { r with shadows := r.shadows.set a false }) h rfl (roomM_ok hroom)
  · exact gate_holds h rfl (roomM_hold hroom)
  · exact completes_record (fun _ => .dis a) (fun _ r => { r with shadows := r.shadows.set a false }) h rfl (roomM_ok hroom)
  · exact gate_holds h rfl (roomM_hold hroom)
  · exact completes_enqueueSb _ (fun s => .scq (s.gval f f.a)) h rfl (roomM_ok hroom)
  · exact gate_holds h rfl (roomM_hold hroom)
  · have htags : s.tagCheck (s.mat.recd.tiles[a] == .f32 || s.mat.recd.tiles[a] == .i32) = .ok :=
      tagCheck_ok (by
      rw [Bool.or_eq_true, beq_iff_eq, beq_iff_eq]
      exact htag)
    exact completes_record (fun s => .fin a f.xTag ((s.gval f f.a).truncate 32)) (fun _ r => r.setTile a f.xTag) h rfl
      (by dsimp only; rw [htags, notRun_ok hshadow, roomM_ok hroom]; rfl)
  · exact completes_enqueueSb _ (fun s => .row (tileNo f.a) ((s.gval f f.b).toNat % 32)) h rfl
      (by rw [tileFree_ok hfree, roomM_ok hroom]; rfl)
  · exact gate_stalls h rfl (by rw [tileFree_stall hbusy, Verdict.stall_andThen])
  · exact completes_enqueueSb _ (fun s => .cnt (tileNo f.a) ((s.gval f f.b).toNat % 16)) h rfl
      (by rw [tileFree_ok hfree, roomM_ok hroom]; rfl)
  · exact gate_stalls h rfl (by rw [tileFree_stall hbusy, Verdict.stall_andThen])
  · exact completes_enqueueM (fun s => .thr (s.gval f f.a)) h rfl (roomM_ok hroom)
  · exact gate_holds h rfl (roomM_hold hroom)

end Sys2Proof.Machine
end

section
/-! The matrix words that name rows of the scratchpad, and the two that observe the engine (10 R205, R221, R222, R228, R231, R232). -/

namespace Sys2Proof.Machine

open Sys2Proof Sys2Proof.Lanes

/-! ### Operands of latch loads (10 R221, R222) -/

section

variable (s : State) (f : Fields)

theorem latchTag_false : s.latchTag false f = if f.xTag = .raw then s.myTc.mat.recd.aTag else f.xTag := by
  simp only [State.latchTag, beq_iff_eq, Bool.false_eq_true, if_false]
  rfl

theorem latchTag_true : s.latchTag true f = if f.xTag = .raw then s.myTc.mat.recd.bTag else f.xTag := by
  simp only [State.latchTag, beq_iff_eq, if_true]
  rfl

end

/-- The rows that a dense access queues: the offsets of its row addresses. -/
theorem rowEas_map {α : Type} (g : W64 → α) (ga st : W64) (n : Nat) :
    (rowEas ga st n).map g = (List.range n).map (fun i => g (ga + BitVec.ofNat 64 i * st)) := by
  rw [rowEas, List.map_map]
  rfl

/-- A row of `mgat` by its index: all ones makes no access (10 R222). -/
def gatherEa (ga : W64) (ix : VBits) (i : Nat) : Option W64 :=
  if laneAt 32 ix i = 0xFFFFFFFF then none else some (ga + BitVec.ofNat 64 (laneAt 32 ix i))

theorem gatherEas_eq (ga : W64) (ix : VReg) : gatherEas ga ix = (List.range 32).map (gatherEa ga ix.bits) := by
  rw [gatherEas, lanes_eq, ← List.map_take, List.take_range, List.map_map]
  rfl

/-! ### Checks of rows (10 R205, R221) -/

section

variable {s : State}

theorem denseRowsOk_ok {ga st : W64} {n w : Nat}
    (h : ∀ i, i < n → s.localOk (ga + BitVec.ofNat 64 i * st) w (if i = 0 then 32 else 1) = .ok) :
    s.denseRowsOk (rowEas ga st n) w = .ok := by
  refine firstBad_ok (fun v hv => ?_)
  obtain ⟨⟨ea, i⟩, hmem, rfl⟩ := List.mem_map.mp hv
  obtain ⟨hi, hea⟩ := List.getElem?_eq_some_iff.mp (List.mem_zipIdx_iff_getElem?.mp hmem)
  rw [rowEas, List.length_map, List.length_range] at hi
  simp only [rowEas, List.getElem_map, List.getElem_range] at hea
  rw [← hea]
  exact h i hi

theorem gatherRowsOk_ok {ga : W64} {ix : VReg} {w : Nat}
    (h : ∀ i, i < 32 → laneAt 32 ix.bits i ≠ 0xFFFFFFFF → s.localOk (ga + BitVec.ofNat 64 (laneAt 32 ix.bits i)) w 32 = .ok) :
    s.rowsOk ((gatherEas ga ix).filterMap id) w = .ok := by
  refine firstBad_ok (fun v hv => ?_)
  obtain ⟨ea, hmem, rfl⟩ := List.mem_map.mp hv
  rw [gatherEas_eq, List.filterMap_map] at hmem
  obtain ⟨i, hi, hea⟩ := List.mem_filterMap.mp hmem
  simp only [Function.comp_apply, id, gatherEa, Option.ite_none_left_eq_some, Option.some.injEq] at hea
  rw [← hea.2]
  exact h i (List.mem_range.mp hi) hea.1

theorem aligned_ok {x : W64} (h : x.toNat % 32 = 0) : s.need5 (x.toNat % 32 == 0) cAlign = .ok :=
  need5_ok _ (beq_iff_eq.mpr h)

theorem tagged_ok {t : Tag} (h : t ≠ .raw) : s.tagCheck (t != .raw) = .ok := tagCheck_ok (bne_iff_ne.mpr h)

end

/-! ### Latch loads (10 R221, R222) -/

/-- The record at issue after a latch load (10 R221). -/
def MRecord.latched (isB : Bool) (t : Tag) (k : Nat) (r : MRecord) : MRecord :=
  if isB then { r with bTag := t, bDepth := k } else { r with aTag := t, aDepth := k }

/-- `mlda` and `mldb` queue the offsets of the rows that their checks passed. -/
theorem latchLoad_completes {i : Fields → Instr} {isB : Bool} {f : Fields} {s : State} {t : Tag} {k w n : Nat} (ht : s.latchTag isB f = t)
    (hk : depthOf t (s.gval f f.c) = k) (hw : (if isB then bRow t else aRow t k) = w) (hn : (if isB then k else 32) = n)
    (hx : exec (i f) s = latchLoad i isB f s) (h : ready (i f) f s = true) (hroom : s.myTc.mat.queue.length < 16) (htag : t ≠ .raw)
    (hdepth : k % 32 = 0 ∧ 32 ≤ k ∧ k ≤ kMax t) (halign : (s.gval f f.b).toNat % 32 = 0)
    (hrows : ∀ j, j < n →
      s.localOk (s.gval f f.a + BitVec.ofNat 64 j * strideOf (s.gval f f.b) w) w (if j = 0 then 32 else 1) = .ok) :
    Completes (i f) s (fun u => QueuesM s u
      (.load isB ⟨t, k, f.swz, (List.range n).map (fun j =>
        some (spadOff (s.gval f f.a + BitVec.ofNat 64 j * strideOf (s.gval f f.b) w)))⟩)
      (s.mat.recd.latched isB t k)) := by
  subst ht hk hw hn
  rw [← rowEas_map (fun ea => some (spadOff ea))]
  refine completes_record
    (fun s =>
      let t := s.latchTag isB f
      let k := depthOf t (s.gval f f.c)
      .load isB ⟨t, k, f.swz, (rowEas (s.gval f f.a) (strideOf (s.gval f f.b) (if isB then bRow t else aRow t k))
        (if isB then k else 32)).map (fun ea => some (spadOff ea))⟩)
    (fun s => MRecord.latched isB (s.latchTag isB f) (depthOf (s.latchTag isB f) (s.gval f f.c))) h hx ?_
  dsimp only
  rw [tagged_ok htag, depthCheck_ok hdepth, aligned_ok halign, denseRowsOk_ok hrows, roomM_ok hroom]
  rfl

/-- `mgat` queues the offsets of the rows that its checks passed. -/
theorem mgat_completes {f : Fields} {s : State} {t : Tag} {k : Nat} (ht : s.latchTag false f = t) (hk : depthOf t (s.gval f f.c) = k)
    (h : ready (.mgat f) f s = true) (hroom : s.myTc.mat.queue.length < 16) (htag : t ≠ .raw)
    (hdepth : k % 32 = 0 ∧ 32 ≤ k ∧ k ≤ kMax t)
    (hrows : ∀ j, j < 32 → laneAt 32 (s.vreg f.b).bits j ≠ 0xFFFFFFFF →
      s.localOk (s.gval f f.a + BitVec.ofNat 64 (laneAt 32 (s.vreg f.b).bits j)) (aRow t k) 32 = .ok) :
    Completes (.mgat f) s (fun u => QueuesM s u
      (.gather ⟨t, k, f.swz, (List.range 32).map (fun j => (gatherEa (s.gval f f.a) (s.vreg f.b).bits j).map spadOff)⟩ [])
      (s.mat.recd.latched false t k)) := by
  subst ht hk
  have hmap : (List.range 32).map (fun j => (gatherEa (s.gval f f.a) (s.vreg f.b).bits j).map spadOff)
      = (gatherEas (s.gval f f.a) (s.vreg f.b)).map (fun e => e.map spadOff) := by
    rw [gatherEas_eq, List.map_map]
    rfl
  rw [hmap]
  refine completes_trailing h rfl ?_ (queuesM_record s _ _) (fun _ _ ht hu => ht.trails hu)
  dsimp only
  rw [tagged_ok htag, depthCheck_ok hdepth, gatherRowsOk_ok hrows, roomM_ok hroom]
  rfl

/-! ### `mst` (10 R228) -/

theorem mst_completes {f : Fields} {s : State} {st : W64} {w : Nat} (hw : bRow s.myTc.mat.recd.tiles[tileNo f.b] = w)
    (hst : strideOf (s.gval f f.c) w = st) (h : ready (.mst f) f s = true) (hroom : s.myTc.mat.queue.length < 16)
    (hfree : s.myTc.mat.busy (tileNo f.b) = false) (htag : s.myTc.mat.recd.tiles[tileNo f.b] ≠ .raw)
    (halign : (s.gval f f.c).toNat % 32 = 0)
    (hrows : ∀ j, j < 32 → s.localOk (s.gval f f.a + BitVec.ofNat 64 j * st) w (if j = 0 then 32 else 1) = .ok) :
    Completes (.mst f) s (fun u => QueuesM s u
      (.store (tileNo f.b) ((List.range 32).map (fun j => spadOff (s.gval f f.a + BitVec.ofNat 64 j * st))) f.swz) s.mat.recd) := by
  subst hw hst
  rw [← rowEas_map spadOff]
  refine completes_enqueueM (fun s => .store (tileNo f.b)
    ((rowEas (s.gval f f.a) (strideOf (s.gval f f.c) (bRow s.mat.recd.tiles[tileNo f.b])) 32).map spadOff) f.swz) h rfl ?_
  have htagged : s.tagCheck (s.mat.recd.tiles[tileNo f.b] != .raw) = .ok := tagged_ok htag
  have hlocal : s.denseRowsOk (rowEas (s.gval f f.a) (strideOf (s.gval f f.c) (bRow s.mat.recd.tiles[tileNo f.b])) 32)
      (bRow s.mat.recd.tiles[tileNo f.b]) = .ok := denseRowsOk_ok hrows
  dsimp only
  rw [tileFree_ok hfree, htagged, aligned_ok halign, hlocal, roomM_ok hroom]
  rfl

/-! ### `mwt` and `mstat` (10 R231, R232) -/

/-- `mwt` waits while its tile is pending; without a tile, while the queue holds a command (10 R231). -/
def Matrix.waitsFor (m : Matrix) : Sel → Bool
  | .zero => !m.queue.isEmpty
  | x => m.pending (tileNo x)

theorem Matrix.waitsFor_iff (m : Matrix) (x : Sel) :
    m.waitsFor x = true ↔ if x = .zero then m.queue ≠ [] else m.pending (tileNo x) = true := by
  cases x with
  | zero => simp [waitsFor]
  | reg n | link d | imm => simp [waitsFor]

theorem mwt_run (f : Fields) (s : State) : exec (.mwt f) s = run (.mwt f) f {
    gate := fun s => (if s.mat.waitsFor f.a then .hold else .ok : Verdict).andThen s.roomM
    act := fun s => s.enqueueM .nop } s := rfl

theorem quick_same (s : State) (d : Dest) (v : RVal) : (s.quick d v).me.pcq0 = s.me.pcq0 ∧ (s.quick d v).pk.pos = s.pk.pos := by
  unfold State.quick
  split
  · exact ⟨rfl, rfl⟩
  · exact ⟨by rw [State.setMe_me, pendOn_me], rfl⟩

/-- `mstat` answers the word of its issue, clears FOD and takes its place in the queue (10 R232). -/
theorem mstat_act (s : State) (d : Dest) :
    let t := ((s.quick d (.g s.mat.word)).setMat (fun m => { m with fod := false })).enqueueM .nop
    Quick s t d (.g s.mat.word)
      ∧ ∃ seq, MatrixIs s t (({ s.mat with fod := false } : Matrix).enqueued .nop seq s.myPc none) := by
  intro t
  have hquick := matrixIs_quick s d (.g s.mat.word)
  have hcleared := hquick.trans (matrixIs_setMat (s.quick d (.g s.mat.word)) (fun m => { m with fod := false }))
  have ht := hcleared.trans (matrixIs_enqueueM ((s.quick d (.g s.mat.word)).setMat (fun m => { m with fod := false })) .nop none)
  have hme : ((s.quick d (.g s.mat.word)).setMat (fun m => { m with fod := false })).me = (s.quick d (.g s.mat.word)).me := setMat_me _ _
  have hpc : ((s.quick d (.g s.mat.word)).setMat (fun m => { m with fod := false })).myPc = s.myPc := by
    rw [State.myPc, hme, (quick_same s d _).1]
    exact congrArg _ (congrArg (BitVec.ofNat 64) (quick_same s d _).2)
  rw [hcleared.mat, hquick.mat, hpc] at ht
  exact ⟨(quick_quick s d _).after ((enqueueM_me _ _ _).trans hme), _, ht⟩

/-- Settles O25: each word's gate on the rows that it names, and the command that its effect queues. -/
theorem matrixLoadsAndStoresQueue : Obligations.MatrixLoadsAndStoresQueue := by
  intro f s m room off rowAt tagA tagB kOf strideTo kOk stA stB tileS stS ix
  refine ⟨fun hroom h hk halign hrows => ?_, fun hroom h hk halign hrows => ?_, fun hroom h hk hrows => ?_,
    fun h => ⟨fun hbusy => ?_, fun hroom hfree htag halign hrows => ?_⟩, fun h => ?_, fun h => ⟨fun hroom => ?_, fun hroom => ?_⟩⟩
  · exact latchLoad_completes (i := .mlda) (latchTag_false s f) rfl rfl rfl rfl h hroom hk.1 hk.2 halign hrows
  · exact latchLoad_completes (i := .mldb) (latchTag_true s f) rfl rfl rfl rfl h hroom hk.1 hk.2 halign hrows
  · refine (mgat_completes (latchTag_false s f) rfl h hroom hk.1 hk.2 hrows).mono (fun t ht => ?_)
    have hrow : ∀ i, (gatherEa (s.gval f f.a) (s.vreg f.b).bits i).map spadOff
        = if ix i = 0xFFFFFFFF then none else some (off (s.gval f f.a + BitVec.ofNat 64 (ix i))) :=
      fun i => apply_ite (Option.map spadOff) _ _ _
    rw [List.map_congr_left (fun i _ => hrow i)] at ht
    exact ht
  · exact gate_stalls h rfl (by dsimp only; rw [tileFree_stall hbusy, Verdict.stall_andThen])
  · exact mst_completes rfl rfl h hroom hfree htag halign hrows
  · refine ⟨fun hwait => gate_holds h (mwt_run f s) ?_,
      fun hwait hroom => completes_enqueueM (fun _ => .nop) h (mwt_run f s) ?_⟩
    · by_cases hw : s.mat.waitsFor f.a = true
      · simp only [hw, if_true, Verdict.hold_andThen]
      · have hfull := hwait.resolve_left (fun hi => hw ((Matrix.waitsFor_iff _ _).mpr hi))
        simp only [hw, Bool.false_eq_true, if_false, Verdict.ok_andThen, roomM_hold hfull]
    · have hw : ¬s.mat.waitsFor f.a = true := fun hi => hwait ((Matrix.waitsFor_iff _ _).mp hi)
      simp only [hw, Bool.false_eq_true, if_false, Verdict.ok_andThen, roomM_ok hroom]
  · exact gate_holds h rfl (roomM_hold hroom)
  · refine completes_trailing h rfl (roomM_ok hroom) ?_ (fun t u ht hu => ?_)
    · obtain ⟨hquick, seq, hmat⟩ := mstat_act s (Dest.ofG f.d)
      exact ⟨hmat.1, hquick, seq, hmat.2⟩
    · obtain ⟨hcore, hquick, seq, hpart⟩ := ht
      have hmat := MatrixIs.next ⟨hcore, hpart⟩ hu.1
      exact ⟨hmat.1, hquick.after hu.2, seq, hmat.2⟩

end Sys2Proof.Machine
end

section
/-! Stores of the engine under a swizzle (09 R174, 10 R228): a swizzle moves whole rows of 32 B and no two to one place, and the pieces of a
span write each of its bytes once. -/

namespace Sys2Proof.Machine

open Sys2Proof Sys2Proof.Lanes

/-! ### Swizzles move rows (09 R174) -/

/-- The row of 32 B to which a combination of `w` bits with those `up` places higher moves a row. -/
def mixRow (w up q : Nat) : Nat := q ^^^ natBits q up w

theorem testBit_mixRow (w up q i : Nat) : (mixRow w up q).testBit i = (q.testBit i ^^ (decide (i < w) && q.testBit (up + i))) := by
  rw [mixRow, Nat.testBit_xor, testBit_natBits]

/-- Bits that stand as high as those that a combination changes, or higher, are kept, so that it is its own inverse. -/
theorem mixRow_mixRow {w up : Nat} (h : w ≤ up) (q : Nat) : mixRow w up (mixRow w up q) = q := by
  refine Nat.eq_of_testBit_eq (fun i => ?_)
  have hhigh : ¬up + i < w := by omega
  simp only [testBit_mixRow, hhigh, decide_false, Bool.false_and, Bool.xor_false]
  cases q.testBit i <;> cases decide (i < w) && q.testBit (up + i) <;> rfl

/-- A combination of offset bits moves the offset's row and keeps its place in the row. -/
theorem mix_eq (w up o : Nat) : o ^^^ (natBits o (5 + up) w <<< 5) = 32 * mixRow w up (o / 32) + o % 32 := by
  have hbits : natBits o (5 + up) w = natBits (o / 32) up w := by
    rw [natBits, natBits, Nat.shiftRight_add, Nat.shiftRight_eq_div_pow o 5]
  have hdiv : (o ^^^ (natBits o (5 + up) w <<< 5)) / 2 ^ 5 = mixRow w up (o / 32) := by
    rw [← Nat.shiftRight_eq_div_pow, Nat.shiftRight_xor_distrib, Nat.shiftLeft_shiftRight, hbits, Nat.shiftRight_eq_div_pow]
    rfl
  have hmod : (o ^^^ (natBits o (5 + up) w <<< 5)) % 2 ^ 5 = o % 2 ^ 5 := by
    rw [Nat.xor_mod_two_pow, Nat.shiftLeft_eq, Nat.mul_mod_left, Nat.xor_zero]
  have hsplit := Nat.div_add_mod (o ^^^ (natBits o (5 + up) w <<< 5)) (2 ^ 5)
  rw [hdiv, hmod] at hsplit
  exact hsplit.symm

theorem swizzle_rows (n : Nat) : ∃ w up, w ≤ up ∧ ∀ o, swizzle n o = 32 * mixRow w up (o / 32) + o % 32 := by
  have hmix : ∀ w up, w ≤ up → (∀ o, swizzle n o = o ^^^ (natBits o (5 + up) w <<< 5)) →
      ∃ w up, w ≤ up ∧ ∀ o, swizzle n o = 32 * mixRow w up (o / 32) + o % 32 :=
    fun w up h hs => ⟨w, up, h, fun o => (hs o).trans (mix_eq w up o)⟩
  match n with
  | 0 => exact hmix 0 0 (Nat.le_refl 0) (fun o => by simp [swizzle, natBits, Nat.mod_one])
  | 1 => exact hmix 4 4 (by decide) (fun _ => rfl)
  | 2 => exact hmix 4 5 (by decide) (fun _ => rfl)
  | 3 => exact hmix 4 6 (by decide) (fun _ => rfl)
  | 4 => exact hmix 4 7 (by decide) (fun _ => rfl)
  | 5 => exact hmix 3 4 (by decide) (fun _ => rfl)
  | 6 => exact hmix 4 8 (by decide) (fun _ => rfl)
  | _ + 7 => exact hmix 2 4 (by decide) (fun _ => rfl)

/-- Within a row of 32 B a swizzle keeps the order of the bytes. -/
theorem swizzle_add (n : Nat) {o i : Nat} (h : o % 32 + i < 32) : swizzle n (o + i) = swizzle n o + i := by
  obtain ⟨w, up, -, hrow⟩ := swizzle_rows n
  have hdiv : (o + i) / 32 = o / 32 := by omega
  have hmod : (o + i) % 32 = o % 32 + i := by omega
  rw [hrow, hrow, hdiv, hmod, Nat.add_assoc]

/-- No two offsets have one place. -/
theorem swizzle_injective (n : Nat) {o p : Nat} (h : swizzle n o = swizzle n p) : o = p := by
  obtain ⟨w, up, hle, hrow⟩ := swizzle_rows n
  rw [hrow, hrow] at h
  have hmix : mixRow w up (o / 32) = mixRow w up (p / 32) := by omega
  have hdiv : o / 32 = p / 32 := by rw [← mixRow_mixRow hle (o / 32), hmix, mixRow_mixRow hle]
  omega

/-! ### Bytes that an engine writes (09 R174) -/

theorem length_leBytes (n x : Nat) : (leBytes n x).length = n := by
  induction n generalizing x with
  | zero => rfl
  | succ n ih => rw [leBytes, List.length_cons, ih]

theorem length_rowBytes (d : TileData) (i : Nat) : (rowBytes d i).length = 8 * d.tag.width := length_leBytes _ _

/-- The log of a replay scope keeps old bytes and changes none. -/
theorem logOld_spad (t : TaskCore) (rp : Option W64) (o n : Nat) : (t.logOld rp o n).spad = t.spad := by
  unfold TaskCore.logOld
  split <;> rfl

theorem spadPut_spad (t : TaskCore) (rp : Option W64) (o : Nat) (bs : List Byte) :
    (t.spadPut rp o (bs.map some)).spad = t.spad.write o bs := by
  rw [← Memory.writeMasked_some]
  simp only [TaskCore.spadPut]
  split
  · rfl
  · rw [logOld_spad]

/-- `u` is `t` with the bytes `g 0 … g (n - 1)` at the swizzled places of `[o, o + n)`, and no other byte changed. -/
def WritesAt (swz o n : Nat) (g : Nat → Byte) (t u : TaskCore) : Prop :=
  u.spad.wf = true ∧ (∀ j, j < n → u.spad.byte (swizzle swz (o + j)) = g j)
    ∧ ∀ x, (∀ j, j < n → swizzle swz (o + j) ≠ x) → u.spad.byte x = t.spad.byte x

theorem WritesAt.nothing {swz o : Nat} {g : Nat → Byte} {t : TaskCore} (hwf : t.spad.wf = true) : WritesAt swz o 0 g t t :=
  ⟨hwf, fun _ hj => absurd hj (Nat.not_lt_zero _), fun _ _ => rfl⟩

/-- A stretch within one row of 32 B is written in one piece. -/
theorem spadPut_writes {t : TaskCore} (rp : Option W64) {swz o : Nat} {bs : List Byte} (hwf : t.spad.wf = true)
    (hrow : o % 32 + bs.length ≤ 32) : WritesAt swz o bs.length (fun j => bs.getD j 0) t (t.spadPut rp (swizzle swz o) (bs.map some)) := by
  have hplace : ∀ j, j < bs.length → swizzle swz (o + j) = swizzle swz o + j := fun j hj => swizzle_add swz (by omega)
  unfold WritesAt
  rw [spadPut_spad]
  refine ⟨Memory.wf_write bs _ _ hwf, fun j hj => ?_, fun x hx => ?_⟩
  · rw [hplace j hj, Memory.byte_write_at bs _ _ j hwf hj]
    simp only [List.getD_eq_getElem?_getD, List.getElem?_eq_getElem hj, Option.getD_some]
  · refine Memory.byte_write_other bs _ _ x hwf ?_
    refine Classical.byContradiction (fun hin => hx (x - swizzle swz o) (by omega) ?_)
    rw [hplace _ (by omega)]
    omega

/-- Two stretches that follow one another. -/
theorem WritesAt.append {swz o n k : Nat} {g : Nat → Byte} {t u v : TaskCore} (h : WritesAt swz o k g t u)
    (hrest : WritesAt swz (o + k) n (fun j => g (k + j)) u v) : WritesAt swz o (k + n) g t v := by
  obtain ⟨-, hbytes, hother⟩ := h
  obtain ⟨hwf, hbytes', hother'⟩ := hrest
  refine ⟨hwf, fun j hj => ?_, fun x hx => ?_⟩
  · by_cases hjk : j < k
    · rw [hother' _ (fun i hi heq => ?_), hbytes j hjk]
      have := swizzle_injective swz heq
      omega
    · have h' := hbytes' (j - k) (by omega)
      simp only [Nat.add_assoc, Nat.add_sub_of_le (Nat.not_lt.mp hjk)] at h'
      exact h'
  · rw [hother' x (fun j hj => ?_), hother x (fun j hj => hx j (by omega))]
    rw [Nat.add_assoc]
    exact hx (k + j) (by omega)

/-- The pieces of a span write its bytes, where the count of pieces reaches. -/
theorem pieces_writes (rp : Option W64) (swz o0 : Nat) (bs : List Byte) (fuel o n : Nat) (t : TaskCore) (hwf : t.spad.wf = true)
    (hlo : o0 ≤ o) (hhi : o + n = o0 + bs.length) (hfuel : n = 0 ∨ o % 32 + n ≤ 32 * fuel) :
    WritesAt swz o n (fun j => bs.getD (o - o0 + j) 0) t ((pieces o fuel n).foldl (fun t p =>
      t.spadPut rp (swizzle swz p.1) (((bs.drop (p.1 - o0)).take p.2).map some)) t) := by
  induction fuel generalizing o n t with
  | zero =>
    have hn : n = 0 := by omega
    subst hn
    exact WritesAt.nothing hwf
  | succ fuel ih =>
    by_cases hn : n = 0
    · subst hn
      exact WritesAt.nothing hwf
    · obtain ⟨k, hk⟩ : ∃ k, k = min n (32 - o % 32) := ⟨_, rfl⟩
      have hkn : k ≤ n := by omega
      have hpiece : ((bs.drop (o - o0)).take k).length = k := by
        rw [List.length_take, List.length_drop]
        omega
      have hfirst := spadPut_writes (swz := swz) (o := o) rp hwf (bs := (bs.drop (o - o0)).take k) (by omega)
      rw [hpiece] at hfirst
      have hrest := ih (o + k) (n - k) _ hfirst.1 (by omega) (by omega) (by omega)
      rw [pieces, if_neg hn, ← hk, List.foldl_cons]
      have hbytes : ∀ j, j < k → ((bs.drop (o - o0)).take k).getD j 0 = bs.getD (o - o0 + j) 0 := fun j hj => by
        simp [List.getD_eq_getElem?_getD, List.getElem?_take_of_lt hj]
      have hhead : WritesAt swz o k (fun j => bs.getD (o - o0 + j) 0) t
          (t.spadPut rp (swizzle swz o) (((bs.drop (o - o0)).take k).map some)) :=
        ⟨hfirst.1, fun j hj => (hfirst.2.1 j hj).trans (hbytes j hj), hfirst.2.2⟩
      have hall := hhead.append (by
        have hshift : ∀ j, o + k - o0 + j = o - o0 + (k + j) := fun j => by omega
        simpa only [hshift] using hrest)
      rwa [Nat.add_sub_of_le hkn] at hall

theorem engineWrite_writes {t : TaskCore} (rp : Option W64) (swz o : Nat) (bs : List Byte) (hwf : t.spad.wf = true) :
    WritesAt swz o bs.length (fun j => bs.getD j 0) t (t.engineWrite rp swz o bs) := by
  have h := pieces_writes rp swz o bs (bs.length / 32 + 2) o bs.length t hwf (Nat.le_refl o) rfl (.inr (by omega))
  simp only [Nat.sub_self, Nat.zero_add] at h
  exact h

/-- The bytes of rows stored in order: of the rows that name a place the last one's byte stands there, and no other byte changes. -/
theorem storeRows_writes (rp : Option W64) (swz : Nat) (d : TileData) (rows : List Nat) (first : Nat) (t : TaskCore)
    (hwf : t.spad.wf = true) :
    let n := 8 * d.tag.width
    let home (i j : Nat) : Nat := swizzle swz (rows.getD i 0 + j)
    let u := (rows.zipIdx first).foldl (fun t r => t.engineWrite rp swz r.1 (rowBytes d r.2)) t
    (∀ i j, i < rows.length → j < n → (∀ i' j', i < i' → i' < rows.length → j' < n → home i' j' ≠ home i j) →
      u.spad.byte (home i j) = (rowBytes d (first + i)).getD j 0)
    ∧ ∀ o, (∀ i j, i < rows.length → j < n → home i j ≠ o) → u.spad.byte o = t.spad.byte o := by
  induction rows generalizing first t with
  | nil => exact ⟨fun i _ hi => absurd hi (Nat.not_lt_zero i), fun _ _ => rfl⟩
  | cons r rows ih =>
    intro n home u
    have hrow := engineWrite_writes rp swz r (rowBytes d first) hwf
    rw [length_rowBytes] at hrow
    obtain ⟨hwf', hbytes, hother⟩ := hrow
    obtain ⟨ihbytes, ihother⟩ := ih (first + 1) _ hwf'
    refine ⟨fun i j hi hj hlater => ?_, fun o ho => ?_⟩
    · cases i with
      | zero =>
        refine (ihother _ (fun i' j' hi' hj' => hlater (i' + 1) j' (Nat.succ_pos i') (Nat.succ_lt_succ hi') hj')).trans ?_
        exact hbytes j hj
      | succ i =>
        have hbyte := ihbytes i j (Nat.lt_of_succ_lt_succ hi) hj
          (fun i' j' hlt hi' hj' => hlater (i' + 1) j' (Nat.succ_lt_succ hlt) (Nat.succ_lt_succ hi') hj')
        rw [Nat.add_assoc, Nat.add_comm 1] at hbyte
        exact hbyte
    · exact (ihother o (fun i j hi hj => ho (i + 1) j (Nat.succ_lt_succ hi) hj)).trans
        (hother o (fun j hj => ho 0 j (Nat.succ_pos _) hj))

end Sys2Proof.Machine
end

section
/-! The matrix engine's own steps (10 R203-R230): what a landing and the consumption of poison leave of it, and the effect of each command at
the head of its queue. -/

namespace Sys2Proof.Machine

open Sys2Proof Sys2Proof.Lanes

/-! ### The part of a core's task on that core (15 R363) -/

section

variable {s : State} {k : CoreId}

theorem partHere_setTc (s : State) (k j : CoreId) (f : TaskCore → TaskCore) : partHere (s.setTc j f) k = partHere s k := by
  simp only [partHere, State.setTc_task, State.setTc_tasks]

theorem partOf_here (h : partHere s k = true) : s.partOf (s.core k).task k = s.tc k := by
  unfold partHere at h
  cases htask : (s.core k).task with
  | none => rfl
  | some n =>
    cases hfind : s.tasks.find n with
    | none => simp [htask, hfind] at h
    | some tk =>
      simp only [htask, hfind, beq_iff_eq] at h
      simp only [State.partOf, hfind, h]

theorem setPart_here (h : partHere s k = true) (f : TaskCore → TaskCore) : s.setPart (s.core k).task k f = s.setTc k f := by
  unfold partHere at h
  cases htask : (s.core k).task with
  | none => rfl
  | some n =>
    cases hfind : s.tasks.find n with
    | none => simp [htask, hfind] at h
    | some tk =>
      simp only [htask, hfind, beq_iff_eq] at h
      simp only [State.setPart, hfind, h]

theorem ctxOf_here (h : partHere s k = true) (j : Nat) : s.ctxOf (s.core k).task ⟨k, j⟩ = s.ctx ⟨k, j⟩ := by
  rw [State.ctxOf, partOf_here h]
  rfl

theorem setCtxOf_here (h : partHere s k = true) (j : Nat) (g : Ctx → Ctx) :
    s.setCtxOf (s.core k).task ⟨k, j⟩ g = s.setCtx ⟨k, j⟩ g := setPart_here h _

theorem setTc_ctx_kept (s : State) (k : CoreId) {f : TaskCore → TaskCore} (hf : ∀ t, (f t).ctxs = t.ctxs) (c : CtxId) :
    (s.setTc k f).ctx c = s.ctx c := by
  simp only [State.ctx, TaskCore.ctx, setTc_ctxs hf]

end

/-! ### A landing in the lead's registers (05 R77) -/

section

variable {s : State} {k : CoreId} {j tok : Nat}

/-- A g or a v register. -/
def Dest.isReg (d : Dest) : Prop := (∃ n, d = .g n) ∨ ∃ n, d = .v n

theorem commitOne_here (h : partHere s k = true) {d : Dest} (v : RVal) (hd : d.isReg) :
    s.commitOne (s.core k).task ⟨k, j⟩ d v = s.setCtx ⟨k, j⟩ (fun c => c.enter d v) := by
  rcases hd with ⟨n, rfl⟩ | ⟨n, rfl⟩ <;> exact setCtxOf_here h j _

/-- A value lands at once in a register that has no result in flight. -/
theorem landOne_here (h : partHere s k = true) {d : Dest} (v : RVal) (hd : d.isReg)
    (hfree : ∀ r ∈ (s.ctx ⟨k, j⟩).inflight, r.dest ≠ d) :
    s.landOne (s.core k).task ⟨k, j⟩ tok d v = (s.setCtx ⟨k, j⟩ (fun c => c.enter d v)).setCtx ⟨k, j⟩ (fun c =>
      { c with pend := c.pend.filter (fun p => !(p.tok == tok && p.dest == d)) }) := by
  have hnone : (s.ctx ⟨k, j⟩).inflight.filter (fun r => r.dest == d) = [] :=
    List.filter_eq_nil_iff.mpr (fun r hr => by simpa using hfree r hr)
  have hpart : partHere (s.setCtx ⟨k, j⟩ (fun c => c.enter d v)) k = true := (partHere_setTc s k k _).trans h
  have htask : ((s.setCtx ⟨k, j⟩ (fun c => c.enter d v)).core k).task = (s.core k).task := State.setTc_task s k k _
  simp only [State.landOne, ctxOf_here h, hnone, List.map_nil, commitOne_here h v hd]
  rw [← htask]
  exact setCtxOf_here hpart j _

theorem onRecorded_ctx_here (h : partHere s k = true) (g : Ctx → Ctx) (c : CtxId) :
    (s.onRecorded (s.core k).task k g).ctx c = s.ctx c := by
  unfold State.onRecorded
  split
  · rfl
  · rw [setPart_here h]
    refine setTc_ctx_kept s k ?_ c
    exact fun _ => rfl

/-- An operation whose one destination is a register without a result in flight gives the register its value, and waits no more. -/
theorem land_ctx_here (h : partHere s k = true) {d : Dest} (f : Dest → RVal) (hd : d.isReg)
    (hwait : (s.ctx ⟨k, j⟩).pend.filter (fun p => p.tok == tok) = [⟨d, tok⟩]) (hfree : ∀ r ∈ (s.ctx ⟨k, j⟩).inflight, r.dest ≠ d) :
    (s.land (s.core k).task ⟨k, j⟩ tok f).ctx ⟨k, j⟩ = { (s.ctx ⟨k, j⟩).enter d (f d) with
      pend := ((s.ctx ⟨k, j⟩).enter d (f d)).pend.filter (fun p => !(p.tok == tok && p.dest == d)) } := by
  have hdest : (s.ctx ⟨k, j⟩).waitingOn tok = [d] := by rw [Ctx.waitingOn, hwait, List.map_cons, List.map_nil]
  simp only [State.land, ctxOf_here h, hdest, List.foldl_cons, List.foldl_nil, landOne_here h (f d) hd hfree]
  generalize hu : (s.setCtx ⟨k, j⟩ (fun c => c.enter d (f d))).setCtx ⟨k, j⟩ _ = u
  have hpart : partHere u k = true := by
    rw [← hu]
    exact (partHere_setTc _ k k _).trans ((partHere_setTc s k k _).trans h)
  have htask : (u.core k).task = (s.core k).task := by
    rw [← hu]
    exact (State.setTc_task _ k k _).trans (State.setTc_task s k k _)
  rw [← htask, onRecorded_ctx_here hpart, ← hu, State.setCtx_ctx, State.setCtx_ctx]

/-- Of the entries of an operation that waits for one destination, those that its landing leaves are those of other operations. -/
theorem filter_landed {l : List Pend} {d : Dest} (hwait : l.filter (fun p => p.tok == tok) = [⟨d, tok⟩]) :
    l.filter (fun p => !(p.tok == tok && p.dest == d)) = l.filter (fun p => !(p.tok == tok)) := by
  refine List.filter_congr (fun p hp => ?_)
  cases htok : p.tok == tok with
  | false => rfl
  | true =>
    have hmem : p ∈ l.filter (fun p => p.tok == tok) := List.mem_filter.mpr ⟨hp, htok⟩
    rw [hwait, List.mem_singleton] at hmem
    simp [hmem]

theorem landG_lands (h : partHere s k = true) (x : W64) :
    LandsG s (s.landG (s.core k).task ⟨k, j⟩ tok x) ⟨k, j⟩ tok x := by
  intro n hwait hfree
  rw [State.landG, land_ctx_here h _ (.inl ⟨n, rfl⟩) hwait hfree]
  exact ⟨Ctx.getG_setG _ n x, filter_landed hwait⟩

theorem landV_lands (h : partHere s k = true) (x : VReg) :
    LandsV s (s.landV (s.core k).task ⟨k, j⟩ tok x) ⟨k, j⟩ tok x.canon := by
  intro n hwait hfree
  rw [State.landV, land_ctx_here h _ (.inr ⟨n, rfl⟩) hwait hfree]
  exact ⟨Ctx.getV_setV _ n x.canon, filter_landed hwait⟩

theorem LandsG.congr {s' t t' : State} {c : CtxId} {x : W64} (h : LandsG s t c tok x) (hs : s.ctx c = s'.ctx c)
    (ht : t'.ctx c = t.ctx c) : LandsG s' t' c tok x := by
  unfold LandsG at *
  rwa [ht, ← hs]

theorem LandsV.congr {s' t t' : State} {c : CtxId} {x : VReg} (h : LandsV s t c tok x) (hs : s.ctx c = s'.ctx c)
    (ht : t'.ctx c = t.ctx c) : LandsV s' t' c tok x := by
  unfold LandsV at *
  rwa [ht, ← hs]

end

/-! ### What leaves the matrix engines alone -/

/-- Every core's matrix engine is as before. -/
def EnginesKept (s t : State) : Prop := ∀ j, (t.tc j).mat = (s.tc j).mat

theorem EnginesKept.refl (s : State) : EnginesKept s s := fun _ => rfl

theorem EnginesKept.trans {s t u : State} (h : EnginesKept s t) (k : EnginesKept t u) : EnginesKept s u := fun j => (k j).trans (h j)

section

variable (s : State)

theorem setTc_enginesKept (k : CoreId) {f : TaskCore → TaskCore} (hf : ∀ t, (f t).mat = t.mat) : EnginesKept s (s.setTc k f) := by
  intro j
  by_cases hk : k = j
  · subst hk
    rw [State.setTc_tc, hf]
  · rw [State.setTc_tc_other s k j f hk]

theorem setPart_enginesKept (task : Option Nat) (k : CoreId) {f : TaskCore → TaskCore} (hf : ∀ t, (f t).mat = t.mat) :
    EnginesKept s (s.setPart task k f) := by
  unfold State.setPart
  split
  · exact setTc_enginesKept s k hf
  · split
    · split
      · exact setTc_enginesKept s _ hf
      · exact fun _ => rfl
    · exact EnginesKept.refl s

theorem setCtxOf_enginesKept (task : Option Nat) (c : CtxId) (g : Ctx → Ctx) : EnginesKept s (s.setCtxOf task c g) := by
  refine setPart_enginesKept s task c.core ?_
  exact fun _ => rfl

theorem sprWrite_mat (t : TaskCore) (n : Nat) (x : W64) : (t.sprWrite n x).mat = t.mat := by
  simp only [TaskCore.sprWrite]
  split
  · split
    · split <;> rfl
    · split <;> rfl
  · split
    · rfl
    · split <;> rfl

theorem fillLink_enginesKept (task : Option Nat) (k : CoreId) (dir : Dir) (vec : Bool) (key : Nat) (v : RVal) :
    EnginesKept s (s.fillLink task k dir vec key v) := by
  unfold State.fillLink
  split
  · exact EnginesKept.refl s
  · refine setPart_enginesKept s _ _ ?_
    exact fun _ => rfl

theorem commitOne_enginesKept (task : Option Nat) (c : CtxId) (d : Dest) (v : RVal) : EnginesKept s (s.commitOne task c d v) := by
  unfold State.commitOne
  split
  · exact fillLink_enginesKept s _ _ _ _ _ _
  · split
    · exact setPart_enginesKept s _ _ (fun t => sprWrite_mat t _ _)
    · exact setCtxOf_enginesKept s _ _ _
  · exact setCtxOf_enginesKept s _ _ _

theorem landOne_enginesKept (task : Option Nat) (c : CtxId) (tok : Nat) (d : Dest) (v : RVal) :
    EnginesKept s (s.landOne task c tok d v) := by
  simp only [State.landOne]
  split
  · exact (commitOne_enginesKept s task c d v).trans (setCtxOf_enginesKept _ _ _ _)
  · exact setCtxOf_enginesKept s _ _ _

theorem onRecorded_enginesKept (task : Option Nat) (k : CoreId) (g : Ctx → Ctx) : EnginesKept s (s.onRecorded task k g) := by
  unfold State.onRecorded
  split
  · exact EnginesKept.refl s
  · refine setPart_enginesKept s _ _ ?_
    exact fun _ => rfl

/-- What lands changes registers, links and scoreboards, and no engine. -/
theorem land_enginesKept (task : Option Nat) (c : CtxId) (tok : Nat) (f : Dest → RVal) : EnginesKept s (s.land task c tok f) := by
  unfold State.land
  exact (foldl_keeps (fun t => EnginesKept s t) _ (fun t d ht => ht.trans (landOne_enginesKept t task c tok d _)) _ s
    (EnginesKept.refl s)).trans (onRecorded_enginesKept _ _ _ _)

theorem pushEvent_enginesKept (q : QuadId) (isFault : Bool) (bs : List Byte) : EnginesKept s (s.pushEvent q isFault bs) := by
  unfold State.pushEvent
  dsimp only
  split
  · exact fun _ => rfl
  · split <;> exact fun _ => rfl

theorem setHub_enginesKept (h : W64) (f : Hub → Hub) : EnginesKept s (s.setHub h f) := by
  unfold State.setHub
  split <;> exact fun _ => rfl

theorem stopOpener_enginesKept (h : W64) (b : Hub) : EnginesKept s (s.stopOpener h b) := by
  unfold State.stopOpener
  split
  · exact setCtxOf_enginesKept s _ _ _
  · exact EnginesKept.refl s

theorem tell_enginesKept (scope : W64) : EnginesKept s (s.tell scope).2 := by
  unfold State.tell
  split
  · split
    · exact EnginesKept.refl s
    · exact (stopOpener_enginesKept s _ _).trans (setHub_enginesKept _ _ _)
  · exact EnginesKept.refl s

/-- The consumption of poison reports it, tells a hub and stops an opener (21 R455, R457). -/
theorem consume_enginesKept (k : CoreId) (dom : BitVec 16) (scope : W64) (addr : Nat) : EnginesKept s (s.consume k dom scope addr).2 :=
  (pushEvent_enginesKept s _ _ _).trans (tell_enginesKept _ _)

theorem defer_enginesKept (k : CoreId) (cause : Nat) (addr : W64) (seq : Nat) :
    EnginesKept s (s.setTc k (fun t => t.defer cause addr false seq)) := by
  refine setTc_enginesKept s k ?_
  exact fun _ => rfl

end

theorem logOld_mat (t : TaskCore) (rp : Option W64) (o n : Nat) : (t.logOld rp o n).mat = t.mat := by
  unfold TaskCore.logOld
  split <;> rfl

theorem spadPut_mat (t : TaskCore) (rp : Option W64) (o : Nat) (bs : List (Option Byte)) : (t.spadPut rp o bs).mat = t.mat := by
  simp only [TaskCore.spadPut]
  split
  · rfl
  · exact logOld_mat t rp o _

theorem engineWrite_mat (t : TaskCore) (rp : Option W64) (swz o : Nat) (bs : List Byte) : (t.engineWrite rp swz o bs).mat = t.mat :=
  foldl_keeps (fun u : TaskCore => u.mat = t.mat) _ (fun u _ hu => (spadPut_mat u _ _ _).trans hu) _ t rfl

theorem storeRows_mat (t : TaskCore) (rp : Option W64) (swz : Nat) (d : TileData) (rows : List Nat) :
    (t.storeRows rp swz d rows).mat = t.mat :=
  foldl_keeps (fun u : TaskCore => u.mat = t.mat) _ (fun u _ hu => (engineWrite_mat u _ _ _ _).trans hu) _ t rfl

/-! ### A turn of the engine -/

/-- A core's matrix engine changes, and nothing else. -/
def State.turnMat (s : State) (k : CoreId) (g : Matrix → Matrix) : State := s.setTc k (fun t => { t with mat := g t.mat })

section

variable (s : State) (k : CoreId) (g : Matrix → Matrix)

@[simp] theorem turnMat_mat : ((s.turnMat k g).tc k).mat = g (s.tc k).mat := by rw [State.turnMat, State.setTc_tc]

theorem turnMat_ctx (c : CtxId) : (s.turnMat k g).ctx c = s.ctx c := by
  refine setTc_ctx_kept s k ?_ c
  exact fun _ => rfl

theorem turnMat_task : ((s.turnMat k g).core k).task = (s.core k).task := State.setTc_task s k k _

theorem turnMat_partHere : partHere (s.turnMat k g) k = partHere s k := partHere_setTc s k k _

end

@[simp] theorem Matrix.setAcc_queue (m : Matrix) (i : Fin 4) (g : Tile → Tile) : (m.setAcc i g).queue = m.queue := rfl

@[simp] theorem Matrix.pop_acc (m : Matrix) : m.pop.acc = m.acc := rfl

@[simp] theorem Matrix.setAcc_same (m : Matrix) (i : Fin 4) (g : Tile → Tile) : (m.setAcc i g).acc[i] = g m.acc[i] := by
  simp [Matrix.setAcc]

theorem Matrix.scqDrop_queue (m : Matrix) (n : W64) : (m.scqDrop n).queue = m.queue := by
  unfold Matrix.scqDrop
  split <;> rfl

theorem Matrix.fillLatch_queue (m : Matrix) (isB : Bool) (x : LatchSrc) (rows : List (List Byte)) :
    (m.fillLatch isB x rows).queue = m.queue := by
  cases isB <;> rfl

theorem Matrix.fillLatch_latch (m : Matrix) (isB : Bool) (x : LatchSrc) (rows : List (List Byte)) :
    (if isB then (m.fillLatch isB x rows).b else (m.fillLatch isB x rows).a) = latchOf x rows := by
  cases isB <;> rfl

/-! ### Engine reads (09 R176, 21 R455) -/

/-- Rows that hold the layout and no poison are read. -/
theorem engineLoad_clean {k : CoreId} {e : MEntry} {swz n : Nat} {offs : List Nat} {bad go : State → State} {s : State}
    (h : ∀ o ∈ offs, (s.tc k).misLaid swz o n = false ∧ (s.tc k).engineRotten swz o n = false) :
    engineLoad k e swz n offs bad go s = go s := by
  have hlaid : offs.any (fun o => (s.tc k).misLaid swz o n) = false :=
    List.any_eq_false.mpr (fun o ho => by rw [(h o ho).1]; decide)
  have hsound : offs.any (fun o => (s.tc k).engineRotten swz o n) = false :=
    List.any_eq_false.mpr (fun o ho => by rw [(h o ho).2]; decide)
  simp only [engineLoad, hlaid, hsound, Bool.false_eq_true, if_false]

/-- An engine read goes on or is given up, and up to there no engine has changed. -/
theorem engineLoad_cases (k : CoreId) (e : MEntry) (swz n : Nat) (offs : List Nat) (bad go : State → State) (s : State) :
    ∃ u, EnginesKept s u ∧ (engineLoad k e swz n offs bad go s = bad u ∨ engineLoad k e swz n offs bad go s = go u) := by
  unfold engineLoad
  dsimp only
  split
  · exact ⟨_, defer_enginesKept s k _ _ _, .inl rfl⟩
  · split
    · split
      · exact ⟨_, (consume_enginesKept s k _ _ _).trans (defer_enginesKept _ k _ _ _), .inl rfl⟩
      · exact ⟨_, consume_enginesKept s k _ _ _, .inr rfl⟩
    · exact ⟨s, EnginesKept.refl s, .inr rfl⟩

/-- A latch load leaves the queue as it is, whatever it finds. -/
theorem runLoad_queue (k : CoreId) (e : MEntry) (isB : Bool) (x : LatchSrc) (s : State) :
    ((runLoad k e isB x s).tc k).mat.queue = (s.tc k).mat.queue := by
  unfold runLoad
  obtain ⟨u, hu, hrun | hrun⟩ := engineLoad_cases k e x.swz (if isB then bRow x.tag else aRow x.tag x.depth) (x.rows.filterMap id) id
    (fun s => s.setTc k (fun t => { t with mat := t.mat.fillLatch isB x (t.latchRows isB x) })) s
  · rw [hrun]
    exact congrArg Matrix.queue (hu k)
  · rw [hrun, State.setTc_tc, Matrix.fillLatch_queue, hu k]

/-! ### The effect of each command (10 R220-R230) -/

section

variable {k : CoreId} {e : MEntry} {s : State}

theorem runMatrix_mzero {a : Fin 4} {tag : Tag} (h : e.cmd = .mzero a tag) :
    runMatrix k e s = s.turnMat k (fun m => m.setAcc a (fun x => { x with data := ⟨0, tag⟩ })) := by
  rw [runMatrix, h]
  rfl

/-- A shadow takes the tile's place, and its increments the tile's counters (10 R216, R224). -/
def Tile.commit (th : Nat) (x : Tile) : Tile :=
  match x.shadow with
  | some (d, n) => { (x.count n th) with data := d, shadow := none }
  | none => x

theorem runMatrix_com {a : Fin 4} (h : e.cmd = .com a) :
    runMatrix k e s = s.turnMat k (fun m => m.setAcc a (Tile.commit (thresholdOf (s.tc k).mthr a))) := by
  rw [runMatrix, h]
  rfl

theorem runMatrix_dis {a : Fin 4} (h : e.cmd = .dis a) :
    runMatrix k e s = s.turnMat k (fun m => m.setAcc a (fun x => { x with shadow := none })) := by
  rw [runMatrix, h]
  rfl

theorem runMatrix_fin {a : Fin 4} {tag : Tag} {x : W32} (h : e.cmd = .fin a tag x) :
    runMatrix k e s = s.turnMat k (fun m => m.setAcc a (fun y =>
      { (y.count (finTile tag x.toNat y.data).2 (thresholdOf (s.tc k).mthr a)) with data := (finTile tag x.toNat y.data).1 })) := by
  rw [runMatrix, h]
  rfl

theorem runMatrix_scq {n : W64} (h : e.cmd = .scq n) :
    runMatrix k e s = (s.turnMat k (fun m => m.scqDrop n)).landG (s.core k).task ⟨k, 0⟩ (e.tok.getD 0) (s.tc k).mat.scqWord := by
  rw [runMatrix, h]
  rfl

theorem runMatrix_cnt {a : Fin 4} {mask : Nat} (h : e.cmd = .cnt a mask) :
    runMatrix k e s = (s.turnMat k (fun m => m.setAcc a (fun x => x.cntClear mask))).landG (s.core k).task ⟨k, 0⟩ (e.tok.getD 0)
      (s.tc k).mat.acc[a].cntWord := by
  rw [runMatrix, h]
  rfl

theorem runMatrix_row {a : Fin 4} {r : Nat} (h : e.cmd = .row a r) :
    runMatrix k e s = s.landV (s.core k).task ⟨k, 0⟩ (e.tok.getD 0) (rowValue (s.tc k).mat.acc[a].data r) := by
  rw [runMatrix, h]

theorem runMatrix_thr {v : W64} (h : e.cmd = .thr v) : runMatrix k e s = s.setTc k (fun t => { t with mthr := v }) := by
  rw [runMatrix, h]

theorem runMatrix_load {isB : Bool} {x : LatchSrc} (h : e.cmd = .load isB x) : runMatrix k e s = runLoad k e isB x s := by
  rw [runMatrix, h]

theorem runMatrix_store {a : Fin 4} {rows : List Nat} {swz : Nat} (h : e.cmd = .store a rows swz) :
    runMatrix k e s = s.setTc k (fun t =>
      if t.logsFull (s.leadReplay k) (rows.flatMap (fun o => placed swz o (8 * (s.tc k).mat.acc[a].data.tag.width))) then
        t.defer cProtection e.pc false e.seq
      else t.storeRows (s.leadReplay k) swz (s.tc k).mat.acc[a].data rows) := by
  rw [runMatrix, h]

end

end Sys2Proof.Machine
end

section
/-! MATRIX_COMMAND_RUN and MACRO_OP_BLOCK (10 R203, R208, R216, R218): the head of the queue takes its effect and leaves. -/

namespace Sys2Proof.Machine

open Sys2Proof Sys2Proof.Lanes

/-! ### MATRIX_COMMAND_RUN -/

section

variable {s : State} {k : CoreId} {e : MEntry} {rest : List MEntry}

/-- The effect of a command is none on the queue (10 R203). -/
theorem runMatrix_queue (k : CoreId) (e : MEntry) (s : State) : ((runMatrix k e s).tc k).mat.queue = (s.tc k).mat.queue := by
  cases h : e.cmd with
  | mzero a tag => rw [runMatrix_mzero h, turnMat_mat, Matrix.setAcc_queue]
  | load isB x => rw [runMatrix_load h, runLoad_queue]
  | gather x got | mul a n zs sc sh | nop => rw [runMatrix, h]
  | com a => rw [runMatrix_com h, turnMat_mat, Matrix.setAcc_queue]
  | dis a => rw [runMatrix_dis h, turnMat_mat, Matrix.setAcc_queue]
  | scq n => rw [runMatrix_scq h, State.landG, land_enginesKept, turnMat_mat, Matrix.scqDrop_queue]
  | fin a tag x => rw [runMatrix_fin h, turnMat_mat, Matrix.setAcc_queue]
  | row a r => rw [runMatrix_row h, State.landV, land_enginesKept]
  | store a rows swz =>
    rw [runMatrix_store h]
    refine congrArg Matrix.queue (setTc_enginesKept s k (fun t => ?_) k)
    split
    · rfl
    · exact storeRows_mat t _ _ _ _
  | cnt a mask => rw [runMatrix_cnt h, State.landG, land_enginesKept, turnMat_mat, Matrix.setAcc_queue]
  | thr v => rw [runMatrix_thr h, State.setTc_tc]

/-- A state in which the head command has taken its effect and left the queue. -/
def State.ranMatrix (s : State) (k : CoreId) (e : MEntry) : State := ((runMatrix k e s).turnMat k Matrix.pop).say .ok

@[simp] theorem ranMatrix_mat (s : State) (k : CoreId) (e : MEntry) :
    ((s.ranMatrix k e).tc k).mat = ((runMatrix k e s).tc k).mat.pop := turnMat_mat _ _ _

theorem ranMatrix_ctx (s : State) (k : CoreId) (e : MEntry) (c : CtxId) : (s.ranMatrix k e).ctx c = (runMatrix k e s).ctx c :=
  turnMat_ctx _ _ _ c

theorem ranMatrix_part (s : State) (k : CoreId) (e : MEntry) :
    (s.ranMatrix k e).tc k = { (runMatrix k e s).tc k with mat := ((runMatrix k e s).tc k).mat.pop } := by
  rw [State.ranMatrix, State.say_tc, State.turnMat, State.setTc_tc]

/-- A head command that is neither a multiplication nor a gather runs where nothing stops the engine. -/
theorem matrixCommandRun_completes {P : State → Prop} (hq : (s.tc k).mat.queue = e :: rest) (hfollows : e.follows = none)
    (hgo : (s.tc k).matrixStopped = false) (hswitch : s.stopped k .matrix = false) (hmul : ∀ a kk zs sc sh, e.cmd ≠ .mul a kk zs sc sh)
    (hgather : ∀ x got, e.cmd ≠ .gather x got) (hP : P (s.ranMatrix k e)) : Completes (.matrixCommandRun k) s P := by
  refine happen_completes (fun s => (runMatrix k e s).turnMat k Matrix.pop) P ?_ hP
  have hexec : exec (.matrixCommandRun k) s = execMatrixCommandRun k s := rfl
  rw [hexec, execMatrixCommandRun, hq]
  cases h : e.cmd with
  | mul a kk zs sc sh => exact absurd h (hmul a kk zs sc sh)
  | gather x got => exact absurd h (hgather x got)
  | mzero | load | com | dis | scq | fin | row | store | cnt | thr | nop =>
    simp only [h, hfollows, hgo, hswitch]
    rfl

/-- A landing of the engine reaches the lead's registers behind the command's other effects. -/
theorem ranMatrix_landsG {s1 : State} {tok : Nat} {x : W64} (hrun : runMatrix k e s = s1.landG (s.core k).task ⟨k, 0⟩ tok x)
    (hpart : partHere s1 k = true) (htask : (s1.core k).task = (s.core k).task) (hctx : s1.ctx ⟨k, 0⟩ = s.ctx ⟨k, 0⟩) :
    LandsG s (s.ranMatrix k e) ⟨k, 0⟩ tok x := by
  rw [← htask] at hrun
  exact (landG_lands hpart x).congr hctx (by rw [ranMatrix_ctx, hrun])

section

variable (hhere : partHere s k = true)

theorem ranMatrix_com {a : Fin 4} {d : TileData} {n : Counts} (h : e.cmd = .com a) (hshadow : (s.tc k).mat.acc[a].shadow = some (d, n)) :
    ((s.ranMatrix k e).tc k).mat.acc[a].data = d ∧ ((s.ranMatrix k e).tc k).mat.acc[a].shadow = none := by
  have hacc : ((s.ranMatrix k e).tc k).mat.acc[a] = Tile.commit (thresholdOf (s.tc k).mthr a) (s.tc k).mat.acc[a] := by
    rw [ranMatrix_mat, runMatrix_com h, turnMat_mat]
    exact Matrix.setAcc_same _ _ _
  rw [hacc]
  simp only [Tile.commit, hshadow, and_self]

theorem ranMatrix_fin {a : Fin 4} {tag : Tag} {x : W32} (h : e.cmd = .fin a tag x) :
    ((s.ranMatrix k e).tc k).mat.acc[a].data = (finTile tag x.toNat (s.tc k).mat.acc[a].data).1 := by
  simp only [ranMatrix_mat, runMatrix_fin h, turnMat_mat, Matrix.pop_acc, Matrix.setAcc_same]

include hhere in
theorem ranMatrix_scq {n : W64} {tok : Nat} (h : e.cmd = .scq n) (htok : e.tok = some tok) :
    ((s.ranMatrix k e).tc k).mat.scq = ((s.tc k).mat.scqDrop n).scq
      ∧ LandsG s (s.ranMatrix k e) ⟨k, 0⟩ tok (s.tc k).mat.scqWord := by
  have hrun := runMatrix_scq (k := k) (s := s) h
  rw [htok] at hrun
  refine ⟨?_, ranMatrix_landsG hrun ((turnMat_partHere s k _).trans hhere) (turnMat_task s k _) (turnMat_ctx s k _ _)⟩
  have hmat : ((runMatrix k e s).tc k).mat = (s.tc k).mat.scqDrop n := by rw [hrun, State.landG, land_enginesKept, turnMat_mat]
  rw [ranMatrix_mat, hmat]
  rfl

include hhere in
theorem ranMatrix_cnt {a : Fin 4} {mask tok : Nat} (h : e.cmd = .cnt a mask) (htok : e.tok = some tok) :
    ((s.ranMatrix k e).tc k).mat.acc = (s.tc k).mat.acc.set a ((s.tc k).mat.acc[a].cntClear mask)
      ∧ LandsG s (s.ranMatrix k e) ⟨k, 0⟩ tok (s.tc k).mat.acc[a].cntWord := by
  have hrun := runMatrix_cnt (k := k) (s := s) h
  rw [htok] at hrun
  refine ⟨?_, ranMatrix_landsG hrun ((turnMat_partHere s k _).trans hhere) (turnMat_task s k _) (turnMat_ctx s k _ _)⟩
  have hmat : ((runMatrix k e s).tc k).mat = (s.tc k).mat.setAcc a (fun x => x.cntClear mask) := by
    rw [hrun, State.landG, land_enginesKept, turnMat_mat]
  rw [ranMatrix_mat, hmat]
  rfl

include hhere in
theorem ranMatrix_row {a : Fin 4} {r tok : Nat} (h : e.cmd = .row a r) (htok : e.tok = some tok) :
    LandsV s (s.ranMatrix k e) ⟨k, 0⟩ tok (rowValue (s.tc k).mat.acc[a].data r).canon := by
  have hrun := runMatrix_row (k := k) (s := s) h
  rw [htok] at hrun
  exact (landV_lands hhere _).congr rfl (by rw [ranMatrix_ctx, hrun]; rfl)

end

/-- A store whose undo log has room writes its rows (10 R228, 15 R351). -/
theorem ranMatrix_store_spad {a : Fin 4} {rows : List Nat} {swz : Nat} (h : e.cmd = .store a rows swz)
    (hroom : (s.tc k).logsFull (s.leadReplay k)
      (rows.flatMap (fun o => placed swz o (8 * (s.tc k).mat.acc[a].data.tag.width))) = false) :
    ((s.ranMatrix k e).tc k).spad = ((s.tc k).storeRows (s.leadReplay k) swz (s.tc k).mat.acc[a].data rows).spad := by
  rw [ranMatrix_part, runMatrix_store h, State.setTc_tc, hroom, if_neg Bool.false_ne_true]

/-- A latch load of rows that hold the layout and no poison fills the latch (10 R221). -/
theorem ranMatrix_load {isB : Bool} {x : LatchSrc} (h : e.cmd = .load isB x)
    (hrows : ∀ o, some o ∈ x.rows → (s.tc k).misLaid x.swz o (if isB then bRow x.tag else aRow x.tag x.depth) = false
      ∧ (s.tc k).engineRotten x.swz o (if isB then bRow x.tag else aRow x.tag x.depth) = false) :
    (if isB then ((s.ranMatrix k e).tc k).mat.b else ((s.ranMatrix k e).tc k).mat.a) = latchOf x ((s.tc k).latchRows isB x) := by
  have hclean : ∀ o ∈ x.rows.filterMap id, (s.tc k).misLaid x.swz o (if isB then bRow x.tag else aRow x.tag x.depth) = false
      ∧ (s.tc k).engineRotten x.swz o (if isB then bRow x.tag else aRow x.tag x.depth) = false :=
    fun o ho => hrows o (by simpa using ho)
  have hmat : ((runMatrix k e s).tc k).mat = (s.tc k).mat.fillLatch isB x ((s.tc k).latchRows isB x) := by
    rw [runMatrix_load h, runLoad, engineLoad_clean hclean, State.setTc_tc]
  rw [ranMatrix_mat, hmat]
  exact Matrix.fillLatch_latch _ isB x _

/-! ### Gathers (10 R218, R222) -/

/-- A gather reads its next row; with the last, latch A is filled and the gather leaves the queue. -/
theorem gather_completes {x : LatchSrc} {got : List (List Byte)} (hq : (s.tc k).mat.queue = e :: rest) (hfollows : e.follows = none)
    (hgo : (s.tc k).matrixStopped = false) (hcmd : e.cmd = .gather x got) (hswitch : s.stopped k .gather = false)
    (hrow : ∀ o, x.rows.getD e.done none = some o → (s.tc k).misLaid x.swz o (aRow x.tag x.depth) = false
      ∧ (s.tc k).engineRotten x.swz o (aRow x.tag x.depth) = false) :
    let rows := got ++ [(s.tc k).latchRow x.swz (aRow x.tag x.depth) (x.rows.getD e.done none)]
    Completes (.matrixCommandRun k) s (fun t =>
      (e.done + 1 < x.rows.length →
        (t.tc k).mat = { (s.tc k).mat with queue := { e with done := e.done + 1, cmd := .gather x rows } :: rest })
      ∧ (x.rows.length ≤ e.done + 1 → (t.tc k).mat.queue = rest ∧ (t.tc k).mat.a = latchOf x rows)) := by
  intro rows
  have hexec : exec (.matrixCommandRun k) s = happen true (runGather k e x got) s := by
    have hdef : exec (.matrixCommandRun k) s = execMatrixCommandRun k s := rfl
    rw [hdef, execMatrixCommandRun, hq]
    simp only [hcmd, hfollows, hgo, hswitch]
    rfl
  refine happen_completes _ _ hexec ?_
  have hclean : ∀ o ∈ (x.rows.getD e.done none).toList, (s.tc k).misLaid x.swz o (aRow x.tag x.depth) = false
      ∧ (s.tc k).engineRotten x.swz o (aRow x.tag x.depth) = false := fun o ho => hrow o (by simpa using ho)
  simp only [runGather, engineLoad_clean hclean, State.say_tc]
  refine ⟨fun hmore => ?_, fun hlast => ?_⟩
  · rw [if_pos hmore, State.setTc_tc, hq]
    rfl
  · rw [if_neg (Nat.not_lt.mpr hlast), State.setTc_tc, State.setTc_tc]
    exact ⟨by simp only [Matrix.pop, Matrix.fillLatch_queue, hq, List.drop_succ_cons, List.drop_zero], rfl⟩

end

/-! ### MACRO_OP_BLOCK (10 R208, R216) -/

section

variable {s : State} {k : CoreId} {e : MEntry} {rest : List MEntry} {a : Fin 4} {kk : Nat} {zs sh : Bool} {sc : Option Nat}

/-- An `mmuls` that waits for scales makes its IDLE shadow RUN (10 R216). -/
theorem idleShadow_completes (hq : (s.tc k).mat.queue = e :: rest) (hfollows : e.follows = none)
    (hgo : (s.tc k).matrixStopped = false) (hswitch : s.stopped k .matrix = false) (hcmd : e.cmd = .mul a kk zs none true)
    (hidle : (s.tc k).mat.acc[a].shadow = none) (hfloat : (s.tc k).mat.a.tag.isInt = false) (hwait : (s.tc k).mat.scq.length < 96) :
    Completes (.macroOpBlock k) s (fun t => (t.tc k).mat.queue = (s.tc k).mat.queue
      ∧ (t.tc k).mat.acc[a] = { (s.tc k).mat.acc[a] with shadow := some ((s.tc k).mat.acc[a].data, ⟨0, 0, 0⟩) }) := by
  have hready : ((s.tc k).mat.integer || (none : Option Nat).isSome || decide (1 ≤ (s.tc k).mat.entries)) = false := by
    have hentries : (s.tc k).mat.entries = 0 := Nat.div_eq_of_lt hwait
    rw [Matrix.integer, hfloat, hentries]
    rfl
  have hexec : exec (.macroOpBlock k) s = happen true (fun s => s.turnMat k (fun m => m.setAcc a Tile.runShadow)) s := by
    have hdef : exec (.macroOpBlock k) s = execMacroOpBlock k s := rfl
    rw [hdef, execMacroOpBlock, hq]
    simp only [hcmd, hready, hidle, hfollows, hgo, hswitch]
    rfl
  refine happen_completes _ _ hexec ?_
  rw [State.say_tc, turnMat_mat]
  refine ⟨rfl, (Matrix.setAcc_same _ _ _).trans ?_⟩
  rw [Tile.runShadow, hidle]
  rfl

/-- The engine after the next block of its head: the command stands there with one block more, or has left after its last (10 R208). -/
def blockDone (e : MEntry) (a : Fin 4) (kk : Nat) (zs : Bool) (sc : Option Nat) (sh : Bool) (t : TaskCore) : Matrix :=
  if e.done + 1 < kk / 32 then (t.block e a zs sc sh).mat else (t.block e a zs sc sh).mat.pop

theorem blockDone_queue (t : TaskCore) : (blockDone e a kk zs sc sh t).queue =
    if e.done + 1 < kk / 32 then { e with done := e.done + 1 } :: t.mat.queue.drop 1 else t.mat.queue.drop 1 := by
  unfold blockDone
  split <;> rfl

theorem blockDone_acc (t : TaskCore) : (blockDone e a kk zs sc sh t).acc = (t.block e a zs sc sh).mat.acc := by
  unfold blockDone
  split <;> rfl

/-- What a block gives of the elements that it updates, and the events that it counts (10 R208-R211). -/
def TaskCore.blockResult (t : TaskCore) (e : MEntry) (zs : Bool) (sc : Option Nat) (old : TileData) : TileData × Counts :=
  blockUpdate t.mat.a t.mat.b zs (if t.mat.integer then [] else t.blockScales sc e.done) e.done old

/-- A tile after a block on its elements. -/
def Tile.blocked (x : Tile) (th : Nat) (r : TileData × Counts) : Tile := { (x.count r.2 th) with data := r.1 }

/-- A tile after a block on its shadow, or on a copy of its elements where it has none. -/
def Tile.shadowBlocked (x : Tile) (r : TileData × Counts) : Tile :=
  let held : Counts := (x.shadow.map (·.2)).getD ⟨0, 0, 0⟩
  { x with shadow := some (r.1, held.add r.2) }

theorem block_acc (t : TaskCore) : (t.block e a zs sc false).mat.acc =
    t.mat.acc.set a (t.mat.acc[a].blocked (thresholdOf t.mthr a) (t.blockResult e zs sc t.mat.acc[a].data)) := by
  simp only [TaskCore.block, Tile.blocked, TaskCore.blockResult, Bool.false_eq_true, if_false]

theorem block_shadow_acc (t : TaskCore) : (t.block e a zs sc true).mat.acc =
    t.mat.acc.set a (t.mat.acc[a].shadowBlocked
      (t.blockResult e zs sc ((t.mat.acc[a].shadow.map (fun h => h.1)).getD t.mat.acc[a].data))) := by
  simp only [TaskCore.block, Tile.shadowBlocked, TaskCore.blockResult, if_true]

/-- A block leaves the other tiles. -/
theorem block_other (t : TaskCore) {b : Fin 4} (h : b ≠ a) : (t.block e a zs sc sh).mat.acc[b] = t.mat.acc[b] := by
  have hab : a.val ≠ b.val := fun hab => h (Fin.ext hab.symm)
  cases sh with
  | false => simp [block_acc, hab]
  | true => simp [block_shadow_acc, hab]

theorem setAudit_tc (s : State) (l : CluId) (g : Audit → Audit) (j : CoreId) : (s.setAudit l g).tc j = s.tc j := rfl

/-- A multiplication at the head whose scales are there and sound runs its next block (10 R208-R211). -/
theorem macroOpBlock_completes {P : State → Prop} (hq : (s.tc k).mat.queue = e :: rest) (hfollows : e.follows = none)
    (hgo : (s.tc k).matrixStopped = false) (hswitch : s.stopped k .matrix = false) (hcmd : e.cmd = .mul a kk zs sc sh)
    (hready : (s.tc k).mat.a.tag.isInt = true ∨ sc.isSome = true ∨ 96 ≤ (s.tc k).mat.scq.length)
    (hsound : ∀ o, sc = some o → (s.tc k).rotten (o + 96 * e.done) 96 = false)
    (hP : ∀ t : State, (t.tc k).mat = blockDone e a kk zs sc sh (s.tc k) → P t) : Completes (.macroOpBlock k) s P := by
  have hthere : ((s.tc k).mat.integer || sc.isSome || decide (1 ≤ (s.tc k).mat.entries)) = true := by
    rw [Bool.or_eq_true, Bool.or_eq_true, decide_eq_true_iff, or_assoc]
    exact hready.imp_right (Or.imp_right (fun h => (Nat.le_div_iff_mul_le (by decide)).mpr h))
  have hexec : exec (.macroOpBlock k) s = execMacroOpBlock k s := rfl
  simp only [execMacroOpBlock, hq, hcmd, hthere, hfollows, hgo, hswitch, Bool.true_or, Option.isNone_none, Bool.not_false, Bool.and_self] at hexec
  refine happen_completes _ P hexec (hP _ ?_)
  have hclean : ∀ o, sc = some o → (!(s.tc k).mat.integer && (s.tc k).rotten (o + 96 * e.done) 96) = false :=
    fun o ho => by rw [hsound o ho, Bool.and_false]
  rw [State.say_tc, blockDone]
  cases sc
  case' some o => simp only [hclean o rfl, Bool.not_true, Bool.false_eq_true, if_false]
  all_goals
    by_cases hmore : e.done + 1 < kk / 32
    · simp only [hmore, Bool.not_true, Bool.false_eq_true, if_false, if_true, State.setTc_tc]
    · cases sh <;> simp only [hmore, Bool.not_true, Bool.false_eq_true, if_false, if_true, setAudit_tc, State.setTc_tc]

end

/-- Settles O26: what each command's effect leaves of the engine, a gather row by row, and a multiplication block by block. -/
theorem matrixEngineRuns : Obligations.MatrixEngineRuns := by
  intro s k e rest hhere p m hq hfollows hgo hswitch
  refine ⟨fun hmul hgather => matrixCommandRun_completes hq hfollows hgo hswitch hmul hgather ?_, ?_, ?_, ?_⟩
  · refine ⟨?_, fun a tag h => ?_, fun a d n h hshadow => ranMatrix_com h hshadow, fun a h => ?_, fun a tag x h => ranMatrix_fin h,
      fun n tok h htok => ranMatrix_scq hhere h htok, fun a mask tok h htok => ranMatrix_cnt hhere h htok,
      fun a r tok h htok => ranMatrix_row hhere h htok, fun v h => ?_, ?_, fun isB x h => ranMatrix_load h⟩
    · rw [ranMatrix_mat, Matrix.pop, runMatrix_queue, hq]
      rfl
    · rw [ranMatrix_mat, runMatrix_mzero h, turnMat_mat]
      rfl
    · rw [ranMatrix_mat, runMatrix_dis h, turnMat_mat]
      rfl
    · rw [ranMatrix_part, runMatrix_thr h, State.setTc_tc]
    · intro a rows swz h hwf d n home hroom
      have hwrites := storeRows_writes (s.leadReplay k) swz d rows 0 p hwf
      simp only [Nat.zero_add] at hwrites
      rw [ranMatrix_store_spad h hroom]
      exact hwrites
  · intro x got hcmd hgs n row hrow
    exact gather_completes hq hfollows hgo hcmd hgs hrow
  · intro a kk zs sc hcmd hidle hfloat hsc hwait
    subst hsc
    exact idleShadow_completes hq hfollows hgo hswitch hcmd hidle hfloat hwait
  · intro a kk zs sc sh hcmd hready hsound scales old new
    refine macroOpBlock_completes hq hfollows hgo hswitch hcmd hready hsound (fun t ht => ?_)
    have hscales : (if p.mat.integer then [] else p.blockScales sc e.done) = scales := by cases sc <;> rfl
    have hresult : ∀ x, p.blockResult e zs sc x = blockUpdate m.a m.b zs scales e.done x :=
      fun x => by rw [TaskCore.blockResult, hscales]
    dsimp only
    rw [ht, blockDone_queue, blockDone_acc, hq]
    refine ⟨rfl, fun hplain => ?_, fun hshadow => ?_, fun b hb => block_other _ hb⟩
    · have hold : old = m.acc[a].data := if_neg (by rw [hplain]; decide)
      rw [hplain, block_acc, Fin.getElem_fin, Vector.getElem_set_self, Tile.blocked, hresult]
      simp only [new, hold]
      rfl
    · have hold : old = (m.acc[a].shadow.map (·.1)).getD m.acc[a].data := if_pos hshadow
      rw [hshadow, block_shadow_acc, Fin.getElem_fin, Vector.getElem_set_self, Tile.shadowBlocked, hresult]
      simp only [new, hold]
      exact ⟨rfl, rfl⟩

end Sys2Proof.Machine
end

section
/-! The envelope instructions at issue (11 R242-R259): what a command that enters the unit's queue changes of its core, and the gates. -/

namespace Sys2Proof.Machine

open Sys2Proof Sys2Proof.Lanes

/-! ### Commands enter the queue (11 R242) -/

/-- The unit after a command has entered its queue. -/
def EnvState.enqueued (u : EnvState) (cmd : ECmd) (seq : Nat) (pc : W64) (tok : Option Nat) : EnvState :=
  { u with queue := u.queue ++ [⟨cmd, seq, pc, tok, none⟩] }

section

variable (s : State) (cmd : ECmd) (tok : Option Nat)

theorem enqueueE_onlyMyCore : OnlyMyCore s (s.enqueueE cmd tok) :=
  (onlyMyCore_setMyTc s (fun t => { t with env := t.env.enqueued cmd s.nextId s.myPc tok }) (fun _ _ => rfl)).trans
    (onlyMyCore_bookkeeping _ _ _)

theorem enqueueE_part : (s.enqueueE cmd tok).myTc = { s.myTc with env := s.myTc.env.enqueued cmd s.nextId s.myPc tok } :=
  State.setMyTc_myTc s (fun t => { t with env := t.env.enqueued cmd s.nextId s.myPc tok })

theorem enqueueE_me : (s.enqueueE cmd tok).me = s.me :=
  State.setMyTc_me s (fun t => { t with env := t.env.enqueued cmd s.nextId s.myPc tok })

theorem queuesE_enqueueE : QueuesE s (s.enqueueE cmd) cmd := by
  refine ⟨enqueueE_onlyMyCore s cmd none, enqueueE_me s cmd none, s.nextId, ?_⟩
  rw [enqueueE_part]
  rfl

theorem queuesLandingE_enqueueEsb (d : Dest) : QueuesLandingE s (s.enqueueEsb d cmd) d cmd := by
  obtain ⟨hcore, hpart⟩ := matrixIs_pendOn s [d]
  have hpc : (s.pendOn [d]).2.myPc = s.myPc := by
    rw [State.myPc, pendOn_me]
    rfl
  refine ⟨hcore.trans (enqueueE_onlyMyCore _ cmd _), s.nextId, (s.pendOn [d]).2.nextId,
    (pendOn_waits s d).after (enqueueE_me _ cmd _), ?_⟩
  rw [State.enqueueEsb, enqueueE_part, hpc, hpart]
  rfl

end

/-- What follows an instruction's own effect leaves the unit as it is. -/
theorem Trails.part {t u : State} (h : Trails t u) : SamePart t.myTc u.myTc := h.1.2

theorem QueuesE.trails {s t u : State} {cmd : ECmd} (h : QueuesE s t cmd) (k : Trails t u) : QueuesE s u cmd := by
  obtain ⟨hcore, hme, seq, hpart⟩ := h
  exact ⟨hcore.trans k.1.1, k.2.trans hme, seq, by rw [k.part, hpart]⟩

theorem QueuesLandingE.trails {s t u : State} {d : Dest} {cmd : ECmd} (h : QueuesLandingE s t d cmd) (k : Trails t u) :
    QueuesLandingE s u d cmd := by
  obtain ⟨hcore, tok, seq, hwait, hpart⟩ := h
  exact ⟨hcore.trans k.1.1, tok, seq, hwait.after k.2, by rw [k.part, hpart]⟩

section

variable {i : Instr} {f : Fields} {s : State} {gate : State → Verdict}

/-- A ready word with an open gate queues its command. -/
theorem completes_enqueueE (cmd : State → ECmd) (h : ready i f s = true)
    (hx : exec i s = run i f { gate := gate, act := fun s => s.enqueueE (cmd s) } s) (hg : gate s = .ok) :
    Completes i s (fun t => QueuesE s t (cmd s)) :=
  completes_trailing h hx hg (queuesE_enqueueE s (cmd s)) (fun _ _ ht hu => ht.trails hu)

/-- A ready word with an open gate queues its command, and its destination waits for it. -/
theorem completes_enqueueEsb (d : Dest) (cmd : State → ECmd) (h : ready i f s = true)
    (hx : exec i s = run i f { gate := gate, act := fun s => s.enqueueEsb d (cmd s) } s) (hg : gate s = .ok) :
    Completes i s (fun t => QueuesLandingE s t d (cmd s)) :=
  completes_trailing h hx hg (queuesLandingE_enqueueEsb s (cmd s) d) (fun _ _ ht hu => ht.trails hu)

end

/-! ### Gates (11 R242, R243, R247) -/

section

variable {s : State}

theorem roomE_ok (h : s.myTc.env.queue.length < 8) : s.roomE = .ok := if_neg (Nat.not_le.mpr h)

theorem roomE_hold (h : ¬s.myTc.env.queue.length < 8) : s.roomE = .hold := if_pos (Nat.not_lt.mp h)

theorem envFree_ok {es : List (Fin 8)} (h : ∀ i ∈ es, s.myTc.env.busy i = false) : s.envFree es = .ok :=
  if_neg (by simpa [State.env] using h)

theorem envFree_stall {es : List (Fin 8)} {i : Fin 8} (hi : i ∈ es) (h : s.myTc.env.busy i = true) : s.envFree es = .stall :=
  if_pos (List.any_eq_true.mpr ⟨i, hi, h⟩)

theorem envFree_one {a : Fin 8} (h : s.myTc.env.busy a = false) : s.envFree [a] = .ok :=
  envFree_ok (fun i hi => by rwa [List.mem_singleton.mp hi])

/-- A command on one register that is not busy finds room. -/
theorem oneSource_ok {a : Fin 8} (h : s.myTc.env.busy a = false) (hroom : s.myTc.env.queue.length < 8) :
    (s.envFree [a]).andThen s.roomE = .ok := by
  rw [envFree_one h, roomE_ok hroom]
  rfl

theorem vecF32_iff (x : Sel) : s.vecF32 x = true ↔ ∀ n, x = .reg n → (s.me.getV n).tag = .f32 := by
  cases x with
  | reg n => simp [State.vecF32]
  | link d | zero | imm => simp [State.vecF32]

theorem f32Pair_ok {x y : Sel} (hx : ∀ n, x = .reg n → (s.me.getV n).tag = .f32) (hy : ∀ n, y = .reg n → (s.me.getV n).tag = .f32) :
    s.tagCheck (s.vecF32 x && s.vecF32 y) = .ok :=
  tagCheck_ok (by rw [(vecF32_iff x).mpr hx, (vecF32_iff y).mpr hy]; rfl)

theorem tagCheck_fault {cond : Bool} (h : cond = false) : s.tagCheck cond = .fault 4 ⟨0x07, 0, s.myPc⟩ := by
  rw [h]
  rfl

end

/-! ### Operands taken at issue (11 R247, R249) -/

theorem f32Lanes_eq (s : State) (x : Sel) : s.f32Lanes x = (List.range 64).map (laneAt 32 (s.vreg x).bits) := lanes_eq 32 _

/-- The lines that `eins` takes: of the first `n` lanes, 64 at most (11 R249). -/
theorem lines_eq (s : State) (x y : Sel) (n : Nat) : ((s.f32Lanes x).zip (s.f32Lanes y)).take (min n 64)
    = (List.range (min n 64)).map (fun i => (laneAt 32 (s.vreg x).bits i, laneAt 32 (s.vreg y).bits i)) := by
  rw [f32Lanes_eq, f32Lanes_eq, List.zip_map', ← List.map_take, List.take_range, Nat.min_eq_left (Nat.min_le_right n 64)]

/-! ### `esum`, `emax`, `einf` (11 R251, R252) -/

section

variable {i : Fields → Instr} {c : Fin 8 → Fin 8 → Fin 8 → Bool → ECmd} {f : Fields} {s : State}

theorem env2_completes (hx : exec (i f) s = env2 i c f s) (h : ready (i f) f s = true) (ha : s.myTc.env.busy (envNo f.a) = false)
    (hb : s.myTc.env.busy (envNo f.b) = false) (hroom : s.myTc.env.queue.length < 8) :
    Completes (i f) s (fun t => QueuesE s t (c (envNo f.d) (envNo f.a) (envNo f.b) f.mod0)) := by
  refine completes_enqueueE (fun _ => c (envNo f.d) (envNo f.a) (envNo f.b) f.mod0) h hx ?_
  have hfree : s.envFree [envNo f.a, envNo f.b] = .ok := envFree_ok (by simp [ha, hb])
  rw [hfree, roomE_ok hroom]
  rfl

theorem env2_stalls (hx : exec (i f) s = env2 i c f s) (h : ready (i f) f s = true)
    (hbusy : s.myTc.env.busy (envNo f.a) = true ∨ s.myTc.env.busy (envNo f.b) = true) : Stays (i f) s .stall := by
  have hstall : s.envFree [envNo f.a, envNo f.b] = .stall :=
    hbusy.elim (envFree_stall (by simp)) (envFree_stall (by simp))
  exact gate_stalls h hx (by rw [hstall, Verdict.stall_andThen])

theorem env2_holds (hx : exec (i f) s = env2 i c f s) (h : ready (i f) f s = true) (ha : s.myTc.env.busy (envNo f.a) = false)
    (hb : s.myTc.env.busy (envNo f.b) = false) (hfull : ¬s.myTc.env.queue.length < 8) : Stays (i f) s .hold := by
  have hfree : s.envFree [envNo f.a, envNo f.b] = .ok := envFree_ok (by simp [ha, hb])
  exact gate_holds h hx (by rw [hfree, Verdict.ok_andThen, roomE_hold hfull])

end

/-! ### `ewt` (11 R259) -/

/-- `ewt` waits while its register is pending; without a register, while the queue holds a command (11 R259). -/
def EnvState.waitsFor (u : EnvState) : Sel → Bool
  | .zero => !u.queue.isEmpty
  | x => u.pending (envNo x)

theorem EnvState.waitsFor_iff (u : EnvState) (x : Sel) :
    u.waitsFor x = true ↔ if x = .zero then u.queue ≠ [] else u.pending (envNo x) = true := by
  cases x with
  | zero => simp [waitsFor]
  | reg n | link d | imm => simp [waitsFor]

theorem ewt_run (f : Fields) (s : State) : exec (.ewt f) s = run (.ewt f) f {
    gate := fun s => (if s.env.waitsFor f.a then .hold else .ok : Verdict).andThen s.roomE
    act := fun s => s.enqueueE .nop } s := rfl

theorem ewt_holds {f : Fields} {s : State} (h : ready (.ewt f) f s = true)
    (hwait : s.myTc.env.waitsFor f.a = true ∨ ¬s.myTc.env.queue.length < 8) : Stays (.ewt f) s .hold := by
  refine gate_holds h (ewt_run f s) ?_
  by_cases hw : s.env.waitsFor f.a = true
  · simp only [hw, if_true, Verdict.hold_andThen]
  · simp only [hw, Bool.false_eq_true, if_false, Verdict.ok_andThen, roomE_hold (hwait.resolve_left hw)]

theorem ewt_completes {f : Fields} {s : State} (h : ready (.ewt f) f s = true) (hgo : ¬s.myTc.env.waitsFor f.a = true)
    (hroom : s.myTc.env.queue.length < 8) : Completes (.ewt f) s (fun t => QueuesE s t .nop) := by
  refine completes_enqueueE (fun _ => .nop) h (ewt_run f s) ?_
  have hw : ¬s.env.waitsFor f.a = true := hgo
  simp only [hw, Bool.false_eq_true, if_false, Verdict.ok_andThen, roomE_ok hroom]

/-- Settles O27: each word's gate, and the one command that its effect queues. -/
theorem envelopeInstructionsQueue : Obligations.EnvelopeInstructionsQueue := by
  intro f s u room d a b lane f32
  refine ⟨fun h => ⟨fun hroom => ?_, fun hroom => ?_⟩, fun h ha hb => ⟨fun hroom => ?_, fun hroom => ?_⟩, fun h hbad => ?_,
    fun h => ⟨fun hbusy => ?_, fun hfree hb hroom => ?_⟩, fun r hr h => ?_, fun h hfree hroom => ?_, fun h hfree hroom => ?_,
    fun h hlocal hroom => ?_, fun h hfree hlocal hroom => ?_, fun h hroom => ?_, fun h hfree hroom => ?_, fun h hroom => ?_,
    fun h hfree hroom => ?_, fun h => ⟨fun hwait => ?_, fun hgo hroom => ?_⟩⟩
  · exact completes_enqueueE (fun _ => .clr d) h rfl (roomE_ok hroom)
  · exact gate_holds h rfl (roomE_hold hroom)
  · have hq := completes_enqueueE (fun s => .ins d
      (((s.f32Lanes f.a).zip (s.f32Lanes f.b)).take (min (s.gval f f.c).toNat 64)) f.mod0) h rfl
      (by rw [f32Pair_ok ha hb, roomE_ok hroom]; rfl)
    rwa [lines_eq] at hq
  · exact gate_holds h rfl (by rw [f32Pair_ok ha hb, Verdict.ok_andThen, roomE_hold hroom])
  · have hbad' : (s.vecF32 f.a && s.vecF32 f.b) = false := by
      rw [Bool.and_eq_false_iff, ← Bool.not_eq_true, ← Bool.not_eq_true, vecF32_iff, vecF32_iff]
      exact hbad
    exact run_faults _ 4 _ h (by dsimp only; rw [tagCheck_fault hbad']; rfl) rfl rfl rfl rfl
  · exact gate_stalls h rfl (by rw [envFree_stall List.mem_cons_self hbusy, Verdict.stall_andThen])
  · have hq := completes_enqueueEsb (Dest.ofV f.d) (fun s => .evl a (s.f32Lanes f.b)) h rfl
      (by rw [envFree_one hfree, tagCheck_ok ((vecF32_iff f.b).mpr hb), roomE_ok hroom]; rfl)
    rwa [f32Lanes_eq] at hq
  · simp only [List.mem_cons, List.not_mem_nil, or_false] at hr
    rcases hr with rfl | rfl | rfl <;>
      exact ⟨env2_stalls rfl h, fun ha hb => ⟨env2_completes rfl h ha hb, env2_holds rfl h ha hb⟩⟩
  · exact completes_enqueueE (fun _ => .conj d a f.mod0) h rfl (oneSource_ok hfree hroom)
  · exact completes_enqueueE (fun _ => .simp d a) h rfl (oneSource_ok hfree hroom)
  · exact completes_enqueueE (fun s => .ld d (spadOff (s.gval f f.a))) h rfl (by rw [hlocal, roomE_ok hroom]; rfl)
  · exact completes_enqueueE (fun s => .st b (spadOff (s.gval f f.a))) h rfl
      (by rw [envFree_one hfree, hlocal, roomE_ok hroom]; rfl)
  · exact completes_enqueueE (fun s => .add d (lowWord s f f.a) (lowWord s f f.b)) h rfl (roomE_ok hroom)
  · exact completes_enqueueEsb _ (fun _ => .cnt a) h rfl (oneSource_ok hfree hroom)
  · exact completes_enqueueE (fun s => .dom d (lowWord s f f.a) (lowWord s f f.b)) h rfl (roomE_ok hroom)
  · exact completes_enqueueEsb _ (fun _ => .getDom a) h rfl (oneSource_ok hfree hroom)
  · exact ewt_holds h (hwait.imp_left (EnvState.waitsFor_iff _ _).mpr)
  · exact ewt_completes h (fun hw => hgo ((EnvState.waitsFor_iff _ _).mp hw)) hroom

end Sys2Proof.Machine
end

section
/-! What a landing, and a report of consumed poison, changes of the parts of cores (05 R75-R80, 21 R455, R457): contexts, links, core-scoped
registers, layout tags and recorded frames. The engines and units, the scratchpad and the deferred faults are as before. -/

namespace Sys2Proof.Machine

open Sys2Proof Sys2Proof.Lanes

/-! ### What a landing leaves of every part (05 R77) -/

/-- The parts agree in all that no landing writes. -/
def BesideResults (a b : TaskCore) : Prop :=
  b = { a with
    ctxs := b.ctxs, layout := b.layout, sctl := b.sctl, etol := b.etol, mthr := b.mthr, win := b.win, links := b.links
    recorded := b.recorded }

theorem BesideResults.refl (a : TaskCore) : BesideResults a a := rfl

theorem BesideResults.trans {a b c : TaskCore} (h : BesideResults a b) (k : BesideResults b c) : BesideResults a c := by
  unfold BesideResults at *
  rw [k, h]

theorem BesideResults.env {a b : TaskCore} (h : BesideResults a b) : b.env = a.env := by rw [h]

/-- Every core's part is as before in all that no landing writes. -/
def ResultsOnly (s t : State) : Prop := ∀ j, BesideResults (s.tc j) (t.tc j)

theorem ResultsOnly.refl (s : State) : ResultsOnly s s := fun j => .refl (s.tc j)

theorem ResultsOnly.trans {s t u : State} (h : ResultsOnly s t) (k : ResultsOnly t u) : ResultsOnly s u := fun j => (h j).trans (k j)

theorem ResultsOnly.of_cores {s t : State} (h : t.cores = s.cores) : ResultsOnly s t := by
  intro j
  have hj : t.tc j = s.tc j := by rw [State.tc, State.core, h]; rfl
  rw [hj]
  exact .refl _

section

variable (s : State)

theorem setTc_resultsOnly (k : CoreId) {f : TaskCore → TaskCore} (hf : ∀ t, BesideResults t (f t)) : ResultsOnly s (s.setTc k f) := by
  intro j
  by_cases hk : k = j
  · subst hk
    rw [State.setTc_tc]
    exact hf _
  · rw [State.setTc_tc_other s k j f hk]
    exact .refl _

theorem setPart_resultsOnly (task : Option Nat) (k : CoreId) {f : TaskCore → TaskCore} (hf : ∀ t, BesideResults t (f t)) :
    ResultsOnly s (s.setPart task k f) := by
  unfold State.setPart
  split
  · exact setTc_resultsOnly s k hf
  · split
    · split
      · exact setTc_resultsOnly s _ hf
      · exact .of_cores rfl
    · exact .refl s

theorem setCtxOf_resultsOnly (task : Option Nat) (c : CtxId) (g : Ctx → Ctx) : ResultsOnly s (s.setCtxOf task c g) :=
  setPart_resultsOnly s task c.core (f := fun t => t.setCtx c.ctx g) (fun _ => rfl)

theorem sprWrite_besideResults (t : TaskCore) (n : Nat) (x : W64) : BesideResults t (t.sprWrite n x) := by
  simp only [TaskCore.sprWrite]
  split
  · split <;> split <;> rfl
  · split
    · rfl
    · split <;> rfl

theorem commitOne_resultsOnly (task : Option Nat) (c : CtxId) (d : Dest) (v : RVal) : ResultsOnly s (s.commitOne task c d v) := by
  unfold State.commitOne
  split
  · unfold State.fillLink
    split
    · exact .refl s
    · exact setPart_resultsOnly s _ _ (fun _ => rfl)
  · split
    · exact setPart_resultsOnly s _ _ (fun t => sprWrite_besideResults t _ _)
    · exact setCtxOf_resultsOnly s _ _ _
  · exact setCtxOf_resultsOnly s _ _ _

theorem landOne_resultsOnly (task : Option Nat) (c : CtxId) (tok : Nat) (d : Dest) (v : RVal) :
    ResultsOnly s (s.landOne task c tok d v) := by
  simp only [State.landOne]
  split
  · exact (commitOne_resultsOnly s task c d v).trans (setCtxOf_resultsOnly _ _ _ _)
  · exact setCtxOf_resultsOnly s _ _ _

theorem onRecorded_resultsOnly (task : Option Nat) (k : CoreId) (g : Ctx → Ctx) : ResultsOnly s (s.onRecorded task k g) := by
  unfold State.onRecorded
  split
  · exact .refl s
  · exact setPart_resultsOnly s _ _ (fun _ => rfl)

theorem land_resultsOnly (task : Option Nat) (c : CtxId) (tok : Nat) (f : Dest → RVal) : ResultsOnly s (s.land task c tok f) := by
  unfold State.land
  exact (foldl_keeps (fun t => ResultsOnly s t) _ (fun t d ht => ht.trans (landOne_resultsOnly t task c tok d _)) _ s (.refl s)).trans
    (onRecorded_resultsOnly _ _ _ _)

/-! ### What the consumption of poison leaves (21 R455, R457) -/

theorem pushEvent_resultsOnly (q : QuadId) (isFault : Bool) (bs : List Byte) : ResultsOnly s (s.pushEvent q isFault bs) := by
  refine .of_cores ?_
  unfold State.pushEvent
  dsimp only
  split
  · rfl
  · split <;> rfl

theorem setHub_resultsOnly (h : W64) (f : Hub → Hub) : ResultsOnly s (s.setHub h f) := by
  refine .of_cores ?_
  unfold State.setHub
  split <;> rfl

theorem tell_resultsOnly (scope : W64) : ResultsOnly s (s.tell scope).2 := by
  unfold State.tell
  split
  · split
    · exact .refl s
    · refine ResultsOnly.trans ?_ (setHub_resultsOnly _ _ _)
      unfold State.stopOpener
      split
      · exact setCtxOf_resultsOnly s _ _ _
      · exact .refl s
  · exact .refl s

theorem consume_resultsOnly (k : CoreId) (dom : BitVec 16) (scope : W64) (addr : Nat) : ResultsOnly s (s.consume k dom scope addr).2 :=
  (pushEvent_resultsOnly s _ _ _).trans (tell_resultsOnly _ _)

end

end Sys2Proof.Machine
end

section
/-! The images of envelope registers (11 R257): the words of a stretch of the scratchpad, and what `eld` takes from one. -/

namespace Sys2Proof.Machine

open Sys2Proof Sys2Proof.Lanes

/-! ### Words of memory (00 R2) -/

theorem read_eq (m : Memory) (a n : Nat) : m.read a n = (List.range n).map (fun i => m.byte (a + i)) := by
  induction n generalizing a with
  | zero => rfl
  | succ n ih =>
    rw [Memory.read, ih, List.range_succ_eq_map, List.map_cons, List.map_map]
    refine congrArg _ (List.map_congr_left (fun i _ => ?_))
    rw [Function.comp_apply, Nat.add_assoc, Nat.add_comm 1]

theorem length_read (m : Memory) (a n : Nat) : (m.read a n).length = n := by rw [read_eq, List.length_map, List.length_range]

theorem drop_read (m : Memory) (a k n : Nat) : (m.read a (k + n)).drop k = m.read (a + k) n := by
  induction k generalizing a with
  | zero => rw [Nat.zero_add, List.drop_zero, Nat.add_zero]
  | succ k ih => rw [Nat.succ_add, Memory.read, List.drop_succ_cons, ih, Nat.add_assoc, Nat.add_comm 1]

theorem take_read (m : Memory) (a k n : Nat) : (m.read a (k + n)).take k = m.read a k := by
  rw [read_eq, read_eq, ← List.map_take, List.take_range, Nat.min_eq_left (Nat.le_add_right k n)]

/-- The little-endian word of 4 B at an address (00 R2). -/
def Memory.word (m : Memory) (a : Nat) : Nat := (List.range 4).foldr (fun i v => (m.byte (a + i)).toNat + 256 * v) 0

theorem leNat_read_four (m : Memory) (a : Nat) : leNat (m.read a 4) = m.word a := rfl

/-- A field of 4 B that lies within the bytes read is a word of the memory. -/
theorem field_read {m : Memory} {a n off : Nat} (h : off + 4 ≤ n) : field (m.read a n) off 4 = m.word (a + off) := by
  obtain ⟨r, rfl⟩ : ∃ r, n = off + (4 + r) := ⟨n - off - 4, by omega⟩
  rw [field, drop_read, take_read, leNat_read_four]

/-! ### Images (11 R257) -/

/-- The count of pieces of the image at an offset. -/
def Memory.imageCount (m : Memory) (o : Nat) : Nat := m.word (o + 8)

/-- The register whose image stands at an offset. -/
def Memory.imageAt (m : Memory) (o : Nat) : Env :=
  ⟨(List.range (m.imageCount o)).map (fun i => ⟨m.word (o + (16 + 16 * i)), m.word (o + (20 + 16 * i)), m.word (o + (24 + 16 * i))⟩),
    m.word (o + 0), m.word (o + 4), m.word (o + 12) == 1⟩

/-- The image has at most 256 pieces, its flags and pads are as R257 has them, and its register meets R233 and R234. -/
def Memory.ImageGood (m : Memory) (o : Nat) : Prop :=
  m.imageCount o ≤ 256 ∧ m.word (o + 12) ≤ 1 ∧ (∀ i, i < m.imageCount o → m.word (o + (28 + 16 * i)) = 0)
    ∧ EnvUnit.wellFormed (m.imageAt o) = true

section

variable {m : Memory} {o n : Nat}

theorem imagePieces_read {len : Nat} (h : 16 + 16 * n ≤ len) : EnvUnit.imagePieces (m.read o len) n
    = (List.range n).map (fun i => ⟨m.word (o + (16 + 16 * i)), m.word (o + (20 + 16 * i)), m.word (o + (24 + 16 * i))⟩) := by
  refine List.map_congr_left (fun i hi => ?_)
  have hin : i < n := List.mem_range.mp hi
  rw [field_read (by omega), field_read (by omega), field_read (by omega)]

/-- The bytes that `eld` reads. -/
def Memory.imageBytes (m : Memory) (o : Nat) : List Byte := m.read o (16 + 16 * min (m.imageCount o) 256)

theorem field_imageBytes_head (m : Memory) (o : Nat) {off : Nat} (h : off + 4 ≤ 16) :
    field (m.imageBytes o) off 4 = m.word (o + off) := field_read (by omega)

theorem pads_imageBytes (hn : m.imageCount o ≤ 256) :
    (List.range (m.imageCount o)).all (fun i => field (m.imageBytes o) (28 + 16 * i) 4 == 0) = true
      ↔ ∀ i, i < m.imageCount o → m.word (o + (28 + 16 * i)) = 0 := by
  rw [List.all_eq_true]
  refine forall_congr' (fun i => ?_)
  rw [List.mem_range]
  refine forall_congr' (fun hi => ?_)
  rw [beq_iff_eq, Memory.imageBytes, Nat.min_eq_left hn, field_read (by omega)]

/-- `eld` takes the register of a good image, and none of another. -/
theorem ofImage_imageBytes (m : Memory) (o : Nat) :
    (m.ImageGood o → EnvUnit.ofImage (m.imageBytes o) = some (m.imageAt o))
      ∧ (¬m.ImageGood o → EnvUnit.ofImage (m.imageBytes o) = none) := by
  have hcount : field (m.imageBytes o) 8 4 = m.imageCount o := field_imageBytes_head m o (by decide)
  have hflags : field (m.imageBytes o) 12 4 = m.word (o + 12) := field_imageBytes_head m o (by decide)
  simp only [EnvUnit.ofImage, hcount, hflags]
  by_cases hn : m.imageCount o ≤ 256
  · have henv : (⟨EnvUnit.imagePieces (m.imageBytes o) (m.imageCount o), field (m.imageBytes o) 0 4, field (m.imageBytes o) 4 4,
        m.word (o + 12) == 1⟩ : Env) = m.imageAt o := by
      have hpieces := imagePieces_read (m := m) (o := o) (Nat.le_refl (16 + 16 * m.imageCount o))
      rw [field_imageBytes_head m o (by decide), field_imageBytes_head m o (by decide), Memory.imageBytes, Nat.min_eq_left hn, hpieces]
      rfl
    simp only [henv, pads_imageBytes hn]
    exact ⟨fun h => if_pos h, fun h => if_neg h⟩
  · exact ⟨fun h => absurd h.1 hn, fun _ => if_neg (fun h => hn h.1)⟩

end

end Sys2Proof.Machine
end

section
/-! ENVELOPE_COMMAND_RUN (11 R242, R244, R248-R258): the head of the unit's queue takes its effect and leaves. -/

namespace Sys2Proof.Machine

open Sys2Proof Sys2Proof.Lanes

/-! ### The effect of each command (11 R244-R258) -/

/-- The unit stops behind a command: its fault is deferred (11 R244). -/
def State.failE (s : State) (k : CoreId) (e : EEntry) (cause : Nat) : State := s.setTc k (fun t => t.defer cause e.pc true e.seq)

/-- What `eld` does where its read goes on: the register of a good image, or FORMAT (11 R257). -/
def State.takeImage (s : State) (k : CoreId) (e : EEntry) (d : Fin 8) (bs : List Byte) : State :=
  match EnvUnit.ofImage bs with
  | some x => s.setTc k (fun t => t.setEnv d x)
  | none => s.failE k e cFormat

section

variable {k : CoreId} {e : EEntry} {s : State}

theorem runEnvelope_bad (h : e.cmd.badSource (s.tc k).env.e = true) : runEnvelope k e s = s.failE k e cFormat := by
  rw [runEnvelope]
  exact if_pos h

variable (hgood : e.cmd.badSource (s.tc k).env.e = false)

include hgood

theorem runEnvelope_nop (h : e.cmd = .nop) : runEnvelope k e s = s := by
  rw [h] at hgood
  simp only [runEnvelope, h, hgood, Bool.false_eq_true, if_false]

theorem runEnvelope_evl {r : Fin 8} {ps : List Nat} (h : e.cmd = .evl r ps) :
    runEnvelope k e s = s.landV (s.core k).task ⟨k, 0⟩ (e.tok.getD 0)
      ⟨ofLanes 32 (ps.map (EnvUnit.evalLane (s.tc k).env.e[r])), .f32⟩ := by
  rw [h] at hgood
  simp only [runEnvelope, h, hgood, Bool.false_eq_true, if_false]

theorem runEnvelope_cnt {r : Fin 8} (h : e.cmd = .cnt r) :
    runEnvelope k e s = s.landG (s.core k).task ⟨k, 0⟩ (e.tok.getD 0) (EnvUnit.countWord (s.tc k).env.e[r]) := by
  rw [h] at hgood
  simp only [runEnvelope, h, hgood, Bool.false_eq_true, if_false]

theorem runEnvelope_getDom {r : Fin 8} (h : e.cmd = .getDom r) :
    runEnvelope k e s = s.landG (s.core k).task ⟨k, 0⟩ (e.tok.getD 0)
      (BitVec.ofNat 64 ((s.tc k).env.e[r].lo + (s.tc k).env.e[r].hi * 2 ^ 32)) := by
  rw [h] at hgood
  simp only [runEnvelope, h, hgood, Bool.false_eq_true, if_false, Nat.shiftLeft_eq]

theorem runEnvelope_st {r : Fin 8} {o : Nat} (h : e.cmd = .st r o) :
    runEnvelope k e s = if (s.tc k).logFull (s.leadReplay k) o (EnvUnit.image (s.tc k).env.e[r]).length then s.failE k e cProtection
      else s.setTc k (fun t => t.spadPut (s.leadReplay k) o ((EnvUnit.image (s.tc k).env.e[r]).map some)) := by
  rw [h] at hgood
  simp only [runEnvelope, h, hgood, Bool.false_eq_true, if_false]
  rfl

/-- `eld` of poisoned rows consumes the poison (21 R455). -/
theorem runEnvelope_ld {r : Fin 8} {o : Nat} (h : e.cmd = .ld r o) :
    runEnvelope k e s =
      let bs := (s.tc k).spad.imageBytes o
      let c := (s.tc k).ctx 0
      let x := s.consume k c.domain c.scope o
      if (s.tc k).rotten o bs.length then
        if x.1 then x.2.failE k e cUncorrectable else x.2.takeImage k e r bs
      else s.takeImage k e r bs := by
  have hcount : field ((s.tc k).spad.read o 16) 8 4 = (s.tc k).spad.imageCount o := field_read (by decide)
  have hbytes : (s.tc k).spad.read o (16 + 16 * min (field ((s.tc k).spad.read o 16) 8 4) 256) = (s.tc k).spad.imageBytes o :=
    congrArg (fun n => (s.tc k).spad.read o (16 + 16 * min n 256)) hcount
  rw [h] at hgood
  cases himage : EnvUnit.ofImage ((s.tc k).spad.imageBytes o) with
  | some x | none =>
    simp only [runEnvelope, h, hgood, Bool.false_eq_true, if_false, hbytes, State.takeImage, State.failE, himage]

/-- A command that writes a register gives it its value, or is one that finds more than 256 pieces (11 R241). -/
theorem runEnvelope_writes {r : Fin 8} (h : e.cmd.writes = some r) (hld : ∀ x o, e.cmd ≠ .ld x o) :
    runEnvelope k e s = match e.cmd.value (s.tc k).env.e ((s.tc k).etol.toNat % 2 ^ 32) with
      | some x => s.setTc k (fun t => t.setEnv r x)
      | none => s.failE k e cEnvOverflow := by
  have htol : bitsOf (s.tc k).etol 31 0 = (s.tc k).etol.toNat % 2 ^ 32 := rfl
  rw [← htol]
  cases hcmd : e.cmd with
  | evl | st | cnt | getDom | nop => simp [hcmd, ECmd.writes] at h
  | ld x o => exact absurd hcmd (hld x o)
  | clr | ins | sum | max | inf | conj | simp | add | dom =>
    rw [hcmd] at h hgood
    simp only [runEnvelope, hcmd, hgood, Bool.false_eq_true, if_false, h]
    generalize ECmd.value _ (s.tc k).env.e (bitsOf (s.tc k).etol 31 0) = v
    cases v <;> rfl

end

/-! ### The queue (11 R242) -/

section

variable (s : State) (k : CoreId) (e : EEntry)

@[simp] theorem failE_tc (cause : Nat) : (s.failE k e cause).tc k = (s.tc k).defer cause e.pc true e.seq := State.setTc_tc s k _

theorem failE_env (cause : Nat) : ((s.failE k e cause).tc k).env = (s.tc k).env := by
  rw [failE_tc]
  rfl

theorem setEnv_queue (d : Fin 8) (x : Env) : ((s.setTc k (fun t => t.setEnv d x)).tc k).env.queue = (s.tc k).env.queue := by
  rw [State.setTc_tc]
  rfl

theorem takeImage_queue (d : Fin 8) (bs : List Byte) : ((s.takeImage k e d bs).tc k).env.queue = (s.tc k).env.queue := by
  unfold State.takeImage
  split
  · exact setEnv_queue s k d _
  · rw [failE_env]

theorem spadPut_env (t : TaskCore) (rp : Option W64) (o : Nat) (bs : List (Option Byte)) : (t.spadPut rp o bs).env = t.env := by
  simp only [TaskCore.spadPut, TaskCore.logOld]
  split
  · rfl
  · split <;> rfl

theorem land_env (task : Option Nat) (c : CtxId) (tok : Nat) (f : Dest → RVal) : ((s.land task c tok f).tc k).env = (s.tc k).env :=
  (land_resultsOnly s task c tok f k).env

/-- The effect of a command is none on the queue. -/
theorem runEnvelope_queue : ((runEnvelope k e s).tc k).env.queue = (s.tc k).env.queue := by
  cases hgood : e.cmd.badSource (s.tc k).env.e with
  | true => rw [runEnvelope_bad hgood, failE_env]
  | false =>
    have hwrites : ∀ r, e.cmd.writes = some r → (∀ x o, e.cmd ≠ .ld x o) →
        ((runEnvelope k e s).tc k).env.queue = (s.tc k).env.queue := fun r hr hld => by
      rw [runEnvelope_writes hgood hr hld]
      split
      · exact setEnv_queue s k r _
      · rw [failE_env]
    cases h : e.cmd with
    | nop => rw [runEnvelope_nop hgood h]
    | evl r ps => rw [runEnvelope_evl hgood h, State.landV, land_env]
    | cnt r => rw [runEnvelope_cnt hgood h, State.landG, land_env]
    | getDom r => rw [runEnvelope_getDom hgood h, State.landG, land_env]
    | st r o =>
      rw [runEnvelope_st hgood h]
      split
      · rw [failE_env]
      · rw [State.setTc_tc, spadPut_env]
    | ld r o =>
      have hconsume : ∀ dom scope, ((s.consume k dom scope o).2.tc k).env = (s.tc k).env :=
        fun dom scope => (consume_resultsOnly s k dom scope o k).env
      rw [runEnvelope_ld hgood h]
      dsimp only
      split
      · split
        · rw [failE_env, hconsume]
        · rw [takeImage_queue, hconsume]
      · rw [takeImage_queue]
    | clr | ins | sum | max | inf | conj | simp | add | dom =>
      exact hwrites _ (by rw [h]; rfl) (fun x o => by rw [h]; exact ECmd.noConfusion)

end

/-! ### ENVELOPE_COMMAND_RUN (11 R242, R244) -/

/-- The head command leaves the queue. -/
def TaskCore.popEnv (t : TaskCore) : TaskCore := { t with env := { t.env with queue := t.env.queue.drop 1 } }

@[simp] theorem TaskCore.popEnv_spad (t : TaskCore) : t.popEnv.spad = t.spad := rfl

/-- A state in which the head command has taken its effect and left the queue. -/
def State.ranEnvelope (s : State) (k : CoreId) (e : EEntry) : State := ((runEnvelope k e s).setTc k TaskCore.popEnv).say .ok

section

variable {s : State} {k : CoreId} {e : EEntry} {rest : List EEntry}

/-- The head command runs where it follows no copy and nothing stops the unit. -/
theorem envelopeCommandRun_completes {P : State → Prop} (hq : (s.tc k).env.queue = e :: rest) (hfollows : e.follows = none)
    (hgo : (s.tc k).envStopped = false) (hswitch : s.stopped k .envelope = false) (hP : P (s.ranEnvelope k e)) :
    Completes (.envelopeCommandRun k) s P := by
  refine happen_completes (fun s => (runEnvelope k e s).setTc k TaskCore.popEnv) P ?_ hP
  have hexec : exec (.envelopeCommandRun k) s = execEnvelopeCommandRun k s := rfl
  rw [hexec, execEnvelopeCommandRun, hq]
  simp only [hfollows, hgo, hswitch]
  rfl

theorem ranEnvelope_part (s : State) (k : CoreId) (e : EEntry) :
    (s.ranEnvelope k e).tc k = ((runEnvelope k e s).tc k).popEnv := by
  rw [State.ranEnvelope, State.say_tc, State.setTc_tc]

theorem ranEnvelope_ctx (s : State) (k : CoreId) (e : EEntry) (c : CtxId) : (s.ranEnvelope k e).ctx c = (runEnvelope k e s).ctx c :=
  setTc_ctx_kept (runEnvelope k e s) k (f := TaskCore.popEnv) (fun _ => rfl) c

theorem ranEnvelope_queue (hq : (s.tc k).env.queue = e :: rest) : ((s.ranEnvelope k e).tc k).env.queue = rest := by
  have hrun := (runEnvelope_queue s k e).trans hq
  rw [ranEnvelope_part, TaskCore.popEnv, hrun]
  rfl

/-- A command that fails changes no register, and its fault is deferred (11 R244). -/
theorem ranEnvelope_fails {cause : Nat} (h : runEnvelope k e s = s.failE k e cause) :
    ((s.ranEnvelope k e).tc k).env.e = (s.tc k).env.e
      ∧ ((s.ranEnvelope k e).tc k).deferred = (s.tc k).deferred ++ [⟨cause, e.pc, true, e.seq⟩] := by
  rw [ranEnvelope_part, h, failE_tc]
  exact ⟨rfl, rfl⟩

/-- A command that gives a register its value defers nothing. -/
theorem ranEnvelope_sets {r : Fin 8} {x : Env} (h : runEnvelope k e s = s.setTc k (fun t => t.setEnv r x)) :
    ((s.ranEnvelope k e).tc k).env.e = (s.tc k).env.e.set r x ∧ ((s.ranEnvelope k e).tc k).deferred = (s.tc k).deferred := by
  rw [ranEnvelope_part, h, State.setTc_tc]
  exact ⟨rfl, rfl⟩

theorem ranEnvelope_landsG {tok : Nat} {x : W64} (hhere : partHere s k = true) (htok : e.tok = some tok)
    (h : runEnvelope k e s = s.landG (s.core k).task ⟨k, 0⟩ (e.tok.getD 0) x) : LandsG s (s.ranEnvelope k e) ⟨k, 0⟩ tok x := by
  rw [htok] at h
  exact (landG_lands hhere x).congr rfl (by rw [ranEnvelope_ctx, h]; rfl)

/-- A result of a tag other than T6 and F6 lands as it is. -/
theorem ranEnvelope_landsV {tok : Nat} {x : VReg} (hhere : partHere s k = true) (htok : e.tok = some tok) (hx : x.canon = x)
    (h : runEnvelope k e s = s.landV (s.core k).task ⟨k, 0⟩ (e.tok.getD 0) x) : LandsV s (s.ranEnvelope k e) ⟨k, 0⟩ tok x := by
  rw [htok] at h
  have hland := landV_lands (j := 0) (tok := tok) hhere x
  rw [hx] at hland
  exact hland.congr rfl (by rw [ranEnvelope_ctx, h]; rfl)

/-! ### `eld` and `est` (11 R257) -/

theorem rotten_none {t : TaskCore} (h : t.poisonRows = []) (o n : Nat) : t.rotten o n = false := by simp [TaskCore.rotten, h]

/-- `eld` without poison takes a good image, and defers FORMAT for another. -/
theorem runEnvelope_ld_clean {r : Fin 8} {o : Nat} (hgood : e.cmd.badSource (s.tc k).env.e = false) (h : e.cmd = .ld r o)
    (hclean : (s.tc k).poisonRows = []) :
    ((s.tc k).spad.ImageGood o → runEnvelope k e s = s.setTc k (fun t => t.setEnv r ((s.tc k).spad.imageAt o)))
      ∧ (¬(s.tc k).spad.ImageGood o → runEnvelope k e s = s.failE k e cFormat) := by
  have hrun : runEnvelope k e s = s.takeImage k e r ((s.tc k).spad.imageBytes o) := by
    rw [runEnvelope_ld hgood h]
    simp only [rotten_none hclean, Bool.false_eq_true, if_false]
  obtain ⟨hsome, hnone⟩ := ofImage_imageBytes (s.tc k).spad o
  exact ⟨fun hi => by rw [hrun, State.takeImage, hsome hi], fun hi => by rw [hrun, State.takeImage, hnone hi]⟩

theorem byte_write (m : Memory) (o : Nat) (bs : List Byte) (a : Nat) (hwf : m.wf = true) :
    (m.write o bs).byte a = if o ≤ a ∧ a < o + bs.length then bs.getD (a - o) 0 else m.byte a := by
  split
  · rename_i hin
    have hlt : a - o < bs.length := by omega
    have hat := Memory.byte_write_at bs m o (a - o) hwf hlt
    rw [Nat.add_sub_of_le hin.1] at hat
    rw [hat, List.getD_eq_getElem?_getD, List.getElem?_eq_getElem hlt, Option.getD_some]
  · exact Memory.byte_write_other bs m o a hwf (by omega)

/-- `est` whose undo log has room writes the image. -/
theorem ranEnvelope_st_spad {r : Fin 8} {o : Nat} (hgood : e.cmd.badSource (s.tc k).env.e = false) (h : e.cmd = .st r o)
    (hroom : (s.tc k).logFull (s.leadReplay k) o (EnvUnit.image (s.tc k).env.e[r]).length = false) :
    ((s.ranEnvelope k e).tc k).spad = (s.tc k).spad.write o (EnvUnit.image (s.tc k).env.e[r]) := by
  rw [ranEnvelope_part, runEnvelope_st hgood h, hroom, if_neg Bool.false_ne_true, State.setTc_tc, TaskCore.popEnv_spad, spadPut_spad]

end

/-- Settles O28: the head's effect, by its command, and the queue behind it. -/
theorem envelopeUnitRuns : Obligations.EnvelopeUnitRuns := by
  intro s k e rest hhere p u hq hfollows hgo hswitch
  refine envelopeCommandRun_completes hq hfollows hgo hswitch ?_
  refine ⟨ranEnvelope_queue hq, fun r h hgood => ?_, fun hbad => ranEnvelope_fails (runEnvelope_bad hbad),
    fun hgood r hr hld => ⟨fun x hx => ranEnvelope_sets ?_, fun hx => ranEnvelope_fails ?_⟩, fun hgood r o h hclean => ?_,
    fun hgood tok htok => ⟨fun r ps h => ?_, fun r h => ?_, fun r h => ?_⟩, fun hgood r o h hwf hroom a => ?_⟩
  · refine (ranEnvelope_sets ?_).1
    rw [runEnvelope_writes hgood (r := r) (by rw [h]; rfl) (fun x o => by rw [h]; exact ECmd.noConfusion), h]
    rfl
  · rw [runEnvelope_writes hgood hr hld, hx]
  · rw [runEnvelope_writes hgood hr hld, hx]
    rfl
  · obtain ⟨htake, hformat⟩ := runEnvelope_ld_clean hgood h hclean
    exact ⟨fun hi => ranEnvelope_sets (htake hi), fun hi => ranEnvelope_fails (hformat hi)⟩
  · exact ranEnvelope_landsV hhere htok rfl (runEnvelope_evl hgood h)
  · exact ranEnvelope_landsG hhere htok (runEnvelope_cnt hgood h)
  · exact ranEnvelope_landsG hhere htok (runEnvelope_getDom hgood h)
  · rw [ranEnvelope_st_spad hgood h hroom]
    exact byte_write _ _ _ _ hwf

end Sys2Proof.Machine
end

section
/-! What leaves memory alone: the functions of the state that write no byte of it, in the order of the model's files. -/

namespace Sys2Proof.Machine

open Sys2Proof Sys2Proof.Lanes

/-- A list of steps each of which leaves memory alone leaves it alone. -/
@[simp] theorem foldl_mem {β : Type} (f : State → β → State) (hf : ∀ t b, (f t b).mem = t.mem) (l : List β) (s : State) :
    (l.foldl f s).mem = s.mem := foldl_keeps (fun t => t.mem = s.mem) f (fun t b h => (hf t b).trans h) l s rfl

/-! ### Results, landings and faults (05 R75-R80) -/

@[simp] theorem State.fresh_mem (s : State) : s.fresh.2.mem = s.mem := rfl

@[simp] theorem State.draw_mem (s : State) : s.draw.2.mem = s.mem := rfl

@[simp] theorem State.setPart_mem (s : State) (task k f) : (s.setPart task k f).mem = s.mem := by
  unfold State.setPart
  (repeat' split) <;> rfl

@[simp] theorem State.setCtxOf_mem (s : State) (task c f) : (s.setCtxOf task c f).mem = s.mem := by simp [State.setCtxOf]

@[simp] theorem State.fillLink_mem (s : State) (task k d vec key v) : (s.fillLink task k d vec key v).mem = s.mem := by
  unfold State.fillLink
  split <;> simp

@[simp] theorem State.commitOne_mem (s : State) (task c d v) : (s.commitOne task c d v).mem = s.mem := by
  unfold State.commitOne
  (repeat' split) <;> simp

@[simp] theorem State.commitRec_mem (s : State) (task c r) : (s.commitRec task c r).mem = s.mem := by
  unfold State.commitRec
  split <;> simp

@[simp] theorem State.commitDue_mem (s : State) (task c) : (s.commitDue task c).mem = s.mem := by simp [State.commitDue]

@[simp] theorem State.landOne_mem (s : State) (task c tok d v) : (s.landOne task c tok d v).mem = s.mem := by
  unfold State.landOne
  dsimp only
  split <;> simp

@[simp] theorem State.onRecorded_mem (s : State) (task k g) : (s.onRecorded task k g).mem = s.mem := by
  simp [State.onRecorded, apply_ite State.mem]

@[simp] theorem State.land_mem (s : State) (task c tok f) : (s.land task c tok f).mem = s.mem := by simp [State.land]

@[simp] theorem State.landG_mem (s : State) (task c tok x) : (s.landG task c tok x).mem = s.mem := by simp [State.landG]

@[simp] theorem State.landV_mem (s : State) (task c tok x) : (s.landV task c tok x).mem = s.mem := by simp [State.landV]

@[simp] theorem State.commitAll_mem (s : State) (task c) : (s.commitAll task c).mem = s.mem := by
  unfold State.commitAll
  dsimp only
  split <;> simp

@[simp] theorem State.later_mem (s : State) (d lat v) : (s.later d lat v).mem = s.mem := by simp [State.later, apply_ite State.mem]

@[simp] theorem State.pendOn_mem (s : State) (ds) : (s.pendOn ds).2.mem = s.mem := rfl

@[simp] theorem State.asyncFault_mem (s : State) (task c tok a) : (s.asyncFault task c tok a).mem = s.mem := by simp [State.asyncFault]

@[simp] theorem State.faultOf_mem (s : State) (task c incarn tok a) : (s.faultOf task c incarn tok a).mem = s.mem := by
  simp [State.faultOf, apply_ite State.mem]

/-! ### Freezes and waiting -/

@[simp] theorem State.freezeWith_mem (s : State) (cls fi) : (s.freezeWith cls fi).mem = s.mem := by
  unfold State.freezeWith
  (repeat' split) <;> simp [takeFault_mem]

@[simp] theorem popLinks_mem (sh f) (s : State) : (popLinks sh f s).mem = s.mem := by
  unfold popLinks
  refine foldl_mem _ (fun t b => ?_) _ _
  rfl

/-! ### Hubs and spokes (15 R345-R349) -/

@[simp] theorem State.setHub_mem (s : State) (h f) : (s.setHub h f).mem = s.mem := by
  unfold State.setHub
  split <;> rfl

@[simp] theorem State.mark_mem (s : State) (h l) : (s.mark h l).mem = s.mem := by simp [State.mark]

@[simp] theorem State.borrowTop_mem (s : State) (c) : (s.borrowTop c).mem = s.mem := by simp [State.borrowTop]

@[simp] theorem State.carve_mem (s0 : State) : s0.carve.2.mem = s0.mem := by simp [State.carve, apply_ite State.mem]

@[simp] theorem State.giveBack_mem (s : State) (h share closing fault) : (s.giveBack h share closing fault).mem = s.mem := rfl

@[simp] theorem State.report_mem (s : State) (k kind dom addr runs) : (s.report k kind dom addr runs).mem = s.mem := by
  unfold State.report
  simp [pushEvent_mem]

@[simp] theorem State.stopOpener_mem (s : State) (h b) : (s.stopOpener h b).mem = s.mem := by
  unfold State.stopOpener
  split <;> simp

@[simp] theorem State.tell_mem (s : State) (scope) : (s.tell scope).2.mem = s.mem := by
  unfold State.tell
  (repeat' split) <;> simp

@[simp] theorem State.consume_mem (s : State) (k dom scope addr) : (s.consume k dom scope addr).2.mem = s.mem := by simp [State.consume]

/-! ### The scratchpad (09) -/

@[simp] theorem State.quick_mem (s : State) (d v) : (s.quick d v).mem = s.mem := by simp [State.quick, apply_ite State.mem]

@[simp] theorem State.tickIf_mem (s : State) (f) : (s.tickIf f).mem = s.mem := by simp [State.tickIf, apply_ite State.mem]

@[simp] theorem State.localWrite_mem (s : State) (o bs) : (s.localWrite o bs).mem = s.mem := rfl

@[simp] theorem State.localFault_mem (s : State) (d sel ea kind) : (s.localFault d sel ea kind).mem = s.mem := rfl

@[simp] theorem State.localRead_mem (s : State) (f ea offs n kind d k) (hk : ∀ t, (k t).mem = t.mem) :
    (s.localRead f ea offs n kind d k).mem = s.mem := by
  simp [State.localRead, apply_ite State.mem, hk]

/-! ### The matrix unit (10) -/

@[simp] theorem State.setMat_mem (s : State) (f) : (s.setMat f).mem = s.mem := rfl

@[simp] theorem State.enqueueM_mem (s : State) (cmd tok) : (s.enqueueM cmd tok).mem = s.mem := rfl

@[simp] theorem State.record_mem (s : State) (f) : (s.record f).mem = s.mem := rfl

@[simp] theorem State.recordLatch_mem (s : State) (isB t k) : (s.recordLatch isB t k).mem = s.mem := rfl

@[simp] theorem State.queueMul_mem (s : State) (f shadow) : (s.queueMul f shadow).mem = s.mem := rfl

@[simp] theorem State.enqueueSb_mem (s : State) (d cmd) : (s.enqueueSb d cmd).mem = s.mem := rfl

@[simp] theorem engineLoad_mem (k e swz n offs bad go) (s : State) (hbad : ∀ t, (bad t).mem = t.mem) (hgo : ∀ t, (go t).mem = t.mem) :
    (engineLoad k e swz n offs bad go s).mem = s.mem := by
  simp [engineLoad, apply_ite State.mem, hbad, hgo]

@[simp] theorem runLoad_mem (k e isB x) (s : State) : (runLoad k e isB x s).mem = s.mem :=
  engineLoad_mem _ _ _ _ _ _ _ _ (fun _ => rfl) (fun _ => rfl)

@[simp] theorem runGather_mem (k e x got) (s : State) : (runGather k e x got s).mem = s.mem := by
  refine engineLoad_mem _ _ _ _ _ _ _ _ (fun _ => rfl) (fun t => ?_)
  dsimp only
  split <;> rfl

@[simp] theorem runMatrix_mem (k e) (s : State) : (runMatrix k e s).mem = s.mem := by
  unfold runMatrix
  split <;> simp

/-! ### The envelope unit (11) -/

@[simp] theorem State.enqueueE_mem (s : State) (cmd tok) : (s.enqueueE cmd tok).mem = s.mem := rfl

@[simp] theorem State.enqueueEsb_mem (s : State) (d cmd) : (s.enqueueEsb d cmd).mem = s.mem := rfl

@[simp] theorem runEnvelope_mem (k q) (s : State) : (runEnvelope k q s).mem = s.mem := by
  unfold runEnvelope
  dsimp only
  (repeat' split) <;> simp

/-! ### Scalar words (06) -/

@[simp] theorem State.freezeAfter_mem (s : State) (cause addr) : (s.freezeAfter cause addr).mem = s.mem := rfl

/-! ### Translation (12 R264-R274) -/

@[simp] theorem State.board_mem (s : State) (pkg a b cargo) : (s.board pkg a b cargo).mem = s.mem := by
  simp [State.board, apply_ite State.mem]

@[simp] theorem State.onlyHome_mem (s : State) (pa) : (s.onlyHome pa).mem = s.mem := rfl

@[simp] theorem State.upcall_mem (s : State) (l pager w level) : (s.upcall l pager w level).mem = s.mem := by simp [State.upcall]

@[simp] theorem State.startWalk_mem (s : State) (l page kind dom others) : (s.startWalk l page kind dom others).mem = s.mem := rfl

@[simp] theorem State.findPage_mem (s : State) (l va kind dom) : (s.findPage l va kind dom).2.mem = s.mem := by
  unfold State.findPage
  dsimp only
  (repeat' split) <;> simp

@[simp] theorem State.findPages_mem (s : State) (l va n kind dom) : (s.findPages l va n kind dom).2.2.mem = s.mem := by
  unfold State.findPages
  extract_lets r
  have hr : r.2.2.mem = s.mem := foldl_keeps (fun q : Found × List TlbEntry × State => q.2.2.mem = s.mem) _
    (fun q a hq => by dsimp only; split <;> simp_all) _ _ rfl
  (repeat' split) <;> exact hr

/-! ### Global accesses (12 R276-R293) -/

@[simp] theorem State.issue_mem (s : State) (f op ea parts dests sel) : (s.issue f op ea parts dests sel).mem = s.mem := rfl

@[simp] theorem State.stage_mem (s : State) (c task dom h ea pc bs engine) : (s.stage c task dom h ea pc bs engine).mem = s.mem := rfl

@[simp] theorem State.issueStore_mem (s : State) (f op ea parts sel) : (s.issueStore f op ea parts sel).mem = s.mem := by
  unfold State.issueStore
  split
  · simp
  · simp only [apply_ite State.mem, State.issue_mem, ite_self]
    rw [foldl_mem]
    exact fun _ _ => rfl

@[simp] theorem State.setPartFor_mem (s : State) (a f) : (s.setPartFor a f).mem = s.mem := by simp [State.setPartFor]

@[simp] theorem State.cleanLine_mem (s : State) (a line drop) : (s.cleanLine a line drop).mem = s.mem := by simp [State.cleanLine]

@[simp] theorem State.dropNear_mem (s : State) (a pa) : (s.dropNear a pa).mem = s.mem := by simp [State.dropNear, apply_ite State.mem]

@[simp] theorem State.filled_mem (s : State) (a line) : (s.filled a line).mem = s.mem := by simp [State.filled, apply_ite State.mem]

@[simp] theorem State.stampHome_mem (s : State) (pa nud cad tenant wr) : (s.stampHome pa nud cad tenant wr).mem = s.mem := by
  simp [State.stampHome, apply_ite State.mem]

@[simp] theorem State.fillsOver_mem (s : State) (a) : (s.fillsOver a).mem = s.mem := by
  unfold State.fillsOver
  refine foldl_mem _ (fun t b => ?_) _ _
  split <;> simp

@[simp] theorem State.setAcc_mem (s : State) (id f) : (s.setAcc id f).mem = s.mem := rfl

@[simp] theorem State.raiseMsix_mem (s : State) (pkg vector) : (s.raiseMsix pkg vector).mem = s.mem := rfl

@[simp] theorem State.endAcc_mem (s : State) (id) : (s.endAcc id).mem = s.mem := by
  unfold State.endAcc
  (repeat' split) <;> simp

@[simp] theorem State.settle_mem (s : State) (id) : (s.settle id).mem = s.mem := by
  unfold State.settle
  (repeat' split) <;> simp

theorem State.touchSlice_mem {s t : State} {l pa nud cad tenant rro wr} (h : s.touchSlice l pa nud cad tenant rro wr = some t) :
    t.mem = s.mem := by
  unfold State.touchSlice at h
  dsimp only at h
  split at h
  · cases h; rfl
  · split at h
    · cases h; rfl
    · obtain ⟨y, -, rfl⟩ := Option.map_eq_some_iff.mp h
      rfl

theorem State.touchStash_mem {s t : State} {a n st pa rro slice} (hslice : ∀ u, slice = some u → u.mem = s.mem)
    (h : s.touchStash a n st pa rro slice = some t) : t.mem = s.mem := by
  unfold State.touchStash at h
  dsimp only at h
  split at h
  · cases h; simp
  · split at h
    · exact hslice t h
    · obtain ⟨x, -, hx⟩ := Option.bind_eq_some_iff.mp h
      obtain ⟨u, hu, rfl⟩ := Option.map_eq_some_iff.mp hx
      simp [hslice u hu]

theorem State.touchLine_mem {s t : State} {a ea pa rro} (h : s.touchLine a ea pa rro = some t) : t.mem = s.mem := by
  unfold State.touchLine at h
  dsimp only at h
  split at h
  · cases h; simp
  · split at h
    · cases h; rfl
    · split at h
      · exact State.touchStash_mem (fun u hu => State.touchSlice_mem hu) h
      · exact State.touchSlice_mem h

@[simp] theorem State.slicePart_mem (s : State) (id j) : (s.slicePart id j).mem = s.mem := by
  unfold State.slicePart
  dsimp only
  (repeat' split) <;> try simp
  exact State.touchLine_mem ‹_›

@[simp] theorem State.takeNumber_mem (s : State) (k q) : (s.takeNumber k q).2.mem = s.mem := rfl

@[simp] theorem State.number_mem (s : State) (id) : (s.number id).mem = s.mem := by
  unfold State.number
  split
  · rfl
  · refine foldl_mem _ (fun t j => ?_) _ _
    dsimp only
    (repeat' split) <;> simp

@[simp] theorem State.boardAcc_mem (s : State) (id) : (s.boardAcc id).mem = s.mem := by
  unfold State.boardAcc
  split <;> simp

@[simp] theorem State.replyTo_mem (s : State) (id a p) : (s.replyTo id a p).mem = s.mem := by
  unfold State.replyTo
  (repeat' split) <;> simp

@[simp] theorem State.placeAcc_mem (s : State) (id) : (s.placeAcc id).mem = s.mem := by
  unfold State.placeAcc
  (repeat' split) <;> simp

@[simp] theorem State.leaveRecord_mem (s : State) (a line) : (s.leaveRecord a line).mem = s.mem := by
  simp [State.leaveRecord, apply_ite State.mem]

@[simp] theorem State.consumePart_mem (s : State) (id j) : (s.consumePart id j).mem = s.mem := by
  unfold State.consumePart
  dsimp only
  (repeat' split) <;> simp

@[simp] theorem State.sharedWith_mem (s : State) (a line) : (s.sharedWith a line).mem = s.mem := rfl

theorem State.atHome_mem (s : State) (a pa f) : ∃ t : State, t.mem = s.mem ∧ (s.atHome a pa f).mem = (f t).mem := by
  unfold State.atHome
  split
  · exact ⟨s, rfl, rfl⟩
  · exact ⟨_, State.stampHome_mem .., rfl⟩

theorem State.servedHome_mem (s : State) (a pa f) : ∃ t : State, t.mem = s.mem ∧ (s.servedHome a pa f).mem = (f t).mem := by
  unfold State.servedHome
  split
  · exact s.atHome_mem a pa f
  · exact ⟨s, rfl, rfl⟩

@[simp] theorem State.readPart_mem (s : State) (id j) : (s.readPart id j).mem = s.mem := by
  unfold State.readPart
  (repeat' split) <;> try simp
  rename_i a _ _ p _ _ pa _ _
  obtain ⟨t, ht, hf⟩ := (s.replyTo id a p).servedHome_mem a pa (fun s => (s.filled a (lineOf pa)).sharedWith a (lineOf pa))
  simp [hf, ht]

@[simp] theorem State.cleanse_mem (s : State) (id j line) : (s.cleanse id j line).mem = s.mem := by
  simp [State.cleanse, apply_ite State.mem]

@[simp] theorem State.answerHeld_mem (s : State) (home pa v) : (s.answerHeld home pa v).mem = s.mem := by
  unfold State.answerHeld
  refine foldl_mem _ (fun t b => ?_) _ _
  rfl

@[simp] theorem State.setBank_mem (s : State) (a k f) : (s.setBank a k f).mem = s.mem := by simp [State.setBank, apply_ite State.mem]

@[simp] theorem State.nack_mem (s : State) (id j) : (s.nack id j).mem = s.mem := rfl

@[simp] theorem State.bankPart_mem (s : State) (id j k off) : (s.bankPart id j k off).mem = s.mem := by
  unfold State.bankPart
  split
  · rfl
  · split
    · rfl
    · extract_lets s1 rp t bs old new reads go r
      have hgo (u : State) : (go u).mem = u.mem := by
        simp only [go]
        cases new <;> simp [apply_ite State.mem]
      have hr : r.2.mem = s.mem := State.consume_mem ..
      have hs1 : s1.mem = s.mem := rfl
      simp [apply_ite State.mem, hgo, hr, hs1]

@[simp] theorem State.bankAll_mem (s : State) (id) : (s.bankAll id).mem = s.mem := by
  unfold State.bankAll
  split
  · rfl
  · rw [State.settle_mem]
    refine foldl_mem _ (fun t j => ?_) _ _
    (repeat' split) <;> simp

@[simp] theorem State.landAcc_mem (s : State) (id a) : (s.landAcc id a).mem = s.mem := by
  unfold State.landAcc
  split <;> simp

@[simp] theorem State.endWalk_mem (s : State) (l w) : (s.endWalk l w).mem = s.mem := by
  unfold State.endWalk
  dsimp only
  split
  · rw [foldl_mem]
    · rfl
    · exact fun _ _ => rfl
  · rw [foldl_mem, foldl_mem]
    · split
      · simp
      · rw [foldl_mem]
        · rfl
        · exact fun _ _ => rfl
    · exact fun _ _ => rfl
    · exact fun t e => t.placeAcc_mem e.1

/-! ### Lines of instructions and the chain (05) -/

@[simp] theorem State.lineFrom_mem (s : State) (c line copy) : (s.lineFrom c line copy).2.mem = s.mem := by
  have hpage := s.findPage_mem (s.clu c.core) (64 * line) 3 (s.ctx c).domain
  unfold State.lineFrom
  dsimp only
  (repeat' split) <;> simp_all

@[simp] theorem State.readLine_mem (s : State) (c line) : (s.readLine c line).2.mem = s.mem := by simp [State.readLine]

@[simp] theorem State.checkParity_mem (s : State) (c line bits) : (s.checkParity c line bits).2.mem = s.mem := by
  unfold State.checkParity
  dsimp only
  (repeat' split) <;> simp

@[simp] theorem State.copyBody_mem (s : State) (c line bits) : (s.copyBody c line bits).mem = s.mem := by
  simp [State.copyBody, apply_ite State.mem]

@[simp] theorem State.noteBody_mem (s : State) (c x) : (s.noteBody c x).mem = s.mem := by
  unfold State.noteBody
  (repeat' split) <;> simp

@[simp] theorem State.stepChain_mem (s0 : State) (c) : (s0.stepChain c).mem = s0.mem := by simp [State.stepChain, apply_ite State.mem]

@[simp] theorem State.repChain_mem (s : State) (c count lines) : (s.repChain c count lines).mem = s.mem := by simp [State.repChain]

@[simp] theorem State.readPc_mem (s : State) (c pc) : (s.readPc c pc).2.mem = s.mem := by
  have hline := s.readLine_mem c (pcLine pc)
  unfold State.readPc
  split
  · rfl
  · split
    · rename_i b s1 hb
      have hpar := s1.checkParity_mem c (pcLine pc) b
      split <;> simp_all
    · exact hline

@[simp] theorem State.resolveLink_mem (s : State) (c) : (s.resolveLink c).2.2.mem = s.mem := by
  have hpc := s.readPc_mem c (s.ctx c).pcq1.pc
  unfold State.resolveLink
  extract_lets q1
  have hfirst : (if q1.sq then s.readPc c q1.pc else (.ok 0, s)).2.mem = s.mem := by
    split <;> simp
  generalize (if q1.sq then s.readPc c q1.pc else (.ok 0, s)) = p at hfirst
  obtain ⟨x, s1⟩ := p
  cases x with
  | fault a b => exact hfirst
  | wait => exact hfirst
  | ok _ =>
    have hnext := s1.readPc_mem c (s1.resolveEntry c q1 (s1.ctx c).rep.left).1.pc
    dsimp only
    split <;> simp_all

@[simp] theorem State.resolveTo_mem (s : State) (c) : (s.resolveTo c).mem = s.mem := rfl

@[simp] theorem State.branchTo_mem (s : State) (t link) : (s.branchTo t link).mem = s.mem := rfl

@[simp] theorem State.noBranch_mem (s : State) : s.noBranch.mem = s.mem := rfl

@[simp] theorem State.repinLate_mem (s : State) (k) : (s.repinLate k).mem = s.mem := by
  unfold State.repinLate
  split
  · rfl
  · refine foldl_mem _ (fun t p => ?_) _ _
    dsimp only
    (repeat' split) <;> simp

@[simp] theorem State.pinWait_mem (s : State) (ls) : (s.pinWait ls).mem = s.mem := by simp [State.pinWait]

/-! ### Fences and monitors (13) -/

@[simp] theorem State.beginHold_mem (s : State) (kind ids) : (s.beginHold kind ids).mem = s.mem := rfl

@[simp] theorem State.endHold_mem (s : State) : s.endHold.mem = s.mem := rfl

@[simp] theorem State.disarm_mem (s : State) (c) : (s.disarm c).mem = s.mem := by
  unfold State.disarm
  split <;> rfl

/-! ### Rings (09 R194-R199) -/

@[simp] theorem State.countLine_mem (s : State) (line n) : (s.countLine line n).mem = s.mem := by
  unfold State.countLine
  refine foldl_mem _ (fun t e => foldl_mem _ (fun t k => ?_) _ _) _ _
  split <;> simp

/-! ### Copies (14 R317-R328) -/

@[simp] theorem State.setCopy_mem (s : State) (id f) : (s.setCopy id f).mem = s.mem := rfl

@[simp] theorem State.setCopyTc_mem (s : State) (c f) : (s.setCopyTc c f).mem = s.mem := by simp [State.setCopyTc]

@[simp] theorem State.engineVa_mem (s : State) (k dom a n kind wr me) : (s.engineVa k dom a n kind wr me).2.2.mem = s.mem := by
  have hpages := s.findPages_mem (s.clu k) a n kind dom
  unfold State.engineVa
  dsimp only
  (repeat' split) <;> simp_all

@[simp] theorem State.spanWay_mem (s : State) (c me wr x) : (s.spanWay c me wr x).2.mem = s.mem := by
  unfold State.spanWay
  split <;> simp

@[simp] theorem State.logFreeze_mem (s : State) (c xs) : (s.logFreeze c xs).mem = s.mem := by
  unfold State.logFreeze
  (repeat' split) <;> simp [takeFault_mem]

@[simp] theorem State.spansWay_mem (s : State) (c me wr xs) : (s.spansWay c me wr xs).2.mem = s.mem := by
  unfold State.spansWay
  extract_lets r
  have hr : r.2.mem = s.mem := foldl_keeps (fun q : Way × State => q.2.mem = s.mem) _
    (fun q x hq => by exact (State.spanWay_mem ..).trans hq) _ _ rfl
  exact hr

@[simp] theorem State.numbered_mem (s : State) (k q n) : (s.numbered k q n).mem = s.mem := by
  unfold State.numbered
  split
  · rfl
  · rw [foldl_mem]
    exact fun _ _ => rfl

theorem State.engineLine_mem {s t : State} {l pa nud cad tenant} (h : s.engineLine l pa nud cad tenant = some t) : t.mem = s.mem := by
  unfold State.engineLine at h
  split at h
  · cases h; simp
  · obtain ⟨u, hu, rfl⟩ := Option.map_eq_some_iff.mp h
    simp [State.touchSlice_mem hu]

@[simp] theorem State.engineLine_getD_mem (s : State) (l pa nud cad tenant) : ((s.engineLine l pa nud cad tenant).getD s).mem = s.mem := by
  cases h : s.engineLine l pa nud cad tenant with
  | none => rfl
  | some t => exact State.engineLine_mem h

@[simp] theorem State.wroteVa_mem (s : State) (c a bs staged) : (s.wroteVa c a bs staged).mem = s.mem := by
  unfold State.wroteVa
  refine foldl_mem _ (fun t p => ?_) _ _
  split <;> simp [apply_ite State.mem]

@[simp] theorem State.own_mem (s : State) (id lines) : (s.own id lines).mem = s.mem := rfl

@[simp] theorem State.disown_mem (s : State) (id lines keep) : (s.disown id lines keep).mem = s.mem := rfl

@[simp] theorem State.withdraw_mem (s : State) (id c) : (s.withdraw id c).mem = s.mem := by
  unfold State.withdraw
  split <;> simp

@[simp] theorem State.startChunk_mem (s : State) (id c) : (s.startChunk id c).mem = s.mem := by
  unfold State.startChunk
  dsimp only
  split <;> simp

@[simp] theorem State.chunkPoison_mem (s : State) (c xs) : (s.chunkPoison c xs).2.mem = s.mem := by simp [State.chunkPoison]

@[simp] theorem State.chunkWritten_mem (s : State) (id c p n) : (s.chunkWritten id c p n).mem = s.mem := by
  unfold State.chunkWritten
  dsimp only
  (repeat' split) <;> simp

@[simp] theorem State.loseChunk_mem (s : State) (id c p n cause) : (s.loseChunk id c p n cause).mem = s.mem := rfl

@[simp] theorem State.issueCopy_mem (s0 : State) (f j) : (s0.issueCopy f j).mem = s0.mem := by
  unfold State.issueCopy
  dsimp only
  (repeat' split) <;> simp

/-! ### Streams (14 R331-R337) -/

@[simp] theorem State.attach_mem (s : State) (f drain x) : (s.attach f drain x).mem = s.mem := by simp [State.attach]

@[simp] theorem State.setStream_mem (s : State) (id f) : (s.setStream id f).mem = s.mem := rfl

@[simp] theorem State.setStreamRing_mem (s : State) (x f) : (s.setStreamRing x f).mem = s.mem := by simp [State.setStreamRing]

@[simp] theorem State.tileWay_mem (s : State) (id x) : (s.tileWay id x).2.mem = s.mem := by
  unfold State.tileWay
  dsimp only
  (repeat' split) <;> simp

@[simp] theorem State.beginTile_mem (s : State) (id x) : (s.beginTile id x).mem = s.mem := by simp [State.beginTile]

@[simp] theorem State.disownAll_mem (s : State) (id) : (s.disownAll id).mem = s.mem := rfl

@[simp] theorem State.detach_mem (s : State) (id x err) : (s.detach id x err).mem = s.mem := by simp [State.detach, apply_ite State.mem]

/-! ### Messages (14 R340) -/

@[simp] theorem State.embark_mem (s : State) (id m) : (s.embark id m).mem = s.mem := by simp [State.embark, apply_ite State.mem]

@[simp] theorem State.sendMessage_mem (s : State) (f dst) : (s.sendMessage f dst).mem = s.mem := by simp [State.sendMessage]

@[simp] theorem State.endMessage_mem (s : State) (id m) : (s.endMessage id m).mem = s.mem := by simp [State.endMessage, apply_ite State.mem]

@[simp] theorem State.putMessage_mem (s : State) (m) : (s.putMessage m).mem = s.mem := rfl

@[simp] theorem State.failMessage_mem (s : State) (m cause) : (s.failMessage m cause).mem = s.mem := by
  simp [State.failMessage, apply_ite State.mem]

@[simp] theorem State.meetFate_mem (s : State) (id m fate) : (s.meetFate id m fate).mem = s.mem := by
  cases fate <;> simp [State.meetFate]

@[simp] theorem State.moveHeld_mem (s : State) (tenant a b) : (s.moveHeld tenant a b).mem = s.mem := by
  simp [State.moveHeld, apply_ite State.mem]

/-! ### Who takes part in a scope (15) -/

@[simp] theorem State.returnShare_mem (s : State) (h share fault closing) : (s.returnShare h share fault closing).mem = s.mem := by
  simp [State.returnShare, apply_ite State.mem]

@[simp] theorem State.dropCopies_mem (s : State) (o fault) : (s.dropCopies o fault).mem = s.mem := by simp [State.dropCopies]

@[simp] theorem State.dropStreams_mem (s : State) (o fault) : (s.dropStreams o fault).mem = s.mem := by
  simp [State.dropStreams, apply_ite State.mem]

@[simp] theorem State.dropMessages_mem (s : State) (o fault) : (s.dropMessages o fault).mem = s.mem := by simp [State.dropMessages]

@[simp] theorem State.dropAccesses_mem (s : State) (o fault) : (s.dropAccesses o fault).mem = s.mem := by
  unfold State.dropAccesses
  extract_lets mineA s1 s2 s3
  have h1 : s1.mem = s.mem := foldl_mem _ (fun t e => by split <;> simp) _ _
  have h2 : s2.mem = s1.mem := foldl_mem _ (fun t e => by simp) _ _
  have h3 : s3.mem = s2.mem := foldl_mem _ (fun t e => by simp) _ _
  exact h3.trans (h2.trans h1)

@[simp] theorem State.dropWork_mem (s : State) (o fault) : (s.dropWork o fault).mem = s.mem := by simp [State.dropWork]

@[simp] theorem State.returnStack_mem (s : State) (c fault) : (s.returnStack c fault).mem = s.mem := by simp [State.returnStack]

@[simp] theorem State.endHelperOf_mem (s : State) (task k n fault) : (s.endHelperOf task k n fault).mem = s.mem := by
  simp [State.endHelperOf, apply_ite State.mem]

@[simp] theorem State.freeCore_mem (s : State) (k gang) : (s.freeCore k gang).mem = s.mem := rfl

@[simp] theorem State.poolFrame_mem (s : State) (id n) : (s.poolFrame id n).mem = s.mem := by
  unfold State.poolFrame
  split <;> rfl

@[simp] theorem State.freeRectangle_mem (s : State) (g) : (s.freeRectangle g).mem = s.mem := rfl

@[simp] theorem State.releaseGang_mem (s : State) (g) : (s.releaseGang g).mem = s.mem := by simp [State.releaseGang, apply_ite State.mem]

@[simp] theorem State.removeTask_mem (s : State) (id) : (s.removeTask id).mem = s.mem := by
  unfold State.removeTask
  (repeat' split) <;> simp

@[simp] theorem State.endTask_mem (s : State) (id fault) : (s.endTask id fault).mem = s.mem := by
  unfold State.endTask
  (repeat' split) <;> simp

@[simp] theorem State.mapParts_mem (s : State) (f) : (s.mapParts f).mem = s.mem := rfl

/-! ### Scopes (15 R344-R351) -/

@[simp] theorem State.setGroup_mem (s : State) (k f) : (s.setGroup k f).mem = s.mem := rfl

@[simp] theorem State.post_mem (s : State) (ms) : (s.post ms).mem = s.mem := rfl

@[simp] theorem State.unpost_mem (s : State) (m) : (s.unpost m).mem = s.mem := rfl

@[simp] theorem State.askCommit_mem (s : State) (h) : (s.askCommit h).mem = s.mem := by simp [State.askCommit, apply_ite State.mem]

@[simp] theorem State.complete_mem (s : State) (l tenant ea w) : (s.complete l tenant ea w).mem = s.mem := by
  simp [State.complete, apply_ite State.mem]

@[simp] theorem State.answerClose_mem (s : State) (h b w) : (s.answerClose h b w).mem = s.mem := by
  unfold State.answerClose
  split <;> simp

@[simp] theorem State.finishScope_mem (s : State) (h b) : (s.finishScope h b).mem = s.mem := by
  unfold State.finishScope
  (repeat' split) <;> simp

@[simp] theorem State.endReplay_mem (s : State) (h b committed) : (s.endReplay h b committed).mem = s.mem := by
  simp [State.endReplay, apply_ite State.mem]

@[simp] theorem State.replayDecided_mem (s : State) (group committed) : (s.replayDecided group committed).mem = s.mem := by
  unfold State.replayDecided
  split <;> simp

@[simp] theorem State.landWait_mem (s : State) (w x) : (s.landWait w x).mem = s.mem := by
  unfold State.landWait
  split <;> simp

@[simp] theorem State.landWaits_mem (s : State) (h p x) : (s.landWaits h p x).mem = s.mem := by simp [State.landWaits]

@[simp] theorem State.releaseGroup_mem (s : State) (h committed) : (s.releaseGroup h committed).mem = s.mem := by simp [State.releaseGroup]

@[simp] theorem State.startAbort_mem (s : State) (h) : (s.startAbort h).mem = s.mem := by simp [State.startAbort, apply_ite State.mem]

@[simp] theorem State.abortGroup_mem (s : State) (h by_) : (s.abortGroup h by_).mem = s.mem := by
  simp [State.abortGroup, apply_ite State.mem]

@[simp] theorem State.scopeEmpty_mem (s : State) (h) : (s.scopeEmpty h).mem = s.mem := by
  unfold State.scopeEmpty
  dsimp only
  (repeat' split) <;> simp

@[simp] theorem State.spokeReturn_mem (s : State) (e) : (s.spokeReturn e).mem = s.mem := by
  unfold State.spokeReturn
  dsimp only
  (repeat' split) <;> simp

@[simp] theorem State.brakeHub_mem (s : State) (h) : (s.brakeHub h).mem = s.mem := by simp [State.brakeHub]

@[simp] theorem State.stripOpener_mem (s : State) (h task c) : (s.stripOpener h task c).mem = s.mem := by
  simp [State.stripOpener, apply_ite State.mem]

@[simp] theorem State.endTasks_mem (s : State) (ids) : (s.endTasks ids).mem = s.mem := by simp [State.endTasks]

@[simp] theorem State.containOpener_mem (s : State) (h task c) : (s.containOpener h task c).mem = s.mem := by
  simp [State.containOpener, apply_ite State.mem]

@[simp] theorem State.restoreFrame_mem (s : State) (h task c) : (s.restoreFrame h task c).mem = s.mem := by
  unfold State.restoreFrame
  split <;> simp

@[simp] theorem State.thawOpener_mem (s : State) (h task c) : (s.thawOpener h task c).mem = s.mem := by simp [State.thawOpener]

@[simp] theorem State.spoilRestore_mem (s : State) (h k addr) : (s.spoilRestore h k addr).mem = s.mem := by
  unfold State.spoilRestore
  split <;> simp

@[simp] theorem State.dropBlock_mem (s : State) (h k block) : (s.dropBlock h k block).mem = s.mem := rfl

@[simp] theorem State.newHub_mem (s : State) (l slot b) : (s.newHub l slot b).2.mem = s.mem := rfl

theorem State.openGroup_mem {s t : State} {pkg tenant h} (hopen : s.openGroup pkg tenant = some (h, t)) : t.mem = s.mem := by
  obtain ⟨i, -, hi⟩ := Option.map_eq_some_iff.mp hopen
  cases hi
  rfl

theorem State.openPlace_mem {s t : State} {f i g} (h : s.openPlace f = some (i, g, t)) : t.mem = s.mem := by
  unfold State.openPlace at h
  split at h
  · cases h
  · split at h
    · cases h; rfl
    · split at h
      · obtain ⟨⟨g, u⟩, hg, hu⟩ := Option.map_eq_some_iff.mp h
        cases hu
        exact State.openGroup_mem hg
      · cases h; rfl

@[simp] theorem State.openScope_mem (s0 : State) (f slot group) (s : State) : (s0.openScope f slot group s).mem = s.mem := by
  have hfold (ks : List CoreId) (t : State) (h : W64) :
      (ks.foldl (fun s k => s.setTc k (fun t => { t with undo := t.undo ++ [⟨h, []⟩] })) t).mem = t.mem :=
    foldl_mem _ (by exact fun _ _ => rfl) ks t
  simp [State.openScope, apply_ite State.mem, hfold]

/-! ### Tasks and nodes (15 R353-R375) -/

@[simp] theorem State.splitFor_mem (s : State) (h share n) : (s.splitFor h share n).2.mem = s.mem := by
  unfold State.splitFor
  split <;> simp

theorem State.carveOf_mem {s t : State} {task c incarn h l n} (hcarve : s.carveOf task c incarn h l = some (n, t)) : t.mem = s.mem := by
  unfold State.carveOf at hcarve
  dsimp only at hcarve
  split at hcarve
  · split at hcarve
    · cases hcarve
    · cases hcarve
      simp [apply_ite State.mem]
  · cases hcarve

@[simp] theorem State.memberShares_mem (a share) : ∀ (n) (s : State), (s.memberShares a share n).2.mem = s.mem
  | 0, _ | 1, _ => rfl
  | n + 2, s => by
    rw [State.memberShares]
    split
    · simp
    · rename_i hc
      exact (State.memberShares_mem a share (n + 1) _).trans (State.carveOf_mem hc)
    · exact fun h => by cases h

@[simp] theorem State.newTasks_mem (s : State) (l origin dom scope shares r node waits rooted) :
    (s.newTasks l origin dom scope shares r node waits rooted).2.mem = s.mem := rfl

@[simp] theorem State.landTask_mem (s : State) (id a gang share) : (s.landTask id a gang share).mem = s.mem := by
  unfold State.landTask
  dsimp only
  (repeat' split) <;> simp

@[simp] theorem State.scopeFault_mem (s : State) (h cause) : (s.scopeFault h cause).mem = s.mem := by simp [State.scopeFault]

@[simp] theorem State.sendDecrements_mem (s : State) (l h dom share eas) : (s.sendDecrements l h dom share eas).mem = s.mem := by
  simp [State.sendDecrements, apply_ite State.mem]

@[simp] theorem State.failNode_mem (s : State) (id q cause) : (s.failNode id q cause).mem = s.mem := by
  unfold State.failNode
  split <;> simp

@[simp] theorem State.carveFiring_mem (s : State) (q) : (s.carveFiring q).2.mem = s.mem := by
  unfold State.carveFiring
  split
  · rename_i hr
    obtain ⟨c, -, hc⟩ := Option.bind_eq_some_iff.mp hr
    exact State.carveOf_mem hc
  · split <;> simp

@[simp] theorem State.endNode_mem (s : State) (id q pa scope res fire) : (s.endNode id q pa scope res fire).mem = s.mem := by
  unfold State.endNode
  (repeat' split) <;> simp

@[simp] theorem State.dropLoads_mem (s : State) : s.dropLoads.mem = s.mem := by simp [State.dropLoads]

@[simp] theorem State.oweWrites_mem (s : State) (h) : (s.oweWrites h).mem = s.mem := by simp [State.oweWrites, apply_ite State.mem]

@[simp] theorem State.leaveTask_mem (s : State) (id) : (s.leaveTask id).mem = s.mem := by
  unfold State.leaveTask
  (repeat' split) <;> simp

@[simp] theorem State.leaveHelper_mem (s : State) : s.leaveHelper.mem = s.mem := by simp [State.leaveHelper]

/-! ### Binding and switches (15, 20) -/

@[simp] theorem State.launchRoot_mem (s : State) (l tenant slot done r) : (s.launchRoot l tenant slot done r).mem = s.mem := by
  simp [State.launchRoot]

@[simp] theorem State.repin_mem (s : State) (k) : (s.repin k).mem = s.mem := by simp [State.repin]

@[simp] theorem State.placeImage_mem (s : State) (id k) : (s.placeImage id k).mem = s.mem := by
  unfold State.placeImage
  (repeat' split) <;> simp

@[simp] theorem State.writeFrame_mem (s : State) (id) : (s.writeFrame id).mem = s.mem := by
  unfold State.writeFrame
  (repeat' split) <;> simp

@[simp] theorem State.spill_mem (s : State) (id) : (s.spill id).mem = s.mem := by
  unfold State.spill
  dsimp only
  (repeat' split) <;> simp

@[simp] theorem State.evictImage_mem (s : State) (id) : (s.evictImage id).mem = s.mem := by simp [State.evictImage]

@[simp] theorem State.makeRoom_mem (s : State) (id foot k) : (s.makeRoom id foot k).mem = s.mem := by
  simp [State.makeRoom, apply_ite State.mem]

@[simp] theorem State.bindTask_mem (s : State) (id k) : (s.bindTask id k).mem = s.mem := by
  unfold State.bindTask
  (repeat' split) <;> simp

@[simp] theorem State.bindGang_mem (s : State) (g ks) : (s.bindGang g ks).mem = s.mem := by
  unfold State.bindGang
  dsimp only
  rw [foldl_mem, foldl_mem]
  · exact fun _ _ => rfl
  · intro t m
    split <;> simp

@[simp] theorem State.fillCheck_mem (s : State) (k dom a n) : (s.fillCheck k dom a n).2.mem = s.mem := by
  unfold State.fillCheck
  split
  · rfl
  · extract_lets pages r
    have hr : r.2.2.mem = s.mem := foldl_keeps (fun q : Bool × List (Nat × Nat) × State => q.2.2.mem = s.mem) _
      (fun q l hq => by dsimp only; (repeat' split) <;> simp [hq]) _ _ rfl
    (repeat' split) <;> exact hr

@[simp] theorem State.startLead_mem (s : State) (id t k) : (s.startLead id t k).mem = s.mem := by simp [State.startLead]

@[simp] theorem State.fillTo_mem (s : State) (k id t a n) : (s.fillTo k id t a n).mem = s.mem := by simp [State.fillTo]

@[simp] theorem State.failFill_mem (s : State) (k id t a ea cause) : (s.failFill k id t a ea cause).mem = s.mem := by
  unfold State.failFill
  simp [takeFault_mem]

@[simp] theorem State.beginSwitch_mem (s : State) (k why) : (s.beginSwitch k why).mem = s.mem := by
  unfold State.beginSwitch
  split
  · rfl
  · dsimp only
    rw [foldl_mem]
    exact fun _ _ => rfl

@[simp] theorem State.swapOut_mem (s : State) (k why) : (s.swapOut k why).mem = s.mem := by
  unfold State.swapOut
  (repeat' split) <;> simp

@[simp] theorem State.unpark_mem (s : State) (m) : (s.unpark m).mem = s.mem := rfl

/-! ### Multicasts and routers (18 R382-R390) -/

@[simp] theorem State.sendMcst_mem (s : State) (f) : (s.sendMcst f).mem = s.mem := by simp [State.sendMcst]

@[simp] theorem State.answerMcst_mem (s : State) (id p a) : (s.answerMcst id p a).mem = s.mem := rfl

@[simp] theorem State.sendOut_mem (s : State) (id m) : (s.sendOut id m).mem = s.mem := by simp [State.sendOut, apply_ite State.mem]

@[simp] theorem State.failMcst_mem (s : State) (id m) : (s.failMcst id m).mem = s.mem := by simp [State.failMcst]

@[simp] theorem State.routerTurn_mem (s : State) (pkg here) : (s.routerTurn pkg here).mem = s.mem := rfl

@[simp] theorem State.routersTurn_mem (s : State) : s.routersTurn.mem = s.mem := by
  unfold State.routersTurn
  exact foldl_mem _ (fun t e => foldl_mem _ (fun t r => by simp) _ _) _ _

/-! ### Groups (18 R392-R406) -/

@[simp] theorem State.waitGroup_mem (s : State) (f h peek abort waits) : (s.waitGroup f h peek abort waits).mem = s.mem := rfl

@[simp] theorem State.acceptGst_mem (s : State) (id) : (s.acceptGst id).mem = s.mem := rfl

@[simp] theorem State.failGst_mem (s : State) (id g cause) : (s.failGst id g cause).mem = s.mem := by simp [State.failGst]

@[simp] theorem State.dropGst_mem (s : State) (id reason) : (s.dropGst id reason).mem = s.mem := rfl

@[simp] theorem State.setParticipant_mem (s : State) (p h f) : (s.setParticipant p h f).mem = s.mem := rfl

@[simp] theorem State.doom_mem (s : State) (id g reason) : (s.doom id g reason).mem = s.mem := rfl

@[simp] theorem State.stageAt_mem (s : State) (id g pa p rro) : (s.stageAt id g pa p rro).mem = s.mem := by
  simp [State.stageAt, apply_ite State.mem]

@[simp] theorem State.sendGst_mem (s : State) (id g) : (s.sendGst id g).mem = s.mem := by
  have hpage := s.findPage_mem (s.clu g.ctx.core) g.ea.toNat 1 g.dom
  unfold State.sendGst
  dsimp only
  (repeat' split) <;> simp_all

@[simp] theorem State.arriveGst_mem (s : State) (id g pa) : (s.arriveGst id g pa).mem = s.mem := by
  unfold State.arriveGst
  (repeat' split) <;> simp

@[simp] theorem State.tryDecide_mem (s : State) (h) : (s.tryDecide h).mem = s.mem := by simp [State.tryDecide, apply_ite State.mem]

@[simp] theorem State.expireVote_mem (s : State) (h) : (s.expireVote h).mem = s.mem := by simp [State.expireVote]

@[simp] theorem State.dropStaged_mem (s : State) (pkg h confirm) : (s.dropStaged pkg h confirm).mem = s.mem := by
  simp [State.dropStaged, apply_ite State.mem]

@[simp] theorem State.peerFailed_mem (s : State) (at_ pkg) : (s.peerFailed at_ pkg).mem = s.mem := by simp [State.peerFailed]

@[simp] theorem State.countAuth_mem (s : State) (pkg) : (s.countAuth pkg).mem = s.mem := rfl

@[simp] theorem State.portDown_mem (s : State) (q) : (s.portDown q).mem = s.mem := rfl

@[simp] theorem State.abortTenant_mem (s : State) (pkg tenant) : (s.abortTenant pkg tenant).mem = s.mem := by simp [State.abortTenant]

/-! ### Protection and kills (20) -/

@[simp] theorem State.requeue_mem (s : State) (id t f) : (s.requeue id t f).mem = s.mem := by simp [State.requeue, apply_ite State.mem]

@[simp] theorem State.resumeAt_mem (s : State) (c once) : (s.resumeAt c once).mem = s.mem := by
  unfold State.resumeAt
  (repeat' split) <;> simp

@[simp] theorem State.killCtx_mem (s : State) (c cause) : (s.killCtx c cause).mem = s.mem := by
  unfold State.killCtx
  (repeat' split) <;> simp

@[simp] theorem State.killDomain_mem (s : State) (pkg gs cause) : (s.killDomain pkg gs cause).mem = s.mem := by
  simp [State.killDomain, apply_ite State.mem]

@[simp] theorem State.floodKill_mem (s : State) (strays) : (s.floodKill strays).mem = s.mem := rfl

@[simp] theorem State.endKill_mem (s : State) : s.endKill.mem = s.mem := by
  unfold State.endKill
  split <;> rfl

@[simp] theorem State.demandSwitch_mem (s : State) (k) : (s.demandSwitch k).mem = s.mem := by
  rw [State.demandSwitch, foldl_mem, State.beginSwitch_mem]
  exact fun _ _ => rfl

@[simp] theorem State.onPlbs_mem (s : State) (ks g) : (s.onPlbs ks g).mem = s.mem := by
  unfold State.onPlbs
  refine foldl_mem _ (fun t b => ?_) _ _
  rfl

@[simp] theorem State.dropPages_mem (s : State) (f) : (s.dropPages f).mem = s.mem := rfl

/-! ### Reliability (21) -/

@[simp] theorem State.unitReport_mem (s : State) (u kind addr) : (s.unitReport u kind addr).mem = s.mem := by
  unfold State.unitReport
  simp [pushEvent_mem]

@[simp] theorem State.setSite_mem (s : State) (p d n f) : (s.setSite p d n f).mem = s.mem := by
  unfold State.setSite
  (repeat' split) <;> rfl

@[simp] theorem State.setCodes_mem (s : State) (u f) : (s.setCodes u f).mem = s.mem := by
  unfold State.setCodes
  split <;> simp

@[simp] theorem State.nameCode_mem (s : State) (u strong) : (s.nameCode u strong).mem = s.mem := by simp [State.nameCode]

@[simp] theorem State.sweepLine_mem (s : State) (u g) : (s.sweepLine u g).mem = s.mem := by
  unfold State.sweepLine
  split <;> simp

@[simp] theorem State.corrected_mem (s : State) (u g) : (s.corrected u g).mem = s.mem := by simp [State.corrected, apply_ite State.mem]

@[simp] theorem State.spoiled_mem (s : State) (u g) : (s.spoiled u g).mem = s.mem := by
  unfold State.spoiled
  dsimp only
  (repeat' split) <;> simp

@[simp] theorem State.remapEnds_mem (s : State) (p d k id ok) : (s.remapEnds p d k id ok).mem = s.mem := by simp [State.remapEnds]

@[simp] theorem State.remapWorker_mem (s : State) (p d) : (s.remapWorker p d).mem = s.mem := by
  simp [State.remapWorker, apply_ite State.mem]

@[simp] theorem State.startSupervisor_mem (s : State) (k) : (s.startSupervisor k).mem = s.mem := rfl

@[simp] theorem State.newSite_mem (s : State) (k site) : (s.newSite k site).mem = s.mem := rfl

@[simp] theorem State.retire_mem (s : State) (p d old) : (s.retire p d old).mem = s.mem := rfl

@[simp] theorem State.remapSupervisor_mem (s : State) (p d) : (s.remapSupervisor p d).mem = s.mem := by
  simp [State.remapSupervisor, apply_ite State.mem]

@[simp] theorem State.remapStart_mem (s : State) (p d) : (s.remapStart p d).mem = s.mem := by simp [State.remapStart, apply_ite State.mem]

@[simp] theorem State.remapFinish_mem (s : State) (p d) : (s.remapFinish p d).mem = s.mem := by
  unfold State.remapFinish
  split <;> simp

/-! ### The debug window and the register pages (20, 21) -/

@[simp] theorem State.windowWrite_mem (s : State) (k block o w) : (s.windowWrite k block o w).mem = s.mem := by
  simp [State.windowWrite, apply_ite State.mem]

@[simp] theorem State.regWrite_mem (s : State) (r w) : (s.regWrite r w).mem = s.mem := by
  unfold State.regWrite
  (repeat' split) <;> simp

@[simp] theorem State.quotaWrite_mem (s : State) (p o bs) : (s.quotaWrite p o bs).mem = s.mem := by
  unfold State.quotaWrite
  refine foldl_mem _ (fun t b => ?_) _ _
  split <;> simp

@[simp] theorem State.deviceWrite_mem (s : State) (p o bs) : (s.deviceWrite p o bs).mem = s.mem := by
  unfold State.deviceWrite
  (repeat' split) <;> simp

@[simp] theorem State.controlRead_mem (s : State) (id j a p) : (s.controlRead id j a p).mem = s.mem := rfl

@[simp] theorem State.windowPart_mem (s : State) (id j p) : (s.windowPart id j p).mem = s.mem := by
  simp [State.windowPart, apply_ite State.mem]

@[simp] theorem State.devicePart_mem (s : State) (id j a p) : (s.devicePart id j a p).mem = s.mem := by
  simp [State.devicePart, apply_ite State.mem]

@[simp] theorem State.controlAll_mem (s : State) (id) : (s.controlAll id).mem = s.mem := by
  unfold State.controlAll
  split
  · rfl
  · rw [State.settle_mem]
    refine foldl_mem _ (fun t j => ?_) _ _
    (repeat' split) <;> simp

@[simp] theorem State.frameSpoiled_mem (s : State) (k) : (s.frameSpoiled k).mem = s.mem := by
  unfold State.frameSpoiled
  rw [foldl_mem _ (fun t e => ?_), State.report_mem]
  dsimp only
  split <;> simp [takeFault_mem]

/-! ### Boot (22) -/

@[simp] theorem State.failBoot_mem (s : State) (p code) : (s.failBoot p code).mem = s.mem := rfl

@[simp] theorem State.beginDiscovery_mem (s : State) (p digest) : (s.beginDiscovery p digest).mem = s.mem := by
  unfold State.beginDiscovery
  split <;> rfl

@[simp] theorem State.startSupervisors_mem (s : State) (p d) : (s.startSupervisors p d).mem = s.mem := rfl

/-! ### Fetch, the packet and the cycle (02, 05) -/

@[simp] theorem State.resolveHead_mem (s : State) (c) : (s.resolveHead c).2.mem = s.mem := by
  have hpc := s.readPc_mem c (s.ctx c).pcq0.pc
  unfold State.resolveHead
  dsimp only
  (repeat' split) <;> simp_all

@[simp] theorem State.resolveDue_mem (s : State) (c) : (s.resolveDue c).2.mem = s.mem := by
  have hlink := s.resolveLink_mem c
  unfold State.resolveDue
  dsimp only
  (repeat' split) <;> simp_all

@[simp] theorem State.fetchHead_mem (s : State) (c) : (s.fetchHead c).2.mem = s.mem := by
  have hpc := s.readPc_mem c (s.ctx c).pcq0.pc
  unfold State.fetchHead
  dsimp only
  (repeat' split) <;> simp_all

@[simp] theorem State.fetch_mem (s : State) (c) : (s.fetch c).2.mem = s.mem := by
  have hhead : ((s.repinLate c.core).resolveHead c).2.mem = s.mem := by simp
  unfold State.fetch
  split
  · rename_i b s1 h1
    have hdue := s1.resolveDue_mem c
    have h1m : s1.mem = s.mem := by simpa [h1] using hhead
    split
    · simp_all
    · rename_i s2 h2
      have hfetch := s2.fetchHead_mem c
      split <;> simp_all
    · rename_i s2 _ _ h2
      simp_all
  · exact hhead

@[simp] theorem keepWait_mem (c) (sF sW : State) : (keepWait c sF sW).mem = sW.mem := rfl

@[simp] theorem State.markFollow_mem (s : State) (c) : (s.markFollow c).mem = s.mem := by
  unfold State.markFollow
  split <;> rfl

@[simp] theorem State.moveChain_mem (s : State) (c) : (s.moveChain c).mem = s.mem := by
  unfold State.moveChain
  split <;> simp

@[simp] theorem State.finish_mem (s : State) (c) : (s.finish c).mem = s.mem := by
  unfold State.finish
  dsimp only
  (repeat' split) <;> simp [takeFault_mem]

@[simp] theorem State.sweepAll_mem (s : State) (ms) : (s.sweepAll ms).mem = s.mem := rfl

@[simp] theorem State.tickBy_mem (s : State) (n) : (s.tickBy n).mem = s.mem := by simp [State.tickBy, apply_ite State.mem]

@[simp] theorem State.pass_mem (s : State) (n) : (s.pass n).mem = s.mem := by simp [State.pass]

@[simp] theorem State.countStarved_mem (s : State) (k chosen could) : (s.countStarved k chosen could).mem = s.mem := by
  simp [State.countStarved, apply_ite State.mem]

end Sys2Proof.Machine
end

section
/-! What writes memory keeps its canonical form (12 R283-R293, log 3). -/

namespace Sys2Proof.Machine

open Sys2Proof Sys2Proof.Lanes

/-- A list of steps each of which keeps the canonical form keeps it. -/
theorem foldl_wf {β : Type} (f : State → β → State) (hf : ∀ t b, t.mem.wf = true → (f t b).mem.wf = true) (l : List β) (s : State)
    (h : s.mem.wf = true) : (l.foldl f s).mem.wf = true := foldl_keeps (fun t => t.mem.wf = true) f hf l s h

/-! ### Stores, atomics and futures (12 R283-R288, 13 R293) -/

/-- A step at a home slice keeps the canonical form where what it does there keeps it. -/
theorem State.atHome_wf (s : State) (a pa f) (hf : ∀ t : State, t.mem.wf = true → (f t).mem.wf = true) (h : s.mem.wf = true) :
    (s.atHome a pa f).mem.wf = true := by
  obtain ⟨t, ht, hmem⟩ := s.atHome_mem a pa f
  exact hmem ▸ hf t (ht ▸ h)

theorem State.servedHome_wf (s : State) (a pa f) (hf : ∀ t : State, t.mem.wf = true → (f t).mem.wf = true) (h : s.mem.wf = true) :
    (s.servedHome a pa f).mem.wf = true := by
  obtain ⟨t, ht, hmem⟩ := s.servedHome_mem a pa f
  exact hmem ▸ hf t (ht ▸ h)

theorem State.storePart_wf (s : State) (id j) (h : s.mem.wf = true) : (s.storePart id j).mem.wf = true := by
  unfold State.storePart
  split
  · exact h
  · split
    · exact h
    · split
      · exact h
      · rw [State.cleanse_mem, State.setAcc_mem, State.leaveRecord_mem]
        refine State.servedHome_wf _ _ _ _ (fun t ht => ?_) h
        rw [State.filled_mem, packAll_mem]
        exact perform_wf _ _ _ _ ht

theorem State.storeAll_wf (s : State) (id) (h : s.mem.wf = true) : (s.storeAll id).mem.wf = true := by
  unfold State.storeAll
  split
  · exact h
  · rw [State.settle_mem]
    refine foldl_wf _ (fun t j ht => ?_) _ _ h
    split
    · split
      · exact t.storePart_wf _ _ ht
      · exact ht
    · exact ht

theorem State.putAtHome_wf (s : State) (a p pa v) (h : s.mem.wf = true) : (s.putAtHome a p pa v).mem.wf = true := by
  refine State.atHome_wf _ _ _ _ (fun t ht => ?_) h
  rw [State.onlyHome_mem, packAll_mem]
  exact perform_wf _ _ _ _ ht

theorem State.atomicStep_wf (s : State) (id a p pa) (h : s.mem.wf = true) : (s.atomicStep id a p pa).mem.wf = true := by
  unfold State.atomicStep
  extract_lets bs old c s1 s2
  have h1 : s1.mem.wf = true := by
    unfold s1
    split
    · exact s.putAtHome_wf _ _ _ _ h
    · exact s.atHome_wf _ _ _ (fun _ ht => ht) h
  have h2 : s2.mem = s1.mem := by
    unfold s2
    split <;> rfl
  rw [State.setAcc_mem, State.leaveRecord_mem, h2]
  exact h1

/-! ### Copies and streams (14 R318, R334) -/

theorem State.writeVa_wf (s : State) (w l dom a bs) (h : s.mem.wf = true) : (s.writeVa w l dom a bs).mem.wf = true :=
  foldl_wf _ (fun t p ht => by rw [packAll_mem]; exact perform_wf _ _ _ _ ht) _ _ h

theorem State.writeSpan_wf (s : State) (id c x bs) (h : s.mem.wf = true) : (s.writeSpan id c x bs).mem.wf = true := by
  unfold State.writeSpan
  dsimp only
  split
  · simpa using h
  · simpa using h
  · rw [State.wroteVa_mem]
    split
    · rw [foldl_mem]
      · exact h
      · exact fun _ _ => rfl
    · exact s.writeVa_wf _ _ _ _ _ h
  · exact h

theorem State.moveChunk_wf (s : State) (id c p n) (h : s.mem.wf = true) : (s.moveChunk id c p n).mem.wf = true := by
  rw [State.moveChunk, State.chunkWritten_mem, State.disown_mem]
  exact foldl_wf _ (fun t x ht => t.writeSpan_wf _ _ _ _ ht) _ _ h

theorem State.tearChunk_wf (s : State) (id c x) (h : s.mem.wf = true) : (s.tearChunk id c x).mem.wf = true := by
  unfold State.tearChunk
  dsimp only
  split
  · refine foldl_wf _ (fun t y ht => ?_) _ _ (by simpa using h)
    split
    · exact t.writeSpan_wf _ _ _ _ ht
    · exact ht
  · exact h

theorem State.writeTile_wf (s : State) (id x) (h : s.mem.wf = true) : (s.writeTile id x).mem.wf = true :=
  foldl_wf _ (fun t _ ht => t.writeSpan_wf _ _ _ _ ht) _ _ h

theorem State.moveTile_wf (s : State) (id x) (h : s.mem.wf = true) : (s.moveTile id x).mem.wf = true := by
  unfold State.moveTile
  extract_lets w done
  have hw : w.2.mem.wf = true := by simpa [w] using h
  have hdone (t : State) (ht : t.mem.wf = true) : (done t).mem.wf = true := by
    unfold done
    dsimp only
    split <;> simpa using t.writeTile_wf id x ht
  split
  · exact hdone _ hw
  · exact hw
  · split
    · exact hdone _ (by simpa using hw)
    · exact hw

/-! ### Nodes, multicasts and groups (15 R357, R358; 18 R390, R398) -/

theorem State.stepNode_wf (s : State) (id q pa) (h : s.mem.wf = true) : (s.stepNode id q pa).mem.wf = true := by
  unfold State.stepNode
  dsimp only
  split
  · split
    · simpa using h
    · split <;> simp [perform_wf, h]
  · split
    · simpa using h
    · split <;> simp [perform_wf, h]

theorem State.fireWith_wf (s : State) (l ea n hd dom share bs pa) (h : s.mem.wf = true) :
    (s.fireWith l ea n hd dom share bs pa).mem.wf = true := by
  unfold State.fireWith
  dsimp only
  (repeat' split) <;> simp [perform_wf, h]

theorem State.memberWrite_wf (s : State) (m p) (h : s.mem.wf = true) : (s.memberWrite m p).2.mem.wf = true := by
  unfold State.memberWrite
  dsimp only
  split
  · split
    · exact h
    · split
      · exact h
      · split
        · exact h
        · split
          · exact h
          · exact foldl_wf _ (fun t x ht => perform_wf _ _ _ _ ht) _ _ h
  · (repeat' split) <;> exact h

theorem State.publish_wf (s : State) (p hd q) (h : s.mem.wf = true) : (s.publish p hd q).mem.wf = true := by
  rw [State.publish, State.post_mem, State.setParticipant_mem]
  exact foldl_wf _ (fun t l ht => putLine_wf _ _ _ _ _ ht) _ _ h

/-! ### Kills, boot and names of packages (20 R434, 22 R470) -/

theorem State.killing_wf (s : State) (ends : State → State) (hends : ∀ t, (ends t).mem = t.mem) (h : s.mem.wf = true) :
    (s.killing ends).mem.wf = true := by
  unfold State.killing
  extract_lets gone stopped torn left t
  have htorn : torn.mem.wf = true :=
    foldl_wf _ (fun u e hu => foldl_wf _ (fun v x hv => v.tearChunk_wf _ _ _ hv) _ _ hu) _ _ h
  rw [foldl_mem]
  · rw [hends]
    exact htorn
  · exact fun _ _ => rfl

theorem State.writeBody_wf (s : State) (p d) (h : s.mem.wf = true) : (s.writeBody p d).mem.wf = true := by
  unfold State.writeBody
  split
  · exact h
  · split
    · exact h
    · exact foldl_wf _ (fun t i ht => perform_wf _ _ _ _ ht) _ _ h

theorem State.rename_wf (s : State) (p q) (h : s.mem.wf = true) : (s.rename p q).mem.wf = true :=
  foldl_keeps (fun m : Memory => m.wf = true) _ (fun _ _ hm => Memory.wf_write _ _ _ hm) _ _ (Memory.wf_filter _ _ h)

end Sys2Proof.Machine
end

section
/-! Every word keeps memory in its canonical form: a word takes its effect, waits, or is skipped, and none of these writes a byte. -/

namespace Sys2Proof.Machine

open Sys2Proof Sys2Proof.Lanes

/-- A next state that a meaning answers has its memory in the canonical form. -/
def Keeps (o : Out) : Prop := ∀ t, o = .next t → t.mem.wf = true

theorem Keeps.next {t : State} (h : t.mem.wf = true) : Keeps (.next t) := fun _ ht => by cases ht; exact h

/-- The fields of an entry that hold their defaults are left to `assumption`: `id` leaves the memory at hand. -/
theorem run_keeps {i : Instr} {f : Fields} {e : Entry} {s : State} (h : s.mem.wf = true) (hact : (e.act s).mem.wf = true)
    (hwait : (e.wait s).mem.wf = true := by assumption) (hskip : (e.skip s).mem.wf = true := by assumption) : Keeps (run i f e s) := by
  have heffect : (effect i f e s).mem.wf = true := by
    unfold effect
    split
    · rwa [popLinks_mem]
    · exact hskip
  unfold run
  dsimp only
  (repeat' split) <;> exact Keeps.next (by simpa)

theorem happen_keeps {b : Bool} {act : State → State} {s : State} (h : s.mem.wf = true) (hact : (act s).mem.wf = true) :
    Keeps (happen b act s) := by
  unfold happen
  (repeat' split) <;> exact Keeps.next (by simpa)

theorem andNext_keeps {o : Out} {f : State → Out} (ho : Keeps o) (hf : ∀ t, t.mem.wf = true → Keeps (f t)) : Keeps (andNext o f) := by
  unfold andNext
  split
  · exact hf _ (ho _ rfl)
  · exact ho

/-- An entry of results leaves memory alone (05 R75-R80). -/
theorem Entry.ResultOnly.keeps {i : Instr} {f : Fields} {e : Entry} (he : e.ResultOnly) {s : State} (h : s.mem.wf = true) :
    Keeps (run i f e s) := by
  obtain ⟨hact, hwait, hskip⟩ := he
  have hmem : (e.act s).mem = s.mem := by
    rw [(hact s).1]
  exact run_keeps h (hmem ▸ h) (by rwa [hwait]) (by rwa [hskip])

theorem scalar_keeps {i : Instr} {f : Fields} (hf : i.fields = some f) (hcl : i.key.map OpKey.cl = some 0) {s : State}
    (h : s.mem.wf = true) : Keeps (exec i s) := by
  obtain ⟨e, he, hresult⟩ := scalar_entry i f hf hcl s
  exact he ▸ hresult.keeps h

theorem vector_keeps {i : Instr} {f : Fields} (hf : i.fields = some f) (hcl : i.key.map OpKey.cl = some 1) {s : State}
    (h : s.mem.wf = true) : Keeps (exec i s) := by
  obtain ⟨e, he, hresult⟩ := vector_entry i f hf hcl s
  exact he ▸ hresult.keeps h

theorem State.mem_of_findPage {s t : State} {l va n d r} (hpage : s.findPage l va n d = (r, t)) : t.mem = s.mem := by
  rw [← State.findPage_mem s l va n d, hpage]

/-- Every word of the opcode table keeps the canonical form. -/
theorem word_keeps {i : Instr} (hi : i.key.isSome = true) {s : State} (h : s.mem.wf = true) : Keeps (exec i s) := by
  cases i
  -- Classes S and V have results alone (06, 08).
  case add | sub | mul | mulh | mulhu | div | divu | rem | remu | and | or | xor | andn | shl | shr | sra | rol | min | minu
      | max | maxu | sel | mov | movh | lea | ext | extu | ins | sext | zext | clz | ctz | ffs | popc | bswap | brev | cmp
      | cmpf | fadd | fmul | ffma | fmin | fmax | fcvt | pset | mrd | mwr | rdtime => exact scalar_keeps rfl rfl h
  case vadd | vsub | vmul | vfma | vfms | vfnma | vmin | vmax | vabs | vneg | vand | vor | vxor | vandn | vshl | vshr | vsra
      | vmulh | vavg | vabd | vcmp | vsel | vmov | vbc | vget | vset | vperm | vcomp | vexpd | vred | vscan | vdot4 | vclz
      | vpopc | vffs | vexp2 | vlog2 | vrcp | vrsq | vsin | vcos | vtanh | vcvt | vtag | vqnt | vdqt | vbmax | vsat =>
    exact vector_keeps rfl rfl h
  -- These change their context, their core or a queue by an update of one field.
  case mzero | mlda | mldb | mgat | mmul | mmuls | mcom | mdis | mscq | mfin | mrow | mst | mcnt | mthr | mwt | eclr | eins
      | eevl | esum | emax | einf | econj | esimp | eld | est | eadd | ecnt | edom | edomGet | ewt | rres | rtake | rrel
      | rcfg | gst | gcom | nop | b | ba | bl | br | brl | lfree | tick | bkpt | fence | sshd | sunsh | pgok | wpt =>
    exact run_keeps h h
  -- These land a result or issue an access, by functions that leave memory alone.
  case mstat | ldl | stl | vldl | vstl | vgl | ala | stmap | stfl | stinv | rstat | ld | st | vld | vst | vgg | vsg | amo
      | cas | famo | fset | fget | cp | cps | cpw | cpq | mwait | poll | tgdec | sinfo | plbw | plbi | plbiDom =>
    exact run_keeps h (by simpa)
  case alf => exact run_keeps h (by simpa [apply_ite State.mem]) (by simpa [apply_ite State.mem])
  -- These choose among such functions, as their effect or in their waiting too.
  case pf | msg | mcst | gab | gstt | rep | scnl | claim | spawn | spwg | start | yield | tgnode | resm =>
    refine run_keeps h ?_
    dsimp only
    (repeat' split) <;> simpa
  case wb | inv | streamSub | unsub | drn | bar | sclose | exit | prmt | xlti =>
    refine run_keeps h ?_ ?_ <;>
    · dsimp only
      (repeat' split) <;> simpa
  case lpin => exact run_keeps h (by simpa) (by simpa)
  case vsl =>
    refine run_keeps h ?_
    rw [State.tickIf_mem, foldl_mem _ fun t e => State.localWrite_mem ..]
    exact h
  case auds =>
    refine run_keeps h ?_
    refine foldl_wf _ (fun t k ht => ?_) _ _ h
    exact ht
  case gopen f =>
    refine run_keeps h ?_
    dsimp only
    split
    · rename_i hopen
      simpa [State.openGroup_mem hopen]
    · simpa
  case mon =>
    refine run_keeps h ?_ (by simpa)
    dsimp only
    split <;>
    · rename_i hpage
      simpa [State.mem_of_findPage hpage]
  case sopen f =>
    refine run_keeps h ?_
    dsimp only
    split
    · rename_i hplace
      simpa [State.openPlace_mem hplace] using h
    · simpa using h
  case trap =>
    refine run_keeps h ?_
    dsimp only
    split <;> simpa [takeFault_mem]
  case kill =>
    refine run_keeps h (by simpa) ?_
    dsimp only
    split
    · exact h
    · split
      · rw [State.floodKill_mem]
        exact State.killing_wf _ _ (by simp) h
      · exact h
  case killDom =>
    refine run_keeps h (by simpa) ?_
    dsimp only
    split
    · exact h
    · rw [State.floodKill_mem]
      exact State.killing_wf _ _ (by simp) h
  all_goals exact absurd hi Bool.false_ne_true

end Sys2Proof.Machine
end

section
/-! The arbiter and the chain keep memory in its canonical form where the meaning of every instruction does (05 R71-R74). -/

namespace Sys2Proof.Machine

open Sys2Proof Sys2Proof.Lanes

theorem wordExec_eq (i : Instr) (s : State) : wordExec i s = if i.key.isSome then exec i s else happen false id s := by
  cases i <;> rfl

theorem wordExec_keeps (i : Instr) (s : State) (h : s.mem.wf = true) : Keeps (wordExec i s) := by
  rw [wordExec_eq]
  split
  · exact word_keeps ‹_› h
  · exact happen_keeps h h

section
variable {ex : Instr → State → Out} (hex : ∀ i s, s.mem.wf = true → Keeps (ex i s))
include hex

theorem examine_wf (s : State) (p : Nat) (i : Instr) (h : s.mem.wf = true) : (examine ex s p i).2.mem.wf = true := by
  unfold examine
  dsimp only
  split
  · rename_i t ht
    exact hex i _ (by exact h) t ht
  · exact h

theorem holdAll_wf (bits : Nat) (vs : List (Nat × Verdict)) (s : State) (h : s.mem.wf = true) : (holdAll ex bits vs s).mem.wf = true := by
  refine foldl_wf _ (fun t e ht => ?_) _ _ h
  split
  · split
    · exact examine_wf hex t _ _ ht
    · exact ht
  · exact ht

theorem actAll_keeps (is : List (Nat × Instr)) (s : State) (h : s.mem.wf = true) : Keeps (actAll ex is s) := by
  induction is generalizing s with
  | nil => exact Keeps.next h
  | cons e is ih => exact andNext_keeps (hex _ _ h) ih

theorem actPacket_keeps (c : CtxId) (bits : Nat) (ps : List Nat) (s : State) (h : s.mem.wf = true) : Keeps (actPacket ex c bits ps s) :=
  actAll_keeps hex _ _ h

theorem issuePacket_keeps (c : CtxId) (bits : Nat) (ps : List Nat) (s : State) (h : s.mem.wf = true) :
    Keeps (s.issuePacket ex c bits ps) :=
  andNext_keeps (actPacket_keeps hex c bits ps _ (by simpa)) (fun t ht => Keeps.next (by simpa))

theorem tryPacket_keeps (c : CtxId) (bits : Nat) (late : Bool) (s : State) (h : s.mem.wf = true) :
    Keeps (s.tryPacket ex c bits late).2 := by
  unfold State.tryPacket
  dsimp only
  split
  · split
    · exact Keeps.next h
    · exact issuePacket_keeps hex c bits [] s h
  · split
    · exact Keeps.next (by rwa [takeFault_mem])
    · split
      · exact Keeps.next (by rwa [takeFault_mem])
      · split
        · exact Keeps.next (by simpa)
        · exact Keeps.next h
        · exact Keeps.next (by rw [keepWait_mem]; exact holdAll_wf hex _ _ _ (by simpa))
        · exact issuePacket_keeps hex c bits _ s h
        · exact issuePacket_keeps hex c bits _ s h

theorem tryLeave_keeps (c : CtxId) (bits : Nat) (s : State) (h : s.mem.wf = true) : Keeps (s.tryLeave ex c bits).2 := by
  unfold State.tryLeave
  split
  · exact Keeps.next h
  · dsimp only
    split
    · exact Keeps.next (by simpa)
    · exact Keeps.next h
    · exact Keeps.next (by rw [keepWait_mem]; exact examine_wf hex _ _ _ h)
    · exact andNext_keeps (actAll_keeps hex _ _ h) (fun t ht => Keeps.next (by simpa))
    · exact andNext_keeps (actAll_keeps hex _ _ h) (fun t ht => Keeps.next (by simpa))

theorem attempt_keeps (c : CtxId) (s : State) (h : s.mem.wf = true) : Keeps (s.attempt ex c).2 := by
  have hfetch : (({ s with cur := c, pk := Pk.fresh } : State).fetch c).2.mem.wf = true := by simpa
  unfold State.attempt
  split
  · exact Keeps.next h
  · split <;> rename_i hs <;> rw [hs] at hfetch
    · exact Keeps.next hfetch
    · exact Keeps.next (by rwa [takeFault_mem])
    · exact tryPacket_keeps hex c _ true _ hfetch
    · split
      · exact tryLeave_keeps hex c _ _ hfetch
      · exact tryPacket_keeps hex c _ _ _ hfetch

theorem tryAll_keeps (k : CoreId) (ns : List Nat) (s : State) (h : s.mem.wf = true) : Keeps (tryAll ex k ns s).2 := by
  induction ns generalizing s with
  | nil => exact Keeps.next h
  | cons n ns ih =>
    have htry := attempt_keeps hex ⟨k, n⟩ s h
    unfold tryAll
    split <;> rename_i hs <;> rw [hs] at htry
    · exact htry
    · exact ih _ (htry _ rfl)
    · exact htry

theorem issueCycle_keeps (k : CoreId) (s : State) (h : s.mem.wf = true) : Keeps (s.issueCycle ex k) := by
  refine andNext_keeps (tryAll_keeps hex k _ s h) (fun t ht => Keeps.next ?_)
  (repeat' split) <;> simpa

theorem allCores_keeps (ks : List CoreId) (s : State) (h : s.mem.wf = true) : Keeps (allCores ex ks s) := by
  induction ks generalizing s with
  | nil => exact Keeps.next h
  | cons k ks ih => exact andNext_keeps (issueCycle_keeps hex k s h) ih

theorem cycleOf_keeps (c : CtxId) (enabled : Bool) (s : State) (h : s.mem.wf = true) : Keeps (cycleOf ex c enabled s) := by
  unfold cycleOf
  split
  · exact andNext_keeps (issueCycle_keeps hex c.core s h) (fun t ht => happen_keeps h (by simpa))
  · exact happen_keeps h h

theorem doMove_keeps (m : Move) (s : State) (h : s.mem.wf = true) : Keeps (s.doMove ex m) := by
  cases m with
  | event i => exact hex _ _ h
  | core k =>
    unfold State.doMove
    dsimp only
    split
    · exact andNext_keeps (issueCycle_keeps hex k s h) (fun t ht => Keeps.next (by simpa))
    · intro t ht
      cases ht
  | wait n => exact Keeps.next (by simpa)

end

end Sys2Proof.Machine
end

section
/-! Every event keeps memory in its canonical form. The events that write memory, and those whose cases need naming, come first. -/

namespace Sys2Proof.Machine

open Sys2Proof Sys2Proof.Lanes

theorem State.mem_of_choose {s t : State} {k e} (hchoose : s.choose k = some (e, t)) : t.mem = s.mem := by
  unfold State.choose at hchoose
  dsimp only at hchoose
  split at hchoose
  · cases hchoose
  · split at hchoose
    · cases hchoose
    · obtain ⟨x, -, hx⟩ := Option.map_eq_some_iff.mp hchoose
      cases hx
      rfl

section
variable {s : State} (h : s.mem.wf = true)
include h

theorem execDivideLand_keeps (c : CtxId) : Keeps (execDivideLand c s) := by
  unfold execDivideLand
  split
  · exact happen_keeps h h
  · refine happen_keeps h ?_
    split <;> simpa

theorem execMacroOpBlock_keeps (k : CoreId) : Keeps (execMacroOpBlock k s) := by
  unfold execMacroOpBlock
  dsimp only
  split
  · split
    · refine happen_keeps h ?_
      (repeat' split) <;> simpa
    · exact happen_keeps h h
  · exact happen_keeps h h

theorem execStorePerformed_keeps (id part : Nat) : Keeps (execStorePerformed id part s) := by
  unfold execStorePerformed
  split
  · exact happen_keeps h h
  · exact happen_keeps h (by rw [State.settle_mem]; exact s.storePart_wf _ _ h)

theorem execForcedPublish_keeps (id : Nat) : Keeps (execForcedPublish id s) := by
  unfold execForcedPublish
  split
  · exact happen_keeps h h
  · exact happen_keeps h (foldl_wf _ (fun t e ht => t.storeAll_wf _ ht) _ _ h)

theorem execWritePacketArrival_keeps (id : Nat) : Keeps (execWritePacketArrival id s) := by
  unfold execWritePacketArrival
  split
  · exact happen_keeps h h
  · exact happen_keeps h (s.storeAll_wf _ h)

theorem execAtomicAtHome_keeps (id : Nat) : Keeps (execAtomicAtHome id s) := by
  unfold execAtomicAtHome
  split
  · exact happen_keeps h h
  · split
    · exact happen_keeps h h
    · refine happen_keeps h ?_
      dsimp only
      split
      · split
        · simpa
        · exact State.atomicStep_wf _ _ _ _ _ (by simpa)
      · exact s.atomicStep_wf _ _ _ _ h

theorem execFsetAtHome_keeps (id : Nat) : Keeps (execFsetAtHome id s) := by
  unfold execFsetAtHome
  split
  · exact happen_keeps h h
  · split
    · refine happen_keeps h ?_
      simpa using s.putAtHome_wf _ _ _ _ h
    · exact happen_keeps h h

theorem execFgetAtHome_keeps (id : Nat) : Keeps (execFgetAtHome id s) := by
  unfold execFgetAtHome
  split
  · exact happen_keeps h h
  · split
    · refine happen_keeps h ?_
      have hhome (a : Access) (pa : Nat) : (s.atHome a pa (fun t => t)).mem.wf = true := s.atHome_wf _ _ _ (fun _ ht => ht) h
      dsimp only
      (repeat' split) <;> simp [hhome]
    · exact happen_keeps h h

theorem execCopyChunkStart_keeps (id : Nat) : Keeps (execCopyChunkStart id s) := by
  unfold execCopyChunkStart
  split
  · exact happen_keeps h h
  · refine happen_keeps h ?_
    (repeat' split) <;> simpa

theorem execCopyChunkEnd_keeps (id chunk : Nat) : Keeps (execCopyChunkEnd id chunk s) := by
  unfold execCopyChunkEnd
  split
  · exact happen_keeps h h
  · split
    · exact happen_keeps h h
    · refine happen_keeps h ?_
      dsimp only
      split
      · simpa
      · exact State.moveChunk_wf _ _ _ _ _ (by simpa)
      · split
        · split
          · simpa
          · exact State.moveChunk_wf _ _ _ _ _ (by simpa)
        · simpa

theorem tileStep_keeps (id : Nat) (drain : Bool) : Keeps (tileStep id drain s) := by
  unfold tileStep
  split
  · exact happen_keeps h h
  · refine happen_keeps h ?_
    dsimp only
    split
    · exact State.moveTile_wf _ _ _ (by split <;> simpa)
    · split <;> simpa

theorem execMulticastMemberWrite_keeps (id pkg : Nat) : Keeps (execMulticastMemberWrite id pkg s) := by
  unfold execMulticastMemberWrite
  split
  · exact happen_keeps h h
  · refine happen_keeps h ?_
    dsimp only
    split
    · simpa
    · split
      · exact h
      · simpa
      · simpa using s.memberWrite_wf _ _ h

theorem execGstStage_keeps (id : Nat) : Keeps (execGstStage id s) := by
  unfold execGstStage
  split
  · exact happen_keeps h h
  · split
    · exact happen_keeps h (by simpa)
    · refine happen_keeps h ?_
      split <;> simpa

theorem execGroupJoin_keeps (id : Nat) : Keeps (execGroupJoin id s) := by
  unfold execGroupJoin
  split
  · exact happen_keeps h h
  · split
    · exact happen_keeps h h
    · refine happen_keeps h ?_
      dsimp only
      (repeat' split) <;> simpa

theorem execGroupReasonReport_keeps (hd : W64) (pkg reason : Nat) : Keeps (execGroupReasonReport hd pkg reason s) := by
  unfold execGroupReasonReport
  refine happen_keeps h ?_
  have haccept (l : List (Nat × Gst)) : (l.foldl (fun s e => s.acceptGst e.1) s).mem.wf = true :=
    foldl_wf _ (fun t e ht => by simpa) _ _ h
  dsimp only
  split
  · simpa using haccept _
  · exact haccept _

theorem execGroupPublish_keeps (pkg : Nat) (hd : W64) : Keeps (execGroupPublish pkg hd s) := by
  unfold execGroupPublish
  split
  · exact happen_keeps h h
  · refine happen_keeps h ?_
    dsimp only
    split
    · exact State.publish_wf _ _ _ _ (by simpa)
    · simpa

theorem execQueryAnswer_keeps (src dst : Nat) (hd : W64) : Keeps (execQueryAnswer src dst hd s) := by
  unfold execQueryAnswer
  refine happen_keeps h ?_
  dsimp only
  split
  · simpa
  · split
    · simpa
    · simpa
    · split
      · split
        · exact State.publish_wf _ _ _ _ (by simpa)
        · simpa
      · simpa
    · simpa

theorem execJoinTimeout_keeps (pkg : Nat) (hd : W64) : Keeps (execJoinTimeout pkg hd s) := by
  unfold execJoinTimeout
  refine happen_keeps h ?_
  have hall (l : List (Nat × Gst)) :
      (l.foldl (fun s e => if e.2.open_ then s.failGst e.1 e.2 cGroupState else s.acceptGst e.1) s).mem.wf = true :=
    foldl_wf _ (fun t e ht => by split <;> simpa) _ _ h
  dsimp only
  split
  · split
    · simpa using hall _
    · exact hall _
  · exact hall _

theorem execAuthenticationFailure_keeps (w : Waiter) : Keeps (execAuthenticationFailure w s) := by
  unfold execAuthenticationFailure
  (repeat' split) <;> exact happen_keeps h (by simpa [takeFault_mem])

theorem execReplayRestore_keeps (hd : W64) : Keeps (execReplayRestore hd s) := by
  unfold execReplayRestore
  split
  · exact happen_keeps h h
  · rename_i b hhub
    split
    · refine happen_keeps h ?_
      dsimp only
      split <;> simpa
    · extract_lets fresh
      have hfresh (g : W64) (t : State) (ht : fresh = some (g, t)) : t.mem.wf = true := by
        by_cases hagain : b.again
        · rw [State.openGroup_mem ((if_pos hagain).symm.trans ht)]
          exact h
        · cases (if_neg hagain).symm.trans ht
          exact h
      clear_value fresh
      refine happen_keeps h ?_
      dsimp only
      split
      · exact h
      · have ht := hfresh _ _ rfl
        split
        · simpa using ht
        · (repeat' split) <;> simpa using ht

theorem execNodeDecrement_keeps (id : Nat) : Keeps (execNodeDecrement id s) := by
  unfold execNodeDecrement
  split
  · exact happen_keeps h h
  · refine happen_keeps h ?_
    dsimp only
    split
    · simpa
    · split <;> rename_i hpage <;> have hmem := State.mem_of_findPage hpage
      · rwa [hmem]
      · simpa [hmem]
      · split
        · simpa [hmem]
        · split
          · simpa [hmem]
          · split
            · simpa [hmem]
            · split
              · split
                · simpa [hmem]
                · exact State.stepNode_wf _ _ _ _ (by simpa [hmem])
              · exact State.stepNode_wf _ _ _ _ (by rwa [hmem])

theorem execNodeFire_keeps (id : Nat) : Keeps (execNodeFire id s) := by
  unfold execNodeFire
  split
  · exact happen_keeps h h
  · extract_lets hd dom l n dead arg
    clear_value arg
    refine happen_keeps h ?_
    dsimp only
    split
    · simpa
    · have hfired (w : Writer) (pa : Nat) (bs : List (Option Byte)) (fs) : (({ s with fires := fs } : State).perform w pa bs).mem.wf = true :=
        perform_wf _ _ _ _ h
      split
      · simp [hfired]
      · split
        · refine State.fireWith_wf _ _ _ _ _ _ _ _ _ ?_
          split <;> simp [hfired]
        · split <;> simp [hfired]
        · split <;> simp [hfired]

theorem execLaunchPacketWrite_keeps (pkg tenant : Nat) (packet : BitVec 512) (whole : Bool) :
    Keeps (execLaunchPacketWrite pkg tenant packet whole s) := by
  unfold execLaunchPacketWrite
  refine happen_keeps h ?_
  split <;> exact h

theorem execLaunchTake_keeps (pkg tenant : Nat) (l : CluId) : Keeps (execLaunchTake pkg tenant l s) := by
  unfold execLaunchTake
  split
  · exact happen_keeps h h
  · refine happen_keeps h ?_
    dsimp only
    split
    · split <;> simpa using h
    · split <;> simpa using h
    · simpa using h

theorem execDispatch_keeps (k : CoreId) : Keeps (execDispatch k s) := by
  unfold execDispatch
  split
  · exact happen_keeps h h
  · rename_i hchoose
    have hmem := State.mem_of_choose hchoose
    refine happen_keeps h ?_
    split <;> simpa [hmem]

theorem execTaskPark_keeps (task : Nat) : Keeps (execTaskPark task s) := by
  unfold execTaskPark
  split
  · exact happen_keeps h h
  · dsimp only
    split
    · exact happen_keeps h (by simpa)
    · exact happen_keeps h (foldl_wf _ (fun t m ht => by simpa) _ _ h)

theorem execDebugWindowWrite_keeps (id : Nat) : Keeps (execDebugWindowWrite id s) := by
  unfold execDebugWindowWrite
  split
  · exact happen_keeps h h
  · refine happen_keeps h ?_
    rw [State.settle_mem]
    refine foldl_wf _ (fun t j ht => ?_) _ _ h
    (repeat' split) <;> simpa

theorem execAuditReplay_keeps (l : CluId) : Keeps (execAuditReplay l s) := by
  unfold execAuditReplay
  split
  · exact happen_keeps h h
  · refine happen_keeps h ?_
    dsimp only
    split <;> simpa [pushEvent_mem]

theorem execRemapGo_keeps (pkg die : Nat) : Keeps (execRemapGo pkg die s) := by
  unfold execRemapGo
  refine happen_keeps h ?_
  split <;> simpa

theorem execHostCxlMemAccess_keeps (pkg off : Nat) (acc : HostAccess) : Keeps (execHostCxlMemAccess pkg off acc s) := by
  unfold execHostCxlMemAccess
  refine happen_keeps h ?_
  dsimp only
  split
  · refine foldl_wf _ (fun t l ht => ?_) _ _ h
    simpa
  · exact perform_wf _ _ _ _ h

theorem execPowerUp_keeps (bootCores : List Nat) : Keeps (execPowerUp bootCores s) := by
  unfold execPowerUp
  split <;> exact happen_keeps h h

theorem execPkgidWrite_keeps (pkg : Nat) (value : W64) : Keeps (execPkgidWrite pkg value s) := by
  unfold execPkgidWrite
  refine happen_keeps h ?_
  split <;> exact h

theorem execFwgo_keeps (pkg : Nat) (value : W64) : Keeps (execFwgo pkg value s) := by
  unfold execFwgo
  refine happen_keeps h ?_
  dsimp only
  split
  · split
    · exact h
    · exact State.rename_wf _ _ _ h
  · exact h

theorem execDieBootDone_keeps (pkg die : Nat) : Keeps (execDieBootDone pkg die s) := by
  unfold execDieBootDone
  refine happen_keeps h ?_
  dsimp only
  split <;> simpa using s.writeBody_wf _ _ h

theorem execAttgo_keeps (pkg : Nat) (value : W64) : Keeps (execAttgo pkg value s) := by
  unfold execAttgo
  refine happen_keeps h ?_
  split <;> exact h

theorem execSlotPowerLoss_keeps (pkg : Nat) : Keeps (execSlotPowerLoss pkg s) := happen_keeps h (darken_wf _ _ h)

theorem execExpanderTimeout_keeps (w : Waiter) : Keeps (execExpanderTimeout w s) := by
  unfold execExpanderTimeout
  dsimp only
  (repeat' split) <;> exact happen_keeps h (by simpa [takeFault_mem])

end

/-- POISON_CONSUMED runs other steps; every other instruction keeps the canonical form by its own meaning. -/
theorem exec_keeps_of_ne (i : Instr) (hi : ∀ who, i ≠ .poisonConsumed who) {s : State} (h : s.mem.wf = true) : Keeps (exec i s) := by
  by_cases hword : i.key.isSome
  · exact word_keeps hword h
  cases i
  -- These are guarded by their cases, and each case takes an effect that leaves memory alone.
  case matrixCommandRun | envelopeCommandRun | ringReservationServed | ringTakeServed | globalAccessLand | sliceAccess
      | victimChoice | trustShiftUpdate | homeAccess | stashRecall | remoteAccess | windowNack | peerAccessTimeout
      | wbTimeout | asyncFaultRecord | copySlotReserve | copyFinish | drainSlotEmpty | streamDetach | streamError
      | spillReplay | messageResend | messageTimeout | multicastReply | participantPrepare | tVoteExpiry | tCommitExpiry
      | participantQuery | resolveTimeout | failureNotice | peerSilenceTimeout | finalStateExpiry | flitCrcReplay
      | laneRetrain | routerCycle | sequentialResolve | fenceAbandon | mwaitTimeout | monitorLost | hubSpokeReturn | borrow
      | hubBrake | undoLogWrite | footprintFillDone | priorityAging | preemptTrigger | preemptAck | frameSwap
      | frameBackgroundWrite | translationWalk | killFlood | killSweepExpiry | faultEventDeliver | auditClr | eccrClr
      | eccrStrong | reencodeDone | l2RowSpare | remapSup | sctlSncz | sctlLtz | fstatFailedClear | groupTableWrite
      | registerWrite | discoveryPacket | discoveryReport | discoveryTimeout | imageMulticastAck | pwrlimWrite
      | powerThrottle | attestDone | peerRestore | gsttTimeout | multicastMemberTimeout | cxlCacheHostSnoop =>
    dsimp only [exec, execMatrixCommandRun, execEnvelopeCommandRun, execRingReservationServed, execRingTakeServed,
      execGlobalAccessLand, execSliceAccess, execVictimChoice, execTrustShiftUpdate, execHomeAccess, execStashRecall,
      execRemoteAccess, execWindowNack, execPeerAccessTimeout, execWbTimeout, execAsyncFaultRecord, execCopySlotReserve,
      execCopyFinish, execDrainSlotEmpty, execStreamDetach, execStreamError, execSpillReplay, execMessageResend,
      execMessageTimeout, execMulticastReply, execParticipantPrepare, execTVoteExpiry, execTCommitExpiry,
      execParticipantQuery, execResolveTimeout, execFailureNotice, execPeerSilenceTimeout, execFinalStateExpiry,
      execFlitCrcReplay, execLaneRetrain, execRouterCycle, execSequentialResolve, execFenceAbandon, execMwaitTimeout,
      execMonitorLost, execHubSpokeReturn, execBorrow, execHubBrake, execUndoLogWrite, execFootprintFillDone,
      execPriorityAging, execPreemptTrigger, execPreemptAck, execFrameSwap, execFrameBackgroundWrite, execTranslationWalk,
      execKillFlood, execKillSweepExpiry, execFaultEventDeliver, execAuditClr, execEccrClr, execEccrStrong, execReencodeDone,
      execL2RowSpare, execRemapSup, execSctlSncz, execSctlLtz, execFstatFailedClear, execGroupTableWrite, execRegisterWrite,
      execDiscoveryPacket, execDiscoveryReport, execDiscoveryTimeout, execImageMulticastAck, execPwrlimWrite,
      execPowerThrottle, execAttestDone, execPeerRestore, execGsttTimeout, execMulticastMemberTimeout, execCxlCacheHostSnoop]
    (repeat' split) <;> exact happen_keeps h (by simpa)
  -- These choose inside the effect.
  case sweepVisit | groupPrepare | groupVote | groupConfirm | pgokRewalk | roleAssignment =>
    dsimp only [exec, execSweepVisit, execGroupPrepare, execGroupVote, execGroupConfirm, execPgokRewalk, execRoleAssignment]
    refine happen_keeps h ?_
    (repeat' split) <;> simpa
  case messageDelivery | groupAbort | claimAtHub | replayContain | firmwareFetchDone =>
    dsimp only [exec, execMessageDelivery, execGroupAbort, execClaimAtHub, execReplayContain, execFirmwareFetchDone]
    split
    · exact happen_keeps h h
    · refine happen_keeps h ?_
      (repeat' split) <;> simpa
  case divideLand c => exact execDivideLand_keeps h c
  case macroOpBlock k => exact execMacroOpBlock_keeps h k
  case storePerformed id part => exact execStorePerformed_keeps h id part
  case forcedPublish id => exact execForcedPublish_keeps h id
  case atomicAtHome id => exact execAtomicAtHome_keeps h id
  case fsetAtHome id => exact execFsetAtHome_keeps h id
  case fgetAtHome id => exact execFgetAtHome_keeps h id
  case poisonConsumed who => exact absurd rfl (hi who)
  case copyChunkStart id => exact execCopyChunkStart_keeps h id
  case copyChunkEnd id chunk => exact execCopyChunkEnd_keeps h id chunk
  case streamTileWrite id => exact tileStep_keeps h id false
  case drainTile id => exact tileStep_keeps h id true
  case multicastMemberWrite id pkg => exact execMulticastMemberWrite_keeps h id pkg
  case gstStage id => exact execGstStage_keeps h id
  case groupJoin id => exact execGroupJoin_keeps h id
  case groupReasonReport hd pkg reason => exact execGroupReasonReport_keeps h hd pkg reason
  case groupPublish pkg hd => exact execGroupPublish_keeps h pkg hd
  case queryAnswer src dst hd => exact execQueryAnswer_keeps h src dst hd
  case joinTimeout pkg hd => exact execJoinTimeout_keeps h pkg hd
  case writePacketArrival id => exact execWritePacketArrival_keeps h id
  case authenticationFailure w => exact execAuthenticationFailure_keeps h w
  case annulledPacket c => exact cycleOf_keeps wordExec_keeps c _ s h
  case emptyPacket c => exact cycleOf_keeps wordExec_keeps c _ s h
  case replayRestore hd => exact execReplayRestore_keeps h hd
  case nodeDecrement id => exact execNodeDecrement_keeps h id
  case nodeFire id => exact execNodeFire_keeps h id
  case launchPacketWrite pkg tenant packet whole => exact execLaunchPacketWrite_keeps h pkg tenant packet whole
  case launchTake pkg tenant l => exact execLaunchTake_keeps h pkg tenant l
  case dispatch k => exact execDispatch_keeps h k
  case taskPark task => exact execTaskPark_keeps h task
  case debugWindowWrite id => exact execDebugWindowWrite_keeps h id
  case auditReplay l => exact execAuditReplay_keeps h l
  case remapGo pkg die => exact execRemapGo_keeps h pkg die
  case hostCxlMemAccess pkg off acc => exact execHostCxlMemAccess_keeps h pkg off acc
  case powerUp bootCores => exact execPowerUp_keeps h bootCores
  case pkgidWrite pkg value => exact execPkgidWrite_keeps h pkg value
  case fwgo pkg value => exact execFwgo_keeps h pkg value
  case dieBootDone pkg die => exact execDieBootDone_keeps h pkg die
  case attgo pkg value => exact execAttgo_keeps h pkg value
  case slotPowerLoss pkg => exact execSlotPowerLoss_keeps h pkg
  case expanderTimeout w => exact execExpanderTimeout_keeps h w
  all_goals exact absurd rfl hword

theorem execPoisonConsumed_keeps (who : Consumer) {s : State} (h : s.mem.wf = true) : Keeps (execPoisonConsumed who s) := by
  have hnone : Keeps (happen false (fun s => s) s) := happen_keeps h h
  unfold execPoisonConsumed
  cases who with
  | access id =>
    dsimp only
    (repeat' split)
    · exact execAtomicAtHome_keeps h id
    · exact execFgetAtHome_keeps h id
    · exact exec_keeps_of_ne (.homeAccess id _) nofun h
    · exact exec_keeps_of_ne (.remoteAccess id) nofun h
    · exact hnone
    · exact hnone
  | matrix k =>
    dsimp only
    (repeat' split)
    · exact execMacroOpBlock_keeps h k
    · exact exec_keeps_of_ne (.matrixCommandRun k) nofun h
    · exact hnone
  | envelope k =>
    dsimp only
    split
    · exact exec_keeps_of_ne (.envelopeCommandRun k) nofun h
    · exact hnone
  | copy id =>
    dsimp only
    (repeat' split)
    · exact execCopyChunkEnd_keeps h id _
    · exact hnone
    · exact hnone
  | stream id =>
    dsimp only
    (repeat' split)
    · exact tileStep_keeps h id _
    · exact exec_keeps_of_ne (.streamError id _) nofun h
    · exact hnone
    · exact hnone
  | frame k => exact happen_keeps h (by simpa)
  | undo hd k block => exact happen_keeps h (by simpa)
  | record hd =>
    dsimp only [execRecordSpoiled]
    (repeat' split) <;> exact happen_keeps h (by simpa)

/-- Every word and every event keeps the canonical form. -/
theorem exec_keeps (i : Instr) (s : State) (h : s.mem.wf = true) : Keeps (exec i s) := by
  by_cases hwho : ∃ who, i = .poisonConsumed who
  · obtain ⟨who, rfl⟩ := hwho
    exact execPoisonConsumed_keeps who h
  · exact exec_keeps_of_ne i (fun who hi => hwho ⟨who, hi⟩) h

end Sys2Proof.Machine
end

section
/-! Every step keeps memory in its canonical form: what may wait no longer, the agenda's event, what is due, or the cycle of every core (log 4). -/

namespace Sys2Proof.Machine

open Sys2Proof Sys2Proof.Lanes

/-- A step of the device keeps the canonical form. -/
def StepKeeps (g : State → Out) : Prop := ∀ s, s.mem.wf = true → Keeps (g s)

/-- Every step of a list keeps the canonical form. -/
def MovesKeep (gs : List (State → Out)) : Prop := ∀ g ∈ gs, StepKeeps g

@[simp] theorem movesKeep_nil : MovesKeep [] := nofun

@[simp] theorem movesKeep_cons (g : State → Out) (gs : List (State → Out)) : MovesKeep (g :: gs) ↔ StepKeeps g ∧ MovesKeep gs :=
  List.forall_mem_cons

theorem MovesKeep.one {g : State → Out} (hg : StepKeeps g) : MovesKeep [g] := (movesKeep_cons _ _).mpr ⟨hg, movesKeep_nil⟩

@[simp] theorem movesKeep_append (gs hs : List (State → Out)) : MovesKeep (gs ++ hs) ↔ MovesKeep gs ∧ MovesKeep hs :=
  List.forall_mem_append

@[simp] theorem movesKeep_map {α : Type} (f : α → State → Out) (l : List α) : MovesKeep (l.map f) ↔ ∀ x ∈ l, StepKeeps (f x) :=
  List.forall_mem_map

@[simp] theorem movesKeep_flatMap {α : Type} (f : α → List (State → Out)) (l : List α) :
    MovesKeep (l.flatMap f) ↔ ∀ x ∈ l, MovesKeep (f x) :=
  List.forall_mem_flatMap

@[simp] theorem movesKeep_ite (p : Prop) [Decidable p] (gs hs : List (State → Out)) :
    MovesKeep (if p then gs else hs) ↔ (p → MovesKeep gs) ∧ (¬p → MovesKeep hs) := by
  split <;> simp [*]

theorem movesKeep_accSteps (s : State) (id : Nat) (a : Access) : MovesKeep (s.accSteps id a) := by
  simp only [State.accSteps, movesKeep_append, movesKeep_cons, movesKeep_nil, movesKeep_map, and_true]
  exact ⟨⟨⟨⟨exec_keeps (.sliceAccess id), exec_keeps (.remoteAccess id), exec_keeps (.windowNack id), exec_keeps (.writePacketArrival id),
    exec_keeps (.forcedPublish id), exec_keeps (.debugWindowWrite id), exec_keeps (.fenceAbandon _ id)⟩,
    fun j _ => exec_keeps (.homeAccess id j)⟩, fun j _ => exec_keeps (.storePerformed id j)⟩,
    exec_keeps (.atomicAtHome id), exec_keeps (.fsetAtHome id), exec_keeps (.fgetAtHome id), exec_keeps (.globalAccessLand id),
    exec_keeps (.asyncFaultRecord id), exec_keeps (.peerAccessTimeout id), exec_keeps (.expanderTimeout (.op id))⟩

theorem movesKeep_copySteps (id : Nat) (c : Copy) : MovesKeep (copySteps id c) := by
  simp only [copySteps, movesKeep_append, movesKeep_cons, movesKeep_nil, movesKeep_map, and_true]
  exact ⟨⟨⟨exec_keeps (.copySlotReserve id), exec_keeps (.copyChunkStart id)⟩, fun e _ => exec_keeps (.copyChunkEnd id (e.1 / 4096))⟩,
    exec_keeps (.copyFinish id)⟩

theorem movesKeep_streamSteps (id : Nat) (x : Stream) : MovesKeep (streamSteps id x) := by
  simp only [streamSteps, movesKeep_append, movesKeep_ite, movesKeep_cons, movesKeep_nil, and_true]
  exact ⟨⟨fun _ => ⟨exec_keeps (.drainSlotEmpty id), exec_keeps (.drainTile id)⟩, fun _ => exec_keeps (.streamTileWrite id)⟩,
    exec_keeps (.streamDetach id)⟩

theorem movesKeep_msgSteps (id : Nat) : MovesKeep (msgSteps id) := by
  simp only [msgSteps, movesKeep_cons, movesKeep_nil, and_true]
  exact ⟨exec_keeps (.messageDelivery id), exec_keeps (.messageResend id), exec_keeps (.messageTimeout id)⟩

theorem movesKeep_mcstSteps (s : State) (id : Nat) (m : Mcst) : MovesKeep (s.mcstSteps id m) := by
  simp only [State.mcstSteps, movesKeep_append, movesKeep_flatMap, movesKeep_cons, movesKeep_nil, and_true]
  exact ⟨fun p _ => ⟨exec_keeps (.multicastMemberWrite id p), exec_keeps (.multicastMemberTimeout id p)⟩, exec_keeps (.multicastReply id)⟩

theorem movesKeep_gstSteps (id : Nat) (g : Gst) : MovesKeep (gstSteps id g) := by
  simp only [gstSteps, movesKeep_append, movesKeep_ite, movesKeep_cons, movesKeep_nil, implies_true, and_true, true_and]
  refine ⟨⟨⟨exec_keeps (.gstStage id), exec_keeps (.groupJoin id)⟩, ?_⟩, fun _ => exec_keeps (.joinTimeout g.reporter g.h)⟩
  split
  · exact .one (exec_keeps (.groupReasonReport g.h g.place _))
  · exact movesKeep_nil

theorem movesKeep_groupMsgStep (m : GroupMsg) : MovesKeep (groupMsgStep m) := by
  cases m <;> simp only [groupMsgStep, movesKeep_cons, movesKeep_nil, and_true]
  case prepare h p _ => exact exec_keeps (.participantPrepare p h)
  case vote h p y r => exact exec_keeps (.groupVote h p y r)
  case publish h p => exact exec_keeps (.groupPublish p h)
  case abort h p => exact exec_keeps (.groupAbort p h)
  case confirm h p => exact exec_keeps (.groupConfirm h p)
  case query h src dst => exact exec_keeps (.queryAnswer src dst h)

theorem movesKeep_groupSteps (s : State) : MovesKeep s.groupSteps := by
  have hcoordinator (h : W64) : MovesKeep [execGroupPrepare h, execTVoteExpiry h, execTCommitExpiry h] := by
    simp only [movesKeep_cons, movesKeep_nil, and_true]
    exact ⟨exec_keeps (.groupPrepare h), exec_keeps (.tVoteExpiry h), exec_keeps (.tCommitExpiry h)⟩
  simp only [State.groupSteps, movesKeep_append, movesKeep_flatMap]
  refine ⟨⟨⟨fun m _ => movesKeep_groupMsgStep m.1, fun e _ w _ => ⟨hcoordinator w.h, ?_⟩⟩, fun e _ => hcoordinator _⟩, fun e _ => ?_⟩
  · split
    · exact .one (exec_keeps (.gsttTimeout _))
    · exact movesKeep_nil
  · simp only [movesKeep_cons, movesKeep_nil, and_true]
    exact ⟨exec_keeps (.participantQuery e.1.1 e.1.2), exec_keeps (.resolveTimeout e.1.1 e.1.2), exec_keeps (.finalStateExpiry e.1.1 e.1.2)⟩

theorem movesKeep_divideSteps (c : CtxId) (k : Ctx) : MovesKeep (divideSteps c k) := by
  simp only [divideSteps, movesKeep_ite, movesKeep_cons, movesKeep_nil, implies_true, and_true]
  exact fun _ => exec_keeps (.divideLand c)

theorem movesKeep_ctxSteps (c : CtxId) (k : Ctx) : MovesKeep (ctxSteps c k) := by
  simp only [ctxSteps, movesKeep_append, movesKeep_ite, movesKeep_cons, movesKeep_nil, implies_true, and_true]
  exact ⟨⟨⟨⟨movesKeep_divideSteps c k, fun _ => exec_keeps (.sequentialResolve c)⟩, fun _ => exec_keeps (.mwaitTimeout c)⟩,
    fun _ => exec_keeps (.wbTimeout c)⟩, fun _ => exec_keeps (.borrow k.top.handle c)⟩

theorem movesKeep_coreSteps (k : CoreId) (c : Core) : MovesKeep (coreSteps k c) := by
  simp only [coreSteps, movesKeep_append, movesKeep_ite, movesKeep_cons, movesKeep_nil, movesKeep_map, movesKeep_flatMap,
    implies_true, and_true, true_and]
  refine ⟨⟨⟨⟨⟨⟨fun _ => ⟨exec_keeps (.matrixCommandRun k), exec_keeps (.macroOpBlock k)⟩, fun _ => exec_keeps (.envelopeCommandRun k)⟩,
    fun r _ => ⟨exec_keeps (.ringReservationServed k r), exec_keeps (.ringTakeServed k r)⟩⟩, fun _ => exec_keeps (.spillReplay k)⟩,
    fun _ => ⟨fun g _ => exec_keeps (.preemptAck k g), exec_keeps (.frameSwap k)⟩⟩, ?_⟩, fun e _ => movesKeep_ctxSteps ⟨k, e.1⟩ e.2⟩
  split
  · exact .one (exec_keeps (.footprintFillDone k))
  · exact movesKeep_nil

theorem movesKeep_fetchSteps (s : State) (k : CoreId) : MovesKeep (s.fetchSteps k) := by
  unfold State.fetchSteps
  split
  · exact movesKeep_nil
  · split
    · exact movesKeep_nil
    · simp only [movesKeep_flatMap, movesKeep_ite, movesKeep_append, movesKeep_cons, movesKeep_nil, implies_true, and_true, true_and]
      refine fun x _ _ => ⟨fun g hg => ?_, exec_keeps (.frameBackgroundWrite x.1 x.2.1)⟩
      obtain ⟨y, -, hy⟩ := Option.map_eq_some_iff.mp (Option.mem_toList.mp hg)
      exact hy ▸ exec_keeps (.frameBackgroundWrite y.1 x.2.1)

theorem stepKeeps_launchTake (p tenant : Nat) (l : CluId) : StepKeeps (execLaunchTake p tenant l) := exec_keeps (.launchTake p tenant l)

theorem movesKeep_taskSteps (s : State) : MovesKeep s.taskSteps := by
  simp only [State.taskSteps, movesKeep_append, movesKeep_ite, movesKeep_cons, movesKeep_nil, movesKeep_map, movesKeep_flatMap,
    implies_true, and_true, true_and]
  refine ⟨⟨⟨⟨⟨⟨⟨⟨fun r _ => exec_keeps (.hubSpokeReturn r.h r.share r.closing), fun e _ => exec_keeps (.claimAtHub e.1)⟩,
    fun e _ => ⟨exec_keeps (.hubBrake _), exec_keeps (.replayContain _), exec_keeps (.replayRestore _)⟩⟩,
    fun e _ => exec_keeps (.nodeDecrement e.1)⟩, fun e _ => exec_keeps (.nodeFire e.1)⟩,
    fun _ => ⟨⟨fun e _ => ⟨exec_keeps (.priorityAging e.1), exec_keeps (.preemptTrigger e.1)⟩, fun e _ k _ => exec_keeps (.dispatch k)⟩,
      fun _ e _ k _ => movesKeep_fetchSteps s k⟩⟩,
    fun e _ => exec_keeps (.taskPark e.1)⟩, fun e _ => ?_⟩, fun e _ x _ => ?_⟩
  split
  · simp only [movesKeep_flatMap]
    exact fun x _ => movesKeep_divideSteps _ x.2
  · exact movesKeep_nil
  · exact fun _ n _ => stepKeeps_launchTake _ _ _

theorem movesKeep_unitSteps (s : State) : MovesKeep s.unitSteps := by
  simp only [State.unitSteps, movesKeep_append, movesKeep_ite, movesKeep_cons, movesKeep_nil, movesKeep_map, movesKeep_flatMap,
    implies_true, and_true]
  exact ⟨⟨⟨fun n _ => exec_keeps (.pgokRewalk n), fun e _ => ⟨fun w _ => exec_keeps (.translationWalk e.1 w.slot),
    fun _ => exec_keeps (.trustShiftUpdate e.1)⟩⟩, fun e _ => exec_keeps (.faultEventDeliver e.1)⟩,
    fun e _ k _ r _ => ⟨fun x _ => exec_keeps (.killFlood e.1 x), exec_keeps (.killSweepExpiry e.1 r.1)⟩⟩

theorem movesKeep_stashSteps (s : State) : MovesKeep s.stashSteps := by
  simp only [State.stashSteps, movesKeep_flatMap]
  intro e _ x _
  split
  · intro g hg
    obtain ⟨y, -, hy⟩ := List.mem_filterMap.mp hg
    obtain ⟨-, ⟨⟩⟩ := Option.ite_none_right_eq_some.mp hy
    exact exec_keeps (.stashRecall e.1 x.2 y.2.line true)
  · exact movesKeep_nil

theorem movesKeep_silenceSteps (s : State) : MovesKeep s.silenceSteps := by
  simp only [State.silenceSteps, movesKeep_ite, movesKeep_nil, movesKeep_flatMap, movesKeep_map, implies_true, true_and]
  exact fun _ p _ q _ n _ => exec_keeps (.peerSilenceTimeout p.1 q n)

theorem movesKeep_pkgSteps (p : Nat) (k : Pkg) : MovesKeep (Pkg.steps p k) := by
  simp only [Pkg.steps, movesKeep_append, movesKeep_ite, movesKeep_cons, movesKeep_nil, movesKeep_map, movesKeep_flatMap, implies_true, and_true]
  exact ⟨⟨⟨⟨⟨fun _ d _ => exec_keeps (.firmwareFetchDone p d false),
    fun _ d _ => ⟨⟨fun f _ => exec_keeps (.discoveryPacket p d.1 f.site f.port), fun m _ => exec_keeps (.discoveryReport p d.1 m.1 true)⟩,
      exec_keeps (.discoveryTimeout p d.1), exec_keeps (.roleAssignment p d.1)⟩⟩,
    fun _ d _ => ⟨fun m _ => exec_keeps (.imageMulticastAck p d.1 m.1), exec_keeps (.dieBootDone p d.1)⟩⟩,
    fun _ => exec_keeps (.attestDone p)⟩, fun q _ => exec_keeps (.routerCycle p _ _)⟩, fun e _ => exec_keeps (.groupTableWrite p 1 e)⟩

theorem movesKeep_mayMove (s : State) : MovesKeep s.mayMove := by
  simp only [State.mayMove, movesKeep_append, movesKeep_map, movesKeep_flatMap]
  exact ⟨⟨⟨⟨⟨⟨⟨⟨⟨⟨⟨⟨⟨⟨fun e _ => movesKeep_accSteps s e.1 e.2, fun e _ => movesKeep_copySteps e.1 e.2⟩,
    fun e _ => ⟨movesKeep_streamSteps e.1 e.2, fun c _ => exec_keeps (.streamError e.1 c)⟩⟩, fun e _ => movesKeep_msgSteps e.1⟩,
    fun e _ => movesKeep_mcstSteps s e.1 e.2⟩, fun e _ => movesKeep_gstSteps e.1 e.2⟩, movesKeep_groupSteps s⟩,
    fun e _ => movesKeep_coreSteps e.1 e.2⟩, movesKeep_taskSteps s⟩, movesKeep_unitSteps s⟩, movesKeep_stashSteps s⟩,
    movesKeep_silenceSteps s⟩, fun e _ => exec_keeps (.auditReplay e.1)⟩, fun e _ => exec_keeps (.reencodeDone e.1)⟩,
    fun e _ => movesKeep_pkgSteps e.1 e.2⟩

theorem movesKeep_arrivalSteps (id : Nat) (a : Access) : MovesKeep (arrivalSteps id a) := by
  simp only [arrivalSteps, movesKeep_append, movesKeep_cons, movesKeep_nil, movesKeep_map, and_true]
  exact ⟨⟨⟨⟨exec_keeps (.remoteAccess id), exec_keeps (.writePacketArrival id), exec_keeps (.forcedPublish id)⟩,
    fun j _ => exec_keeps (.homeAccess id j)⟩, fun j _ => exec_keeps (.storePerformed id j)⟩,
    exec_keeps (.atomicAtHome id), exec_keeps (.fsetAtHome id), exec_keeps (.fgetAtHome id), exec_keeps (.debugWindowWrite id)⟩

theorem movesKeep_sentThings (s : State) : ∀ m ∈ s.sentThings, MovesKeep m.2 := by
  simp only [State.sentThings, List.forall_mem_append, List.forall_mem_map, List.forall_mem_flatMap]
  refine ⟨⟨⟨⟨⟨⟨⟨fun m _ => ?messages, fun e _ => ?staged⟩, fun e _ => ?requests⟩, ?accesses⟩, ?copies⟩, ?sends⟩, ?multicasts⟩, ?nodes⟩
  case messages =>
    simp only [movesKeep_append, movesKeep_ite, movesKeep_cons, movesKeep_nil, implies_true, and_true, true_and]
    exact ⟨movesKeep_groupMsgStep m.1, fun _ => exec_keeps (.failureNotice m.1.ends.1 m.1.ends.2)⟩
  case staged =>
    split
    · simp only [movesKeep_ite, movesKeep_cons, movesKeep_nil, implies_true, and_true]
      exact fun _ => exec_keeps (.gstStage e.1)
    · exact .one (exec_keeps (.groupJoin e.1))
    · exact .one (exec_keeps (.groupReasonReport e.2.h e.2.place _))
  case requests =>
    intro m hm
    obtain ⟨w, -, hw⟩ := List.mem_filterMap.mp hm
    obtain ⟨-, ⟨⟩⟩ := Option.ite_none_left_eq_some.mp hw
    exact .one (exec_keeps (.groupPrepare w.h))
  case accesses =>
    intro m hm
    obtain ⟨e, -, he⟩ := List.mem_filterMap.mp hm
    obtain ⟨-, ⟨⟩⟩ := Option.ite_none_right_eq_some.mp he
    exact movesKeep_arrivalSteps e.1 e.2
  case copies =>
    intro m hm
    obtain ⟨e, -, he⟩ := List.mem_filterMap.mp hm
    obtain ⟨-, ⟨⟩⟩ := Option.ite_none_left_eq_some.mp he
    exact (movesKeep_map _ _).mpr (fun x _ => exec_keeps (.copyChunkEnd e.1 (x.1 / 4096)))
  case sends =>
    intro m hm
    obtain ⟨e, -, he⟩ := List.mem_filterMap.mp hm
    obtain ⟨-, ⟨⟩⟩ := Option.ite_none_left_eq_some.mp he
    exact .one (exec_keeps (.messageDelivery e.1))
  case multicasts =>
    intro m hm
    obtain ⟨e, -, he⟩ := List.mem_filterMap.mp hm
    obtain ⟨-, ⟨⟩⟩ := Option.ite_none_right_eq_some.mp he
    simp only [movesKeep_map]
    exact fun p _ => exec_keeps (.multicastMemberWrite e.1 p)
  case nodes =>
    intro m hm
    obtain ⟨e, -, he⟩ := List.mem_filterMap.mp hm
    obtain ⟨-, ⟨⟩⟩ := Option.ite_none_right_eq_some.mp he
    exact .one (exec_keeps (.nodeDecrement e.1))

theorem moveOf_keeps {s : State} {g : State → Out} {o : Out} (hg : StepKeeps g) (h : s.mem.wf = true) (ho : moveOf s g = some o) : Keeps o := by
  have hstep : Keeps (g { s with pk := Pk.fresh }) := hg _ h
  unfold moveOf at ho
  split at ho
  · rename_i t ht
    split at ho
    · cases ho
    · cases ho
      exact Keeps.next (hstep t ht)
  · cases ho
    exact hstep

theorem findMove_keeps {s : State} {gs : List (State → Out)} {o : Out} (hgs : MovesKeep gs) (h : s.mem.wf = true)
    (ho : gs.findSome? (moveOf s) = some o) : Keeps o := by
  obtain ⟨g, hg, hmove⟩ := List.exists_of_findSome?_eq_some ho
  exact moveOf_keeps (hgs g hg) h hmove

theorem overdue_keeps {s : State} {o : Out} (h : s.mem.wf = true) (ho : s.overdue = some o) : Keeps o := by
  obtain ⟨m, hm, hmove⟩ := List.exists_of_findSome?_eq_some ho
  split at hmove
  · exact findMove_keeps (movesKeep_sentThings s m hm) h hmove
  · cases hmove

theorem proceed_keeps {s : State} (h : s.mem.wf = true) : Keeps (s.proceed exec) := by
  unfold State.proceed
  split
  · exact findMove_keeps (movesKeep_mayMove s) h ‹_›
  · exact andNext_keeps (allCores_keeps exec_keeps _ s h) (fun t ht => Keeps.next (by simpa))

theorem step_keeps {s : State} (h : s.mem.wf = true) : Keeps (step s) := by
  unfold step State.advance
  split
  · exact overdue_keeps h ‹_›
  · exact doMove_keeps exec_keeps _ _ h
  · exact proceed_keeps h

/-- Settles O60: memory is written only a line at a time, and as a package is renamed or goes dark, and
each of these keeps the canonical form; the rest of a step writes no byte. -/
theorem stepKeepsMemoryCanonical : Obligations.StepKeepsMemoryCanonical := fun _ t h ht => step_keeps h t ht

end Sys2Proof.Machine
end

section
/-! `fence`, `bar`, `mon` and `mwait`, and the events of their waits (13 R310-R315). -/

namespace Sys2Proof.Machine

open Sys2Proof Sys2Proof.Lanes

/-! ### How a ready word ends, with what waiting changes (02 R26-R28) -/

/-- A ready word whose entry names a freeze takes it before its gate is asked (02 R28 step 2). -/
theorem run_freezes {i : Instr} {f : Fields} {s : State} (e : Entry) (fi : FaultInfo) (h : ready i f s = true)
    (hf : e.frozen s = some fi) (halso : e.also s = []) (hx : exec i s = run i f e s) : Faults i s 2 fi := by
  have hj : judge i f e s = .fault 2 fi := by
    simp only [ready, Bool.and_eq_true] at h
    obtain ⟨⟨⟨⟨hr, hc⟩, hs⟩, hg⟩, -⟩ := h
    have hrank : rankChecks i f s = none := by simpa [rankOk] using hr
    have hclean : (Dest.p f.guard.p :: sources i.shape f).any s.me.poisoned = false := by
      simpa only [cleanSources, Bool.not_eq_true'] using hc
    obtain ⟨hguard, hsources⟩ := List.any_false_of_cons hclean
    simp only [settled, Bool.and_eq_true, Bool.not_eq_true'] at hs
    simp only [judge, hrank, hguard, hs.1, hg, halso, List.append_nil, hsources, hf]
    simp
  unfold Faults
  rw [hx]
  cases hph : s.pk.phase with
  | alone => exact ⟨_, run_fault i f e s 2 fi hph hj, fun _ => rfl, fun _ => rfl⟩
  | check => exact ⟨s.say (.fault 2 fi), by simp [run, hph, hj], fun _ => rfl, nofun⟩
  | effect => exact ⟨_, run_effect i f e s hph, fun h => absurd rfl h, nofun⟩

/-- A ready word whose gate holds has the effect of its waiting. -/
theorem run_waits {i : Instr} {f : Fields} {s : State} {P : State → Prop} (e : Entry) (h : ready i f s = true) (hg : e.gate s = .hold)
    (hf : e.frozen s = none) (halso : e.also s = []) (hx : exec i s = run i f e s) (hP : P ((e.wait s).say .hold)) :
    ∃ t, exec i s = .next t ∧ (s.pk.phase ≠ .effect → t.pk.verdict = .hold ∧ P t) := by
  have hj : judge i f e s = .hold := (judge_ready e h hf (by rw [halso]; rfl) (by rw [halso]; rfl)).trans hg
  rw [hx]
  cases hph : s.pk.phase with
  | alone => exact ⟨(e.wait s).say .hold, by simp [run, hph, hj], fun _ => ⟨rfl, hP⟩⟩
  | check => exact ⟨(e.wait s).say .hold, by simp [run, hph, hj], fun _ => ⟨rfl, hP⟩⟩
  | effect => exact ⟨_, run_effect i f e s hph, fun h => absurd rfl h⟩

theorem Trails.trans {s t u : State} (h : Trails s t) (k : Trails t u) : Trails s u := ⟨h.1.next k.1, k.2.trans h.2⟩

/-- A ready word whose gate is open completes with what holds of its effect whatever links it read. -/
theorem run_completes_trailing {i : Instr} {f : Fields} {s : State} {P : State → Prop} (e : Entry) (h : ready i f s = true)
    (hg : e.gate s = .ok) (hf : e.frozen s = none) (halso : e.also s = []) (hx : exec i s = run i f e s)
    (hP : ∀ u, Trails (e.act s) u → P u) : Completes i s P :=
  have hpop := trails_popLinks i.shape f (e.act s)
  run_completes e P h hg hf (by rw [halso]; rfl) (by rw [halso]; rfl) hx (hP _ hpop) (hP _ (hpop.trans (trails_say _ .ok)))

theorem Trails.onlyMyCore {s t u : State} (k : Trails t u) (h : OnlyMyCore s t) : OnlyMyCore s u := h.trans k.1.1

theorem Trails.samePart {t u : State} (k : Trails t u) : SamePart t.myTc u.myTc := k.1.2

/-! ### Fences (13 R310, 20 R420) -/

theorem endHold_me (s : State) : s.endHold.me = { s.me with hold := none } := State.setMe_me ..

theorem endHold_onlyMyCore (s : State) : OnlyMyCore s s.endHold := onlyMyCore_setMe s _

theorem endHold_samePart (s : State) : SamePart s.myTc s.endHold.myTc := by
  rw [State.endHold, State.setMe_myTc]
  rfl

theorem beginHold_isSome (s : State) (kind : HoldKind) (ids : List Nat) : (s.beginHold kind ids).me.hold.isSome = true := by
  rw [State.beginHold, State.setMe_me]
  split
  · assumption
  · rfl

theorem fenceDone_iff (s : State) (rel acq eng : Bool) (reach : Nat) :
    s.fenceDone rel acq eng reach = true
      ↔ (rel = true → s.writesDone reach = true) ∧ (acq = true → s.loadsDone = true) ∧ (eng = true → s.enginesDone = true) := by
  cases rel <;> cases acq <;> cases eng <;> simp [State.fenceDone, and_assoc]

theorem fenceFreeze_none {s : State} (h : s.me.afr = none) : s.fenceFreeze = none := by simp [State.fenceFreeze, Ctx.afrFault, h]

/-- The freeze of a `fence` while nothing stands in the asynchronous record. -/
theorem fence_frozen {f : Fields} {s : State} (hafr : s.me.afr = none) (heng : f.mod.toNat.testBit 2 = true → s.engineFreeze = none) :
    (s.fenceFreeze.orElse fun _ => if fenceEng f then s.engineFreeze else none) = none := by
  rw [fenceFreeze_none hafr]
  change (if fenceEng f then s.engineFreeze else none) = none
  split
  · exact heng ‹_›
  · rfl

section
variable {f : Fields} {s : State}

theorem fence_freezes {r : Afr} (h : ready (.fence f) f s = true) (hr : s.me.afr = some r) :
    Faults (.fence f) s 2 ⟨r.cause, 9, r.ea⟩ := by
  refine run_freezes _ _ h ?_ rfl rfl
  simp [State.fenceFreeze, Ctx.afrFault, hr]

theorem fence_completes (h : ready (.fence f) f s = true) (hafr : s.me.afr = none)
    (heng : f.mod.toNat.testBit 2 = true → s.engineFreeze = none)
    (hdone : s.fenceDone (fenceRel f) (fenceAcq f) (fenceEng f) f.reachCode = true) :
    Completes (.fence f) s (fun t => OnlyMyCore s t ∧ SamePart s.myTc t.myTc ∧ t.me = { s.me with hold := none }) := by
  refine run_completes_trailing _ h (if_pos hdone) (fence_frozen hafr heng) rfl rfl (fun u hu => ⟨hu.onlyMyCore (endHold_onlyMyCore s), ?_, ?_⟩)
  · exact (endHold_samePart s).trans hu.samePart
  · exact hu.2.trans (endHold_me s)

theorem fence_holds (h : ready (.fence f) f s = true) (hafr : s.me.afr = none)
    (heng : f.mod.toNat.testBit 2 = true → s.engineFreeze = none)
    (hdone : ¬s.fenceDone (fenceRel f) (fenceAcq f) (fenceEng f) f.reachCode = true) :
    ∃ t, exec (.fence f) s = .next t ∧ (s.pk.phase ≠ .effect → t.pk.verdict = .hold ∧ t.me.hold.isSome = true) :=
  run_waits (P := fun t => t.me.hold.isSome = true) _ h (if_neg hdone) (fence_frozen hafr heng) rfl rfl (beginHold_isSome s _ _)

end

/-! ### Barriers (13 R313) -/

section
variable {f : Fields} {s : State}

theorem bar_fenced_iff : s.fenceDone true true false (s.barReach f) = true ↔ s.writesDone (s.barReach f) = true ∧ s.loadsDone = true := by
  simp [fenceDone_iff]

/-- Outside a gang a `bar` is a fence of both kinds. -/
theorem bar_alone_completes (h : ready (.bar f) f s = true) (hafr : s.me.afr = none) (hgang : s.myGang = none)
    (hdone : s.fenceDone true true false (s.barReach f) = true) :
    Completes (.bar f) s (fun t => OnlyMyCore s t ∧ t.me = { s.me with hold := none }) := by
  refine run_completes_trailing _ h ?_ (fenceFreeze_none hafr) rfl rfl (fun u hu => ?_)
  · simp [hdone, hgang]
  · simp only [hgang] at hu
    exact ⟨hu.onlyMyCore (endHold_onlyMyCore s), hu.2.trans (endHold_me s)⟩

theorem bar_fence_holds (h : ready (.bar f) f s = true) (hafr : s.me.afr = none) (hhere : s.me.barHere = false)
    (hdone : s.fenceDone true true false (s.barReach f) = false) :
    ∃ t, exec (.bar f) s = .next t ∧ (s.pk.phase ≠ .effect → t.pk.verdict = .hold ∧ t.me.hold.isSome = true) := by
  refine run_waits (P := fun t => t.me.hold.isSome = true) _ h ?_ (fenceFreeze_none hafr) rfl rfl ?_
  · simp [hdone, hhere]
  · simpa [hdone, hhere] using beginHold_isSome s .fence []

/-- In a gang the issuer marks its arrival when its fence is done. -/
theorem bar_arrives (h : ready (.bar f) f s = true) (hafr : s.me.afr = none) (hgang : s.myGang.isSome = true) (hhere : s.me.barHere = false)
    (hdone : s.fenceDone true true false (s.barReach f) = true) :
    ∃ t, exec (.bar f) s = .next t ∧ (s.pk.phase ≠ .effect → t.pk.verdict = .hold ∧ t.me.barHere = true) := by
  obtain ⟨g, hg⟩ := Option.isSome_iff_exists.mp hgang
  refine run_waits (P := fun t => t.me.barHere = true) _ h ?_ (fenceFreeze_none hafr) rfl rfl ?_
  · simp [hdone, hhere, hg]
  · simp only [hhere, hdone, Bool.false_eq_true, if_false, if_true]
    exact congrArg Ctx.barHere (State.setMe_me s.endHold _)

theorem bar_gang_completes (h : ready (.bar f) f s = true) (hafr : s.me.afr = none) (hgang : s.myGang.isSome = true)
    (hhere : s.me.barHere = true) (hgo : (s.allArrived || s.braked) = true) :
    Completes (.bar f) s (fun t => OnlyMyCore s t ∧ t.me = { s.me with hold := none, barCount := s.me.barCount + 1, barHere := false }) := by
  obtain ⟨g, hg⟩ := Option.isSome_iff_exists.mp hgang
  refine run_completes_trailing _ h ?_ (fenceFreeze_none hafr) rfl rfl (fun u hu => ?_)
  · simp [hhere, hg, hgo]
  · simp only [hg] at hu
    refine ⟨hu.onlyMyCore ((endHold_onlyMyCore s).trans (onlyMyCore_setMe s.endHold _)), hu.2.trans ?_⟩
    rw [State.setMe_me, endHold_me]

theorem bar_gang_holds (h : ready (.bar f) f s = true) (hafr : s.me.afr = none) (hgang : s.myGang.isSome = true)
    (hhere : s.me.barHere = true) (hgo : (s.allArrived || s.braked) = false) :
    ∃ t, exec (.bar f) s = .next t ∧ (s.pk.phase ≠ .effect → t.pk.verdict = .hold ∧ t.me = s.me) := by
  obtain ⟨g, hg⟩ := Option.isSome_iff_exists.mp hgang
  refine run_waits (P := fun t => t.me = s.me) _ h ?_ (fenceFreeze_none hafr) rfl rfl ?_
  · simp [hhere, hg, hgo]
  · simp only [hhere, if_true]
    rfl

end

/-! ### Monitors (13 R314, R315) -/

/-- The monitor of a context is gone, and nothing but it, of its core and of the monitors, has changed. -/
theorem disarm_eq (s : State) (c : CtxId) : ∃ cs ms, s.disarm c = { s with cores := cs, monitors := ms } := by
  unfold State.disarm
  split
  · exact ⟨_, _, rfl⟩
  · exact ⟨_, _, rfl⟩

theorem disarm_ctx (s : State) (c : CtxId) : (s.disarm c).ctx c = { s.ctx c with monitor := none } := by
  unfold State.disarm
  split
  · rw [State.setCtx_ctx]
    rfl
  · rename_i hnone
    rw [← hnone]

theorem disarm_cur (s : State) (c : CtxId) : (s.disarm c).cur = s.cur := by
  obtain ⟨cs, ms, h⟩ := disarm_eq s c
  rw [h]

theorem disarm_me (s : State) : (s.disarm s.cur).me = { s.me with monitor := none } := by
  rw [State.me, disarm_cur, disarm_ctx]
  rfl

theorem disarm_links (s : State) : (s.disarm s.cur).myTc.links = s.myTc.links := by
  unfold State.disarm
  split
  · rename_i n _
    exact (congrArg TaskCore.links (State.setMe_myTc { s with monitors := s.monitors.del n } _)).trans rfl
  · rfl

/-- Operands and addresses do not depend on the monitor. -/
theorem disarm_ea (s : State) (f : Fields) : (s.disarm s.cur).ea f = s.ea f := by
  have hme := disarm_me s
  have hlinks := disarm_links s
  unfold State.ea State.gval
  cases f.a <;> simp [State.linkHead, hme, hlinks, Ctx.getG]

/-- The armed monitor has been hit or is gone (13 R315). -/
theorem monitorHit_iff (s : State) :
    s.monitorHit s.cur = true ↔ s.me.monitor = none ∨ ∃ n, s.me.monitor = some n ∧ ((s.monitors.find n).map (·.hit)).getD true = true := by
  change (match s.me.monitor with
    | some n => ((s.monitors.find n).map (·.hit)).getD true
    | none => true) = true ↔ _
  cases s.me.monitor <;> simp

section
variable {f : Fields} {s : State}

theorem mwait_completes (h : ready (.mwait f) f s = true) (hgo : (s.monitorHit s.cur || s.braked) = true) :
    Completes (.mwait f) s (fun t => t.me = { s.me with hold := none, monitor := none } ∧ t.mem = s.mem) := by
  refine run_completes_trailing _ h (if_pos hgo) rfl rfl rfl (fun u hu => ⟨hu.2.trans ?_, ?_⟩)
  · exact (disarm_me s.endHold).trans (by rw [endHold_me])
  · rw [hu.1.1.1]
    exact State.disarm_mem s.endHold s.cur

theorem mwait_holds (h : ready (.mwait f) f s = true) (hgo : (s.monitorHit s.cur || s.braked) = false) :
    ∃ t, exec (.mwait f) s = .next t ∧ (s.pk.phase ≠ .effect → t.pk.verdict = .hold ∧ t.me.hold.isSome = true
      ∧ t.me.monitor = s.me.monitor) := by
  refine run_waits (P := fun t => t.me.hold.isSome = true ∧ t.me.monitor = s.me.monitor) _ h (if_neg (by rw [hgo]; decide)) rfl rfl rfl
    ⟨beginHold_isSome s .mwait [], ?_⟩
  refine (congrArg Ctx.monitor (State.setMe_me s _)).trans ?_
  split <;> rfl

end

/-! ### What a lookup of a page finds (20 R425) -/

/-- What `findPage` answers, without what it begins. -/
def State.found (s : State) (l : CluId) (va : Nat) (dom : BitVec 16) : Found :=
  if noSpace va then .none
  else match (s.slice l).tlbFind va with
    | some t => if mayMap dom (t.at va) then .page t else .none
    | none =>
      if s.unservedWalk l va dom then .none
      else if (s.slice l).walks.any (fun w => w.page == va / 65536) then .wait
      else if (s.slice l).freeWalk.isNone || !s.walkReady l va then .wait
      else match s.walk l.pkg va with
        | .leaf t => if mayMap dom (t.at va) then .page t else .none
        | .missing _ => if (s.served l.pkg va (tenantOf dom)).isNone then .none else .wait

theorem findPage_found (s : State) (l : CluId) (va kind : Nat) (dom : BitVec 16) : (s.findPage l va kind dom).1 = s.found l va dom := by
  unfold State.findPage State.found
  (repeat' split) <;> simp_all
  split <;> rfl

/-- A lookup that does not wait changes at most the slices' caches. -/
theorem findPage_state (s : State) (l : CluId) (va kind : Nat) (dom : BitVec 16) (hwait : (s.findPage l va kind dom).1 ≠ .wait) :
    ∃ x, (s.findPage l va kind dom).2 = { s with slices := x } := by
  revert hwait
  unfold State.findPage
  split
  · exact fun _ => ⟨_, rfl⟩
  · split
    · exact fun _ => ⟨_, rfl⟩
    · split
      · exact fun _ => ⟨_, rfl⟩
      · split
        · exact fun hwait => absurd rfl hwait
        · split
          · exact fun hwait => absurd rfl hwait
          · split
            · exact fun _ => ⟨_, rfl⟩
            · split
              · exact fun _ => ⟨_, rfl⟩
              · dsimp only
                split <;> exact fun hwait => absurd rfl hwait

theorem walkFrom_cores (s : State) (cs : List (CoreId × Core)) (ms) (pkg va n table : Nat) :
    ({ s with cores := cs, monitors := ms } : State).walkFrom pkg va n table = s.walkFrom pkg va n table := by
  induction n generalizing table with
  | zero => rfl
  | succ n ih => simp only [State.walkFrom, ih]

theorem walkLines_cores (s : State) (cs : List (CoreId × Core)) (ms) (pkg va n table : Nat) :
    ({ s with cores := cs, monitors := ms } : State).walkLines pkg va n table = s.walkLines pkg va n table := by
  induction n generalizing table with
  | zero => rfl
  | succ n ih => simp only [State.walkLines, ih]

/-- What a lookup finds does not depend on the cores nor on the monitors. -/
theorem found_cores (s : State) (cs : List (CoreId × Core)) (ms) (l : CluId) (va : Nat) (dom : BitVec 16) :
    ({ s with cores := cs, monitors := ms } : State).found l va dom = s.found l va dom := by
  have hwalk : ({ s with cores := cs, monitors := ms } : State).walk l.pkg va = s.walk l.pkg va := walkFrom_cores ..
  have hready : ({ s with cores := cs, monitors := ms } : State).walkReady l va = s.walkReady l va :=
    congrArg (fun ls => ls.all (s.tableReady l)) (walkLines_cores ..)
  unfold State.found
  rw [hwalk, hready]
  rfl

/-- Disarming changes nothing that a lookup of a page finds. -/
theorem found_disarm (s : State) (c : CtxId) (l : CluId) (va : Nat) (dom : BitVec 16) : (s.disarm c).found l va dom = s.found l va dom := by
  obtain ⟨cs, ms, h⟩ := disarm_eq s c
  rw [h]
  exact found_cores s cs ms l va dom

/-- The lookup of `mon` after the old monitor is gone. -/
theorem findPage_disarm {f : Fields} {s : State} {r : Found} (hr : (s.findPage (s.clu s.cur.core) (s.ea f).toNat 0 s.me.domain).1 = r)
    (hwait : r ≠ .wait) :
    ∃ x, (s.disarm s.cur).findPage ((s.disarm s.cur).clu (s.disarm s.cur).cur.core) ((s.disarm s.cur).ea f).toNat 0
      (s.disarm s.cur).me.domain = (r, { s.disarm s.cur with slices := x }) := by
  have hclu : (s.disarm s.cur).clu (s.disarm s.cur).cur.core = s.clu s.cur.core := by
    obtain ⟨cs, ms, h⟩ := disarm_eq s s.cur
    rw [h]
    rfl
  have hfst : ((s.disarm s.cur).findPage (s.clu s.cur.core) (s.ea f).toNat 0 s.me.domain).1 = r := by
    rw [findPage_found, found_disarm, ← findPage_found (kind := 0), hr]
  have hdomain : (s.disarm s.cur).me.domain = s.me.domain := by rw [disarm_me]
  rw [hclu, disarm_ea, hdomain]
  obtain ⟨x, hx⟩ := findPage_state _ _ _ _ _ (hfst ▸ hwait)
  exact ⟨x, Prod.ext hfst hx⟩

section
variable {f : Fields} {s : State}

/-- The gate of a `mon` whose checks pass is what the lookup of its page makes it. -/
theorem mon_gate (hacq : s.acquiring = false) (hclass : bitsOf (s.ea f) 63 60 ≤ 7)
    (hplb : s.plb s.cur.core s.me.domain ((s.ea f).toNat / 64 * 64) 64 rightR = .granted) (v : Verdict) :
    (s.accessStall.andThen ((need (decide (bitsOf (s.ea f) 63 60 ≤ 7)) 5 cProtection (s.ea f)).andThen
      ((s.plbOk ((s.ea f).toNat / 64 * 64) 64 rightR (s.ea f)).andThen v))) = v := by
  simp [State.accessStall, hacq, need, hclass, State.plbOk, hplb]

theorem mon_arms {te : TlbEntry} (h : ready (.mon f) f s = true) (hacq : s.acquiring = false) (hclass : bitsOf (s.ea f) 63 60 ≤ 7)
    (hplb : s.plb s.cur.core s.me.domain ((s.ea f).toNat / 64 * 64) 64 rightR = .granted)
    (hpage : (s.findPage (s.clu s.cur.core) (s.ea f).toNat 0 s.me.domain).1 = .page te) :
    Completes (.mon f) s (fun t => ∃ n, t.me.monitor = some n
      ∧ t.monitors.find n = some ⟨(te.pa + (s.ea f).toNat % 65536) / 64, false⟩ ∧ t.mem = s.mem) := by
  refine run_completes_trailing _ h ((mon_gate hacq hclass hplb _).trans (by rw [hpage])) rfl rfl rfl (fun u hu => ?_)
  obtain ⟨x, hx⟩ := findPage_disarm hpage nofun
  dsimp only at hu
  rw [hx] at hu
  have hea : ({ s.disarm s.cur with slices := x } : State).ea f = s.ea f := disarm_ea s f
  refine ⟨(s.disarm s.cur).nextId, ?_, ?_, ?_⟩
  · rw [hu.2, State.setMe_me]
  · rw [hu.1.1.1]
    refine (Map.find_set_same (s.disarm s.cur).monitors _ _).trans ?_
    rw [hea]
    rfl
  · rw [hu.1.1.1]
    exact State.disarm_mem s s.cur

theorem mon_finds_none (h : ready (.mon f) f s = true) (hacq : s.acquiring = false) (hclass : bitsOf (s.ea f) 63 60 ≤ 7)
    (hplb : s.plb s.cur.core s.me.domain ((s.ea f).toNat / 64 * 64) 64 rightR = .granted)
    (hpage : (s.findPage (s.clu s.cur.core) (s.ea f).toNat 0 s.me.domain).1 = .none) :
    Completes (.mon f) s (fun t => t.me.monitor = none ∧ t.mem = s.mem) := by
  refine run_completes_trailing _ h ((mon_gate hacq hclass hplb _).trans (by rw [hpage])) rfl rfl rfl (fun u hu => ?_)
  obtain ⟨x, hx⟩ := findPage_disarm hpage nofun
  dsimp only at hu
  rw [hx] at hu
  refine ⟨?_, ?_⟩
  · exact (congrArg Ctx.monitor hu.2).trans (congrArg Ctx.monitor (disarm_me s))
  · rw [hu.1.1.1]
    exact State.disarm_mem s s.cur

theorem mon_refuses (h : ready (.mon f) f s = true) (hacq : s.acquiring = false) (hclass : 7 < bitsOf (s.ea f) 63 60) :
    Faults (.mon f) s 5 ⟨cProtection, 0, s.ea f⟩ := by
  refine run_faults _ 5 _ h ?_ rfl rfl rfl rfl
  simp only [State.accessStall, hacq, need, decide_eq_false (Nat.not_le.mpr hclass), Bool.false_eq_true, if_false, Verdict.ok_andThen]
  rfl

end

/-! ### The end of a wait, and a store that is given up (13 R311, R312, R315) -/

theorem mwaitTimeout_completes {s : State} {c : CtxId} {h : Hold} (hhold : (s.ctx c).hold = some h) (hkind : h.kind = .mwait)
    (hdue : h.since + 2 ^ 20 ≤ s.now) : Completes (.mwaitTimeout c) s (fun t => t.ctx c = { s.ctx c with monitor := none }) := by
  refine happen_completes (fun s => s.disarm c) _ ?_ (disarm_ctx s c)
  change execMwaitTimeout c s = _
  simp only [execMwaitTimeout, hhold, hkind, decide_eq_true hdue]
  rfl

theorem monitorLost_completes {s : State} {c : CtxId} (harmed : (s.ctx c).monitor.isSome = true) :
    Completes (.monitorLost c) s (fun t => t.ctx c = { s.ctx c with monitor := none }) := by
  refine happen_completes (fun s => s.disarm c) _ ?_ (disarm_ctx s c)
  change execMonitorLost c s = _
  rw [execMonitorLost, harmed]

theorem find_adjust_same {κ ν : Type} [DecidableEq κ] (m : Map κ ν) (k : κ) (g : ν → ν) :
    Map.find (Map.adjust m k g) k = (Map.find m k).map g := by
  unfold Map.adjust
  induction m with
  | nil => rfl
  | cons e m ih =>
    by_cases he : e.1 = k
    · simp [Map.find, he]
    · simpa [Map.find, he] using ih

/-! #### FSTAT (13 R312) -/

/-- The field of a 64-bit word that was made of a number. -/
theorem bitsOf_ofNat (x hi lo : Nat) (h : hi < 64) : bitsOf (BitVec.ofNat 64 x) hi lo = natBits x lo (hi + 1 - lo) := by
  refine Nat.eq_of_testBit_eq (fun i => ?_)
  change (natBits (BitVec.ofNat 64 x).toNat lo (hi + 1 - lo)).testBit i = _
  simp only [testBit_natBits, BitVec.toNat_ofNat, Nat.testBit_mod_two_pow]
  by_cases hi' : i < hi + 1 - lo
  · simp [hi', show lo + i < 64 by omega]
  · simp [hi']

theorem natBits_natSet_same (x lo n v : Nat) (hv : v < 2 ^ n) : natBits (natSet x lo n v) lo n = v := by
  refine Nat.eq_of_testBit_eq (fun i => ?_)
  rw [testBit_natBits, testBit_natSet]
  by_cases hi : i < n
  · simp [hi]
  · rw [Nat.testBit_lt_two_pow (Nat.lt_of_lt_of_le hv (Nat.pow_le_pow_right Nat.two_pos (Nat.not_lt.mp hi)))]
    simp [hi]

theorem natBits_natSet_other (x lo n v lo' n' : Nat) (h : lo' + n' ≤ lo ∨ lo + n ≤ lo') :
    natBits (natSet x lo n v) lo' n' = natBits x lo' n' := by
  refine Nat.eq_of_testBit_eq (fun i => ?_)
  rw [testBit_natBits, testBit_natBits, testBit_natSet]
  by_cases hi : i < n'
  · rw [if_neg (by omega)]
  · simp [hi]

theorem bitsOf_or_one (x : W64) (hi lo : Nat) (h : 0 < lo) : bitsOf (x ||| 1) hi lo = bitsOf x hi lo := by
  refine Nat.eq_of_testBit_eq (fun i => ?_)
  change (natBits (x ||| 1).toNat lo (hi + 1 - lo)).testBit i = (natBits x.toNat lo (hi + 1 - lo)).testBit i
  have hbit : Nat.testBit 1 (lo + i) = false := Nat.testBit_lt_two_pow (Nat.one_lt_two_pow (by omega))
  simp [testBit_natBits, BitVec.toNat_or, Nat.testBit_or, hbit]

theorem bitAt_or_one (x : W64) : bitAt (x ||| 1) 0 = true := by
  simp [bitAt, BitVec.toNat_or]

/-- A package that FSTAT counts already changes neither the count nor the list. -/
theorem abandon_listed {r : SprFile} {q : Nat} (hq : q ∈ r.lost) : r.abandon (some q) = { r with fstat := r.fstat ||| 1 } := by
  simp [SprFile.abandon, hq]

/-- FSTAT as a number before its count is written: a first, second, third or fourth package is named. -/
def namedLost (x : W64) (n q : Nat) : Nat := if n < 4 then natSet x.toNat (28 + 9 * n) 9 q else x.toNat

theorem abandon_new {r : SprFile} {q : Nat} (hq : q ∉ r.lost) :
    r.abandon (some q) = { r with
      fstat := BitVec.ofNat 64 (natSet (namedLost (r.fstat ||| 1) (bitsOf r.fstat 27 19) q) 19 9 (min (bitsOf r.fstat 27 19 + 1) 511))
      lost := r.lost ++ [q] } := by
  have hn := bitsOf_or_one r.fstat 27 19 (by decide)
  have hnew : (Option.isNone (some q) || r.lost.contains q) = false := by simp [hq]
  simp only [SprFile.abandon, Option.getD_some, hnew, Bool.false_eq_true, if_false, hn, namedLost]

theorem testBit_namedLost_zero (x : W64) (n q : Nat) : (namedLost x n q).testBit 0 = bitAt x 0 := by
  unfold namedLost
  split
  · rw [testBit_natSet, if_neg (by omega)]
    rfl
  · rfl

/-- FSTAT after a store to package `q` is given up (13 R312). -/
theorem abandon_spec (r : SprFile) (q : Nat) (hq : q < 512) :
    let u := r.abandon (some q)
    let n := bitsOf r.fstat 27 19
    bitAt u.fstat 0 = true ∧ q ∈ u.lost ∧ (q ∈ r.lost → bitsOf u.fstat 27 19 = n)
      ∧ (q ∉ r.lost → bitsOf u.fstat 27 19 = min (n + 1) 511 ∧ (n < 4 → bitsOf u.fstat (36 + 9 * n) (28 + 9 * n) = q)) := by
  by_cases hlist : q ∈ r.lost
  · rw [abandon_listed hlist]
    exact ⟨bitAt_or_one r.fstat, hlist, fun _ => bitsOf_or_one r.fstat 27 19 (by decide), fun hnew => absurd hlist hnew⟩
  · rw [abandon_new hlist]
    refine ⟨?_, List.mem_append_right _ (List.mem_singleton_self q), fun hold => absurd hold hlist, fun _ => ⟨?_, fun hn => ?_⟩⟩
    · rw [bitAt, BitVec.toNat_ofNat, Nat.testBit_mod_two_pow, testBit_natSet, if_neg (by decide), testBit_namedLost_zero, bitAt_or_one]
      rfl
    · rw [bitsOf_ofNat _ 27 19 (by decide)]
      exact natBits_natSet_same _ 19 9 _ (Nat.lt_of_le_of_lt (Nat.min_le_right _ _) (by decide))
    · rw [bitsOf_ofNat _ _ _ (by omega), show 36 + 9 * bitsOf r.fstat 27 19 + 1 - (28 + 9 * bitsOf r.fstat 27 19) = 9 by omega,
        natBits_natSet_other _ _ _ _ _ _ (Or.inr (by omega)), namedLost, if_pos hn]
      exact natBits_natSet_same _ _ 9 _ hq

/-- A store of one part that is still not acknowledged T_fail after its fence began to wait is given up (13 R311). -/
theorem fenceAbandon_completes {s : State} {c : CtxId} {h : Hold} {id : Nat} {a : Access} {p : Part} {pa : Nat}
    (hhold : (s.ctx c).hold = some h) (hkind : h.kind = .fence) (hdue : h.since + tFail ≤ s.now) (hacc : s.acc id = some a)
    (hparts : a.parts = [p]) (hdone : p.done = false) (hclass : natBits p.ea 60 4 ≤ 7) (hpa : p.pa = some pa) (hctx : a.ctx = c)
    (htask : a.task = (s.core c.core).task) (hop : a.op = .st) (hkept : a.abandoned = false) :
    Completes (.fenceAbandon c id) s (fun t => (t.acc id).map (·.abandoned) = some true
      ∧ (t.ctx c).spr = (s.ctx c).spr.abandon (some (natBits pa 47 9))) := by
  have hlost : a.parts.filter (fun p => !p.done && decide (natBits p.ea 60 4 ≤ 7)) = [p] := by simp [hparts, hdone, hclass]
  refine happen_completes (fun s => (s.setAcc id (fun a => { a with abandoned := true })).setCtx c (fun k => { k with
    spr := [p].foldl (fun r p => r.abandon (p.pa.map paPkg)) k.spr })) _ ?_ ⟨?_, ?_⟩
  · change execFenceAbandon c id s = _
    simp only [execFenceAbandon, hhold, hacc, hlost]
    have hsame : sameCtx a.task (s.core c.core).task a.ctx c = true := by simp [sameCtx, htask, hctx]
    rw [hkind, decide_eq_true hdue, hsame, hop, hkept]
    rfl
  · change (Map.find (s.accs.adjust id (fun a => { a with abandoned := true })) id).map (·.abandoned) = some true
    rw [find_adjust_same, show s.accs.find id = some a from hacc]
    rfl
  · refine (congrArg Ctx.spr (State.setCtx_ctx _ c _)).trans ?_
    simp only [List.foldl_cons, List.foldl_nil, hpa]
    rfl

/-- Settles O38: each word is ready, so that its own gate decides, and each clause reads what the gate, the effect or the waiting says. -/
theorem fencesAndBarriers : Obligations.FencesAndBarriers := by
  refine ⟨fun f s => ?_, fun s c => ⟨fun h => mwaitTimeout_completes, monitorLost_completes, ?_⟩⟩
  · intro m holds
    refine ⟨fun h => ⟨fun r hr => fence_freezes h hr, fun hafr heng => ?_⟩, fun h hafr => ?_, fun h hacq hclass hplb => ?_,
      mon_refuses, fun h => ?_⟩
    · intro done
      have hdone : s.fenceDone (fenceRel f) (fenceAcq f) (fenceEng f) f.reachCode = true ↔ done := fenceDone_iff ..
      exact ⟨fun hd => fence_completes h hafr heng (hdone.mpr hd), fun hd => fence_holds h hafr heng (mt hdone.mp hd)⟩
    · intro fenced
      have hfenced : s.fenceDone true true false (s.barReach f) = true ↔ fenced := bar_fenced_iff
      refine ⟨fun hgang hhere => ⟨fun hd => bar_alone_completes h hafr hgang (hfenced.mpr hd), fun hd => ?_⟩,
        fun hgang => ⟨fun hhere hd => ?_, bar_gang_completes h hafr hgang, bar_gang_holds h hafr hgang⟩⟩
      · exact bar_fence_holds h hafr hhere (Bool.eq_false_iff.mpr (mt hfenced.mp hd))
      · exact bar_arrives h hafr hgang hhere (hfenced.mpr hd)
    · exact ⟨fun te => mon_arms h hacq hclass hplb, mon_finds_none h hacq hclass hplb⟩
    · intro ended
      have hended : (s.monitorHit s.cur || s.braked) = true ↔ ended := by
        rw [Bool.or_eq_true, monitorHit_iff, or_assoc]
      exact ⟨fun he => mwait_completes h (hended.mpr he), fun he => mwait_holds h (Bool.eq_false_iff.mpr (mt hended.mp he))⟩
  · intro h id a p pa hhold hkind hdue hacc hparts hdone hclass hpa hctx htask hop hkept
    refine (fenceAbandon_completes hhold hkind hdue hacc hparts hdone hclass hpa hctx htask hop hkept).mono (fun t ht => ⟨ht.1, ?_⟩)
    dsimp only
    rw [ht.2]
    exact abandon_spec _ _ (Nat.mod_lt _ (by decide))

end Sys2Proof.Machine
end

section
/-! `sopen`, `sclose`, `scnl`, `sshd`, `sunsh`, `claim`, `poll` and `sinfo` (15 R342-R375). -/

namespace Sys2Proof.Machine

open Sys2Proof Sys2Proof.Lanes

/-! ### Results that land at once (05 R77) -/

/-- A result that lands at once changes the scoreboard and the in-flight records of its context alone. -/
theorem Quick.me_eq {s t : State} {d : Dest} {v : RVal} (h : Quick s t d v) : ∃ rs ps, t.me = { s.me with inflight := rs, pend := ps } := by
  unfold Quick at h
  split at h
  · exact ⟨_, _, h⟩
  · obtain ⟨tok, due, -, -, -, hme⟩ := h
    exact ⟨_, _, hme⟩

theorem Quick.hasResult {s t : State} {d : Dest} {v : RVal} (h : Quick s t d v) : HasResult t.me d v := by
  unfold Quick at h
  split at h
  · exact Or.inl ‹_›
  · obtain ⟨tok, due, -, -, -, hme⟩ := h
    exact Or.inr ⟨⟨d, v, due, some tok⟩, by rw [hme]; exact List.mem_cons_self, rfl, rfl⟩

/-- A later result leaves an earlier one in flight. -/
theorem Quick.keeps_hasResult {s t : State} {d d' : Dest} {v v' : RVal} (h : Quick s t d v) (hr : HasResult s.me d' v') : HasResult t.me d' v' := by
  unfold Quick at h
  split at h
  · rwa [h]
  · obtain ⟨tok, due, -, -, -, hme⟩ := h
    obtain hnone | ⟨r, hmem, hd, hv⟩ := hr
    · exact Or.inl hnone
    · exact Or.inr ⟨r, by rw [hme]; exact List.mem_cons_of_mem _ hmem, hd, hv⟩

theorem Trails.quick {s u : State} {d : Dest} {v : RVal} (h : Trails (s.quick d v) u) : OnlyMyCore s u ∧ Quick s u d v :=
  ⟨h.onlyMyCore (matrixIs_quick s d v).1, (quick_quick s d v).after h.2⟩

/-! ### Hubs (15 R342, R346) -/

theorem Trails.hubs {t u : State} (h : Trails t u) : u.hubs = t.hubs := by rw [h.1.1.1]

theorem OnlyMyCore.hubs {s t : State} (h : OnlyMyCore s t) : t.hubs = s.hubs := by rw [h.1]

theorem OnlyMyCore.claims {s t : State} (h : OnlyMyCore s t) : t.claims = s.claims := by rw [h.1]

theorem hub_of_hubs {s t : State} (h : t.hubs = s.hubs) (x : W64) : t.hub x = s.hub x := by simp only [State.hub, h]

theorem hub_live {s : State} {x : W64} {b : Hub} (h : s.hub x = some b) :
    s.hubs.find (hubKey x) = some b ∧ b.state ≠ 0 ∧ b.gen = hubGen x ∧ bitsOf x 26 0 = 0 := by
  unfold State.hub at h
  split at h
  · split at h
    · cases h
      exact ⟨‹_›, ‹_›⟩
    · cases h
  · cases h

/-- A live handle's record after an update that keeps it live. -/
theorem setHub_hub {s : State} {x : W64} {b : Hub} {g : Hub → Hub} (h : s.hub x = some b) (hstate : (g b).state = b.state)
    (hgen : (g b).gen = b.gen) : (s.setHub x g).hub x = some (g b) := by
  obtain ⟨-, hlive⟩ := hub_live h
  simp only [State.setHub, h]
  simp only [State.hub, Map.find_set_same]
  exact if_pos (by rwa [hstate, hgen])

/-- An update of a live handle's record leaves the hubs' free slots as they are. -/
theorem setHub_free (s : State) (x : W64) (g : Hub → Hub) :
    ∃ hs, s.setHub x g = { s with hubs := hs } ∧ ∀ k, (∀ b, s.hubs.find k = some b → b.state = 0) → hs.find k = s.hubs.find k := by
  unfold State.setHub
  split
  · rename_i b hb
    obtain ⟨hfind, hstate, -⟩ := hub_live hb
    refine ⟨_, rfl, fun k hk => Map.find_set_other _ _ _ _ ?_⟩
    rintro rfl
    exact hstate (hk b hfind)
  · exact ⟨s.hubs, rfl, fun _ _ => rfl⟩

/-- The scope that an operand names (15 R364). -/
theorem scopeArg_eq (s : State) (f : Fields) : s.scopeArg f = if f.a = .zero then s.me.spr.csc else s.gval f f.a := by
  unfold State.scopeArg
  cases f.a <;> rfl

theorem hubWord_eq (b : Hub) : b.word b.state
    = BitVec.ofNat 64 ((if b.fault then 3 else if b.claimed then 2 else if b.brake then 1 else 0) + b.state * 2 ^ 3 + b.brake.toNat * 2 ^ 5
      + b.rp.toNat * 2 ^ 6 + b.reach * 2 ^ 7 + b.runs * 2 ^ 10 + b.depu.toNat * 2 ^ 12 + b.cause * 2 ^ 16) := by
  simp only [Hub.word, Nat.shiftLeft_eq]
  rfl

section
variable {f : Fields} {s : State}

/-! ### `scnl`, `sshd`, `sunsh`, `claim`, `poll`, `sinfo` (15 R349, R350, R367, R368, R373, R375) -/

theorem scnl_brakes {b : Hub} (h : ready (.scnl f) f s = true) (hb : s.hub (s.scopeArg f) = some b) (htenant : b.tenant = s.myTenant) :
    Completes (.scnl f) s (fun t => t.hub (s.scopeArg f) = some { b with brake := true } ∧ t.me = s.me) := by
  refine run_completes_trailing _ h rfl rfl rfl rfl (fun u hu => ?_)
  simp only [hb, htenant, if_true] at hu
  refine ⟨(hub_of_hubs hu.hubs _).trans (setHub_hub hb rfl rfl), hu.2.trans ?_⟩
  obtain ⟨hs, heq, -⟩ := setHub_free s (s.scopeArg f) (fun b => { b with brake := true })
  rw [State.brakeHub, heq]
  rfl

theorem scnl_other (h : ready (.scnl f) f s = true) (hb : ∀ b, s.hub (s.scopeArg f) = some b → b.tenant ≠ s.myTenant) :
    Completes (.scnl f) s (fun t => OnlyPacket s t ∧ t.hubs = s.hubs) := by
  refine run_completes_trailing _ h rfl rfl rfl rfl (fun u hu => ?_)
  have hsame : Trails s u := by
    dsimp only at hu
    split at hu
    · rwa [if_neg (hb _ ‹_›)] at hu
    · exact hu
  exact ⟨⟨hsame.1.1, hsame.samePart, hsame.2⟩, hsame.hubs⟩

theorem sshd_counts (h : ready (.sshd f) f s = true) (hlt : s.me.freewheel < 15) :
    Completes (.sshd f) s (fun t => OnlyMyCore s t ∧ t.me = { s.me with freewheel := s.me.freewheel + 1 }) :=
  run_completes_trailing _ h (if_neg (Nat.not_le.mpr hlt)) rfl rfl rfl
    (fun _ hu => ⟨hu.onlyMyCore (onlyMyCore_setMe s _), hu.2.trans (State.setMe_me s _)⟩)

theorem sunsh_counts (h : ready (.sunsh f) f s = true) (hlt : 0 < s.me.freewheel) :
    Completes (.sunsh f) s (fun t => OnlyMyCore s t ∧ t.me = { s.me with freewheel := s.me.freewheel - 1 }) :=
  run_completes_trailing _ h (if_neg (Nat.pos_iff_ne_zero.mp hlt)) rfl rfl rfl
    (fun _ hu => ⟨hu.onlyMyCore (onlyMyCore_setMe s _), hu.2.trans (State.setMe_me s _)⟩)

theorem claim_loses (h : ready (.claim f) f s = true) (hbrake : s.braked = true) :
    Completes (.claim f) s (fun t => Quick s t (Dest.ofP f.d) (.p 0) ∧ t.claims = s.claims) := by
  refine run_completes_trailing _ h rfl rfl rfl rfl (fun u hu => ?_)
  simp only [hbrake, if_true] at hu
  obtain ⟨hmine, hquick⟩ := hu.quick
  exact ⟨hquick, hmine.claims⟩

theorem claim_asks (h : ready (.claim f) f s = true) (hbrake : s.braked = false) :
    Completes (.claim f) s (fun t => ∃ id tok c, s.nextId ≤ id ∧ Waits s t (Dest.ofP f.d) tok ∧ t.claims = s.claims.set id c
      ∧ c.handle = s.scopeArg f ∧ c.value = s.gval f f.b ∧ c.tok = tok ∧ c.ctx = s.cur
      ∧ (c.held = true ↔ ∃ e ∈ s.me.stack, e.handle = s.scopeArg f)) := by
  refine run_completes_trailing _ h rfl rfl rfl rfl (fun u hu => ?_)
  simp only [hbrake, Bool.false_eq_true, if_false] at hu
  refine ⟨s.nextId + 1, s.nextId, ⟨s.cur, s.myTask, s.scopeArg f, s.gval f f.b, s.nextId, s.me.stack.any (fun e => e.handle == s.scopeArg f)⟩,
    Nat.le_succ _, (pendOn_waits s (Dest.ofP f.d)).after hu.2, ?_, rfl, rfl, rfl, rfl, by simp⟩
  rw [hu.1.1.1]
  rfl

theorem poll_shows (h : ready (.poll f) f s = true) :
    Completes (.poll f) s (fun t => OnlyMyCore s t ∧ Quick s t (Dest.ofP f.d) (.p (allBits s.braked))) :=
  run_completes_trailing _ h rfl rfl rfl rfl (fun _ hu => hu.quick)

theorem sinfo_gives (h : ready (.sinfo f) f s = true) :
    Completes (.sinfo f) s (fun t => OnlyMyCore s t ∧ Quick s t (Dest.ofG f.d) (.g (s.scopeInfo (s.scopeArg f) (s.gval f f.b)))) :=
  run_completes_trailing _ h rfl rfl rfl rfl (fun _ hu => hu.quick)

/-! ### `sclose` (15 R366, 13 R305) -/

theorem sclose_refuses (h : ready (.sclose f) f s = true) (hnone : s.closing = none)
    (hnot : s.scopeArg f ≠ s.me.scope ∨ s.me.top.own = false ∨ s.me.stack = []) : Faults (.sclose f) s 5 ⟨cScopeDepth, 0, s.myPc⟩ := by
  refine run_faults _ 5 _ h ?_ rfl rfl rfl rfl
  have hguard : (s.scopeArg f == s.me.scope && s.me.top.own && !s.me.stack.isEmpty) = false := by
    rcases hnot with hne | hown | hempty
    · simp [hne]
    · simp [hown]
    · simp [hempty]
  simp only [hnone, hguard]
  rfl

theorem sclose_begins {e : ScopeEntry} {es : List ScopeEntry} (h : ready (.sclose f) f s = true) (hnone : s.closing = none)
    (hstack : s.me.stack = e :: es) (hown : e.own = true) (harg : s.scopeArg f = s.me.scope) :
    ∃ t, exec (.sclose f) s = .next t ∧ (s.pk.phase ≠ .effect → t.pk.verdict = .hold ∧ t.me.stack = es
      ∧ t.me.spr.csc = (es.head?.map (·.handle)).getD 0 ∧ t.returns = s.returns ++ [⟨e.handle, e.share, true, none⟩]
      ∧ t.me.hold.isSome = true) := by
  have htop : s.me.top = e := by rw [Ctx.top, hstack]; rfl
  refine run_waits (P := fun t => t.me.stack = es ∧ t.me.spr.csc = (es.head?.map (·.handle)).getD 0
    ∧ t.returns = s.returns ++ [⟨e.handle, e.share, true, none⟩] ∧ t.me.hold.isSome = true) _ h ?_ rfl rfl rfl ?_
  · simp [hnone, harg, htop, hown, hstack]
  · simp only [hnone, htop, Option.isSome_none, Bool.false_eq_true, if_false]
    have hme : ((((s.setMe Ctx.pop).giveBack e.handle e.share true).setMe
        (fun c => { c with hold := some ⟨.own, s.now, [e.handle.toNat], none⟩ })).say .hold).me
        = { s.me.pop with hold := some ⟨.own, s.now, [e.handle.toNat], none⟩ } := by
      refine (State.setMe_me ((s.setMe Ctx.pop).giveBack e.handle e.share true) _).trans ?_
      rw [show ((s.setMe Ctx.pop).giveBack e.handle e.share true).me = (s.setMe Ctx.pop).me from rfl, State.setMe_me]
    rw [hme]
    refine ⟨?_, ?_, rfl, rfl⟩
    · simp [Ctx.pop, hstack]
    · simp [Ctx.pop, hstack]

theorem sclose_completes {x : Hold} {w v : W64} (h : ready (.sclose f) f s = true) (hclosing : s.closing = some x)
    (hanswer : x.answer = some (w, v)) (hsees : ∀ i ∈ x.ids.drop 1, s.sees i = true) :
    Completes (.sclose f) s (fun t => t.me.hold = none ∧ HasResult t.me (Dest.ofG f.d) (.g w) ∧ HasResult t.me (Dest.ofG f.c) (.g v)
      ∧ t.me.stack = s.me.stack) := by
  refine run_completes_trailing _ h ?_ rfl rfl rfl (fun u hu => ?_)
  · simp only [hclosing, hanswer]
    exact if_pos (by simpa using hsees)
  · simp only [hclosing, Option.bind_some, hanswer] at hu
    have hfirst := quick_quick s.endHold (Dest.ofG f.d) (.g w)
    have hsecond := (quick_quick (s.endHold.quick (Dest.ofG f.d) (.g w)) (Dest.ofG f.c) (.g v)).after hu.2
    refine ⟨?_, hsecond.keeps_hasResult hfirst.hasResult, hsecond.hasResult, ?_⟩
    all_goals
      obtain ⟨rs, ps, hme1⟩ := hfirst.me_eq
      obtain ⟨rs', ps', hme2⟩ := hsecond.me_eq
      rw [hme2, hme1, endHold_me]

theorem sclose_holds {x : Hold} (h : ready (.sclose f) f s = true) (hclosing : s.closing = some x)
    (hwaits : x.answer = none ∨ ∃ i ∈ x.ids.drop 1, s.sees i = false) : Stays (.sclose f) s .hold := by
  refine run_holds _ h ?_ rfl rfl rfl ?_ rfl
  · have hguard : (x.answer.isSome && (x.ids.drop 1).all s.sees) = false := by
      rcases hwaits with hnone | ⟨i, hi, hsees⟩
      · simp [hnone]
      · rw [List.all_eq_false.mpr ⟨i, hi, by simp [hsees]⟩, Bool.and_false]
    simp only [hclosing, hguard]
    rfl
  · simp [hclosing]

/-! ### `sopen` (15 R344, R346, R365) -/

theorem carve_stack (c : Ctx) : (Ctx.carve c).2.stack = carvedStack c := by
  unfold Ctx.carve carvedStack
  split <;> simp_all

theorem carve_share (c : Ctx) : (Ctx.carve c).1 = c.top.share / 2 := by
  unfold Ctx.carve Ctx.top
  split <;> simp_all

theorem carveHold_ok (hcan : canCarve s.me = true) : (!s.me.stack.isEmpty && s.me.mustBorrow) = false := by
  unfold canCarve at hcan
  unfold Ctx.mustBorrow
  rcases Bool.or_eq_true_iff.mp hcan with hempty | hshare
  · simp [hempty]
  · rw [decide_eq_false (by have := of_decide_eq_true hshare; omega), Bool.and_false]

/-- A share carved without borrowing: half of the current one, and no hub's free slot changes. -/
theorem carve_eq (hcan : canCarve s.me = true) :
    ∃ hs, s.carve = (s.me.top.share / 2, { s.setMe (fun c => (Ctx.carve c).2) with hubs := hs })
      ∧ ∀ k, (∀ b, s.hubs.find k = some b → b.state = 0) → hs.find k = s.hubs.find k := by
  obtain ⟨hs, heq, hfree⟩ := setHub_free (s.setMe (fun c => (Ctx.carve c).2)) s.me.scope
    (fun b => if b.pres.contains (s.clu s.cur.core) then b else { b with pres := b.pres ++ [s.clu s.cur.core] })
  refine ⟨hs, ?_, hfree⟩
  simp only [State.carve, carveHold_ok hcan, Bool.false_eq_true, if_false, State.mark, heq, carve_share]

/-- The slot that `sopen` takes: the lowest free one. -/
theorem freeSlot_eq {l : CluId} {i : Nat} (hi : i < 4096) (hfree : ∀ b, s.hubs.find (l, i) = some b → b.state = 0)
    (hbelow : ∀ j, j < i → ∃ b, s.hubs.find (l, j) = some b ∧ b.state ≠ 0) : s.freeSlot l = some i := by
  refine List.find?_range_eq_some.mpr ⟨?_, List.mem_range.mpr hi, fun j hj => ?_⟩
  · split
    · rw [hfree _ ‹_›]
      rfl
    · rfl
  · obtain ⟨b, hb, hstate⟩ := hbelow j hj
    simp [hb, hstate]

theorem freeSlot_none {l : CluId} (hfull : ∀ i, i < 4096 → ∃ b, s.hubs.find (l, i) = some b ∧ b.state ≠ 0) : s.freeSlot l = none := by
  refine List.find?_eq_none.mpr (fun i hi => ?_)
  obtain ⟨b, hb, hstate⟩ := hfull i (List.mem_range.mp hi)
  simp [hb, hstate]

theorem openPlace_eq {i : Nat} (hslot : s.freeSlot (s.clu s.cur.core) = some i) (hmod : f.mod0 = false) :
    ∃ g, s.openPlace f = some (i, g, s) := by
  unfold State.openPlace
  rw [hslot]
  dsimp only
  split
  · exact ⟨_, rfl⟩
  · exact ⟨_, if_neg (by rw [hmod]; decide)⟩

/-- The context enters a new scope. -/
def Ctx.enterScope (c : Ctx) (x : W64) : Ctx := { c with stack := ⟨x, 2 ^ 32, true⟩ :: c.stack, spr := { c.spr with csc := x } }

theorem newHub_eq (s : State) (l : CluId) (slot : Nat) (b : Hub) :
    let gen := ((s.hubs.find (l, slot)).map (·.gen)).getD 1
    s.newHub l slot b = (handleOf l slot gen,
      { s with hubs := s.hubs.set (l, slot) { b with gen := gen, state := 1, t := 2 ^ 32, r := 0 } }) := by
  unfold State.newHub
  cases s.hubs.find (l, slot) <;> rfl

/-- The hub of a scope as it opens: the share that its parent gave, and no share out but the opener's (15 R344, R346). -/
def State.openedHub (s : State) (f : Fields) (g : W64) (gen : Nat) : Hub := { Hub.fresh with
  parent := s.me.scope, parentShare := s.me.top.share / 2, reach := f.reachCode, rp := f.mod0, group := g, brake := s.braked
  tenant := s.myTenant, opener := some (s.myTask, s.cur), gen := gen, state := 1, t := 2 ^ 32, r := 0 }

/-- A new scope that is no replay scope: its hub's record, the context that enters it, and the handle on its way. -/
theorem openScope_eq {i : Nat} (g : W64) (hcan : canCarve s.me = true) (hmod : f.mod0 = false)
    (hfree : ∀ b, s.hubs.find (s.clu s.cur.core, i) = some b → b.state = 0) :
    let l := s.clu s.cur.core
    let gen := ((s.hubs.find (l, i)).map (·.gen)).getD 1
    let x := handleOf l i gen
    ∃ hs : Map (CluId × Nat) Hub, s.openScope f i g s
      = (({ s.setMe (fun c => (Ctx.carve c).2) with hubs := hs.set (l, i) (s.openedHub f g gen) } : State).setMe
          (fun c => c.enterScope x)).quick (Dest.ofG f.d) (.g x) := by
  obtain ⟨hs, hcarve, hsame⟩ := carve_eq hcan
  have hslot := hsame _ hfree
  intro l gen x
  refine ⟨hs, ?_⟩
  unfold State.openScope
  simp only [hcarve, newHub_eq, hmod, Bool.false_eq_true, false_and, if_false, State.openedHub, x, gen, l, ← hslot]
  rfl

theorem sopen_opens {i : Nat} (h : ready (.sopen f) f s = true) (hdepth : s.me.stack.length < 16) (hmod : f.mod0 = false)
    (hcan : canCarve s.me = true) (hi : i < 4096) (hfree : ∀ b, s.hubs.find (s.clu s.cur.core, i) = some b → b.state = 0)
    (hbelow : ∀ j, j < i → ∃ b, s.hubs.find (s.clu s.cur.core, j) = some b ∧ b.state ≠ 0) :
    let l := s.clu s.cur.core
    let x := handleOf l i (((s.hubs.find (l, i)).map (·.gen)).getD 1)
    Completes (.sopen f) s (fun t => t.me.spr.csc = x ∧ t.me.stack = ⟨x, 2 ^ 32, true⟩ :: carvedStack s.me
      ∧ HasResult t.me (Dest.ofG f.d) (.g x)
      ∧ ∃ b, t.hubs.find (l, i) = some b ∧ b.state = 1 ∧ b.t = 2 ^ 32 ∧ b.r = 0 ∧ b.parent = s.me.spr.csc
        ∧ b.parentShare = s.me.top.share / 2 ∧ b.reach = f.reachCode ∧ b.brake = s.braked ∧ b.tenant = s.myTenant) := by
  intro l x
  obtain ⟨g, hplace⟩ := openPlace_eq (freeSlot_eq hi hfree hbelow) hmod
  obtain ⟨hs, hopen⟩ := openScope_eq g hcan hmod hfree
  refine run_completes_trailing _ h ?_ rfl rfl rfl (fun u hu => ?_)
  · simp only [if_neg (Nat.not_le.mpr hdepth), Verdict.ok_andThen, hplace, Option.isSome_some, if_true, State.carveHold, carveHold_ok hcan,
      Bool.false_eq_true, if_false]
  · simp only [hplace, hopen] at hu
    obtain ⟨hmine, hquick⟩ := hu.quick
    obtain ⟨rs, ps, hme⟩ := hquick.me_eq
    rw [State.setMe_me] at hme
    have hcarved (hs' : Map (CluId × Nat) Hub) : ({ s.setMe (fun c => (Ctx.carve c).2) with hubs := hs' } : State).me = (Ctx.carve s.me).2 :=
      State.setMe_me s _
    refine ⟨?_, ?_, hquick.hasResult, s.openedHub f g (((s.hubs.find (l, i)).map (·.gen)).getD 1), ?_, rfl, rfl, rfl, rfl, rfl, rfl, rfl, rfl⟩
    · rw [hme]
      rfl
    · rw [hme, hcarved, ← carve_stack]
      rfl
    · rw [hmine.hubs]
      exact Map.find_set_same hs (l, i) _

theorem sopen_full (h : ready (.sopen f) f s = true) (hdepth : s.me.stack.length < 16)
    (hfull : ∀ i, i < 4096 → ∃ b, s.hubs.find (s.clu s.cur.core, i) = some b ∧ b.state ≠ 0) :
    Completes (.sopen f) s (fun t => Quick s t (Dest.ofG f.d) (.g 0) ∧ t.hubs = s.hubs) := by
  have hplace : s.openPlace f = none := by
    unfold State.openPlace
    rw [freeSlot_none hfull]
  refine run_completes_trailing _ h ?_ rfl rfl rfl (fun u hu => ?_)
  · simp only [if_neg (Nat.not_le.mpr hdepth), Verdict.ok_andThen, hplace]
    rfl
  · simp only [hplace] at hu
    obtain ⟨hmine, hquick⟩ := hu.quick
    exact ⟨hquick, hmine.hubs⟩

end

/-- A word whose gate is SCOPE_DEPTH faults with it. -/
theorem depth_faults {i : Instr} {f : Fields} {s : State} (e : Entry) (h : ready i f s = true) (hg : e.gate s = s.atPc 5 cScopeDepth)
    (hf : e.frozen s = none) (halso : e.also s = []) (hx : exec i s = run i f e s) : Faults i s 5 ⟨0x0E, 0, s.myPc⟩ :=
  run_faults e 5 _ h hg hf (by rw [halso]; rfl) (by rw [halso]; rfl) hx

/-- Settles O45: each word is ready, so that its own gate decides, and each clause reads what the gate, the effect or the waiting says. -/
theorem scopeInstructions : Obligations.ScopeInstructions := by
  intro f s h l depth all
  have harg : s.scopeArg f = h := scopeArg_eq s f
  refine ⟨fun hr => ⟨fun hdepth => ?_, fun hdepth hmod hcan => ⟨fun i hi hfree hbelow => ?_, sopen_full hr hdepth⟩⟩,
    fun hr => ⟨fun hnone hnot => ?_, fun e es hnone hstack hown hcsc => ?_, fun x w v => sclose_completes hr, fun x => sclose_holds hr⟩,
    fun hr => ⟨fun b hb htenant => ?_, fun hb => ?_⟩,
    fun hr => ⟨sshd_counts hr, fun hfull => ?_⟩, fun hr => ⟨sunsh_counts hr, fun hzero => ?_⟩,
    fun hr => ⟨claim_loses hr, fun hbrake => ?_⟩, poll_shows, fun hr => ⟨fun hb => ?_, fun b hb => ?_⟩⟩
  · refine depth_faults _ hr ?_ rfl rfl rfl
    simp only [if_pos hdepth]
    rfl
  · exact sopen_opens hr hdepth hmod hcan hi hfree hbelow
  · exact sclose_refuses hr hnone (harg ▸ hnot)
  · exact sclose_begins hr hnone hstack hown (harg.trans hcsc)
  · exact harg ▸ scnl_brakes hr (harg ▸ hb) htenant
  · exact scnl_other hr (harg ▸ hb)
  · exact depth_faults _ hr (if_pos hfull) rfl rfl rfl
  · exact depth_faults _ hr (if_pos hzero) rfl rfl rfl
  · exact harg ▸ claim_asks hr hbrake
  · refine (sinfo_gives hr).mono (fun t ht => ?_)
    rwa [harg, State.scopeInfo, hb] at ht
  · refine (sinfo_gives hr).mono (fun t ht => ?_)
    rw [harg, State.scopeInfo, hb] at ht
    dsimp only at ht
    rwa [hubWord_eq] at ht

end Sys2Proof.Machine
end
